-- ==== Sys2Proof/Word.lean ====
section
/-!
DEFINITION. The plain words of the model: bytes, 64-bit words, device addresses, and the numbers by which the manual names
parts (core, engine, die, stack, slot, ring, queue, port).
-/

namespace Sys2Proof

/-- A byte. -/
abbrev Byte := BitVec 8

/-- A 64-bit word: a register (R238) or the unit of the check code (R287). -/
abbrev Word := BitVec 64

/-- A 48-bit device address (R235). -/
abbrev DA := BitVec 48

/-- A logical core number, 0-511 (R18). -/
abbrev Core := Fin 512

/-- A matrix engine of a core, E0-E3. -/
abbrev Eng := Fin 4

/-- A compute die, D0-D31. -/
abbrev Die := Fin 32

/-- An I/O die, IOD0-IOD3. -/
abbrev Iod := Fin 4

/-- An HBM stack, H0-H7. -/
abbrev Stk := Fin 8

/-- An image slot (R202). -/
abbrev Slot := Fin 8

/-- A queue of a run (R221). -/
abbrev QNum := Fin 64

/-- A mailbox ring (R355). -/
abbrev Ring := Fin 64

/-- A chip-link port, CL0-CL23. -/
abbrev ClPort := Fin 24

/-- A transfer-tag channel of a stream unit (R134). -/
abbrev Chan := Fin 8

end Sys2Proof
end

