-- ==== Sys2Proof/Syntax.lean ====
section
/-!
DEFINITION. The commands the block takes: the operand types, and the one inductive `Instr` with one constructor per row of
spec/opcode_table.json. A row states an operation or an event, whole and indivisible (spec/95_what_each_step_holds.md).
-/

namespace Sys2Proof

/-- A unit of a core to which the sequencer dispatches (R128, R135): a matrix engine, the vector engine, a channel of the
stream unit, the page walker, the check unit, the queue port. -/
inductive CoreUnit where
  | eng (e : Eng)
  | vec
  | str (ch : Chan)
  | pgw
  | chk
  | que
  deriving DecidableEq, Repr

/-- The four die-to-die ports of a compute die (R19), in the order of their register numbers p = 0-3. -/
inductive Edge where
  | n | e | s | w
  deriving DecidableEq, Repr

/-- A die-to-die port: an edge of a compute die, or port f of an I/O die. -/
inductive D2dPort where
  | die (d : Die) (p : Edge)
  | iod (i : Iod) (f : Fin 4)
  deriving DecidableEq, Repr

/-- The return of a memory request (R156): `late` says that the request returned an error after the unit's deadline is no
matter; what it returns is one of these. -/
inductive ReqStatus where
  /-- The data came back, or the write was performed. -/
  | ok
  /-- An uncorrectable error (R293). -/
  | uncorrectable
  /-- An address error (R236). -/
  | addressError
  /-- `TARGET_RESET` (R304). -/
  | targetReset
  /-- The 100 µs bound of R333 passed. -/
  | timeout
  deriving DecidableEq, Repr

/-- The width of a PCIe AtomicOp (R342, R354). -/
inductive AtomW where
  | w32 | w64 | w128
  deriving DecidableEq, Repr

/-- A command entry of a ring (R355), without its opcode, which the command's constructor states. `rsv` is bytes 8-15;
byte k of `ARGS` is bits 8k+7 to 8k of `args`. -/
structure Mbox where
  ring  : Ring
  tag   : BitVec 16
  len   : BitVec 16
  flags : BitVec 16
  rsv   : Word
  args  : BitVec 384
  deriving DecidableEq, Repr

/-- An access of the host or the Keeper that the device abandons (R261). -/
inductive HostAcc where
  /-- A BAR2 read of `n` bytes at BAR2 offset `off`. -/
  | read (off : BitVec 36) (n : Nat)
  /-- A BAR2 write of `data` of which the first `done` words were already written. -/
  | write (off : BitVec 36) (data : List Byte) (done : Nat)
  /-- An AtomicOp at BAR2 offset `off`. -/
  | atomic (off : BitVec 36)
  /-- The Keeper's access for the command of the given ring and tag. -/
  | keeper (ring : Ring) (tag : BitVec 16)
  /-- The access of the command entry that the Keeper takes next from its ring, with its opcode. -/
  | command (op : BitVec 16) (m : Mbox)
  deriving DecidableEq, Repr

/-- The agent that writes a register (R8, R239): the Keeper, at a register-space address; or the host, at a BAR0 offset, by a write of
`n` bytes (R349, R354). -/
inductive RegAgent where
  | keeper
  | host (n : Nat)
  deriving DecidableEq, Repr

/-- A BAR that the host reads (R345). -/
inductive HostBar where
  | bar0 | bar2 | bar4
  deriving DecidableEq, Repr

/-- A BAR that the host writes as memory (R345); BAR0 is written by REGISTER_WRITE and the doorbell rows. -/
inductive MemBar where
  | bar2 | bar4
  deriving DecidableEq, Repr

/-- A request of a core that the 100 µs bound of R333 ends: the stream unit's request `n` in order of issue, or the walker's or the
queue port's access to a device address. -/
inductive TimedReq where
  | stream (n : Nat)
  | walker (da : BitVec 48)
  | queue (da : BitVec 48)
  deriving DecidableEq, Repr

/-- The I/O dies with near-bank units (R267): IOD2 and IOD3. -/
inductive NbIod where
  | iod2 | iod3
  deriving DecidableEq, Repr

/-- One known-answer operation of a physical core that drained a wrong result (R377, R379): the engine, the operand class
index of the three the test runs, the logical (row, column) positions that differ, and whether the spare that would mend them is
itself faulty. -/
structure KatDiff where
  core : Fin 17
  eng  : Eng
  cls  : Fin 3
  bad  : List (Fin 32 × Fin 32)
  spareBad : Bool
  deriving DecidableEq, Repr

/-- What the tests of a compute die found (R372, R380): the physical cores that fail BIST, the known-answer differences,
and whether the die finished every step by its bound. -/
structure DieTest where
  die    : Die
  bist   : BitVec 17
  kat    : List KatDiff
  onTime : Bool
  deriving DecidableEq, Repr

/-- What a full ageing measurement read on a compute die (R421, R423-R426): the offset the replicas require at classes A,
B and C in mV, the median and largest ring-oscillator shift in ppm, the worst replica and its margin in ps, and the canary
counts of the lower and the upper turf die. -/
structure DieMeas where
  die   : Die
  reqA  : Nat
  reqB  : Nat
  reqC  : Nat
  roMed : BitVec 32
  roMax : BitVec 16
  cprCore : Fin 17
  cprPs : BitVec 16
  canLo : Nat
  canUp : Nat
  deriving DecidableEq, Repr

/-- What a cold power-on finds outside the module's fuses and memories (R311, R370-R373, R476): the level of `PERST_L` at PG, the
SMBus address straps, the dies whose package straps read otherwise than their place (in the layout of `D2D_STRAP`), the I/O dies and
stacks that finish by their bounds, the tests and measurements of the dies. A die that no test names passes. -/
structure Bring where
  perstHigh : Bool
  straps : BitVec 2
  dieStraps : List (Die × BitVec 8)
  iodOk  : BitVec 4
  stkOk  : BitVec 8
  tests  : List DieTest
  meas   : List DieMeas
  deriving DecidableEq, Repr

/-- A temperature sensor (R395). -/
inductive Sensor where
  | logic (d : Die) (i : Fin 8)
  | turf (d : Die) (upper : Bool)
  | iod (i : Iod) (k : Fin 2)
  | stack (k : Stk)
  | module (i : Fin 6)
  deriving DecidableEq, Repr

/-- What has passed since the last update of the lifetime record (R429): powered seconds and input energy in kJ. -/
structure LifeTick where
  secs : Nat
  kJ   : Nat
  deriving DecidableEq, Repr

/-- What a data flit of a chip link carries, as its sender means it (R155, R329): the manual gives the flit's content no layout.
The destination device, the slot on this device of the run it belongs to, the address and length of what it writes on the
destination, and the event counter it increments there after its last byte (0 for none). -/
structure ClPkt where
  dev  : BitVec 10
  slot : Slot
  da   : BitVec 48
  len  : Nat
  rev  : BitVec 4
  deriving DecidableEq, Repr

/-- A JTAG instruction (R450, R451, R479), with the data scanned in. -/
inductive BScan where
  | idcode
  | bypass
  | samplePreload (v : Nat)
  | extest (v : Nat)
  | intest (v : Nat)
  /-- `TRST_L` low: the TAP is reset (R479). -/
  | reset
  deriving DecidableEq, Repr


/-- The commands of the block: one constructor per row of spec/opcode_table.json, in the table's order.
The table gives no row any bits; the operands are those the row's rules speak of. -/
inductive Instr where
  /-- `BCN_CLK_LOCK` (R35). -/
  | bcnClkLock
  /-- `BEACON_LOSS` (R51). -/
  | beaconLoss
  /-- `MARK` (R26). -/
  | mark (edges : Nat)
  /-- `OCCULTATION` (R49). -/
  | occultation
  /-- `BEACON_STALL` (R51). -/
  | beaconStall
  /-- `ARM` (R35). -/
  | arm (load : BitVec 48)
  /-- `DISARM` (R35). -/
  | disarm
  /-- `SLACK_CHARGE` (R42). -/
  | slackCharge (core : Core) (off : Nat) (causes : BitVec 8) (place : Fin 8256)
  /-- `CUT_OFF` (R45). -/
  | cutOff
  /-- `SLIP_RELEASE` (R47). -/
  | slipRelease
  /-- `DISPATCH` (R135). -/
  | dispatch (core : Core) (off : Nat)
  /-- `WORD_COMPLETE` (R138). -/
  | wordComplete (core : Core) (u : CoreUnit) (off : Nat) (beside : Bool)
  /-- `NOP` (R130). -/
  | nop (core : Core) (off : Nat)
  /-- `SYNC` (R130). -/
  | sync (core : Core) (off : Nat)
  /-- `BANK` (R161). -/
  | bank (core : Core) (off : Nat)
  /-- `UNBANK` (R161). -/
  | unbank (core : Core) (off : Nat)
  /-- `UNIT_READY` (R161). -/
  | unitReady (core : Core) (u : CoreUnit)
  /-- `MMUL` (R131). -/
  | mmul (core : Core) (eng : Eng) (off : Nat)
  /-- `DRAIN` (R131). -/
  | drain (core : Core) (eng : Eng) (off : Nat)
  /-- `RAMP_UP` (R116). -/
  | rampUp (core : Core) (eng : Eng) (off : Nat)
  /-- `CORD_POINT` (R122). -/
  | cordPoint (slot : Slot) (q : QNum) (k : Fin 8)
  /-- `ADD` (R146). -/
  | vecAdd (core : Core) (off : Nat)
  /-- `MUL` (R146). -/
  | vecMul (core : Core) (off : Nat)
  /-- `FMA` (R146). -/
  | vecFma (core : Core) (off : Nat)
  /-- `MAX` (R146). -/
  | vecMax (core : Core) (off : Nat)
  /-- `MIN` (R146). -/
  | vecMin (core : Core) (off : Nat)
  /-- `CVT` (R146). -/
  | vecCvt (core : Core) (off : Nat)
  /-- `QUANT` (R146). -/
  | vecQuant (core : Core) (off : Nat)
  /-- `DEQUANT` (R146). -/
  | vecDequant (core : Core) (off : Nat)
  /-- `EXP` (R149). -/
  | vecExp (core : Core) (off : Nat)
  /-- `RCP` (R149). -/
  | vecRcp (core : Core) (off : Nat)
  /-- `RSQRT` (R149). -/
  | vecRsqrt (core : Core) (off : Nat)
  /-- `ACT` (R149). -/
  | vecAct (core : Core) (off : Nat)
  /-- `RMAX` (R147). -/
  | vecRmax (core : Core) (off : Nat)
  /-- `RSUM` (R147). -/
  | vecRsum (core : Core) (off : Nat)
  /-- `SOFTMAX` (R146). -/
  | vecSoftmax (core : Core) (off : Nat)
  /-- `RMSNORM` (R146). -/
  | vecRmsnorm (core : Core) (off : Nat)
  /-- `LAYERNORM` (R146). -/
  | vecLayernorm (core : Core) (off : Nat)
  /-- `ROPE` (R146). -/
  | vecRope (core : Core) (off : Nat)
  /-- `SPLIT2` (R84). -/
  | vecSplit2 (core : Core) (off : Nat)
  /-- `SPLIT3` (R84). -/
  | vecSplit3 (core : Core) (off : Nat)
  /-- `D7SLICE` (R87). -/
  | vecD7slice (core : Core) (off : Nat)
  /-- `D7FINISH` (R89). -/
  | vecD7finish (core : Core) (off : Nat)
  /-- `IADD48` (R146). -/
  | vecIadd48 (core : Core) (off : Nat)
  /-- `DADD` (R146). -/
  | vecDadd (core : Core) (off : Nat)
  /-- `DMUL` (R146). -/
  | vecDmul (core : Core) (off : Nat)
  /-- `DFMA` (R146). -/
  | vecDfma (core : Core) (off : Nat)
  /-- `ACTLOAD` (R149). -/
  | vecActload (core : Core) (off : Nat)
  /-- `COPY` (R155). -/
  | strCopy (core : Core) (ch : Fin 8) (off : Nat)
  /-- `GATHER` (R155). -/
  | strGather (core : Core) (ch : Fin 8) (off : Nat)
  /-- `XSEND` (R155). -/
  | strXsend (core : Core) (ch : Fin 8) (off : Nat)
  /-- `REQUEST_COMPLETE` (R156). -/
  | requestComplete (core : Core) (n : Nat) (st : ReqStatus)
  /-- `MEMORY_TIMEOUT` (R333). -/
  | memoryTimeout (core : Core) (r : TimedReq)
  /-- `BEGIN` (R158). -/
  | chkBegin (core : Core) (off : Nat)
  /-- `FEED` (R158). -/
  | chkFeed (core : Core) (off : Nat)
  /-- `END` (R158). -/
  | chkEnd (core : Core) (off : Nat)
  /-- `CMP` (R158). -/
  | chkCmp (core : Core) (off : Nat)
  /-- `SRAM_SCRUB` (R300). -/
  | sramScrub (die : Die) (p : Fin 17)
  /-- `CORD_TAKE` (R227). -/
  | cordTake (core : Core) (off : Nat)
  /-- `IN_READ` (R227). -/
  | inRead (core : Core) (off : Nat)
  /-- `OUT_WRITE` (R229). -/
  | outWrite (core : Core) (off : Nat)
  /-- `ATTN` (R187). -/
  | attn (core : Core) (off : Nat)
  /-- `APPEND` (R179). -/
  | append (core : Core) (off : Nat)
  /-- `MERGE` (R192). -/
  | merge (core : Core) (off : Nat)
  /-- `SCORES` (R193). -/
  | scores (core : Core) (off : Nat)
  /-- `COMMIT_APPLY` (R197). -/
  | commitApply (core : Core)
  /-- `FRAME_RELEASE` (R198). -/
  | frameRelease (core : Core)
  /-- `LOAD_COMPLETE` (R210). -/
  | loadComplete (slot : Slot)
  /-- `MAP_RECORD_CHANGE` (R386). -/
  | mapRecordChange
  /-- `FETCH_COPY_COMPLETE` (R222). -/
  | fetchCopyComplete (slot : Slot) (q : QNum)
  /-- `HOST_QDB` (R347). -/
  | hostQdb (slot : Slot) (q : QNum) (v : BitVec 64)
  /-- `KPR_Q_TAIL` (R222). -/
  | kprQTail (slot : Slot) (q : QNum) (v : BitVec 64)
  /-- `TURF_REFRESH` (R242). -/
  | turfRefresh (die : Die) (blocked : BitVec 17)
  /-- `HBM_REFRESH` (R248). -/
  | hbmRefresh (stk : Stk) (bank : Fin 1024) (blocked : Bool) (late : Option (Fin 41))
  /-- `BAND_CHANGE` (R241). -/
  | bandChange (die : Die) (upper : Bool)
  /-- `TURF_SCRUB` (R298). -/
  | turfScrub (die : Die) (secs : BitVec 32)
  /-- `HBM_SCRUB` (R298). -/
  | hbmScrub (stk : Stk) (secs : BitVec 32)
  /-- `BAR2_READ` (R352). -/
  | bar2Read (b : HostBar) (off : BitVec 36) (n : Nat)
  /-- `BAR2_WRITE` (R352). -/
  | bar2Write (b : MemBar) (off : BitVec 36) (data : List Byte)
  /-- `FETCHADD` (R254). -/
  | fetchAdd (off : BitVec 36) (w : AtomW) (x : BitVec 64)
  /-- `SWAP` (R254). -/
  | swap (off : BitVec 36) (w : AtomW) (x : BitVec 64)
  /-- `CAS` (R254). -/
  | cas (off : BitVec 36) (w : AtomW) (x : BitVec 64) (cmp : BitVec 64)
  /-- `ACCESS_TIMEOUT` (R261). -/
  | accessTimeout (a : HostAcc)
  /-- `STAGE_COMPLETE` (R265). -/
  | stageComplete
  /-- `NBU_ADD` (R269). -/
  | nbuAdd (g : BitVec 13)
  /-- `NBU_MUL` (R269). -/
  | nbuMul (g : BitVec 13)
  /-- `NBU_FMA` (R269). -/
  | nbuFma (g : BitVec 13)
  /-- `NBU_ACT` (R269). -/
  | nbuAct (g : BitVec 13)
  /-- `NBU_COMMAND_COMPLETE` (R276). -/
  | nbuCommandComplete (io : NbIod)
  /-- `FENCE_COMPLETE` (R282). -/
  | fenceComplete (io : NbIod)
  /-- `REGION_WIPE_COMPLETE` (R274). -/
  | regionWipeComplete (io : NbIod)
  /-- `D2D_FLIT` (R317). -/
  | d2dFlit (port : D2dPort) (data : List Byte) (ctl : BitVec 16) (crc : BitVec 16) (sent : List (List Byte)) (win : BitVec 16)
  /-- `D2D_NAK` (R318). -/
  | d2dNak (port : D2dPort) (sq : BitVec 12) (win : BitVec 16)
  /-- `PORT_DEGRADED` (R322). -/
  | portDegraded (port : D2dPort)
  /-- `D2D_TRAINING_DONE` (R321). -/
  | d2dTrainingDone (port : D2dPort) (bad : List Nat)
  /-- `D2D_TRAINING_TIMEOUT` (R320). -/
  | d2dTrainingTimeout (port : D2dPort)
  /-- `IDLE_PORT` (R336). -/
  | idlePort (port : D2dPort)
  /-- `DIE_FAULT` (R336). -/
  | dieFault (port : D2dPort) (alive : Bool)
  /-- `PARTNER_SIGNAL_PRESENT` (R330). -/
  | partnerSignalPresent (cl : ClPort)
  /-- `CHIP_LINK_TRAINED` (R327). -/
  | chipLinkTrained (cl : ClPort) (raw : BitVec 16) (peerLocked : Bool) (eye : Fin 101)
  /-- `CHIP_LINK_TRAINING_TIMEOUT` (R330). -/
  | chipLinkTrainingTimeout (cl : ClPort)
  /-- `PADDING_CONFIRMED` (R330). -/
  | paddingConfirmed (cl : ClPort) (peer : BitVec 64) (peerPort : Fin 24)
  /-- `CL_FLIT` (R326). -/
  | clFlit (cl : ClPort) (data : List Byte) (trailer : BitVec 64) (corr : Nat) (uncorr : Nat) (pkt : Option ClPkt)
  /-- `CL_NAK` (R328). -/
  | clNak (cl : ClPort) (sq : BitVec 12)
  /-- `REMOTE_ACK` (R329). -/
  | remoteAck (core : Core) (n : Nat) (st : ReqStatus)
  /-- `PARTNER_SIGNAL_LOST` (R330). -/
  | partnerSignalLost (cl : ClPort)
  /-- `HOST_DB` (R347). -/
  | hostDb (ring : Ring) (v : BitVec 64)
  /-- `REGISTER_WRITE` (R8). -/
  | registerWrite (a : RegAgent) (addr : BitVec 48) (v : BitVec 64)
  /-- `COMPLETION_WRITE` (R358). -/
  | completionWrite
  /-- `LOG_DELIVERY` (R368). -/
  | logDelivery
  /-- `HEARTBEAT` (R350). -/
  | heartbeat
  /-- `KEEPER_RESTART` (R361). -/
  | keeperRestart
  /-- `FIRMWARE_AUTHENTICATED` (R361). -/
  | firmwareAuthenticated
  /-- `INFO_VERSION` (R364). -/
  | infoVersion (m : Mbox)
  /-- `INFO_DEVICE` (R364). -/
  | infoDevice (m : Mbox)
  /-- `INFO_MAP` (R384). -/
  | infoMap (m : Mbox)
  /-- `RESET_WARM` (R387). -/
  | resetWarm (m : Mbox)
  /-- `RESET_COMPUTE` (R387). -/
  | resetCompute (m : Mbox)
  /-- `RESET_PARTITION` (R387). -/
  | resetPartition (m : Mbox)
  /-- `RESET_COMPLETE` (R388). -/
  | resetComplete (us : BitVec 32) (tests : List DieTest)
  /-- `SCHED_LOAD` (R209). -/
  | schedLoad (m : Mbox)
  /-- `SCHED_UNLOAD` (R211). -/
  | schedUnload (m : Mbox)
  /-- `SCHED_INFO` (R364). -/
  | schedInfo (m : Mbox)
  /-- `BCN_SET_PERIOD` (R27). -/
  | bcnSetPeriod (m : Mbox)
  /-- `BCN_ARM` (R35). -/
  | bcnArm (m : Mbox)
  /-- `BCN_DISARM` (R35). -/
  | bcnDisarm (m : Mbox)
  /-- `RUN_START` (R217). -/
  | runStart (m : Mbox)
  /-- `RUN_STOP` (R219). -/
  | runStop (m : Mbox)
  /-- `QUEUE_BIND` (R364). -/
  | queueBind (m : Mbox)
  /-- `QUEUE_UNBIND` (R364). -/
  | queueUnbind (m : Mbox)
  /-- `CORE_TRAP_CLEAR` (R144). -/
  | coreTrapClear (m : Mbox)
  /-- `PAGE_COMMIT` (R194). -/
  | pageCommit (m : Mbox)
  /-- `PAGE_READ` (R364). -/
  | pageRead (m : Mbox)
  /-- `MEM_STAGE` (R262). -/
  | memStage (m : Mbox)
  /-- `MEM_ATOMIC` (R254). -/
  | memAtomic (m : Mbox)
  /-- `REG_GRANT` (R364). -/
  | regGrant (m : Mbox)
  /-- `NBU_RUN` (R275). -/
  | nbuRun (m : Mbox)
  /-- `NBU_RAW_RUN` (R275). -/
  | nbuRawRun (m : Mbox)
  /-- `NBU_FENCE` (R282). -/
  | nbuFence (m : Mbox)
  /-- `NBU_REGION` (R274). -/
  | nbuRegion (m : Mbox)
  /-- `THM_READ` (R430). -/
  | thmRead (m : Mbox)
  /-- `THM_COOL_MIN` (R408). -/
  | thmCoolMin (m : Mbox)
  /-- `LNK_TARGET` (R327). -/
  | lnkTarget (m : Mbox)
  /-- `LNK_RETRAIN` (R330). -/
  | lnkRetrain (m : Mbox)
  /-- `AGE_READ` (R429). -/
  | ageRead (m : Mbox)
  /-- `AGE_MEASURE` (R422). -/
  | ageMeasure (m : Mbox)
  /-- `SEC_ATTEST` (R445). -/
  | secAttest (m : Mbox)
  /-- `SEC_CERT` (R435). -/
  | secCert (m : Mbox)
  /-- `SEC_OWNER_KEY` (R442). -/
  | secOwnerKey (m : Mbox)
  /-- `SEC_LIFECYCLE` (R447). -/
  | secLifecycle (m : Mbox)
  /-- `SEC_DEBUG_UNLOCK` (R450). -/
  | secDebugUnlock (m : Mbox)
  /-- `FW_UPDATE` (R362). -/
  | fwUpdate (m : Mbox)
  /-- `FW_RECOVER` (R361). -/
  | fwRecover (m : Mbox)
  /-- `LOG_BIND` (R368). -/
  | logBind (m : Mbox)
  /-- `LOG_ECC_READ` (R364). -/
  | logEccRead (m : Mbox)
  /-- `LOG_ECC_CLEAR` (R364). -/
  | logEccClear (m : Mbox)
  /-- `ENG_EN` (R119). -/
  | engEn (core : Core) (eng : Eng)
  /-- `ENG_BANK_EN` (R119). -/
  | engBankEn (core : Core) (eng : Eng) (v : Bool)
  /-- `ENG_CNT_CLR` (R8). -/
  | engCntClr (core : Core) (eng : Eng)
  /-- `WALK_EN` (R8). -/
  | walkEn (core : Core)
  /-- `PGW_BANK_EN` (R161). -/
  | pgwBankEn (core : Core) (v : Bool)
  /-- `PGW_CNT_CLR` (R8). -/
  | pgwCntClr (core : Core)
  /-- `CORE_EN` (R144). -/
  | coreEn (core : Core)
  /-- `TRAP_CLR` (R144). -/
  | trapClr (core : Core)
  /-- `COLD_POWER_ON` (R372). -/
  | coldPowerOn (b : Bring)
  /-- `POWER_LOSS` (R370). -/
  | powerLoss
  /-- `INPUT_CURRENT_LIMIT` (R458). -/
  | inputCurrentLimit
  /-- `PERST_FALL` (R371). -/
  | perstFall
  /-- `PERST_RISE` (R371). -/
  | perstRise
  /-- `SENSOR_SAMPLE` (R396). -/
  | sensorSample (x : Sensor) (temp : Int) (us : Nat)
  /-- `SUSPECT_CLEAR` (R397). -/
  | suspectClear (x : Sensor)
  /-- `TRIP_RECORD` (R416). -/
  | tripRecord
  /-- `DAMPER_WINDOW` (R401). -/
  | damperWindow
  /-- `DAMPER_RELEASE` (R402). -/
  | damperRelease (die : Die)
  /-- `HEAT_FORECAST` (R407). -/
  | heatForecast (die : Die) (power : BitVec 16)
  /-- `FLOW_ESTIMATE` (R412). -/
  | flowEstimate (w : BitVec 16)
  /-- `COOLANT_STATE_CHANGE` (R413). -/
  | coolantStateChange
  /-- `IDLE_BANK` (R418). -/
  | idleBank (core : Core)
  /-- `IDLE_MEASUREMENT` (R422). -/
  | idleMeasurement
  /-- `REPLICA_READ` (R423). -/
  | replicaRead (die : Die) (p : Fin 17) (ps : BitVec 16) (below : Bool)
  /-- `MARGIN_CHANGE` (R428). -/
  | marginChange
  /-- `LIFETIME_UPDATE` (R429). -/
  | lifetimeUpdate (x : LifeTick)
  /-- `DEBUG_READ` (R451). -/
  | debugRead (addr : BitVec 48)
  /-- `DEBUG_WRITE` (R451). -/
  | debugWrite (addr : BitVec 48) (v : BitVec 64)
  /-- `SMBUS_BLOCK_READ` (R477). -/
  | smbusBlockRead (code : BitVec 8)
  /-- `ALERT_RESPONSE` (R478). -/
  | alertResponse
  /-- `HOST_LINK_REACHES_L0` (R375). -/
  | hostLinkReachesL0
  /-- `HOST_LINK_LEAVES_L0` (R375). -/
  | hostLinkLeavesL0
  /-- `BUS_MASTER_ENABLE_CHANGE` (R343). -/
  | busMasterEnableChange (v : Bool) (d3 : Bool)
  /-- `PUSH_TO_HOST_RING_COMPLETE` (R351). -/
  | pushToHostRingComplete (slot : Slot) (q : QNum)
  /-- `MEASUREMENT_COMPLETE` (R423). -/
  | measurementComplete (ms : List DieMeas) (eyes : List (ClPort × Nat))
  /-- `KEEPER_NOT_RUNNING_ALERT` (R478). -/
  | keeperNotRunningAlert
  /-- `BOUNDARY_SCAN` (R451). -/
  | boundaryScan (x : BScan)
  deriving DecidableEq, Repr

end Sys2Proof
end

