-- ==== Sys2Proof/Machine/Bits.lean ====
section
/-!
DEFINITION. Bit fields of words, byte order, saturating counters and sign extension: the helpers every register and every
memory layout of the manual is read and written with. All layouts of the manual are little-endian.
-/

namespace Sys2Proof.Machine

/-- Bits [hi:lo] of a number. -/
def bits (n hi lo : Nat) : Nat := n >>> lo % 2 ^ (hi + 1 - lo)

/-- Field [hi:lo] of a 64-bit register. -/
def fld (w : Word) (hi lo : Nat) : Nat := (w.toNat >>> lo) % 2 ^ (hi + 1 - lo)

/-- The word with ones exactly in bits [hi:lo]. -/
def fldMask (hi lo : Nat) : Word := (BitVec.ofNat 64 (2 ^ (hi + 1 - lo) - 1)) <<< lo

/-- The register with field [hi:lo] replaced by `v`, cut to the field's width; every other bit kept. -/
def setFld (w : Word) (hi lo v : Nat) : Word :=
  (w &&& ~~~ fldMask hi lo) ||| ((BitVec.ofNat 64 v <<< lo) &&& fldMask hi lo)

/-- Bit i of a register. -/
def bitAt (w : Word) (i : Nat) : Bool := w.getLsbD i

/-- The register with bit i set or cleared. -/
def setBit (w : Word) (i : Nat) (b : Bool) : Word := setFld w i i b.toNat

/-- A counter field [hi:lo] raised by `n`; it saturates at its maximum. -/
def incFld (w : Word) (hi lo n : Nat) : Word :=
  setFld w hi lo (min (fld w hi lo + n) (2 ^ (hi + 1 - lo) - 1))

/-- Field [hi:lo] holds the larger of itself and `v` (a peak). -/
def maxFld (w : Word) (hi lo v : Nat) : Word :=
  setFld w hi lo (max (fld w hi lo) (min v (2 ^ (hi + 1 - lo) - 1)))

/-- Two's-complement value of the low `w` bits of `n`. -/
def signed (w n : Nat) : Int :=
  if n % 2 ^ w < 2 ^ (w - 1) then (n % 2 ^ w : Nat) else (n % 2 ^ w : Nat) - (2 ^ w : Nat)

/-- The low `w` bits of a signed number. -/
def unsigned (w : Nat) (i : Int) : Nat := (i % (2 ^ w : Nat)).toNat

/-- Little-endian value of a list of bytes. -/
def leNat : List Byte → Nat
  | [] => 0
  | b :: bs => b.toNat + 256 * leNat bs

/-- The `k` low bytes of `n`, little-endian. -/
def leBytes : Nat → Nat → List Byte
  | 0, _ => []
  | k + 1, n => BitVec.ofNat 8 n :: leBytes k (n / 256)

/-- `k` bytes at byte `o` of a list, little-endian; bytes beyond the list count as 0. -/
def leAt (bs : List Byte) (o k : Nat) : Nat := leNat ((bs.drop o).take k)

/-- The list cut into pieces of `n` bytes (n at least 1); the last may be shorter. -/
def chunksFuel (n : Nat) : Nat → List α → List (List α)
  | 0, _ => []
  | _, [] => []
  | f + 1, l => l.take n :: chunksFuel n f (l.drop n)

/-- The list cut into pieces of `n`; the last may be shorter. -/
def chunks (n : Nat) (l : List α) : List (List α) := chunksFuel (max n 1) l.length l

/-- `n` zero bytes. -/
def zeros (n : Nat) : List Byte := List.replicate n 0

/-- The bytes of an ASCII name. -/
def ascii (s : String) : List Byte := s.toList.map fun c => BitVec.ofNat 8 c.toNat

/-- The list with the bytes `b` laid over it from offset `o`. -/
def overlay (l : List Byte) (o : Nat) (b : List Byte) : List Byte :=
  l.take o ++ (b.take (l.length - o) ++ l.drop (o + b.length))

/-- Ceiling division. -/
def cdiv (a b : Nat) : Nat := (a + b - 1) / b

/-- Whether a number is a multiple of another. -/
def aligned (a n : Nat) : Bool := a % n == 0

/-- The number of ones among the low `n` bits. -/
def popCount (n w : Nat) : Nat := (List.range n).countP fun i => w.testBit i

/-- The positions, rising, of the ones among the low `n` bits. -/
def onesOf (n w : Nat) : List Nat := (List.range n).filter fun i => w.testBit i

/-- The number with bit i set. -/
def orBit (w i : Nat) : Nat := w ||| 2 ^ i

/-- An element put into a list sorted by `le`, after its equals. -/
def insertBy (le : α → α → Bool) (a : α) : List α → List α
  | [] => [a]
  | b :: l => if le b a then b :: insertBy le a l else a :: b :: l

/-- The list sorted by `le`; equals keep their order. -/
def sortBy (le : α → α → Bool) : List α → List α := List.foldl (fun acc a => insertBy le a acc) []

/-- Apply a state change for each element of a list, in order. -/
def forEach (l : List α) (s : σ) (f : σ → α → σ) : σ := l.foldl f s

/-- The state change `f` where `c` holds; nothing otherwise. -/
def when (c : Bool) (f : σ → σ) (s : σ) : σ := if c then f s else s

end Sys2Proof.Machine
end

