-- ==== Sys2Proof/Machine/Shake.lean ====
section
/-!
DEFINITION. SHAKE256, the digest of images, map records, measurements and keys (R203, R207, R434). The manual names the function
and does not restate it; its steps are those of its standard. PRESUMED: log entry 12.
-/

namespace Sys2Proof.Machine.Shake

/-- Lane (x, y) of a Keccak state at 5y + x. -/
def lane (a : List Word) (x y : Nat) : Word := a.getD (5 * (y % 5) + x % 5) 0

/-- The state whose lane (x, y) is `f x y`. -/
def build (f : Nat → Nat → Word) : List Word := (List.range 25).map fun i => f (i % 5) (i / 5)

/-- A word rotated left. -/
def rotl (w : Word) (n : Nat) : Word := w.rotateLeft n

/-- Rotation offsets of lane 5y + x. -/
def offsets : List Nat :=
  [0, 1, 62, 28, 27] ++ [36, 44, 6, 55, 20] ++ [3, 10, 43, 25, 39] ++ [41, 45, 15, 21, 8] ++ [18, 2, 61, 56, 14]

/-- Round constants. -/
def rounds : List Word :=
  [0x0000000000000001, 0x0000000000008082, 0x800000000000808A, 0x8000000080008000, 0x000000000000808B, 0x0000000080000001] ++
  [0x8000000080008081, 0x8000000000008009, 0x000000000000008A, 0x0000000000000088, 0x0000000080008009, 0x000000008000000A] ++
  [0x000000008000808B, 0x800000000000008B, 0x8000000000008089, 0x8000000000008003, 0x8000000000008002, 0x8000000000000080] ++
  [0x000000000000800A, 0x800000008000000A, 0x8000000080008081, 0x8000000000008080, 0x0000000080000001, 0x8000000080008008]

/-- Column parities spread over their neighbours. -/
def theta (a : List Word) : List Word :=
  let c (x : Nat) : Word := (List.range 5).foldl (fun v y => v ^^^ lane a x y) 0
  let cs := (List.range 5).map c
  let d (x : Nat) : Word := cs.getD ((x + 4) % 5) 0 ^^^ rotl (cs.getD ((x + 1) % 5) 0) 1
  let ds := (List.range 5).map d
  build fun x y => lane a x y ^^^ ds.getD x 0

/-- Lanes rotated and moved. -/
def rhoPi (a : List Word) : List Word :=
  build fun x y =>
    let u := (x + 3 * y) % 5
    rotl (lane a u x) (offsets.getD (5 * x + u) 0)

/-- Rows combined. -/
def chi (a : List Word) : List Word :=
  build fun x y => lane a x y ^^^ (~~~ lane a (x + 1) y &&& lane a (x + 2) y)

/-- One round. -/
def round (a : List Word) (rc : Word) : List Word :=
  match chi (rhoPi (theta a)) with
  | [] => []
  | w :: ws => (w ^^^ rc) :: ws

/-- The permutation. -/
def keccak (a : List Word) : List Word := rounds.foldl round a

/-- Bytes absorbed in one block. -/
def rate : Nat := 136

/-- The message padded to whole blocks. -/
def pad (m : List Byte) : List Byte :=
  let r := rate - m.length % rate
  if r = 1 then m ++ [0x9F] else m ++ (0x1F :: zeros (r - 2)) ++ [0x80]

/-- A block absorbed. -/
def absorb (a : List Word) (b : List Byte) : List Word :=
  keccak ((a.zip (chunks 8 b ++ List.replicate 8 [])).map fun p => p.1 ^^^ BitVec.ofNat 64 (leNat p.2))

/-- `n` blocks squeezed. -/
def squeeze : Nat → List Word → List Byte
  | 0, _ => []
  | n + 1, a => (a.take 17).flatMap (fun w => leBytes 8 w.toNat) ++ squeeze n (keccak a)

end Sys2Proof.Machine.Shake

namespace Sys2Proof.Machine

/-- SHAKE256 of a message, `n` bytes. -/
def shake256 (n : Nat) (m : List Byte) : List Byte :=
  (Shake.squeeze (cdiv n Shake.rate) ((chunks Shake.rate (Shake.pad m)).foldl Shake.absorb (List.replicate 25 0))).take n

end Sys2Proof.Machine
end

