-- ==== Sys2Proof/Config.lean ====
section
/-!
DEFINITION. What an implementation fixes and the manual leaves open: constants with no body, so that no proof can see a value.
A constant whose last argument is an index is applied to the state's counter `free`, which the step that uses it advances.
-/

namespace Sys2Proof.Config

/-- The way of a full cache set that a miss evicts: an index, taken modulo the number of lines held (R250: the replacement
order is not published). DESIGN CHOICE: log entry 65. -/
opaque victim : Nat → Nat → Nat

/-- The slack that an image gives a core for a flash that holds a deadline operation: image digest, core, RFN (R41). The image
layout of R203-R208 names no field for it. DESIGN CHOICE: log entry 16. -/
opaque slack : List Byte → Nat → Nat → Nat

/-- The Keeper's prediction of R407, by a model fitted per die at manufacture that the manual does not publish: by the die, the planned
powers of the windows ahead and the measured power, both in 0.125 W, and the cold-plate and turf readings in 1/16 °C, the highest
governing readings that the lower and the upper turf die will reach within 1 ms. DESIGN CHOICE: log entry 60. -/
opaque forecast : Nat → List Nat → Nat → List Int → Int × Int

/-- The skip at which a die with no run active is held for a predicted crossing, at most 24 (R407: it may be held). By the index of the
free value and the die. DESIGN CHOICE: log entry 60. -/
opaque idleHold : Nat → Nat → Nat

/-- Equalisation preset that margin plan `i` gives a die-to-die port end for a band, taken modulo 64 (R425).
DESIGN CHOICE: log entry 48. -/
opaque preset : Nat → Nat → Nat → Nat

/-- What an INT48 accumulator holds of a sum outside its range, which R88 does not state for contraction lengths above 2^30:
the low 48 bits are taken of it. DESIGN CHOICE: log entry 25. -/
opaque d7Over : Int → Nat

/-- Which of the two FP32 values about the exact result EXP gives, by the code of its input (R149: within 1 unit in the last
place, by an algorithm that the manual does not publish). DESIGN CHOICE: log entry 30. -/
opaque expUp : Nat → Bool

/-- The segment that ACT takes, modulo 64, where rne((x - LO) × SCALE) is NaN (R149 states none). DESIGN CHOICE: log entry 30. -/
opaque actSegment : Nat → Nat

/-- What ROPE leaves as the last element of a row with an odd number of elements, which belongs to no pair (R146): the bits of an
FP32 value, by the FP32 codes of the row's operands. DESIGN CHOICE: log entry 30. -/
opaque ropeOdd : List Nat → BitVec 32

/-- Whether OUT_WRITE sets a flag of R200 whose device status word it cannot read (no rule gives the outcome of that failure).
By the word in the run, the context and the flag. DESIGN CHOICE: log entry 38. -/
opaque statusFlag : List Nat → Bool

/-- What attention leaves in an accumulator slot of an engine that it used: the manual does not say which bank its products use
(R187). By the key of the product (its word in the run, its chunk, its operands) and the slot. DESIGN CHOICE: log entry 26. -/
opaque accLeft : List Nat → Nat → BitVec 64

/-- The bank that attention's products use in an engine, and what they leave in a stationary cell, set x 1,024 + cell (R187 states
neither). By the key of the product. DESIGN CHOICE: log entry 26. -/
opaque accBank : List Nat → Bool
opaque cellLeft : List Nat → Nat → BitVec 16

/-- A byte of the staging area of a core after its walker has staged operands there, whose places the manual does not give (R185).
By the word in the run, the operands and the byte's offset in the area. DESIGN CHOICE: log entry 41. -/
opaque staged : List Nat → Nat → BitVec 8

/-- A byte that staging copies for an entry whose HBM end a run wrote to while it was staged (R264: not defined). By the index of
the free value and the byte's place. DESIGN CHOICE: log entry 67. -/
opaque stageData : Nat → Nat → BitVec 8

/-- A byte of a row that an accepted near-bank command writes, as another requester reads it, and of the results of a command to
whose rows another requester has written (R281: not defined). By the index of the free value and the byte's place.
DESIGN CHOICE: log entry 56. -/
opaque nbuData : Nat → Nat → BitVec 8

/-- The I/O dies, bit 0 IOD2 and bit 1 IOD3, whose registers record the refusal of a near-bank command that names no bank of either
(R275 does not say). By the index of the free value. DESIGN CHOICE: log entry 53. -/
opaque refusedOn : Nat → BitVec 2

/-- The thermal model of the Keeper, which the manual does not publish (R397, R398): by the index of the free value and the sensor,
the estimate of a reading and the offset from a neighbour's site, both in 1/16 °C; by index and core, the offset of a core's
governing reading from its quadrant's, which is held within 4 °C. DESIGN CHOICE: log entry 57. -/
opaque estimate : Nat → Nat → Int
opaque siteOffset : Nat → Nat → Int
opaque coreOffset : Nat → Nat → Int

/-- What a register reads that regulators, activity counters or the management port feed and that no command of the block writes:
by the index of the free value and the register's address (R420: `PWR_DIE`, `PWR_ENERGY`, and `V` of `THM_SUPPLY`).
DESIGN CHOICE: log entry 63. -/
opaque measured : Nat → Nat → BitVec 64

/-- How many bytes of a copy that ended early had been written, in order, by the index of the free value (R211, R261: part of them).
DESIGN CHOICE: log entry 67. -/
opaque copied : Nat → Nat

/-- The Koryen firmware key hash and service key hash that the ROM holds (R437, R446). DESIGN CHOICE: log entry 78. -/
opaque fwKeyHash : List (BitVec 8)
opaque serviceKeyHash : List (BitVec 8)

/-- What the hardware random source of IOD0 gives at a ROM start (R433), by the index of the free value.
DESIGN CHOICE: log entry 78. -/
opaque bootNonce : Nat → BitVec 256

/-- Why the ROM finds no image to run in a firmware slot whose writing was interrupted (R362 gives no cause): taken modulo 3.
DESIGN CHOICE: log entry 81. -/
opaque halfWritten : Nat → Nat

/-- What the three certificates hold beside the fields that R433 and R435 name: names, serial numbers, validity and extensions, already in
DER, by field, certificate and subject key. DESIGN CHOICE: log entry 78. -/
opaque certPart : Nat → Nat → List (BitVec 8) → List (BitVec 8)

/-- The Koryen product CA's public key 0, and the signatures of the device identity certificate 1 and of the product CA certificate 2
(R435), byte by byte: those that made them are not on the device. DESIGN CHOICE: log entry 78. -/
opaque madeByte : Nat → Nat → BitVec 8

/-- The offset in flash s - 1 at which a prepared start is cancelled, up to which its engines have kindled (R115, R216): by the index of the
free value. DESIGN CHOICE: log entry 105. -/
opaque cancelOff : Nat → Nat

/-- The cause in the log entry of a start that a reset cancels (R216; R367 names none). By the index of the free value.
DESIGN CHOICE: log entry 105. -/
opaque cancelCause : Nat → BitVec 8

/-- What a read of a ring doorbell `HOST_DBr` returns (R347 states what a write does): by the index of the free value and the ring.
DESIGN CHOICE: log entry 103. -/
opaque ringDoorbell : Nat → Nat → BitVec 64

/-- How far a staging in progress has come, as `MEM_STAGE_STS` shows it (R263): by the index of the free value, the entry and the
units of 64 bytes of it, each taken modulo what there is. DESIGN CHOICE: log entry 67. -/
opaque stageAt : Nat → Nat × Nat

/-- A byte of the content of a chip-link NAK, ACK or remote-acknowledgement flit, to which R326 gives no layout: by the index of the free
value and the byte's place. DESIGN CHOICE: log entry 49. -/
opaque linkByte : Nat → Nat → BitVec 8

/-- Koryen's manufacturer code in the IDCODE (R479); the boundary-scan register, which only Koryen's description counts and orders (R479):
its cells beside those of the contacts, which of the cells left each contact takes, and what the register shows elsewhere by the index
of the free value; and the level of `COOL_REQ` at a duty and a moment (R469). DESIGN CHOICE: log entry 93. -/
opaque manufacturer : BitVec 11
opaque scanMore : Nat
opaque scanned : Nat → Nat
opaque scanPick : Nat → Nat
opaque coolHigh : Nat → Nat → Bool

end Sys2Proof.Config
end

