-- ==== Sys2Proof/Machine/Regs.lean ====
section
/-!
DEFINITION. The offsets of the registers of the repeated blocks: within a core block, a compute-die block or an I/O-die block
(R238). The offset tables of the manual's chapters give each; an engine register's offset is within its engine's block.
-/

namespace Sys2Proof.Machine.R

/-- `SEQ_SLK_CUR`: Current flash: lateness, slack, request (02). -/
def seqSlkCur : Nat := 0x400

/-- `SEQ_SLK_MIN`: Smallest margin in the run (02). -/
def seqSlkMin : Nat := 0x408

/-- `SEQ_SLK_CAUSEk`: Cycles charged to cause code k in the run (02). -/
def seqSlkCause (k : Nat) : Nat := 0x410 + (k - 1) * 0x08

/-- `SEQ_SLK_SLIP`: Occultation requests by this core (02). -/
def seqSlkSlip : Nat := 0x448

/-- `ENG_ID`: Logical core and engine number (04). -/
def engId : Nat := 0x0

/-- `ENG_CTRL`: Enable, banking, kindling, counter clear (04). -/
def engCtrl : Nat := 0x8

/-- `ENG_STS`: Power state, sets, banks, error flags (04). -/
def engSts : Nat := 0x10

/-- `ENG_SPARE`: Spare row and column in use (04). -/
def engSpare : Nat := 0x18

/-- `ENG_OP`: Operation in progress (04). -/
def engOp : Nat := 0x20

/-- `ENG_CORD`: Cord of the operation in progress (04). -/
def engCord : Nat := 0x28

/-- `ENG_FLT_CNT`: Float saturations and produced NaNs (04). -/
def engFltCnt : Nat := 0x30

/-- `ENG_OVF_CNT`: Overflows to infinity and integer saturations (04). -/
def engOvfCnt : Nat := 0x38

/-- `ENG_OPS_CNT`: Operations completed (04). -/
def engOpsCnt : Nat := 0x40

/-- `ENG_BUSY_CNT`: Cycles with a streamed row entering (04). -/
def engBusyCnt : Nat := 0x48

/-- `ENG_KND_CNT`: Kindling cycles outside ramps (04). -/
def engKndCnt : Nat := 0x50

/-- `ENG_RAMP_CNT`: Ramps up and down (04). -/
def engRampCnt : Nat := 0x58

/-- `ENG_ECC_CNT`: Check-code events (04). -/
def engEccCnt : Nat := 0x60

/-- `ENG_ECC_ADDR`: Site of the last uncorrectable error (04). -/
def engEccAddr : Nat := 0x68

/-- `SEQ_ID`: Logical core, die and local number (05). -/
def seqId : Nat := 0x0

/-- `SEQ_CTRL`: Enable and trap clear (05). -/
def seqCtrl : Nat := 0x8

/-- `SEQ_STS`: State and descriptor errors (05). -/
def seqSts : Nat := 0x10

/-- `SEQ_STREAM`: Stream base (05). -/
def seqStream : Nat := 0x18

/-- `SEQ_DESC`: Descriptor table offset (05). -/
def seqDesc : Nat := 0x20

/-- `SEQ_POS`: Next word to dispatch (05). -/
def seqPos : Nat := 0x28

/-- `SEQ_TRAP`: Trap record (05). -/
def seqTrap : Nat := 0x30

/-- `SEQ_EVa`: Event counters 4a to 4a + 3 (05). -/
def seqEv (a : Nat) : Nat := 0x38 + a * 0x08

/-- `SEQ_CRED`: Queue credits (05). -/
def seqCred : Nat := 0x58

/-- `VEC_STS`: State and errors (05). -/
def vecSts : Nat := 0x2000

/-- `VEC_FLT_CNT`: Saturations and produced NaNs (05). -/
def vecFltCnt : Nat := 0x2008

/-- `VEC_OVF_CNT`: Overflows and integer saturations (05). -/
def vecOvfCnt : Nat := 0x2010

/-- `VEC_OPS_CNT`: Operations completed (05). -/
def vecOpsCnt : Nat := 0x2018

/-- `STR_CHk_STS`: Channel k halt state (05). -/
def strChSts (k : Nat) : Nat := 0x3000 + k * 0x08

/-- `STR_CHk_ADDR`: Channel k halt address (05). -/
def strChAddr (k : Nat) : Nat := 0x3040 + k * 0x08

/-- `STR_TAG`: Transfer tags (05). -/
def strTag : Nat := 0x3080

/-- `CHK_CTRLk`: Context k parameters (05). -/
def chkCtrl (k : Nat) : Nat := 0x5000 + k * 0x40

/-- `CHK_POLYk`: Polynomial (05). -/
def chkPoly (k : Nat) : Nat := 0x5008 + k * 0x40

/-- `CHK_INITk`: Initial value (05). -/
def chkInit (k : Nat) : Nat := 0x5010 + k * 0x40

/-- `CHK_SEQk`: Folded sequence value (05). -/
def chkSeq (k : Nat) : Nat := 0x5018 + k * 0x40

/-- `CHK_RESk`: Last result (05). -/
def chkRes (k : Nat) : Nat := 0x5020 + k * 0x40

/-- `CHK_STS`: Comparison failures (05). -/
def chkSts : Nat := 0x5100

/-- `PGW_CTRL`: Enable and counter clear (06). -/
def pgwCtrl : Nat := 0x4000

/-- `PGW_STS`: State, errors, watermark flags (06). -/
def pgwSts : Nat := 0x4008

/-- `PGW_GEOM`: KV geometry (06). -/
def pgwGeom : Nat := 0x4010

/-- `PGW_CTX_BASE`: Context table (06). -/
def pgwCtxBase : Nat := 0x4018

/-- `PGW_PFT_BASE`: Page-frame table and pool rings (06). -/
def pgwPftBase : Nat := 0x4020

/-- `PGW_RAM_BASE`: Staging area and rotary tables (06). -/
def pgwRamBase : Nat := 0x4028

/-- `PGW_CSTAT_BASE`: Device status table (06). -/
def pgwCstatBase : Nat := 0x4030

/-- `PGW_POOLz`: Pool z count and watermark (06). -/
def pgwPool (z : Nat) : Nat := 0x4038 + z * 0x08

/-- `PGW_ENT_CNT`: Entries served and skipped (06). -/
def pgwEntCnt : Nat := 0x4088

/-- `PGW_FRM_CNT`: Copies and `KV_FULL` events (06). -/
def pgwFrmCnt : Nat := 0x4090

/-- `PGW_LAST_FULL`: Last `KV_FULL` (06). -/
def pgwLastFull : Nat := 0x4098

/-- `PGW_EDIT`: Last commit applied (06). -/
def pgwEdit : Nat := 0x40a0

/-- `PGW_ERR_ADDR`: Walker halt record (06). -/
def pgwErrAddr : Nat := 0x40a8

/-- `TURF_STS`: Bands and governing readings of the two turf dies (08). -/
def turfSts : Nat := 0x0

/-- `TURF_BAND_CNT`: Band changes (08). -/
def turfBandCnt : Nat := 0x8

/-- `TURF_REF_CNT`: Refreshes issued on the die's 17 slices (08). -/
def turfRefCnt : Nat := 0x10

/-- `TURF_XREF_CNT`: Refreshes beyond n₀ that blocked a P0 request (08). -/
def turfXrefCnt : Nat := 0x18

/-- `HBM_STS`: Temperature, refresh interval, kind (08). -/
def hbmSts : Nat := 0x10000

/-- `HBM_REF_CNT`: Refreshes issued (08). -/
def hbmRefCnt : Nat := 0x10008

/-- `HBM_XREF_CNT`: Refreshes beyond n₀ that blocked a P0 request (08). -/
def hbmXrefCnt : Nat := 0x10010

/-- `HBM_GTH_CNT`: Gather reads (08). -/
def hbmGthCnt : Nat := 0x10018

/-- `MEM_CACHE_STS`: Dirty lines (08). -/
def memCacheSts : Nat := 0x0

/-- `MEM_HIT_CNT`: Lookups that hit (08). -/
def memHitCnt : Nat := 0x8

/-- `MEM_MISS_CNT`: Lookups that missed (08). -/
def memMissCnt : Nat := 0x10

/-- `MEM_ATOM_CNT`: Element operations applied (08). -/
def memAtomCnt : Nat := 0x18

/-- `MEM_STAGE_STS`: Staging progress; IOD0 only, reads 0 on other I/O dies (08). -/
def memStageSts : Nat := 0x20

/-- `NBU_STS`: Commands and fences pending, raw use (09). -/
def nbuSts : Nat := 0x50000

/-- `NBU_CMD_CNT`: Commands accepted and refused (09). -/
def nbuCmdCnt : Nat := 0x50008

/-- `NBU_OPS_CNT`: Bank operations completed (09). -/
def nbuOpsCnt : Nat := 0x50010

/-- `NBU_FLT_CNT`: Saturations and produced NaNs (09). -/
def nbuFltCnt : Nat := 0x50018

/-- `NBU_OVF_CNT`: Overflows and integer saturations (09). -/
def nbuOvfCnt : Nat := 0x50020

/-- `NBU_RINS_CNT`: Refreshes issued inside operations (09). -/
def nbuRinsCnt : Nat := 0x50028

/-- `NBU_POISON_CNT`: Units poisoned (09). -/
def nbuPoisonCnt : Nat := 0x50030

/-- `NBU_DISC_CNT`: Dirty lines discarded by fences (09). -/
def nbuDiscCnt : Nat := 0x50038

/-- `NBU_LAST_REJ`: Last refused command (09). -/
def nbuLastRej : Nat := 0x50040

/-- `NBU_REGk`: Region entry k (09). -/
def nbuReg (k : Nat) : Nat := 0x50100 + k * 0x08

/-- `TURF_ECC_CNT`: Errors in turf and SRAM (10). -/
def turfEccCnt : Nat := 0x20

/-- `TURF_ECC_UE`: First uncorrectable error (10). -/
def turfEccUe : Nat := 0x28

/-- `TURF_ECC_STS`: Log state (10). -/
def turfEccSts : Nat := 0x30

/-- `TURF_SCRB_RATE`: Turf scrub rate (10). -/
def turfScrbRate : Nat := 0x38

/-- `TURF_SCRB_STS`: Sweep position (10). -/
def turfScrbSts : Nat := 0x40

/-- `TURF_SCRB_LAST`: Last sweep duration (10). -/
def turfScrbLast : Nat := 0x48

/-- `TURF_LOGk_ADDR`: Log entry k address (10). -/
def turfLogAddr (k : Nat) : Nat := 0x100 + k * 0x10

/-- `TURF_LOGk_INFO`: Log entry k syndrome and count (10). -/
def turfLogInfo (k : Nat) : Nat := 0x108 + k * 0x10

/-- `ECC_STS`: Log state of both stacks (10). -/
def eccSts : Nat := 0x40000

/-- `ECC_Hs_CNT`: Errors in stack s (10). -/
def eccHCnt (s : Nat) : Nat := 0x40008 + s * 0x08

/-- `ECC_CACHE_CNT`: Errors in the cache slice (10). -/
def eccCacheCnt : Nat := 0x40018

/-- `ECC_Hs_UE`: First uncorrectable error, stack s (10). -/
def eccHUe (s : Nat) : Nat := 0x40020 + s * 0x08

/-- `ECC_INFO`: Log depth (10). -/
def eccInfo : Nat := 0x40038

/-- `ECC_Hs_LOGk_ADDR`: Log entry k address; entries at and above the depth read 0 (10). -/
def eccHLogAddr (s : Nat) (k : Nat) : Nat := 0x40100 + s * 0x200 + k * 0x10

/-- `ECC_Hs_LOGk_INFO`: Log entry k syndrome and count (10). -/
def eccHLogInfo (s : Nat) (k : Nat) : Nat := 0x40108 + s * 0x200 + k * 0x10

/-- `SCRUB_Hs_RATE`: HBM scrub rate (10). -/
def scrubHRate (s : Nat) : Nat := 0x30000 + s * 0x10

/-- `SCRUB_Hs_STS`: Sweep position (10). -/
def scrubHSts (s : Nat) : Nat := 0x30008 + s * 0x10

/-- `SCRUB_Hs_LAST`: Last sweep duration (10). -/
def scrubHLast (s : Nat) : Nat := 0x30020 + s * 0x08

/-- `D2D_STRAP`: Straps (11). -/
def d2dStrap : Nat := 0x10000

/-- `D2D_DIE_STS`: Idle reports and fencing (11). -/
def d2dDieSts : Nat := 0x10008

/-- `D2D_PORTp_STS`: Port state (11). -/
def d2dPortSts (p : Nat) : Nat := 0x10040 + p * 0x40

/-- `D2D_PORTp_RTY_CNT`: Retries (11). -/
def d2dPortRtyCnt (p : Nat) : Nat := 0x10048 + p * 0x40

/-- `D2D_PORTp_WIN`: Retry window (11). -/
def d2dPortWin (p : Nat) : Nat := 0x10050 + p * 0x40

/-- `D2D_PORTp_LANE`: Spares and bad groups (11). -/
def d2dPortLane (p : Nat) : Nat := 0x10058 + p * 0x40

/-- `D2D_PORTp_EQ`: Equalisation preset (11). -/
def d2dPortEq (p : Nat) : Nat := 0x10060 + p * 0x40

/-- `D2D_REV`: I/O die revision (11). -/
def iodD2dRev : Nat := 0x80000

/-- `LNK_PORTj_STS`: State and partner port (11). -/
def lnkPortSts (j : Nat) : Nat := 0x60000 + j * 0x40

/-- `LNK_PORTj_PAD`: Padding (11). -/
def lnkPortPad (j : Nat) : Nat := 0x60008 + j * 0x40

/-- `LNK_PORTj_PEER`: Partner identity (11). -/
def lnkPortPeer (j : Nat) : Nat := 0x60010 + j * 0x40

/-- `LNK_PORTj_RPL_CNT`: Replays (11). -/
def lnkPortRplCnt (j : Nat) : Nat := 0x60018 + j * 0x40

/-- `LNK_PORTj_FEC_CNT`: FEC codewords (11). -/
def lnkPortFecCnt (j : Nat) : Nat := 0x60020 + j * 0x40

/-- `THM_STS`: Damper state and limit flags (14). -/
def thmSts : Nat := 0x20000

/-- `THM_SNS0`: Sensors 0–3 (14). -/
def thmSns0 : Nat := 0x20008

/-- `THM_SNS1`: Sensors 4–7 (14). -/
def thmSns1 : Nat := 0x20010

/-- `THM_TURF`: Turf governing readings and margin (14). -/
def thmTurf : Nat := 0x20018

/-- `THM_QUAD`: Quadrant governing readings (14). -/
def thmQuad : Nat := 0x20020

/-- `THM_DIV_CNT`: Time at D2 and D4 (14). -/
def thmDivCnt : Nat := 0x20028

/-- `AGE_RO`: Ring-oscillator shift (14). -/
def ageRo : Nat := 0x30000

/-- `AGE_CPR`: Worst replica margin (14). -/
def ageCpr : Nat := 0x30008

/-- `AGE_CANARY`: Canary counts (14). -/
def ageCanary : Nat := 0x30010

/-- `AGE_LAST`: Last full measurement (14). -/
def ageLast : Nat := 0x30018

/-- `PWR_DIE`: Rail voltage and power (14). -/
def pwrDie : Nat := 0x40000

/-- `PWR_VOFF`: Voltage offset (14). -/
def pwrVoff : Nat := 0x40008

/-- `PWR_BANK`: Banked cores (14). -/
def pwrBank : Nat := 0x40010

/-- `PWR_ENERGY`: Die energy (14). -/
def pwrEnergy : Nat := 0x40018

/-- `THM_IOD`: I/O die sensors (14). -/
def thmIod : Nat := 0x70000

/-- `THM_COOL`: Inlet, outlet and cold-plate readings (14). -/
def thmCool : Nat := 0x70010

/-- `THM_RDIODE`: Regulator bank readings (14). -/
def thmRdiode : Nat := 0x70018

/-- `THM_FLOW`: Flow estimate, coolant state, `COOL_REQ` (14). -/
def thmFlow : Nat := 0x70020

/-- `THM_SUPPLY`: Module input (14). -/
def thmSupply : Nat := 0x70028

/-- `THM_MARGIN`: Margin class and pending change (14). -/
def thmMargin : Nat := 0x70030

/-- `D2D_PORTf_*` of an I/O die, in the layout of a compute die's port (11). -/
def iodD2dPortSts (f : Nat) : Nat := 0x80040 + f * 0x40

/-- `D2D_PORTf_*` of an I/O die, in the layout of a compute die's port (11). -/
def iodD2dPortRtyCnt (f : Nat) : Nat := 0x80048 + f * 0x40

/-- `D2D_PORTf_*` of an I/O die, in the layout of a compute die's port (11). -/
def iodD2dPortWin (f : Nat) : Nat := 0x80050 + f * 0x40

/-- `D2D_PORTf_*` of an I/O die, in the layout of a compute die's port (11). -/
def iodD2dPortLane (f : Nat) : Nat := 0x80058 + f * 0x40

/-- `D2D_PORTf_*` of an I/O die, in the layout of a compute die's port (11). -/
def iodD2dPortEq (f : Nat) : Nat := 0x80060 + f * 0x40

end Sys2Proof.Machine.R
end

