-- ==== Sys2Proof/Machine/Tbl.lean ====
section
/-!
DEFINITION. Sparse tables: a list of (number, value) pairs. An unlisted number reads as the table's default, which the reader
names. They hold the register files and whatever the device has once per core, per page frame or per context.
-/

namespace Sys2Proof.Machine

/-- A sparse table from numbers to values. -/
abbrev Tbl (α : Type) := List (Nat × α)

/-- The value listed for `k`, if any. -/
def Tbl.find? {α : Type} (k : Nat) : Tbl α → Option α
  | [] => none
  | (j, v) :: t => if j = k then some v else Tbl.find? k t

/-- The value at `k`, `d` where unlisted. -/
def Tbl.get {α : Type} (d : α) (k : Nat) (t : Tbl α) : α := (Tbl.find? k t).getD d

/-- The table with `v` at `k`. Keys stay rising where they were. -/
def Tbl.set {α : Type} (k : Nat) (v : α) : Tbl α → Tbl α
  | [] => [(k, v)]
  | (j, w) :: t => if j = k then (k, v) :: t else if k < j then (k, v) :: (j, w) :: t else (j, w) :: Tbl.set k v t

/-- The table with nothing listed for `k`. -/
def Tbl.erase {α : Type} (k : Nat) (t : Tbl α) : Tbl α := t.filter fun p => p.1 ≠ k

/-- The table with `f` applied to the value at `k`. -/
def Tbl.upd {α : Type} (d : α) (k : Nat) (f : α → α) (t : Tbl α) : Tbl α := t.set k (f (t.get d k))

/-- The table with every key that `p` holds of removed. -/
def Tbl.drop {α : Type} (p : Nat → Bool) (t : Tbl α) : Tbl α := t.filter fun e => !p e.1

end Sys2Proof.Machine
end

