-- ==== Sys2Proof/Machine/State.lean ====
section
/-!
DEFINITION. The state of the module as plain data, and its value right after power is applied. Every register of the manual is
here: the repeated blocks as sparse register files keyed by register-space address (R238), the single blocks by name.
INVENTORY.md lists each piece with the rule that names it.
-/

namespace Sys2Proof.Machine

/-! ### The Beacon block -/

/-- The Beacon logic (R26-R56): its nine registers, the lock of `BCN_CLK`, and the mark phase. -/
structure Bcn where
  ctrl     : Word := 0
  period   : Word := 100
  sts      : Word := 0
  fn       : Word := 0
  armFn    : Word := 0
  occCnt   : Word := 0
  lastOcc  : Word := 0
  strayCnt : Word := 0
  cpf      : Word := 0
  /-- `BCN_CLK` is present and locked (R34); it drives the core clock (R33). -/
  locked   : Bool := false
  /-- A mark has been sampled since the lock, so that the next interval can be checked (R29). -/
  hasMark  : Bool := false
  /-- `BCN_CLK` edges since the reference mark, modulo the period (R29, R30). -/
  phase    : Nat := 0
  deriving DecidableEq, Repr

/-! ### Units of a core -/

/-- An operation word in a unit queue: the 128 bits, its RFN, its op index (R137), the address it was fetched from, and the
engine rotation in force for it (R207). -/
structure QWord where
  word  : BitVec 128
  rfn   : BitVec 48
  op    : Nat
  addr  : DA
  shift : Nat
  deriving DecidableEq, Repr

/-- A unit: its queue, the word it runs, whether it has become ready since it was unbanked, and for the vector engine, which
has no register for it, whether it is to bank (R161). -/
structure UnitX where
  queue : List QWord := []
  run   : Option QWord := none
  ready : Bool := true
  bank  : Bool := false
  deriving DecidableEq, Repr

/-- An engine beyond its registers: its unit, the operation whose drain goes on while the next accumulates (R100), and, in
executed cycles of its core, the cycle from which it has been kindling (R115), the cycle at which a ramp up or down began (R116), the
cycles at which the operation it runs and the one that drains issued, and the end of a legacy pause (R406). -/
structure EngX where
  u      : UnitX := {}
  drain  : Option QWord := none
  kindle : Option Nat := none
  ramp   : Option Nat := none
  began  : Nat := 0
  drainBegan : Nat := 0
  pauseTo : Nat := 0
  /-- The operation it runs was rejected and kindles (R95), and so the one that drains. -/
  reject : Bool := false
  drainReject : Bool := false
  /-- Attention has used the accumulator banks: a slot not written since holds a free value of this key. -/
  left   : Option (List Nat) := none
  /-- Columns that the last accumulation into each bank filled: the lanes of a cord (R124), and all 32 where none is listed. -/
  lanes  : Tbl Nat := []
  deriving DecidableEq, Repr

/-- A request of a stream channel (R156): what it moves. `kind` is 0 for COPY, 1 for GATHER, 2 for XSEND. For GATHER `fromDa` is
the address of the 8-byte entry. `half` says that of the last byte only the low nibble is an element. `dev` is the target of an
XSEND, `fmt` the descriptors' format, by which a reduction window takes its elements (R251). A `dead` one was on its way when its core
gave its words up: it moves nothing and holds its tag until it returns. -/
structure Req where
  ch     : Nat
  kind   : Nat
  fromDa : Nat
  toDa   : Nat
  bytes  : Nat
  half   : Bool
  dev    : Nat
  fmt    : Nat
  dead   : Bool := false
  deriving DecidableEq, Repr

/-- What the last CORD_TAKE or IN_READ on a queue recorded of one entry (R226-R229): the row, the entry's index and context,
and whether it was truncated (R228) or met an error (R486). -/
structure LqRec where
  row   : Nat
  idx   : Nat
  ctx   : Nat
  trunc : Bool
  err   : Bool
  deriving DecidableEq, Repr

/-- A filled lane of a cord: the entry's index, context and payload length (R122, R227). -/
structure CordLane where
  idx : Nat
  ctx : Nat
  len : Nat
  deriving DecidableEq, Repr

/-- The cord formed at one cord point (R122): its RFN, the point's offset, the lanes from lane 0. -/
structure Cord where
  rfn   : BitVec 48
  off   : Nat
  lanes : List CordLane
  deriving DecidableEq, Repr

/-- A page commit accepted for a core and not yet applied (R194, R197): its effective RFN, the 32-byte records, the result
buffer, and the ring and entry index of its command. -/
structure Commit where
  b     : BitVec 48
  recs  : List (List Byte)
  resBuf : Word
  ring  : Nat
  idx   : Nat
  deriving DecidableEq, Repr

/-- What a core's sequencer and units hold beyond their registers. -/
structure CoreX where
  /-- Number of the next word in the stream, from the stream base (R135). -/
  pos     : Nat := 0
  /-- RFN of the word dispatched last, from which the next one's `DFL` counts (R128). -/
  rfn     : BitVec 48 := 0
  /-- Words already dispatched in that RFN (R137). -/
  op      : Nat := 0
  /-- The CTRL word the sequencer has reached (R135). -/
  ctl     : Option QWord := none
  eng     : Tbl EngX := []
  vec     : UnitX := {}
  pgw     : UnitX := {}
  chk     : UnitX := {}
  que     : UnitX := {}
  /-- The shared queue of the stream channels (R140), and the word each channel runs. -/
  strQ    : List QWord := []
  strRun  : Tbl QWord := []
  /-- The core whose event counter `REV` the word of a channel increments (R155). -/
  strRev  : Tbl Nat := []
  /-- The stochastic generator (R78). -/
  gen     : Word := 0
  /-- The activation table, LO, SCALE and 64 triples (R149). -/
  act     : List (BitVec 32) := []
  /-- Running value of each check context that lies between its BEGIN and its END (R158, R160). -/
  chkRun  : Tbl Word := []
  /-- Requests that hold a transfer tag, and those that wait for one (R156). -/
  reqs    : List Req := []
  waiting : List Req := []
  /-- Kinds of the other requests (0 the word the sequencer fetches, 2 a page read of the walker, 8 a queue-port word) that wait for a tag at
  a bound, and of those that hold one or may take one (R232). -/
  stalled : List Nat := []
  granted : List Nat := []
  /-- Addresses at which an access of the queue-port word about to issue has not returned within 100 µs (R333). -/
  late    : List Nat := []
  /-- The lane masks latched by CORD_TAKE, and the entries recorded for `LQ`, by queue number (R227). -/
  cords   : Tbl Cord := []
  lq      : Tbl (List LqRec) := []
  /-- Head of each pool ring of the walker, and the pools whose watermark bit has been set since their count last rose above
  the watermark (R199). -/
  poolHead : Tbl Nat := []
  wmSet   : BitVec 16 := 0
  /-- The rotary RAM: (cos, sin) pairs as 64-bit words, those that are not zero (R186). -/
  rot     : Tbl Word := []
  /-- Page commits waiting for their RFN, in acceptance order (R197). -/
  commits : List Commit := []
  /-- The slack of the current flash, `none` where it holds no deadline operation (R41). -/
  slack   : Option Nat := none
  /-- RFNs of deadline operations that have completed in a flash before their own (R41, R190). -/
  early   : List Nat := []
  /-- `SEQ_SLK_MIN` holds a flash of the run. -/
  minSeen : Bool := false
  /-- Charges of the current flash by cause, and the cause that first passed the slack (R49). -/
  charges : Tbl Nat := []
  firstPast : Nat := 0
  /-- Skip levels of the damper windows of the current flash that have passed, latest first, and the cycles that the core had executed
  since flash s - 1 began when this flash did (R400, R405). -/
  levels  : List Nat := []
  ranBase : Nat := 0
  deriving DecidableEq, Repr

/-! ### Images, runs and queues -/

/-- One STREAMS entry (R205). -/
structure StreamEnt where
  core    : Nat
  nwords  : Nat
  imgOff  : Nat
  loadDa  : Nat
  descOff : Nat
  loopDfl : Nat
  loopIdx : Nat
  /-- RFN of word `LOOP_IDX` in the first pass, and the flashes from one pass to the next (R205, R207). -/
  loopAt  : Nat
  loopLen : Nat
  deriving DecidableEq, Repr

/-- One QUEUES entry (R206): kind 0 input, 1 cord, 2 internal cord, 3 output. `feed` has bit n for core n. -/
structure QueueDecl where
  q      : Nat
  kind   : Nat
  w      : Nat
  outq   : Nat
  depthLog : Nat
  esizeLog : Nat
  writer : Nat
  ring   : Nat
  cpoints : List Nat
  feed   : Nat
  deriving DecidableEq, Repr

/-- One ROTATIONS entry (R207, R208). -/
structure RotEnt where
  at_    : Nat
  kind   : Nat
  mask   : Nat
  count  : Nat
  first  : Nat
  gfirst : List Nat
  deriving DecidableEq, Repr

/-- The parameters of one check-unit context in AUDIT. -/
structure AuditEnt where
  ctrl : Word
  poly : Word
  init : Word
  seq  : Word
  deriving DecidableEq, Repr

/-- What the device keeps of a loaded image (R203-R210). -/
structure Image where
  digest  : List Byte
  dieMask : Nat
  cores   : Nat
  devId   : Nat
  ndev    : Nat
  mapHash : List Byte
  claims  : List (Nat × Nat)
  margin  : Nat
  thermal : Nat
  period  : Nat
  cpf     : Nat
  legacy  : Bool
  seed    : Word
  streams : List StreamEnt
  d2dUsed : Nat
  clUsed  : Nat
  /-- (destination device ID, chip-link port, hops). -/
  routes  : List (Nat × Nat × Nat)
  credits : List (Nat × Nat)
  queues  : List QueueDecl
  winLog  : Nat
  loopWin : Nat
  heat    : List (List Nat)
  rots    : List RotEnt
  audit   : Option (List AuditEnt)
  digestQ : Nat
  deriving DecidableEq, Repr

/-- An input entry that a snapshot has shown and that has neither been taken nor answered (R222-R224). -/
structure InEnt where
  idx    : Nat
  dl     : BitVec 48
  ctx    : Nat
  len    : Nat
  /-- The snapshot of RFN D - W showed it (R223). -/
  inTime : Bool
  deriving DecidableEq, Repr

/-- A notice still to be written in its flash (R121, R123, R224, R230). -/
structure Notice where
  q     : Nat
  idx   : Nat
  ctx   : Nat
  flags : Nat
  rfn   : BitVec 48
  deriving DecidableEq, Repr

/-- A queue of a slot beyond what its image declares. -/
structure QueueX where
  /-- The four registers of R222-R231. -/
  head  : Word := 0
  tail  : Word := 0
  avail : Word := 0
  sts   : Word := 0
  /-- Bound to a ring in host memory: fetch mode for input kinds, pushes for outputs (`QUEUE_BIND`). -/
  hostRing : Bool := false
  hostAddr : Option Nat := none
  vector : Nat := 0
  /-- The first index that no snapshot of `AVAIL` has shown yet (R223). -/
  seen  : Nat := 0
  ents  : List InEnt := []
  /-- Indices at or above the head already taken or answered (R225). -/
  done  : List Nat := []
  cord  : Option Cord := none
  /-- Next output index to write; the published tail is `tail` (R230). -/
  wtail : Nat := 0
  /-- RFNs of the entries written and not yet published, oldest first (R143, R230). -/
  wrote : List Nat := []
  /-- The next entry written carries `GAP` (R231). -/
  gap   : Bool := false
  /-- Index up to which entries have been copied from or to the bound host ring (R222, R351). -/
  pushed : Nat := 0
  deriving DecidableEq, Repr

/-- An image slot (R202, R216). -/
structure SlotX where
  img   : Option Image := none
  /-- The image was signed, and the hash of its signer's key (R440, R445). -/
  signed : Bool := false
  signer : List Byte := []
  sts   : Word := 0
  start : Word := 0
  endR  : Word := 0
  seed  : Word := 0
  tag   : Word := 0
  /-- End RFN E of the run, 0 for none (R217). -/
  endRfn : Nat := 0
  /-- The mark that begins flash s - 1 has prepared the run (R216). -/
  prepared : Bool := false
  /-- The flash at whose end the run halts, and the cause code (R218). -/
  halt  : Option (BitVec 48 × Nat) := none
  /-- The flash from which on no output entry is written and no core requests an occultation (R143, R337). -/
  mute  : Option (BitVec 48) := none
  /-- The flash at whose end the run halts, with the cause code, where that end has come and words of the flash still run (R52). -/
  ending : Option (BitVec 48 × Nat) := none
  queues : Tbl QueueX := []
  notices : List Notice := []
  /-- Shift of the engine rotation in force on a core (R207). -/
  engShift : Tbl Nat := []
  /-- The core whose stream and `FEED` bits a core has taken over at a core-group rotation (R208). -/
  streamOf : Tbl Nat := []
  /-- Busy cycles of an engine at the last rotation point: of kind 0 at 4c + e, of kind 1 at 4096 + 4c + e (R409, R410). -/
  busyAt : Tbl Nat := []
  /-- Dies whose first wait at a bound this run has logged (R234). -/
  waited : List Nat := []
  /-- A stream channel and a page walker of the run have halted (R157, R177). -/
  channelHalted : Bool := false
  walkerHalted : Bool := false
  /-- Offset cycles from the beginning of flash s - 1 to that of the current flash, and those that occultations have added to it
  (R47). -/
  flashAt : Nat := 0
  stretch : Nat := 0
  deriving DecidableEq, Repr

/-! ### Memory -/

/-- A line of the shared cache (R249, R294): its 256 bytes, whether it is dirty, which of its 32 words are poisoned, and the
words whose stored check byte differs from that of their data, with the difference (R287). -/
structure CacheLine where
  data   : List Byte
  dirty  : Bool
  poison : BitVec 32
  syn    : Tbl Byte
  deriving DecidableEq, Repr

/-- What a memory access returns to the unit that made it (R156, R236, R293, R304). -/
inductive AccErr where
  /-- Uncorrectable error: address of the 64-bit word, syndrome, memory or path code of R484. -/
  | ue (da : Nat) (syn : Byte) (mem : Nat)
  | addr (da : Nat)
  | targetReset (da : Nat)
  /-- A page descriptor names a frame that is not IN_USE (R176). -/
  | frame (da : Nat)
  deriving DecidableEq, Repr

/-! ### Host port and Keeper -/

/-- What the block has put on its host port, management port and JTAG port. -/
inductive Output where
  /-- An MSI-X message (R351). -/
  | msix (vector : Nat)
  /-- A completion with data for a BAR read or an AtomicOp (R352, R254). -/
  | data (bytes : List Byte)
  /-- A completion with Completer Abort status (R354). -/
  | completerAbort
  /-- A completion with Unsupported Request status: a memory request in D3hot (R342). -/
  | unsupported
  /-- What an SMBus block read returns: the byte count, the bytes, the Packet Error Code; or no acknowledgement (R477). -/
  | smbus (bytes : List Byte)
  | smbusNak
  /-- The module's own address, answered to the Alert Response Address (R478); `none` when it does not answer. -/
  | alertAddr (a : Option Nat)
  /-- Data of a JTAG debug read; an error where the access failed (R451). -/
  | debug (value : Word)
  | debugError
  /-- What a JTAG instruction shifts out (R479). -/
  | tdo (n : Nat) (v : Nat)
  /-- Levels that the contacts of connector A take, `none` for a line of the SMBus that others drive (R479). -/
  | contacts (levels : List (Option Bool))
  /-- Nothing: the write was refused at the port. -/
  | dropped
  deriving DecidableEq, Repr

/-- An event log entry (R366), without the `PHASE` that delivery gives it. -/
structure LogEntry where
  seq    : Nat
  type   : Nat
  conseq : Bool
  slot   : Nat
  fn     : Word
  rfn    : Word
  primary : Nat
  data   : List Byte
  deriving DecidableEq, Repr

/-- A command that the Keeper has taken and not completed (R357, R358). -/
structure Cmd where
  ring   : Nat
  /-- Index of its entry in the ring. -/
  idx    : Nat
  tag    : BitVec 16
  opcode : Nat
  flags  : BitVec 16
  acc    : Word
  args   : BitVec 384
  /-- What the command still needs at its completion: an RFN, a progress, a target. -/
  note   : Nat
  /-- The owner record as it was when a load was accepted, and whether its tag had failed (R444). -/
  own    : List Byte × Bool := ([], false)
  /-- The compute dies that were fenced when a staging was accepted (R262, R359). -/
  gone   : BitVec 32 := 0
  deriving DecidableEq, Repr

/-- A completion that has not yet been written to its ring (R356, R358). -/
structure Compl where
  ring   : Nat
  tag    : BitVec 16
  opcode : Nat
  noint  : Bool
  status : Nat
  detail : Nat
  acc    : Word
  done   : Word
  result : List Byte
  /-- The command has written the firmware slot, whose write ends with this completion (R362). -/
  writes : Bool := false
  deriving DecidableEq, Repr

/-- A reset in progress (R387-R391): its code, the command that started it, the compute dies in its scope, and the HBM claims that
it wipes. -/
structure RstProg where
  code : Nat
  cmd  : Option Cmd
  dies : BitVec 32
  claims : List (Nat × Nat)
  /-- Compute dies that were fenced at its start and are retested (R378). -/
  retest : BitVec 32
  /-- The Keeper has restarted since, so that a warm reset follows (R391). -/
  again : Bool
  /-- Device IDs of the images that were loaded when it began, under which packets still arrive for this device (R335). -/
  devIds : List Nat := []
  deriving DecidableEq, Repr

/-- The host port, its registers and the Keeper's service of them (ch. 12). -/
structure HostX where
  buoy0  : Word := 0
  buoy1  : Word := 0
  kprSts : Word := 0
  hb     : Word := 0
  intSts : Word := 0
  intMask : Word := 0x1FF
  win    : Word := 0
  rwin   : Word := 0
  err    : Word := 0
  log    : Word := 0
  /-- KFW_MAJ, KFW_MIN and KFW_PATCH of `HOST_ID`; 0 until the Keeper is RUNNING. -/
  kfw    : BitVec 24 := 0
  /-- `HOST_CRr_ADDR`, `HOST_CRr_HEAD`, `HOST_CRr_TAIL`, `HOST_CMDr_HEAD` at 4r, 4r + 1, 4r + 2, 4r + 3. -/
  cr     : Tbl Word := []
  /-- The producer index last written to `HOST_DBr` (R347). -/
  prod   : Tbl (BitVec 32) := []
  /-- BAR4: the 64 command rings (R355), and the entries that the host has written there and the Keeper has not taken: index i of
  ring r at 256r + i. -/
  bar4   : List Host.Cell := []
  fresh  : List Nat := []
  /-- MSI-X table entries and pending bits (R346, R351). -/
  msix   : Tbl (BitVec 128) := []
  pba    : BitVec 256 := 0
  /-- Bus Master Enable (R343). -/
  busMaster : Bool := false
  /-- The function is in D3hot (R342). -/
  d3     : Bool := false
  /-- The host link is in L0 (R375). -/
  l0     : Bool := false
  /-- `PERST_L` as the port counts it (R471), and whether the port has left reset (R371). -/
  perstHigh : Bool := false
  portUp : Bool := false
  deriving DecidableEq, Repr

/-- An entry of the staging command that runs (R262): source, destination, length; a run has written to its HBM end since it
began (R264). -/
structure StageEnt where
  src : Nat
  dst : Nat
  len : Nat
  hit : Bool
  deriving DecidableEq, Repr

/-- What the Keeper holds beyond the registers (ch. 12, 13). -/
structure KprX where
  accepted : List Cmd := []
  done     : List Compl := []
  log      : List LogEntry := []
  logSeq   : Nat := 0
  logBind  : Option (Nat × Nat) := none
  /-- The ring that was served last (R357). -/
  turn     : Nat := 63
  grants   : List (Nat × Nat) := []
  reset    : Option RstProg := none
  /-- What the cold sequence in progress finds (R372). -/
  bring    : Option Bring := none
  /-- The cold sequence is complete (R373). -/
  coldDone : Bool := false
  rstLast  : Word := 0
  rstCnt   : Word := 0
  katSts   : Word := 0
  /-- The map record as last changed (R384, R386); empty before the cold sequence is complete. -/
  mapRec   : List Byte := []
  /-- `SEQ` of the entry that reported the loss of a connection c, at c; of a die n of the log, at 100 + n; of chip-link port j, at
  200 + j (R332). -/
  failSeq : Tbl Nat := []
  /-- ms for which no slot has been STARTING or RUNNING (R422). -/
  idleMs   : Nat := 0
  /-- The image that the load in progress has validated (R210), and the entries of the staging in progress (R262). -/
  loading : List Byte := []
  stage    : List StageEnt := []
  deriving DecidableEq, Repr

/-- The working parts of the module: fuse map, soft map, bearing, fenced dies (R379-R384). -/
structure MapX where
  /-- Physical cores out of service by fuse and by test, per die. -/
  fuseOut : Tbl (BitVec 17) := []
  softOut : Tbl (BitVec 17) := []
  /-- The local logical core that the spare of a die bears, plus 1, as the cold sequence assigned it; 0 for none (R381, R382). -/
  spare   : Tbl Nat := []
  /-- Spare selections by fuse and by test, as `ENG_SPARE` shows them: engine e of physical core p of die d at (17d + p) × 4 + e
  (R125, R126). -/
  fuseSpare : Tbl Word := []
  softSpare : Tbl Word := []
  /-- Connections that bear a DEGRADED mark (R323). -/
  degMark : List Nat := []
  fenced  : BitVec 32 := 0
  /-- Dies fenced for their straps (R311). -/
  strapBad : BitVec 32 := 0
  iodFenced : BitVec 4 := 0
  hbmOut  : BitVec 8 := 0
  deriving DecidableEq, Repr

/-! ### Near-bank units -/

/-- An accepted near-bank command (R275, R276): its bank-operation words not yet run and those that have run, its activation table,
whether it is raw, and whether another requester has written to a row of it since (R281). -/
structure NbCmd where
  ring  : Nat
  idx   : Nat
  words : List (BitVec 128)
  ran   : List (BitVec 128)
  table : List (BitVec 32)
  raw   : Bool
  hit   : Bool
  /-- Order of acceptance among commands and fences of the I/O die. -/
  ord   : Nat
  /-- The units of HBM whose contents are its results, no command having run over them since (R281). -/
  own   : List Nat := []
  deriving DecidableEq, Repr

/-- An accepted fence (R282): alias offset and length. -/
structure NbFence where
  ring  : Nat
  idx   : Nat
  base  : Nat
  len   : Nat
  ord   : Nat
  deriving DecidableEq, Repr

/-- A region-table change whose wipe is in progress (R274). -/
structure NbRegion where
  ring  : Nat
  idx   : Nat
  entry : Nat
  value : Word
  deriving DecidableEq, Repr

/-- The near-bank controller of IOD2 or IOD3. -/
structure NbuX where
  cmds   : List NbCmd := []
  fences : List NbFence := []
  region : List NbRegion := []
  ord    : Nat := 0
  deriving DecidableEq, Repr

/-! ### Links -/

/-- One end of a die-to-die connection beyond its registers (R316-R318): the receiver's next sequence number, the sender's,
the replay buffer (the last 64 data flits), the failed copies of the flit now expected, and the number of the NAK that stands for it. -/
structure D2dX where
  rxSeq  : Nat := 0
  txSeq  : Nat := 0
  replay : List (Nat × List Byte) := []
  fails  : Nat := 0
  nak    : Option Nat := none
  /-- The flit that the last NAK received named, the NAKs received for it, and the flits sent again on its account. -/
  nakSeq : Nat := 0
  naks   : Nat := 0
  resent : List (Nat × List Byte) := []
  deriving DecidableEq, Repr

/-- One chip-link port beyond its registers (R326-R328); the replay buffer holds 512 flits. -/
structure ClX where
  rxSeq  : Nat := 0
  txSeq  : Nat := 0
  replay : List (Nat × List Byte) := []
  fails  : Nat := 0
  nak    : Option Nat := none
  nakSeq : Nat := 0
  naks   : Nat := 0
  resent : List (Nat × List Byte) := []
  /-- Remote acknowledgements sent through the port since its training, oldest first (R329, R335). -/
  acks   : List ReqStatus := []
  /-- NAK, acknowledgement and remote-acknowledgement flits sent since the last training, oldest first, each with its trailer and CRC (R326). -/
  flits  : List (List Byte) := []
  /-- `TARGET` that the training in progress pads to, and that of the last training, in 10 ns (R327, R384); 0 before the
  first. -/
  target : Nat := 0
  padded : Nat := 0
  signal : Bool := false
  deriving DecidableEq, Repr

/-! ### Heat, power and ageing -/

/-- A temperature sensor (R396, R397, R414, R416): its last reading and estimate in 1/16 °C, the consecutive samples that departed
from the estimate, the µs within 4 °C of it, the suspect mark and its replacement, the consecutive samples at a trip threshold,
and the consecutive samples that rose faster than 4 °C per ms. -/
structure SnsX where
  val     : Int := 0
  est     : Int := 0
  seen    : Bool := false
  depart  : Nat := 0
  nearUs  : Nat := 0
  suspect : Bool := false
  repl    : Int := 0
  trip    : Nat := 0
  rise    : Nat := 0
  /-- Module input power, W, at the latest samples, newest first (R414). -/
  riseW   : List Nat := []
  everSuspect : Bool := false
  /-- Highest governing value since power came (R429). -/
  high    : Int := 0
  /-- µs since the sensor last rose faster than 0.5 °C per ms, 100 ms where it never has (R413). -/
  calmUs  : Nat := 100000
  /-- Values of the last 100 ms of a coolant NTC, newest first, each with the µs it stood for (R412). -/
  past    : List (Nat × Int) := []
  deriving DecidableEq, Repr

/-- The damper and the bands of one compute die (R241, R400-R407). -/
structure DieX where
  /-- Skip level each local core stands at (R401). -/
  skip    : Tbl Nat := []
  /-- Governing reading of each local core, 1/16 °C, as its die's last sample formed it (R398). -/
  core    : Tbl Int := []
  /-- Those readings over the last 100 ms, newest first, each with the µs it stood for (R410). -/
  past    : List (Nat × Tbl Int) := []
  /-- The reactive skip of the hottest core stands, and µs for which its release condition has held (R402, R415). -/
  react   : Bool := false
  reactUs : Nat := 0
  /-- D4 demanded because a core reached 108 °C (R402), a turf die passed 105 °C (R403). -/
  d4core  : Bool := false
  d4turf  : Bool := false
  /-- µs for which the release condition of each has held. -/
  coreUs  : Nat := 0
  turfUs  : Nat := 0
  /-- A forecast demand stands, the skip it demands (R407), ms without a predicted crossing, and ms in which the measured power has exceeded
  the plan by more than 20 %. -/
  fcastOn : Bool := false
  fcast   : Nat := 0
  fcastMs : Nat := 0
  overMs  : Nat := 0
  /-- µs for which the lower and the upper turf die have satisfied their band's release (R241). -/
  loUs    : Nat := 0
  upUs    : Nat := 0
  /-- New equalisation preset waiting for the next mark (R319). -/
  presetPend : Bool := false
  /-- Cycles at the present division that `THM_DIV_CNT` has not yet counted as a millisecond (R400). -/
  divCyc  : Nat := 0
  /-- Highest reading of a core since power came (R429), and the offsets in mV that the replicas require at classes A, B and C
  (R423, R426). -/
  high    : Int := 0
  req     : List Nat := []
  deriving DecidableEq, Repr

/-- The lifetime record (R429), kept in flash. Hours are kept in seconds. -/
structure LifeX where
  secs    : Nat := 0
  coldOns : Nat := 0
  kJ      : Nat := 0
  trips   : Nat := 0
  lastTrip : Nat := 0
  lowSecs : Nat := 0
  starvedSecs : Nat := 0
  lost    : Nat := 0
  /-- Margin class, and the powered hours of its lowerings. -/
  cls     : Nat := 0
  toB     : Nat := 0
  toC     : Nat := 0
  /-- Canary counts of die d at the last measurement: the lower and the upper turf die (R421, R429). -/
  can     : Tbl (Nat × Nat) := []
  /-- Seconds in band b of die d at 3d + b. -/
  band    : Tbl Nat := []
  /-- Median ring-oscillator shifts of a die's last 8 measurements, oldest first. -/
  ro      : Tbl (List Nat) := []
  /-- Highest core reading of die d at d, highest turf reading at 32 + d, of stack k at 64 + k; sensors ever suspect, by number. -/
  high    : Tbl Int := []
  everSus : List Nat := []
  /-- Lifetime correctable and uncorrectable errors: compute die d at d, stack k at 32 + k. -/
  ce      : Tbl Nat := []
  ue      : Tbl Nat := []
  /-- The `CE_CNT` and `UE_CNT` values already added. -/
  ceSeen  : Tbl Nat := []
  ueSeen  : Tbl Nat := []
  /-- Lowest eye height in % and replay exhaustions by chip-link port. -/
  eye     : Tbl Nat := []
  exh     : Tbl Nat := []
  /-- Voltage offset field of a die as last recorded. -/
  voff    : Tbl Word := []
  deriving DecidableEq, Repr

/-- Module-wide thermal, coolant, margin and power state (R408-R431). -/
structure ThmX where
  sns     : Tbl SnsX := []
  dies    : Tbl DieX := []
  /-- D2 demanded on every die by an I/O die, a stack or a regulator bank (R415): bits 0-3, 4-11, 12-13; and µs of release. -/
  d2req   : Nat := 0
  d2us    : Tbl Nat := []
  /-- µs for which the condition of a coolant transition has held (R413): 0 NORMAL to LOW_FLOW, 1 back, 2 LOW_FLOW to STARVED, 3 back. -/
  coolUs  : Tbl Nat := []
  /-- Latched trip and its limit-table row (R416). -/
  trip    : Bool := false
  tripRow : Nat := 0
  tripWritten : Bool := false
  /-- Margin class 0 A, 1 B, 2 C, and the class to come (R428). -/
  cls     : Nat := 0
  pendCls : Option Nat := none
  /-- A measurement in progress: 2 idle window, 3 `AGE_MEASURE` (R422). -/
  measuring : Option Nat := none
  /-- Powered seconds at the last measurement. -/
  lastMeas : Option Nat := none
  /-- The margin plan in force, by which a port's equalisation presets are chosen (R425). -/
  plan    : Nat := 0
  /-- A flash and the refreshes issued in it: of the slices of die d at d, of bank g of stack k at 64 + 1024k + g (R243). -/
  refs    : Tbl (Nat × Nat) := []
  /-- Refreshes of the present pass over the slices of a die: the next one's place in it, 0-16,383 (R242). -/
  turfPos : Tbl Nat := []
  /-- Windows of the damper begun in the present flash, and the length of the last window of the flash before (R400). -/
  win     : Nat := 0
  winTail : Nat := 32
  life    : LifeX := {}
  deriving DecidableEq, Repr

/-! ### Identity and lifecycle -/

/-- Fuses, flash and the ROM's products (ch. 15). -/
structure SecX where
  /-- Lifecycle 0 MANUFACTURE, 1 PROVISIONED, 2 DEPLOYED, 3 RETIRED, and returns used (R446). -/
  life    : Nat := 0
  returns : Nat := 0
  /-- The 32-byte device secret in fuses, its first byte lowest (R432), and the fused floor (R439). -/
  secret  : BitVec 256 := 0
  floor   : Nat := 0
  /-- The owner-key record in flash with its tag (R441, R443), and whether the tag failed at the last ROM start. -/
  owner   : List Byte := []
  ownerTag : List Byte := []
  ownerErr : Bool := false
  /-- The firmware slot in flash: header, code and block; empty when no image lies there (R438). -/
  flash   : List Byte := []
  /-- A write of the slot has begun, and the command that asked for it has no completion written yet (R362). -/
  flashBusy : Bool := false
  /-- The slot as it was when the Keeper last left reset: the image that runs until the next start (R362). -/
  running : List Byte := []
  /-- Measurement, security version and version bytes of the running image. -/
  fwDigest : List Byte := []
  svn     : Nat := 0
  nonce   : BitVec 256 := 0
  scope   : Nat := 0
  /-- Debug has been unlocked since the ROM start (R451). -/
  unlocked : Bool := false
  unlocks : Nat := 0
  /-- The device identity and product CA certificates where flash holds others than those of manufacture (R435). -/
  certs   : List (List Byte) := []
  deriving DecidableEq, Repr

/-! ### The module -/

/-- Levels that the module's functions give its status pins (R465-R469, R478); `true` is driven low. While `scan` holds an EXTEST
that acts, the boundary-scan register drives the contacts in their place (R451, R479). -/
structure Pins where
  slip    : Bool := false
  thermTrip : Bool := false
  coolFault : Bool := false
  smbAlert : Bool := false
  /-- Duty of `COOL_REQ` in %; 100 while released (R469). -/
  coolReq : Nat := 100
  /-- The JTAG instruction in force, with the data scanned in (R450, R451); `none` while the TAP is reset (R479). -/
  scan    : Option BScan := none
  deriving DecidableEq, Repr

/-- The state of the module. -/
structure State where
  /-- Commands that wait, first in, first out. -/
  pending : List Instr := []
  /-- The model's own: index of the next free value. -/
  free    : Nat := 0
  /-- What the block has put on its ports, oldest first. -/
  out     : List Output := []
  /-- The module is powered (R370); PG lies 300 ms or more back (R478). -/
  powered : Bool := false
  lateKeeper : Bool := false
  straps  : BitVec 2 := 0
  /-- IOD-C fitted (R1, R315); `rom` is the Keeper ROM version. -/
  iodC    : Bool := false
  rom     : BitVec 8 := 0
  bcn     : Bcn := {}
  /-- Register files (R238): of each core, by core and offset; of the dies, by register-space address less 0x00F0_0000_0000. -/
  coreR   : Tbl (Tbl Word) := []
  dieR    : Tbl Word := []
  iodR    : Tbl Word := []
  cx      : Tbl CoreX := []
  /-- Accumulator slots with their check bytes (R98), by engine and slot: 64 data bits below 8 bits of difference from the right
  check byte. -/
  acb     : Tbl (Tbl (BitVec 72)) := []
  /-- Stationary registers of the engines (R93), by engine and cell. -/
  stat    : Tbl (Tbl (BitVec 16)) := []
  slots   : Tbl SlotX := []
  /-- Memory bytes: SRAM and turf at their DA, HBM at its bank-linear alias DA, the spare slices above the DA space. -/
  mem     : List Host.Cell := []
  /-- Stored check byte, as its difference from the code of the stored data, by word address (R287). -/
  syn     : Tbl Byte := []
  /-- Poisoned 256-byte units of HBM, by alias offset / 256 (R284). -/
  poison  : List Nat := []
  cache   : Tbl CacheLine := []
  /-- Line that the sweep of each SRAM reads next: physical core p of die d at 17d + p (R300). -/
  sramScrub : Tbl Nat := []
  /-- Host memory, as the device reads and writes it over PCIe. -/
  hostMem : List Host.Cell := []
  host    : HostX := {}
  kpr     : KprX := {}
  map     : MapX := {}
  nbu     : Tbl NbuX := []
  d2d     : Tbl D2dX := []
  cl      : Tbl ClX := []
  thm     : ThmX := {}
  sec     : SecX := {}
  pins    : Pins := {}
  deriving DecidableEq, Repr

/-- Reasons for which a step could end in a fault. No command of this block ends so: what the manual calls an error is a
status, a record or a halt, all of them state. Safe: nothing raises it. -/
inductive Fault where
  /-- Raised by no meaning. Safe. -/
  | none
  deriving DecidableEq, Repr

/-- Reasons for which a step could be refused. -/
inductive Refusal where
  /-- Raised by the dispatch for a row whose meaning is not written. Safe. -/
  | notModelled (mnemonic : String)
  deriving DecidableEq, Repr

/-- The module before power is applied: every register at its reset value, every memory unlisted, no command waiting (R9).
What the manual leaves to each module (fuses, straps, identity) is at the values the log names. -/
def State.reset : State := {}

end Sys2Proof.Machine
end

