-- ==== Sys2Proof/Machine/Ops.lean ====
section
/-!
DEFINITION. The named operations over the state that every family uses: registers of the repeated blocks, numbering (R14, R18,
R19, R310), the image slots, the event log (R366, R368), interrupts and MSI-X (R351), buoys (R375).
-/

namespace Sys2Proof.Machine

/-! ### Numbering -/

/-- The compute die of a core (R18). -/
def dieOf (c : Nat) : Nat := c / 128 * 8 + c % 32 / 4

/-- The local number of a core in its die (R18). -/
def localOf (c : Nat) : Nat := c / 32 % 4 * 4 + c % 4

/-- The core with local number l on die d (R18). -/
def coreAt (d l : Nat) : Nat := (4 * (d / 8) + l / 4) * 32 + 4 * (d % 8) + l % 4

/-- The 16 logical cores of a die. -/
def coresOf (d : Nat) : List Nat := (List.range 16).map (coreAt d)

/-- The connection (R310) at edge p (0 N, 1 E, 2 S, 3 W) of die d, `none` where the port has no partner (R19). -/
def connAt (d p : Nat) : Option Nat :=
  let dx := d % 8; let dy := d / 8
  match p with
  | 0 => if dy = 0 then some (52 + dx) else some (28 + (dy - 1) * 8 + dx)
  | 1 => if dx = 7 then none else some (dy * 7 + dx)
  | 2 => if dy = 3 then some (60 + dx) else some (28 + dy * 8 + dx)
  | _ => if dx = 0 then none else some (dy * 7 + dx - 1)

/-- The number of an edge in registers: 0 N, 1 E, 2 S, 3 W. -/
def edgeNum : Edge → Nat
  | .n => 0 | .e => 1 | .s => 2 | .w => 3

/-- The I/O die port that faces edge p of die d, where one does (R14, R19): the I/O die and its port number. -/
def iodPortAt (d p : Nat) : Option (Nat × Nat) :=
  let dx := d % 8; let dy := d / 8
  if p = 0 ∧ dy = 0 then some (dx / 4, dx % 4) else if p = 2 ∧ dy = 3 then some (2 + dx / 4, dx % 4) else none

/-- The die edge that faces port f of I/O die i. -/
def dieAtIod (i f : Nat) : Nat × Nat :=
  if i < 2 then (4 * i + f, 0) else (24 + 4 * (i - 2) + f, 2)

/-- The other end of a compute-to-compute connection: the neighbour die and its edge. -/
def neighbour (d p : Nat) : Option (Nat × Nat) :=
  let dx := d % 8; let dy := d / 8
  match p with
  | 0 => if dy = 0 then none else some (d - 8, 2)
  | 1 => if dx = 7 then none else some (d + 1, 3)
  | 2 => if dy = 3 then none else some (d + 8, 0)
  | _ => if dx = 0 then none else some (d - 1, 1)

/-- A port as the pair (die, edge) of its compute end. -/
def portDie : D2dPort → Nat × Nat
  | .die d p => (d.val, edgeNum p)
  | .iod i f => dieAtIod i.val f.val

/-- The connections of a die (R310). -/
def connsOf (d : Nat) : List Nat := (List.range 4).filterMap (connAt d)

/-! ### Registers of the repeated blocks -/

/-- Reset value of a register of core c (04, 05, 06; R9). -/
def coreDflt (c off : Nat) : Word :=
  if off = R.seqId then BitVec.ofNat 64 (c * 2 ^ 16 + dieOf c * 2 ^ 8 + localOf c)
  else if 0x1000 ≤ off ∧ off < 0x1400 then
    (if off % 0x100 = R.engId then BitVec.ofNat 64 (c * 2 ^ 16 + (off - 0x1000) / 0x100)
     else if off % 0x100 = R.engCtrl then 4 else 0)
  else if off = R.pgwGeom then 0x10
  else if off = R.chkCtrl 0 ∨ off = R.chkCtrl 1 ∨ off = R.chkCtrl 2 ∨ off = R.chkCtrl 3 then 0x40
  else 0

/-- The port state NONE of an edge with no partner (R320). -/
def portDflt (d p : Nat) : Nat := if connAt d p = none then 5 * 32 else 0

/-- Reset value of a register of compute die d (08, 10, 11, 14). The straps are those of R311. -/
def dieDflt (d off : Nat) : Word :=
  if off = R.turfScrbRate then 0x1B1
  else if off = R.d2dStrap then
    BitVec.ofNat 64 ((d % 8 % 2) * 2 ^ 7 + (d / 8 / 2) * 2 ^ 6 + (d / 8) * 2 ^ 4 + d % 8)
  else if off = R.d2dPortSts 0 then BitVec.ofNat 64 (portDflt d 0)
  else if off = R.d2dPortSts 1 then BitVec.ofNat 64 (portDflt d 1)
  else if off = R.d2dPortSts 2 then BitVec.ofNat 64 (portDflt d 2)
  else if off = R.d2dPortSts 3 then BitVec.ofNat 64 (portDflt d 3)
  else 0

/-- Reset value of a register of I/O die i (08, 10, 11). -/
def iodDflt (i off : Nat) : Word :=
  if off = R.scrubHRate 0 ∨ off = R.scrubHRate 1 then 0x65D
  else if 0x60000 ≤ off ∧ off < 0x60180 ∧ off % 0x40 = 8 then 0x46
  else if (off = R.hbmSts ∨ off = R.hbmSts + 0x10000) ∧ 2 ≤ i then 2
  else 0

namespace State

/-- Register `off` of core c's block. -/
def core (s : State) (c off : Nat) : Word := Tbl.get (coreDflt c off) off (s.coreR.get [] c)

/-- Core register set. -/
def setCore (s : State) (c off : Nat) (v : Word) : State := 
  { s with coreR := s.coreR.set c (Tbl.set off v (s.coreR.get [] c)) }

/-- Core register changed by `f`. -/
def updCore (s : State) (c off : Nat) (f : Word → Word) : State := s.setCore c off (f (s.core c off))

/-- Register `off` of compute die d's block. -/
def die (s : State) (d off : Nat) : Word := s.dieR.get (dieDflt d off) (0x10000000 + d * 0x100000 + off)

/-- Compute-die register set. -/
def setDie (s : State) (d off : Nat) (v : Word) : State :=
  { s with dieR := s.dieR.set (0x10000000 + d * 0x100000 + off) v }

/-- Compute-die register changed by `f`. -/
def updDie (s : State) (d off : Nat) (f : Word → Word) : State := s.setDie d off (f (s.die d off))

/-- Register `off` of I/O die i's block. -/
def iod (s : State) (i off : Nat) : Word := s.iodR.get (iodDflt i off) (0x20000000 + i * 0x1000000 + off)

/-- I/O-die register set. -/
def setIod (s : State) (i off : Nat) (v : Word) : State :=
  { s with iodR := s.iodR.set (0x20000000 + i * 0x1000000 + off) v }

/-- I/O-die register changed by `f`. -/
def updIod (s : State) (i off : Nat) (f : Word → Word) : State := s.setIod i off (f (s.iod i off))

/-- Register of engine e of core c. -/
def eng (s : State) (c e off : Nat) : Word := s.core c (0x1000 + e * 0x100 + off)

/-- Engine register changed by `f`. -/
def updEng (s : State) (c e off : Nat) (f : Word → Word) : State := s.updCore c (0x1000 + e * 0x100 + off) f

/-- What core c holds beyond its registers. -/
def cxOf (s : State) (c : Nat) : CoreX := s.cx.get {} c

/-- The core's own state changed by `f`. -/
def updCx (s : State) (c : Nat) (f : CoreX → CoreX) : State := { s with cx := s.cx.set c (f (s.cxOf c)) }

/-- Image slot p. -/
def slot (s : State) (p : Nat) : SlotX := s.slots.get {} p

/-- Image slot changed by `f`. -/
def updSlot (s : State) (p : Nat) (f : SlotX → SlotX) : State := { s with slots := s.slots.set p (f (s.slot p)) }

/-- Near-bank controller of I/O die i. -/
def nb (s : State) (i : Nat) : NbuX := s.nbu.get {} i

/-- Near-bank controller changed by `f`. -/
def updNb (s : State) (i : Nat) (f : NbuX → NbuX) : State := { s with nbu := s.nbu.set i (f (s.nb i)) }

/-- Damper and band state of a compute die. -/
def thmDie (s : State) (d : Nat) : DieX := s.thm.dies.get {} d

/-- Damper and band state changed by `f`. -/
def updThmDie (s : State) (d : Nat) (f : DieX → DieX) : State :=
  { s with thm := { s.thm with dies := s.thm.dies.set d (f (s.thmDie d)) } }

/-! ### The Beacon as others see it -/

/-- Beacon state 0 NO_CLOCK, 1 LOCKED, 2 ARMED, 3 COUNTING (R35). -/
def bcnState (s : State) : Nat := fld s.bcn.sts 2 0

/-- The Beacon is COUNTING, so that the FN is valid. -/
def counting (s : State) : Bool := s.bcnState == 3

/-- The flash number. -/
def fn (s : State) : BitVec 48 := s.bcn.fn.truncate 48

/-- The FN as completions and log entries carry it: bit 63 set when valid (R356, R366). -/
def fnWord (s : State) : Word := setBit (BitVec.ofNat 64 s.fn.toNat) 63 s.counting

/-! ### Image slots -/

/-- Slot state 0 EMPTY, 1 LOADED, 2 STARTING, 3 RUNNING (R216). -/
def slotState (s : State) (p : Nat) : Nat := fld (s.slot p).sts 1 0

/-- The slot is STARTING or RUNNING. -/
def slotActive (s : State) (p : Nat) : Bool := 2 ≤ s.slotState p

/-- Some slot is STARTING or RUNNING. -/
def anyActive (s : State) : Bool := (List.range 8).any s.slotActive

/-- Some slot is RUNNING. -/
def anyRunning (s : State) : Bool := (List.range 8).any fun p => s.slotState p == 3

/-- Whether die d belongs to the partition of the image in slot p (R202). -/
def slotHasDie (s : State) (p d : Nat) : Bool :=
  match (s.slot p).img with
  | none => false
  | some i => i.dieMask.testBit d

/-- The slot whose image's partition holds die d. -/
def slotOfDie (s : State) (d : Nat) : Option Nat := (List.range 8).find? fun p => s.slotHasDie p d

/-- The slot whose image's partition holds core c. -/
def slotOf (s : State) (c : Nat) : Option Nat := s.slotOfDie (dieOf c)

/-- The RFN of slot p's run: FN - s modulo 2^48 (R38). -/
def rfnOf (s : State) (p : Nat) : BitVec 48 := s.fn - (s.slot p).start.truncate 48

/-- The RFN of the run on core c, 0 where none is. -/
def coreRfn (s : State) (c : Nat) : BitVec 48 :=
  match s.slotOf c with
  | some p => s.rfnOf p
  | none => 0

/-- Core c's slot is STARTING or RUNNING. -/
def coreActive (s : State) (c : Nat) : Bool :=
  match s.slotOf c with
  | some p => s.slotActive p
  | none => false

/-- A run is active on core c: its slot is RUNNING. One that is only STARTING has no flash yet, and a commit applies at once (R194).
DESIGN CHOICE: log entry 121. -/
def coreRunning (s : State) (c : Nat) : Bool :=
  match s.slotOf c with
  | some p => s.slotState p == 3
  | none => false

/-- Core state 0 OFF, 1 READY, 2 RUN, 3 TRAPPED (R144). -/
def coreState (s : State) (c : Nat) : Nat := fld (s.core c R.seqSts) 1 0

/-- Core state set. -/
def setCoreState (s : State) (c v : Nat) : State := s.updCore c R.seqSts fun w => setFld w 1 0 v

/-! ### Ports: what the block sends out -/

/-- The block puts something on a port. DESIGN CHOICE: log entry 8. -/
def emit (s : State) (o : Output) : State := { s with out := s.out ++ [o] }

/-- MSI-X entry v of the table; unwritten entries are masked, as PCIe resets them. PRESUMED: log entry 9. -/
def msixEntry (s : State) (v : Nat) : BitVec 128 := s.host.msix.get (BitVec.ofNat 128 (2 ^ 96)) v

/-- Vector v is sent; where its table entry is masked its pending bit is set instead (R346, R351). -/
def sendMsix (s : State) (v : Nat) : State :=
  if (s.msixEntry v).getLsbD 96 then { s with host := { s.host with pba := s.host.pba ||| (1 <<< v) } }
  else s.emit (.msix v)

/-- Cause bit b of `HOST_INT_STS` is set; it sends its vector when it changes from 0 while unmasked (R351). -/
def raise (s : State) (b : Nat) : State :=
  let was := bitAt s.host.intSts b
  let t := { s with host := { s.host with intSts := setBit s.host.intSts b true } }
  if !was && !bitAt s.host.intMask b then t.sendMsix (64 + b) else t

/-- Causes of `HOST_INT_STS`. -/
abbrev intLog := 0
abbrev intBuoy := 1
abbrev intStale := 2
abbrev intWatermark := 3
abbrev intThermal := 4
abbrev intFault := 5
abbrev intUe := 6
abbrev intKeeper := 7
abbrev intRun := 8

/-! ### The event log -/

/-- The event log with an entry added: `SEQ` is consecutive, and the oldest undelivered entry goes when 4,096 are held
(R366, R368). `slot` is 8 or above for none. -/
def logFull (s : State) (type slot : Nat) (conseq : Bool) (primary : Nat) (data : List Byte) : State :=
  let e : LogEntry :=
    { seq := s.kpr.logSeq, type := type, conseq := conseq, slot := if slot < 8 then slot else 0xFF
      fn := s.fnWord
      rfn := if slot < 8 && s.slotState slot == 3 then setBit (BitVec.ofNat 64 (s.rfnOf slot).toNat) 63 true else 0
      primary := primary, data := data ++ zeros (32 - data.length) }
  let held := if 4096 ≤ s.kpr.log.length then s.kpr.log.drop 1 else s.kpr.log
  { s with kpr := { s.kpr with log := held ++ [e], logSeq := s.kpr.logSeq + 1 } }

/-- An entry that is no consequence of another. -/
def logEv (s : State) (type slot : Nat) (data : List Byte) : State := s.logFull type slot false 0 data

/-- The slot number of core c for the log, 0xFF for none. -/
def logSlot (s : State) (c : Nat) : Nat := (s.slotOf c).getD 0xFF

/-! ### Buoys -/

/-- A bit of `HOST_BUOY0` set or cleared; a change sets `BUOY` (R375). -/
def buoy0 (s : State) (b : Nat) (v : Bool) : State :=
  if bitAt s.host.buoy0 b = v then s
  else ({ s with host := { s.host with buoy0 := setBit s.host.buoy0 b v } }).raise intBuoy

/-- A bit of `HOST_BUOY1` set or cleared (R375). -/
def buoy1 (s : State) (b : Nat) (v : Bool) : State :=
  if bitAt s.host.buoy1 b = v then s
  else ({ s with host := { s.host with buoy1 := setBit s.host.buoy1 b v } }).raise intBuoy

/-- The buoy of compute die d. -/
def dieUp (s : State) (d : Nat) : Bool := bitAt s.host.buoy0 (16 + d)

/-- The buoy of stack k. -/
def stackUp (s : State) (k : Nat) : Bool := bitAt s.host.buoy0 (8 + k)

/-- The buoy of the mailbox. -/
def mboxUp (s : State) : Bool := bitAt s.host.buoy0 1

/-- Keeper state 0 ROM, 1 AUTH, 2 RUNNING, 3 RECOVERY, 4 RESTARTING (R361). -/
def kprState (s : State) : Nat := fld s.host.kprSts 2 0

/-- Keeper state set; a change sets `KEEPER` (R351). -/
def setKprState (s : State) (v : Nat) : State :=
  if s.kprState = v then s
  else ({ s with host := { s.host with kprSts := setFld s.host.kprSts 2 0 v } }).raise intKeeper

/-! ### Presence -/

/-- Physical cores of die d out of service (R380). -/
def outOf (s : State) (d : Nat) : BitVec 17 := s.map.fuseOut.get 0 d ||| s.map.softOut.get 0 d

/-- The physical core that nominally bears local core l of die d (R314), by the die's straps. -/
def nominal (d l : Nat) : Nat :=
  let lx := l % 4; let ly := l / 4
  let rot := d / 8 ≥ 2; let mir := d % 2 = 1
  let pc := if decide rot = decide mir then lx else 3 - lx
  let pr := if rot then 3 - ly else ly
  4 * pr + pc

/-- The local logical core that the spare of die d is to bear, plus 1; 0 for none (R381). -/
def spareFor (s : State) (d : Nat) : Nat :=
  let out := s.outOf d
  if out.getLsbD 16 then 0
  else match (List.range 16).find? fun l => out.getLsbD (nominal d l) with
    | some l => l + 1
    | none => 0

/-- The physical core that bears local core l of die d, `none` where it is not presented (R381). The spare bears what the cold sequence
assigned to it, while it is in service (R382, R389). -/
def bearer (s : State) (d l : Nat) : Option Nat :=
  let out := s.outOf d
  if !out.getLsbD (nominal d l) then some (nominal d l)
  else if !out.getLsbD 16 ∧ (if s.kpr.coldDone then s.map.spare.get 0 d else s.spareFor d) = l + 1 then some 16
  else none

/-- Logical core c is presented (R381). -/
def presented (s : State) (c : Nat) : Bool := (s.bearer (dieOf c) (localOf c)).isSome

/-- Logical cores a die presents. -/
def presentedOn (s : State) (d : Nat) : List Nat := (coresOf d).filter s.presented

/-- Compute die d is fenced. -/
def fenced (s : State) (d : Nat) : Bool := s.map.fenced.getLsbD d

/-- Logical cores of the partition of an image: those that its dies present. -/
def partCores (s : State) (i : Image) : List Nat :=
  (List.range 512).filter fun c => i.dieMask.testBit (dieOf c) && s.presented c

/-- The next free value's index is used up. DESIGN CHOICE: log entry 7. -/
def bumpFree (s : State) : State := { s with free := s.free + 1 }

/-! ### What the work of a command reaches -/

/-- Work within whose reach neither the Beacon block nor identity, lifecycle and the module's build lie. -/
def aside (s : State) (f : State → State) : State :=
  { f s with bcn := s.bcn, sec := s.sec, iodC := s.iodC, rom := s.rom }

/-- The outcome of a command: the state its effect gives, with the commands that wait as they were, and with the Beacon block,
identity, lifecycle and build as they were. DESIGN CHOICE: log entry 2. -/
def done (s t : State) : Host.Outcome State Fault Refusal :=
  .next { t with pending := s.pending, bcn := s.bcn, sec := s.sec, iodC := s.iodC, rom := s.rom }

/-- The outcome of a command that may reach the Beacon block. -/
def bcnDone (s t : State) : Host.Outcome State Fault Refusal :=
  .next { t with pending := s.pending, sec := s.sec, iodC := s.iodC, rom := s.rom }

/-- The outcome of a command that may reach identity, lifecycle or the firmware slot. -/
def secDone (s t : State) : Host.Outcome State Fault Refusal :=
  .next { t with pending := s.pending, bcn := s.bcn, iodC := s.iodC, rom := s.rom }

/-- The outcome of what may reach both: power, the starts of the ROM, a lifecycle transition. -/
def wideDone (s t : State) : Host.Outcome State Fault Refusal :=
  .next { t with pending := s.pending, iodC := s.iodC, rom := s.rom }

/-- The outcome of work that needs the core clock, which a trip stops (R416). DESIGN CHOICE: log entry 2. -/
def clockDone (s t : State) : Host.Outcome State Fault Refusal := s.done (if s.thm.trip then s else t)

/-- The outcome of work within a core: registers, memories, slots, the log and the host port may change; the Beacon, the map,
links, heat, identity and pins are not within its reach. Nothing happens once a trip has stopped the core clocks
(R416). DESIGN CHOICE: log entry 2. -/
def coreDone (s t : State) : Host.Outcome State Fault Refusal :=
  .next <| if s.thm.trip then s else { t with
    pending := s.pending, powered := s.powered, lateKeeper := s.lateKeeper, straps := s.straps, iodC := s.iodC, rom := s.rom
    bcn := s.bcn, hostMem := s.hostMem, map := s.map, d2d := s.d2d, cl := s.cl, thm := s.thm, sec := s.sec
    pins := s.pins }

end State

end Sys2Proof.Machine
end

