-- ==== Sys2Proof/Machine/Memory.lean ====
section
/-!
DEFINITION. Memory: the canonical byte store, the address map (R235-R247), the (72,64) code (R287, R288), the error logs and
records (R290-R295), the shared cache (R249-R257, R294) with its poison marks (R284, R285), atomic operations (R251-R254), and
the wipes (R301-R305).
-/

namespace Sys2Proof.Machine

/-! ### The byte store -/

namespace Memory

/-- The byte at an address: 0 where none is listed (the fill, R301). DESIGN CHOICE: log entry 5. -/
def get : List Host.Cell → Nat → Byte
  | [], _ => 0
  | (k, b) :: t, a => if k = a then b else get t a

/-- The store with a byte written; a zero is not listed. -/
def set : List Host.Cell → Nat → Byte → List Host.Cell
  | [], a, v => if v = 0 then [] else [(a, v)]
  | (k, b) :: t, a, v =>
    if a < k then (if v = 0 then (k, b) :: t else (a, v) :: (k, b) :: t)
    else if a = k then (if v = 0 then t else (a, v) :: t)
    else (k, b) :: set t a v

/-- The `n` bytes from an address up. -/
def gets (m : List Host.Cell) (a n : Nat) : List Byte := (List.range n).map fun i => get m (a + i)

/-- The store with bytes written from an address up. -/
def sets (m : List Host.Cell) (a : Nat) : List Byte → List Host.Cell
  | [] => m
  | b :: bs => sets (set m a b) (a + 1) bs

/-- The store with every address that `p` holds of cleared. -/
def clear (p : Nat → Bool) (m : List Host.Cell) : List Host.Cell := m.filter fun c => !p c.1

/-- Every address of the list is above `a`, the addresses rise strictly, and no entry is zero. -/
def wfFrom (a : Nat) : List Host.Cell → Bool
  | [] => true
  | (k, b) :: t => decide (a ≤ k) && b != 0 && wfFrom (k + 1) t

/-- The canonical form. -/
def wf (m : List Host.Cell) : Bool := wfFrom 0 m

end Memory

/-! ### Addresses -/

/-- The fields of an HBM byte (R245). -/
structure HbmAt where
  stk  : Nat
  ch   : Nat
  pc   : Nat
  bg   : Nat
  bank : Nat
  row  : Nat
  byte : Nat
  deriving DecidableEq, Repr

/-- The interleave hash (R245). -/
def hashAt (o : Nat) : HbmAt :=
  let u := o >>> 8
  let f (sh m : Nat) := (u >>> sh) &&& m
  { row := f 15 0xFFFF
    stk := f 0 7 ^^^ f 15 7 ^^^ f 24 7
    ch := f 3 0x1F ^^^ f 18 0x1F
    pc := f 8 1 ^^^ f 23 1 ^^^ f 30 1
    bg := f 9 3 ^^^ f 27 3
    bank := f 11 3 ^^^ f 29 3
    byte := f 13 3 * 256 + o % 256 }

/-- The bank-linear alias offset of an HBM byte (R246). -/
def HbmAt.alias_ (h : HbmAt) : Nat :=
  h.stk * 2 ^ 36 + h.ch * 2 ^ 31 + h.pc * 2 ^ 30 + h.bg * 2 ^ 28 + h.bank * 2 ^ 26 + h.row * 2 ^ 10 + h.byte

/-- The fields of an alias offset (R246). -/
def aliasAt (a : Nat) : HbmAt :=
  { stk := bits a 38 36, ch := bits a 35 31, pc := bits a 30 30, bg := bits a 29 28, bank := bits a 27 26,
    row := bits a 25 10, byte := bits a 9 0 }

/-- The hashed address of an HBM byte: the hash undone (R245). -/
def HbmAt.hashed (h : HbmAt) : Nat :=
  let hi := h.row * 2 ^ 15 + h.byte / 256 * 2 ^ 13
  let f (sh m : Nat) := (hi >>> sh) &&& m
  let stk := h.stk ^^^ f 15 7 ^^^ f 24 7
  let ch := h.ch ^^^ f 18 0x1F
  let pc := h.pc ^^^ f 23 1 ^^^ f 30 1
  let bg := h.bg ^^^ f 27 3
  let bank := h.bank ^^^ f 29 3
  (hi + bank * 2 ^ 11 + bg * 2 ^ 9 + pc * 2 ^ 8 + ch * 2 ^ 3 + stk) * 256 + h.byte % 256

/-- The set of the line that holds a byte (R249). -/
def HbmAt.set (h : HbmAt) : Nat :=
  h.stk % 2 * 2 ^ 13 + h.ch * 2 ^ 8 + h.pc * 2 ^ 7 + h.bg * 2 ^ 5 + h.bank * 2 ^ 3 + h.row % 8

/-- The bank number g of an alias offset: 1,024 banks a stack (R244, R268). -/
def bankOf (a : Nat) : Nat := a / 2 ^ 26

/-- First address of the ranges of R235. -/
abbrev turfBase : Nat := 0x0080_0000_0000
abbrev sramBase : Nat := 0x00C0_0000_0000
abbrev regBase : Nat := 0x00F0_0000_0000
abbrev aliasBase : Nat := 0x0100_0000_0000
abbrev redBase : Nat := 0x0200_0000_0000

/-- The spare slices, which have no address: the model's own places for them, above the device address space (R13, R240). -/
abbrev spareTurf (d : Nat) : Nat := 0x1000_0000_0000 + d * 0x2000_0000
abbrev spareSram (d : Nat) : Nat := 0x1100_0000_0000 + d * 0x80_0000

/-- Device address of core c's SRAM window and turf slice (R235). -/
def sramOf (c : Nat) : Nat := sramBase + c * 0x80_0000
def turfOf (c : Nat) : Nat := turfBase + c * 0x2000_0000

/-- Bytes of SRAM a core has (R150), and of a turf slice. -/
abbrev sramLen : Nat := 0x60_0000
abbrev turfLen : Nat := 0x2000_0000

/-- The place of a byte of a turf slice (R240): its bank, 0-15 in the lower turf die and 16-31 in the upper, its row, the line
within the row, the byte within the line. -/
structure TurfAt where
  bank : Nat
  row  : Nat
  line : Nat
  byte : Nat
  deriving DecidableEq, Repr

/-- The fields of a slice offset (R240). -/
def turfAt (o : Nat) : TurfAt := { row := bits o 28 16, line := bits o 15 11, bank := bits o 10 6, byte := bits o 5 0 }

/-- The slice offset of a place (R240). -/
def TurfAt.offset (p : TurfAt) : Nat := p.row * 2 ^ 16 + p.line * 2 ^ 11 + p.bank * 2 ^ 6 + p.byte

/-- A turf bank lies in the upper turf die (R240). -/
def turfUpper (bank : Nat) : Bool := 16 ≤ bank

/-- Where a byte lies. -/
inductive Loc where
  | sram (a d : Nat)
  | turf (a d : Nat)
  | hbm (off : Nat)
  deriving DecidableEq, Repr

/-- The key of a byte in the store: its own DA, and for HBM its alias DA, which both ranges share (R247). -/
def Loc.key : Loc → Nat
  | .sram a _ => a
  | .turf a _ => a
  | .hbm off => aliasBase + off

namespace State

/-- Where the memory byte at a DA lies; `none` is an address error for a memory access (R235, R236). -/
def locate (s : State) (da : Nat) : Option Loc :=
  if da < 0x0080_0000_0000 then some (.hbm (hashAt da).alias_)
  else if da < sramBase then
    let c := (da - turfBase) / turfLen
    if s.presented c then some (.turf da (dieOf c)) else none
  else if da < 0x00C1_0000_0000 then
    let c := (da - sramBase) / 0x80_0000
    if (da - sramBase) % 0x80_0000 < sramLen ∧ s.presented c then some (.sram da (dieOf c)) else none
  else if aliasBase ≤ da ∧ da < 0x0180_0000_0000 then some (.hbm (da - aliasBase))
  else none

/-! ### Regions, claims and wipes in progress -/

/-- The row of an alias offset is named by a region entry value that is valid (R272). -/
def regionHas (v : Word) (off : Nat) : Bool :=
  let g := bankOf off; let row := (aliasAt off).row
  let b0 := fld v 55 43; let nb := fld v 42 32 + 1; let r0 := fld v 31 16; let nr := fld v 15 0 + 1
  bitAt v 63 && decide (b0 ≤ g ∧ g < b0 + nb ∧ r0 ≤ row ∧ row < r0 + nr)

/-- The row of an alias offset is unprotected (R272). -/
def unprotected (s : State) (off : Nat) : Bool :=
  let i := off / 2 ^ 37
  2 ≤ i && (List.range 16).any fun k =>
    regionHas (s.iod i (R.nbuReg k)) off

/-- A DA range (base, length) covers an HBM byte, by whichever range it names (R247). -/
def rangeHas (r : Nat × Nat) (off : Nat) : Bool :=
  let a := if r.1 < 0x0080_0000_0000 then (aliasAt off).hashed else aliasBase + off
  decide (r.1 ≤ a ∧ a < r.1 + r.2)

/-- A wipe in progress covers an HBM byte: the claims of a partition reset, or the rows of a region change (R274, R376).
DEDUCED: log entry 55. -/
def wiping (s : State) (off : Nat) : Bool :=
  (match s.kpr.reset with
    | some r => r.claims.any fun c => rangeHas c off
    | none => false) ||
  (s.nb (off / 2 ^ 37)).region.any fun r => regionHas r.value off != regionHas (s.iod (off / 2 ^ 37) (R.nbuReg r.entry)) off

/-- The buoy of the compute die or stack that holds an address is low (R376). -/
def buoyLow (s : State) (da : Nat) : Bool :=
  match s.locate da with
  | some (.sram _ d) | some (.turf _ d) => !s.dieUp d
  | some (.hbm off) => !s.stackUp (off / 2 ^ 36)
  | none => false

/-- A place answers: its buoy is high and no wipe in progress covers it (R304, R376). -/
def answers (s : State) : Loc → Bool
  | .sram _ d => s.dieUp d
  | .turf _ d => s.dieUp d
  | .hbm off => s.stackUp (off / 2 ^ 36) && !s.wiping off

end State

/-! ### The check code -/

/-- The column values H[0]-H[63] (R287). -/
def hcols : List Nat :=
  [0x07, 0x0B, 0x0D, 0x0E, 0x13, 0x15, 0x16, 0x19, 0x1A, 0x1C, 0x23, 0x25, 0x26, 0x29, 0x2A, 0x2C] ++
  [0x31, 0x32, 0x34, 0x38, 0x43, 0x45, 0x46, 0x49, 0x4A, 0x4C, 0x51, 0x52, 0x54, 0x58, 0x61, 0x62] ++
  [0x64, 0x68, 0x70, 0x83, 0x85, 0x86, 0x89, 0x8A, 0x8C, 0x91, 0x92, 0x94, 0x98, 0xA1, 0xA2, 0xA4] ++
  [0xA8, 0xB0, 0xC1, 0xC2, 0xC4, 0xC8, 0xD0, 0xE0, 0x1F, 0x3E, 0x7C, 0xF8, 0xF1, 0xE3, 0xC7, 0x8F]

/-- XOR of the columns of the ones of d, the lowest bit first. -/
def codeFrom : List Nat → Nat → Nat
  | [], _ => 0
  | h :: hs, d => (if d % 2 = 1 then h else 0) ^^^ codeFrom hs (d / 2)

/-- The check byte of a 64-bit word (R287). -/
def codeOf (d : Nat) : Byte := BitVec.ofNat 8 (codeFrom hcols d)

/-- What a syndrome means (R288). -/
inductive Syn where
  | ok
  | bit (j : Nat)
  | check
  | bad
  deriving DecidableEq, Repr

/-- The meaning of a syndrome (R288). -/
def classify (y : Byte) : Syn :=
  if y = 0 then .ok
  else match hcols.findIdx? (· == y.toNat) with
    | some j => .bit j
    | none => if popCount 8 y.toNat = 1 then .check else .bad

/-- A word with data bit j inverted. -/
def flipBit (w : List Byte) (j : Nat) : List Byte :=
  w.mapIdx fun i b => if i = j / 8 then b ^^^ BitVec.ofNat 8 (2 ^ (j % 8)) else b

/-- A word read with its syndrome: the data delivered, and whether it is correctable or uncorrectable (R288). -/
structure Checked where
  data : List Byte
  ce   : Bool
  ue   : Bool
  deriving DecidableEq, Repr

/-- The outcome of reading a word whose stored check byte differs by y from the code of its stored data (R288). -/
def checkWord (w : List Byte) (y : Byte) : Checked :=
  match classify y with
  | .ok => { data := w, ce := false, ue := false }
  | .bit j => { data := flipBit w j, ce := true, ue := false }
  | .check => { data := w, ce := true, ue := false }
  | .bad => { data := w, ce := false, ue := true }

/-! ### Rows of near-bank commands -/

/-- The row that a bank-operation word writes, numbered over all of HBM: offset / 1024 (R246, R268). -/
def nbDest (w : BitVec 128) : Nat := bits w.toNat 112 100 * 2 ^ 16 + bits w.toNat 63 48

/-- The rows that a bank-operation word reads or writes (R268, R269). -/
def nbRows (w : BitVec 128) : List Nat :=
  let g := bits w.toNat 112 100 * 2 ^ 16
  [nbDest w, g + bits w.toNat 47 32] ++ if bits w.toNat 127 120 = 4 then [] else [g + bits w.toNat 31 16]

/-- The 256-byte units that a bank-operation word writes: alias offset / 256 (R268). -/
def nbUnits (w : BitVec 128) : List Nat := (onesOf 4 (bits w.toNat 116 113)).map fun c => nbDest w * 4 + c

/-- An accepted command reads or writes a row (R281). -/
def NbCmd.touches (c : NbCmd) (row : Nat) : Bool := (c.words ++ c.ran).any fun w => (nbRows w).contains row

/-- The rows of a command. -/
def NbCmd.rows (c : NbCmd) : List Nat := (c.words ++ c.ran).flatMap nbRows

/-- A command reads or writes a row of a range of the alias, given by offset and length. -/
def NbCmd.inRange (c : NbCmd) (base len : Nat) : Bool :=
  c.rows.any fun r => decide (r * 1024 < base + len ∧ base < (r + 1) * 1024)

/-! ### Logs and records -/

/-- An error log (R291). -/
inductive LogId where
  | die (d : Nat)
  | stack (k : Nat)
  deriving DecidableEq, Repr

/-- A requester: its kind of R484 and its core, 0xFFFF for none. -/
structure Who where
  kind : Nat
  core : Nat
  deriving DecidableEq, Repr

/-- Requester kinds (R484). -/
abbrev Who.fetch (c : Nat) : Who := ⟨0, c⟩
abbrev Who.stream (c : Nat) : Who := ⟨1, c⟩
abbrev Who.walker (c : Nat) : Who := ⟨2, c⟩
abbrev Who.engine (c : Nat) : Who := ⟨3, c⟩
abbrev Who.host : Who := ⟨4, 0xFFFF⟩
abbrev Who.scrub : Who := ⟨5, 0xFFFF⟩
abbrev Who.vec (c : Nat) : Who := ⟨6, c⟩
abbrev Who.check (c : Nat) : Who := ⟨7, c⟩
abbrev Who.queue (c : Nat) : Who := ⟨8, c⟩
abbrev Who.desc (c : Nat) : Who := ⟨9, c⟩

namespace State

/-- Entries a log has (R291). -/
def logDepth (s : State) : LogId → Nat
  | .die _ => 16
  | .stack _ => if s.iodC then 32 else 16

/-- Registers of a log. -/
def logReg (s : State) (l : LogId) (die : Nat) (stack : Nat → Nat) : Word :=
  match l with
  | .die d => s.die d die
  | .stack k => s.iod (k / 2) (stack (k % 2))

/-- Register of a log changed. -/
def updLogReg (s : State) (l : LogId) (die : Nat) (stack : Nat → Nat) (f : Word → Word) : State :=
  match l with
  | .die d => s.updDie d die f
  | .stack k => s.updIod (k / 2) (stack (k % 2)) f

/-- INFO register of log entry j. -/
def logInfo (s : State) (l : LogId) (j : Nat) : Word := s.logReg l (R.turfLogInfo j) fun p => R.eccHLogInfo p j

/-- ADDR register of log entry j. -/
def logAddr (s : State) (l : LogId) (j : Nat) : Word := s.logReg l (R.turfLogAddr j) fun p => R.eccHLogAddr p j

/-- Log entry j is cleared (R292). DEDUCED: log entry 91. -/
def clearEntry (s : State) (l : LogId) (j : Nat) : State :=
  (s.updLogReg l (R.turfLogInfo j) (fun p => R.eccHLogInfo p j) fun _ => 0).updLogReg l (R.turfLogAddr j)
    (fun p => R.eccHLogAddr p j) fun _ => 0

/-- The CE and UE counter of a memory: a cache line's errors count in the slice's counter (R290). -/
def updEccCnt (s : State) (l : LogId) (line : Bool) (f : Word → Word) : State :=
  s.updLogReg l R.turfEccCnt (fun p => if line then R.eccCacheCnt else R.eccHCnt p) f

/-- Kind and number of a log, as the event log names them. -/
def LogId.bytes : LogId → List Byte
  | .die d => [0, BitVec.ofNat 8 d]
  | .stack k => [1, BitVec.ofNat 8 k]

/-- Status bits of a log: (UE, FULL) (R292, R295). -/
def LogId.stsBits : LogId → Nat × Nat
  | .die _ => (0, 1)
  | .stack k => if k % 2 = 0 then (0, 1) else (2, 3)

/-- An error that a full log loses: `LOST_CNT`, and on the first `FULL_STS` and a LOG_FULL entry (R292). -/
def logLost (s : State) (l : LogId) : State :=
  let full := (LogId.stsBits l).2
  let was := bitAt (s.logReg l R.turfEccSts fun _ => R.eccSts) full
  let t := s.updLogReg l R.turfEccSts (fun _ => R.eccSts) fun w =>
    let v := match l with
      | .die _ => incFld w 63 32 1
      | .stack k => if k % 2 = 0 then incFld w 47 32 1 else incFld w 63 48 1
    setBit v full true
  if was then t else t.logEv 0x42 0xFF (LogId.bytes l)

/-- A correctable error found at a word (R290, R292): counted, and entered in the log. `src` is 1 for SRAM or a cache line. -/
def noteCe (s : State) (l : LogId) (src spare scrub : Bool) (addr : Nat) (y : Byte) : State :=
  let line := src && (match l with | .stack _ => true | .die _ => false)
  let t := s.updEccCnt l line fun w => incFld w 31 0 1
  let ids := List.range (t.logDepth l)
  let same (j : Nat) : Bool :=
    bitAt (t.logInfo l j) 63 && fld (t.logAddr l j) 47 0 == addr && bitAt (t.logInfo l j) 61 == spare &&
      bitAt (t.logInfo l j) 60 == src
  match ids.find? same with
  | some j =>
    t.updLogReg l (R.turfLogInfo j) (fun p => R.eccHLogInfo p j) fun w =>
      setFld (incFld w 31 0 1) 55 48 y.toNat
  | none =>
    match ids.find? fun j => !bitAt (t.logInfo l j) 63 with
    | none => t.logLost l
    | some j =>
      let info : Word := BitVec.ofNat 64
        (2 ^ 63 + scrub.toNat * 2 ^ 62 + spare.toNat * 2 ^ 61 + src.toNat * 2 ^ 60 + y.toNat * 2 ^ 48 + 1)
      let u := (t.updLogReg l (R.turfLogInfo j) (fun p => R.eccHLogInfo p j) fun _ => info).updLogReg l
        (R.turfLogAddr j) (fun p => R.eccHLogAddr p j) fun _ => BitVec.ofNat 64 addr
      u.logEv 0x40 0xFF (LogId.bytes l ++ zeros 6 ++ leBytes 8 addr ++ leBytes 8 info.toNat)

/-- A UE entry of the event log, with the interrupt (R295, R351, R484). -/
def logUe (s : State) (mem : Nat) (w : Who) (da : Nat) (y : Byte) : State :=
  (s.logEv 0x41 (if w.core < 512 then s.logSlot w.core else 0xFF)
    ([BitVec.ofNat 8 mem, BitVec.ofNat 8 w.kind] ++ leBytes 2 w.core ++ zeros 4 ++ leBytes 8 da ++ [y])).raise intUe

/-- An uncorrectable error found at a word (R293, R295): counted, recorded if first, logged. -/
def noteUe (s : State) (l : LogId) (src spare : Bool) (mem : Nat) (w : Who) (addr : Nat) (y : Byte) : State :=
  let line := src && (match l with | .stack _ => true | .die _ => false)
  let t := s.updEccCnt l line fun v => incFld v 63 32 1
  let t := t.updLogReg l R.turfEccUe R.eccHUe fun v =>
    if bitAt v 63 then v
    else BitVec.ofNat 64 (2 ^ 63 + spare.toNat * 2 ^ 62 + src.toNat * 2 ^ 61 + y.toNat * 2 ^ 48 + addr % 2 ^ 48)
  let t := t.updLogReg l R.turfEccSts (fun _ => R.eccSts) fun v => setBit v (LogId.stsBits l).1 true
  t.logUe mem w addr y

/-! ### Words of SRAM, turf and HBM -/

/-- The 8 stored bytes of the word with key a (a multiple of 8). -/
def rawWord (s : State) (a : Nat) : List Byte := Memory.gets s.mem a 8

/-- The word read from SRAM or turf and checked (R288, R290, R293). `addr` and `spare` are what a log records. -/
def readSlice (s : State) (w : Who) (d a addr : Nat) (sram spare : Bool) : Except AccErr (List Byte) × State :=
  let y := s.syn.get 0 (a / 8)
  let r := checkWord (s.rawWord a) y
  if r.ue then
    (.error (.ue addr y (if sram then 0 else 1)), s.noteUe (.die d) sram spare (if sram then 0 else 1) w addr y)
  else (.ok r.data, if r.ce then s.noteCe (.die d) sram spare false addr y else s)

/-- The word written whole: data and fresh check bits (R287). -/
def writeWord (s : State) (a : Nat) (bs : List Byte) : State :=
  { s with mem := Memory.sets s.mem a bs, syn := s.syn.erase (a / 8) }

/-- The word written without its check bits: the stored check byte stays (R273). -/
def writeRaw (s : State) (a : Nat) (bs : List Byte) : State :=
  let y := s.syn.get 0 (a / 8) ^^^ codeOf (leNat (s.rawWord a)) ^^^ codeOf (leNat bs)
  { s with mem := Memory.sets s.mem a bs
           syn := if y = 0 then s.syn.erase (a / 8) else s.syn.set (a / 8) y }

/-- Bytes whose last one holds one 4-bit element: its other nibble is that of the byte that stands there (R155).
DEDUCED: log entry 64. -/
def keepNibble (bs : List Byte) (old : Byte) : List Byte := bs.dropLast ++ [(bs.getLastD 0 &&& 0x0F) ||| (old &&& 0xF0)]

/-- Bytes written within one word of die d's SRAM or turf, from byte o of it; `half` says that of the last byte one nibble is written. A
part keeps the rest of the word as the code corrects it, and an error met there is one found there (R290, R295); where the code cannot
correct it, the word stays in error. DEDUCED: log entry 64. -/
def writePart (s : State) (w : Who) (d : Nat) (sram : Bool) (a o : Nat) (bs : List Byte) (half : Bool) : State :=
  if o = 0 ∧ 8 ≤ bs.length ∧ half = false then s.writeWord a (bs.take 8)
  else
    let y := s.syn.get 0 (a / 8)
    let r := checkWord (s.rawWord a) y
    let bs := if half then keepNibble bs (r.data.getD (o + bs.length - 1) 0) else bs
    let t := s.writeWord a (overlay r.data o bs)
    if r.ue then
      ({ t with syn := t.syn.set (a / 8) y }).noteUe (.die d) sram false (if sram then 0 else 1) w a y
    else if r.ce then t.noteCe (.die d) sram false false a y else t

/-! ### The shared cache -/

/-- A line that holds 256 zero bytes. -/
def freshLine (data : List Byte) : CacheLine := { data := data, dirty := false, poison := 0, syn := [] }

/-- The I/O die of an HBM unit. -/
def unitIod (u : Nat) : Nat := u / 2 ^ 29

/-- The stack of an HBM unit. -/
def unitStack (u : Nat) : Nat := u / 2 ^ 28

/-- Word j of line u as the code corrects it in the slice: an error found there, of a word that is not poisoned, counts in the slice's
counter, and an uncorrectable one is recorded and logged (R289, R290, R295). DEDUCED: log entry 98. -/
def checkLine (s : State) (w : Who) (u j : Nat) (c : CacheLine) : Checked × State :=
  let y := c.syn.get 0 j; let k := aliasBase + u * 256 + j * 8
  let x := checkWord ((c.data.drop (j * 8)).take 8) y
  let l := LogId.stack (unitStack u)
  (x, if c.poison.getLsbD j then s
    else if x.ue then s.noteUe l true false 3 w k y else if x.ce then s.noteCe l true false false k y else s)

/-- No requester: what a write-back finds affects none (R295). DEDUCED: log entry 98. -/
abbrev nobody : Who := ⟨0xFF, 0xFFFF⟩

/-- A dirty line goes back to HBM (R273, R285, R289, R294): words leave corrected, each with its check byte, so that one in error that the
code does not mend in the data stays in error. DEDUCED: log entry 98. -/
def writeBack (s : State) (u : Nat) (c : CacheLine) : State :=
  let a := aliasBase + u * 256
  if s.unprotected (u * 256) then
    forEach (List.range 32) s fun t j => let r := t.checkLine nobody u j c; r.2.writeRaw (a + j * 8) r.1.data
  else
    let t := forEach (List.range 32) s fun t j =>
      let r := t.checkLine nobody u j c
      let v := r.2.writeWord (a + j * 8) r.1.data
      if (r.1.ue || classify (c.syn.get 0 j) == .check) && !c.poison.getLsbD j then { v with syn := v.syn.set (a / 8 + j) (c.syn.get 0 j) } else v
    if c.poison = 0 then { t with poison := t.poison.filter (· != u) }
    else { t with poison := if t.poison.contains u then t.poison else u :: t.poison }

/-- Room is made in the set of unit u: where 16 lines lie in it, one is evicted, and written back if dirty (R249).
DESIGN CHOICE: log entry 65. -/
def makeRoom (s : State) (u : Nat) : State :=
  let st := (aliasAt (u * 256)).set; let i := unitIod u
  let mates := s.cache.filter fun e => unitIod e.1 == i && (aliasAt (e.1 * 256)).set == st
  if mates.length < 16 then s
  else
    match mates[Config.victim s.free st % mates.length]? with
    | none => s
    | some (v, c) =>
      let t := if c.dirty then s.writeBack v c else s
      { t.bumpFree with cache := t.cache.erase v }

/-- A lookup is counted (R249). -/
def noteLookup (s : State) (u : Nat) (hit : Bool) : State :=
  s.updIod (unitIod u) (if hit then R.memHitCnt else R.memMissCnt) fun v => incFld v 47 0 1

/-- A line that a fill takes one more word into, word j: the word keeps its check byte on the way, and one that the code cannot correct
is marked (R289, R294). DEDUCED: log entry 98. -/
def addWord (c : CacheLine) (j : Nat) (x : Checked) (y : Byte) : CacheLine :=
  { c with
    data := c.data ++ x.data
    poison := if x.ue then c.poison ||| ((1 : BitVec 32) <<< j) else c.poison
    syn := if classify y == .check then c.syn.set j y else c.syn }

/-- The line that a fill of unit u takes from HBM (R273, R288, R289, R294). -/
def fillWords (s : State) (w : Who) (u : Nat) : CacheLine × State :=
  let a := aliasBase + u * 256
  if s.unprotected (u * 256) then (freshLine (Memory.gets s.mem a 256), s)
  else if s.poison.contains u then ({ freshLine (Memory.gets s.mem a 256) with poison := BitVec.allOnes 32 }, s)
  else
    forEach (List.range 32) (freshLine [], s) fun r j =>
      let k := a + j * 8
      let y := r.2.syn.get 0 (k / 8)
      let x := checkWord (r.2.rawWord k) y
      let l := LogId.stack (unitStack u)
      (addWord r.1 j x y,
        if x.ue then r.2.noteUe l false false 2 w k y else if x.ce then r.2.noteCe l false false false k y else r.2)

/-- The line of unit u, brought in on a miss (R249, R294). The flag says that this access filled it. -/
def lineFor (s : State) (w : Who) (u : Nat) : CacheLine × Bool × State :=
  match s.cache.find? u with
  | some c => (c, false, s.noteLookup u true)
  | none =>
    let (c, t) := (s.noteLookup u false).fillWords w u
    let v := t.makeRoom u
    (c, true, { v with cache := v.cache.set u c })

/-- Word j of a line, read and checked in the cache (R249, R294). `filled` says that the fill has already reported it. -/
def readLine (s : State) (w : Who) (u : Nat) (c : CacheLine) (filled : Bool) (j : Nat) :
    Except AccErr (List Byte) × State :=
  let k := aliasBase + u * 256 + j * 8
  let l := LogId.stack (unitStack u)
  let y := c.syn.get 0 j
  let bs := (c.data.drop (j * 8)).take 8
  if c.poison.getLsbD j then
    if filled && !s.poison.contains u then (.error (.ue k (s.syn.get 0 (k / 8)) 2), s)
    else
      let mem := if filled then 8 else 9
      (.error (.ue k 0 mem), s.noteUe l (!filled) false mem w k 0)
  else
    let x := checkWord bs y
    if x.ue then (.error (.ue k y 3), s.noteUe l true false 3 w k y)
    else (.ok x.data, if x.ce then s.noteCe l true false false k y else s)

/-- Words read in order, stopping at the first error. -/
def readAll (f : State → Nat → Except AccErr (List Byte) × State) (s : State) : List Nat → Except AccErr (List Byte) × State
  | [] => (.ok [], s)
  | j :: js =>
    match f s j with
    | (.error e, t) => (.error e, t)
    | (.ok b, t) =>
      match readAll f t js with
      | (.error e, u) => (.error e, u)
      | (.ok bs, u) => (.ok (b ++ bs), u)

/-- A whole unit through the main path (R255). -/
def readUnit (s : State) (w : Who) (u : Nat) : Except AccErr (List Byte) × State :=
  let (c, filled, t) := s.lineFor w u
  readAll (fun r j => r.readLine w u c filled j) t (List.range 32)

/-- One aligned 32-byte piece (index p of 8 in unit u) through the gather path (R256). -/
def readPiece (s : State) (w : Who) (u p : Nat) : Except AccErr (List Byte) × State :=
  let k := unitStack u
  let s := s.updIod (k / 2) (R.hbmGthCnt + k % 2 * 0x10000) fun v => incFld v 47 0 1
  let js := (List.range 4).map (p * 4 + ·)
  match s.cache.find? u with
  | some c => readAll (fun r j => r.readLine w u c false j) (s.noteLookup u true) js
  | none =>
    let s := s.noteLookup u false
    let a := aliasBase + u * 256
    if s.unprotected (u * 256) then (.ok (Memory.gets s.mem (a + p * 32) 32), s)
    else if s.poison.contains u then
      (.error (.ue (a + p * 32) 0 8), s.noteUe (.stack k) false false 8 w (a + p * 32) 0)
    else
      readAll (fun r j =>
        let y := r.syn.get 0 ((a + j * 8) / 8)
        let x := checkWord (r.rawWord (a + j * 8)) y
        if x.ue then (.error (.ue (a + j * 8) y 2), r.noteUe (.stack k) false false 2 w (a + j * 8) y)
        else (.ok x.data, if x.ce then r.noteCe (.stack k) false false false (a + j * 8) y else r)) s js

/-- Bytes of HBM from offset o of unit u (o + n at most 256): the main path for a whole unit, else the gather path (R255). -/
def readHbm (s : State) (w : Who) (u o n : Nat) : Except AccErr (List Byte) × State :=
  if o = 0 ∧ n = 256 then s.readUnit w u
  else
    let p0 := o / 32
    let ps := (List.range (cdiv (o + n) 32 - p0)).map (p0 + ·)
    match readAll (fun r p => r.readPiece w u p) s ps with
    | (.ok bs, t) => (.ok ((bs.drop (o - p0 * 32)).take n), t)
    | e => e

/-- Bytes written into a line from byte o: whole words lose their marks, parts of poisoned words keep them (R294). A word written in
part keeps its other bytes as the code corrects them; where it cannot, it stays in error (R289). DEDUCED: log entry 98. -/
def mergeLine (c : CacheLine) (o : Nat) (bs : List Byte) : CacheLine :=
  let whole (j : Nat) : Bool := decide (o ≤ j * 8 ∧ j * 8 + 8 ≤ o + bs.length)
  let met (j : Nat) : Bool := decide (o < j * 8 + 8 ∧ j * 8 < o + bs.length)
  let js := List.range 32
  let data := js.foldl (fun d j =>
    if met j && !whole j && c.syn.get 0 j != 0 then overlay d (j * 8) (checkWord ((c.data.drop (j * 8)).take 8) (c.syn.get 0 j)).data else d)
    c.data
  { data := overlay data o bs, dirty := true
    poison := BitVec.ofNat 32 (js.foldl (fun m j => if c.poison.getLsbD j && !whole j then m + 2 ^ j else m) 0)
    syn := c.syn.filter fun e => !met e.1 || (!whole e.1 && classify e.2 == .bad) }

/-- The errors found in the words of line u that `n` bytes from byte o write in part (R290, R295). -/
def noteMerge (s : State) (w : Who) (u : Nat) (c : CacheLine) (o n : Nat) : State :=
  forEach (List.range 32) s fun t j =>
    if decide (o < j * 8 + 8 ∧ j * 8 < o + n) && !decide (o ≤ j * 8 ∧ j * 8 + 8 ≤ o + n) then (t.checkLine w u j c).2 else t

/-- Bytes merged into line u from byte o; of the last byte, where it is written by half, the other nibble stays as the code corrects it,
and its word is one written in part. -/
def mergeHbm (s : State) (w : Who) (u o : Nat) (bs : List Byte) (half : Bool) (c : CacheLine) : State :=
  let t := if half then
      let k := o + bs.length - 1
      let t := if bs.length = 1 then s else s.noteMerge w u c o (bs.length - 1)
      if bs.length = 1 ∨ k % 8 = 0 then t.noteMerge w u c k 1 else t
    else s.noteMerge w u c o bs.length
  let line := if half then
      let k := o + bs.length - 1
      let old := (checkWord ((c.data.drop (k / 8 * 8)).take 8) (c.syn.get 0 (k / 8))).data.getD (k % 8) 0
      mergeLine (mergeLine c o bs.dropLast) k [(keepNibble bs old).getLastD 0]
    else mergeLine c o bs
  { t with cache := t.cache.set u line }

/-- A run, of this device or of the one whose XSEND arrives, has written `n` bytes of HBM from an alias offset on: a staging entry whose
HBM end they touch copies data that is not defined (R264). -/
def hitStage (s : State) (w : Who) (off n : Nat) : State :=
  if (w.kind ≠ Who.host.kind ∧ w.kind ≠ Who.scrub.kind) ∧ s.kpr.stage ≠ [] then
    let touches (a len : Nat) : Bool := (List.range n).any fun i => rangeHas (a, len) (off + i)
    { s with kpr := { s.kpr with
        stage := s.kpr.stage.map fun e => { e with hit := e.hit || touches e.src e.len || touches e.dst e.len } } }
  else s

/-- Bytes that are not defined (R281). -/
def nbuFree (s : State) (n : Nat) : List Byte := (List.range n).map fun i => Config.nbuData s.free i

/-- The units that hold a near-bank command's results are not defined any longer (R281). DESIGN CHOICE: log entry 56. -/
def spoil (s : State) (us : List Nat) : State :=
  forEach us s fun t u =>
    (forEach ((chunks 8 (t.nbuFree 256)).zipIdx) t fun t p => t.writeRaw (aliasBase + u * 256 + p.2 * 8) p.1).bumpFree

/-- A requester has written to HBM at an alias offset: the results of near-bank commands accepted and not complete that read or write
the row are not defined (R281). DESIGN CHOICE: log entry 56. -/
def hitNbu (s : State) (off : Nat) : State :=
  let i := off / 2 ^ 37
  let now (c : NbCmd) : Bool := !c.hit && c.touches (off / 1024)
  let t := forEach ((s.nb i).cmds.filter now) s fun t c => t.spoil c.own
  if (s.nb i).cmds.any now then
    t.updNb i fun n => { n with cmds := n.cmds.map fun c => if now c then { c with hit := true } else c }
  else t

/-- The row at an alias offset is one that a near-bank command accepted and not complete writes: its contents are not defined to any
reader (R281). -/
def nbuOpen (s : State) (off : Nat) : Bool :=
  (s.nb (off / 2 ^ 37)).cmds.any fun c => (c.words ++ c.ran).any fun w => nbDest w == off / 1024

/-- Bytes written to HBM from offset o of unit u, through the slice (R249); `half` says that of the last byte one nibble is written. -/
def writeHbm (s : State) (w : Who) (u o : Nat) (bs : List Byte) (half : Bool) : State :=
  let s := (s.hitStage w (u * 256 + o) bs.length).hitNbu (u * 256 + o)
  if o = 0 ∧ bs.length = 256 ∧ half = false ∧ s.cache.find? u = none then
    let t := (s.noteLookup u false).makeRoom u
    { t with cache := t.cache.set u { freshLine bs with dirty := true } }
  else
    let (c, _, t) := s.lineFor w u
    t.mergeHbm w u o bs half c

/-! ### Requests -/

/-- The pieces of a byte range cut at multiples of 256 bytes: (first address, length). DEDUCED: log entry 64. -/
def pieces (da n : Nat) : List (Nat × Nat) :=
  if n = 0 then []
  else (List.range ((da + n - 1) / 256 - da / 256 + 1)).map fun i =>
    let lo := max da ((da / 256 + i) * 256)
    let hi := min (da + n) ((da / 256 + i + 1) * 256)
    (lo, hi - lo)

/-- Bytes read within one 256-byte piece: one request (R156). -/
def readPiece1 (s : State) (w : Who) (da n : Nat) : Except AccErr (List Byte) × State :=
  match s.locate da with
  | none => (.error (.addr da), s)
  | some l =>
    if !s.answers l then (.error (.targetReset da), s)
    else match l with
      | .hbm off =>
        match s.readHbm w (off / 256) (off % 256) n with
        | (.ok b, t) => if s.nbuOpen off then (.ok (t.nbuFree n), t.bumpFree) else (.ok b, t)
        | e => e
      | .sram a d | .turf a d =>
        let a0 := a / 8 * 8
        let js := List.range (cdiv (a + n - a0) 8)
        let isS := match l with | .sram _ _ => true | _ => false
        match readAll (fun r j => r.readSlice w d (a0 + j * 8) (a0 + j * 8) isS false) s js with
        | (.ok bs, t) => (.ok ((bs.drop (a - a0)).take n), t)
        | e => e

/-! ### Transfer tags (R156, R232-R234) -/

/-- Tags that core c holds, to memory or remote: those of its stream unit, and those given to requests that waited. -/
def tagsOf (s : State) (c : Nat) (remote : Bool) : Nat :=
  ((s.cxOf c).reqs.countP fun r => (r.kind == 2) == remote) + if remote then 0 else (s.cxOf c).granted.length

/-- Tags that the cores of die d hold. -/
def dieTags (s : State) (d : Nat) : Nat := (coresOf d).foldl (fun n c => n + (s.cxOf c).reqs.length + (s.cxOf c).granted.length) 0

/-- The bound that keeps a request of core c from a tag: 0 core memory, 1 core remote, 2 die; none where a tag is free. -/
def tagBound (s : State) (c : Nat) (remote : Bool) : Option Nat :=
  if (if remote then 128 else 256) ≤ s.tagsOf c remote then some remote.toNat
  else if 4096 ≤ s.dieTags (dieOf c) then some 2 else none

/-- The peaks of tags held, memory tags by core and all by die, with `more` memory tags of core c beside its stream unit's (R156, R234).
DESIGN CHOICE: log entry 35. -/
def noteTags (s : State) (p c more : Nat) : State :=
  let t := s.updCore c R.strTag fun w => maxFld w 24 16 (s.tagsOf c false + more)
  let n := t.dieTags (dieOf c) + more
  t.updSlot p fun y =>
    if fld y.tag 12 0 < n then { y with tag := setFld (setFld y.tag 20 16 (dieOf c)) 12 0 n } else y

/-- A request of core c waits at bound b: it is counted, and the first at each die in a run is logged (R234). -/
def noteWait (s : State) (p c b : Nat) : State :=
  let d := dieOf c
  let first := !(s.slot p).waited.contains d
  let t := s.updSlot p fun y => { y with
    tag := incFld y.tag 63 32 1, waited := if first then d :: y.waited else y.waited }
  if first then t.logEv 0x14 p [BitVec.ofNat 8 d, BitVec.ofNat 8 b] else t

/-- A request of a core's sequencer fetch, page walker or queue port takes a memory tag, which its completion within the same command
frees (R156, R232); the command has waited where none was free. DESIGN CHOICE: log entry 35. -/
def passTag (s : State) (w : Who) : State :=
  if w.core < 512 && (w.kind == 0 || w.kind == 2 || w.kind == 8) then
    match s.slotOf w.core with
    | none => s
    | some p =>
      if !s.slotActive p then s else
      if (s.tagBound w.core false).isNone then s.noteTags p w.core 1 else s
  else s

/-- A byte range read, request by request, stopping at the first error. -/
def readDa (s : State) (w : Who) (da n : Nat) : Except AccErr (List Byte) × State :=
  readAll (fun r i => match (pieces da n)[i]? with
    | some p => (r.passTag w).readPiece1 w p.1 p.2
    | none => (.ok [], r)) s (List.range (pieces da n).length)

/-- Bytes written within one 256-byte piece; `half` says that of the last byte one nibble is written. -/
def writePiece1 (s : State) (w : Who) (da : Nat) (bs : List Byte) (half : Bool) : Option AccErr × State :=
  match s.locate da with
  | none => (some (.addr da), s)
  | some l =>
    if !s.answers l then (some (.targetReset da), s)
    else match l with
      | .hbm off => (none, s.writeHbm w (off / 256) (off % 256) bs half)
      | .sram a d | .turf a d =>
        let isS := match l with | .sram _ _ => true | _ => false
        let head := 8 - a % 8
        let t := s.writePart w d isS (a / 8 * 8) (a % 8) (bs.take head) (half && decide (bs.length ≤ head))
        (none, forEach ((chunks 8 (bs.drop head)).zipIdx) t fun t p =>
          t.writePart w d isS (a / 8 * 8 + 8 + p.2 * 8) 0 p.1 (half && decide (bs.length ≤ head + 8 * (p.2 + 1))))

/-- A byte range written, request by request from the lowest address, stopping at the first error; `half` says that of the last byte one
nibble is written. -/
def writeList (w : Who) (half : Bool) : State → List (Nat × Nat) → List Byte → Option AccErr × State
  | s, [], _ => (none, s)
  | s, p :: ps, bs =>
    match (s.passTag w).writePiece1 w p.1 (bs.take p.2) (half && ps.isEmpty) with
    | (some e, t) => (some e, t)
    | (none, t) => writeList w half t ps (bs.drop p.2)

/-- A byte range written. -/
def writeDa (s : State) (w : Who) (da : Nat) (bs : List Byte) : Option AccErr × State :=
  writeList w false s (pieces da bs.length) bs

/-- A byte range written whose last byte holds one 4-bit element: of that byte the other nibble stays (R155). -/
def writeHalf (s : State) (w : Who) (da : Nat) (bs : List Byte) : Option AccErr × State :=
  writeList w true s (pieces da bs.length) bs

/-! ### Words moved with their check bytes -/

/-- The syndrome of the word at an address, as it stands in the memory or cache line that a read takes it from (R288). -/
def wordSyn (s : State) (da : Nat) : Byte :=
  match s.locate da with
  | some (.hbm off) => match s.cache.find? (off / 256) with
    | some c => c.syn.get 0 (off % 256 / 8)
    | none => if s.unprotected off then 0 else s.syn.get 0 ((aliasBase + off) / 8)
  | some (.sram a _) | some (.turf a _) => s.syn.get 0 (a / 8)
  | none => 0

/-- Of `n` bytes moved from `da` to `to_`, the whole words that lie on word boundaries at both ends and whose check byte alone is wrong:
where each arrives, with its syndrome (R288, R289). DEDUCED: log entry 98. -/
def wrongChecks (s : State) (da to_ n : Nat) : List (Nat × Byte) :=
  if da % 8 ≠ to_ % 8 then []
  else ((List.range (n / 8)).map fun k => (8 - da % 8) % 8 + 8 * k).filterMap fun x =>
    if x + 8 ≤ n ∧ classify (s.wordSyn (da + x)) = .check then some (to_ + x, s.wordSyn (da + x)) else none

/-- A word arrives with a check byte that alone is wrong: it keeps it, and the error is found at this end too (R289, R290).
DEDUCED: log entry 98. -/
def keepCheck (s : State) (x : Nat × Byte) : State :=
  match s.locate x.1 with
  | some (.hbm off) => match s.cache.find? (off / 256) with
    | some c =>
      ({ s with cache := s.cache.set (off / 256) { c with syn := c.syn.set (off % 256 / 8) x.2 } }).noteCe
        (.stack (unitStack (off / 256))) true false false (aliasBase + off) x.2
    | none => s
  | some (.sram a d) => ({ s with syn := s.syn.set (a / 8) x.2 }).noteCe (.die d) true false false a x.2
  | some (.turf a d) => ({ s with syn := s.syn.set (a / 8) x.2 }).noteCe (.die d) false false false a x.2
  | none => s

/-! ### Atomic operations -/

/-- The element of `n` bytes at offset off of HBM replaced by `f` of it: the prior value, or the error (R252-R254). -/
def atomicHbm (s : State) (w : Who) (off n : Nat) (f : Nat → Nat) : Except AccErr Nat × State :=
  let u := off / 256; let o := off % 256
  let (c, filled, t) := ((s.hitStage w off n).hitNbu off).lineFor w u
  match t.readLine w u c filled (o / 8) with
  | (.error e, v) => (.error e, v)
  | (.ok word, v) =>
    let prior := if s.nbuOpen off then leNat (v.nbuFree n) else leAt word (o % 8) n
    let v := when (s.nbuOpen off) bumpFree v
    let c2 := mergeLine (mergeLine c (o / 8 * 8) word) o (leBytes n (f prior))
    let v := { v with cache := v.cache.set u c2 }
    (.ok prior, v.updIod (unitIod u) R.memAtomCnt fun x => incFld x 47 0 1)

/-- An atomic operation at a DA, refused where the place does not answer. -/
def atomicDa (s : State) (w : Who) (da n : Nat) (f : Nat → Nat) : Except AccErr Nat × State :=
  let s := s.passTag w
  match s.locate da with
  | some (.hbm off) =>
    if s.answers (.hbm off) then s.atomicHbm w off n f else (.error (.targetReset da), s)
  | _ => (.error (.addr da), s)

/-! ### Wipes -/

/-- The memory keys that `p` holds of are wiped: zero data, right check bits (R301-R303). -/
def wipeKeys (s : State) (p : Nat → Bool) : State :=
  { s with mem := Memory.clear p s.mem, syn := s.syn.drop fun k => p (k * 8) }

/-- The SRAMs and turf slices of a compute die are wiped, the spare's included. -/
def wipeDie (s : State) (d : Nat) : State :=
  s.wipeKeys fun a =>
    decide (turfBase ≤ a ∧ a < sramBase) && dieOf ((a - turfBase) / turfLen) == d ||
    decide (sramBase ≤ a ∧ a < 0x00C1_0000_0000) && dieOf ((a - sramBase) / 0x80_0000) == d ||
    decide (spareTurf d ≤ a ∧ a < spareTurf (d + 1)) || decide (spareSram d ≤ a ∧ a < spareSram (d + 1))

/-- The HBM bytes that `p` holds of are wiped: poison bits cleared, cache lines discarded without write-back (R302). A unit
is taken with its first byte. -/
def wipeHbm (s : State) (p : Nat → Bool) : State :=
  let t := s.wipeKeys fun a => decide (aliasBase ≤ a ∧ a < 0x0180_0000_0000) && p (a - aliasBase)
  { t with poison := t.poison.filter fun u => !p (u * 256), cache := t.cache.drop fun u => p (u * 256) }

/-- A log is copied to the event log and cleared, with its record, `LOST_CNT` and flags (R305). -/
def flushLog (s : State) (l : LogId) : State :=
  let t := forEach (List.range 32) s fun t j =>
    if j < t.logDepth l && bitAt (t.logInfo l j) 63 then
      (t.logEv 0x40 0xFF
        (LogId.bytes l ++ zeros 6 ++ leBytes 8 (t.logAddr l j).toNat ++ leBytes 8 (t.logInfo l j).toNat)).updLogReg l
        (R.turfLogInfo j) (fun p => R.eccHLogInfo p j) fun _ => 0
    else t
  let t := forEach (List.range 32) t fun t j =>
    if j < t.logDepth l then t.updLogReg l (R.turfLogAddr j) (fun p => R.eccHLogAddr p j) fun _ => 0 else t
  let r := t.logReg l R.turfEccUe R.eccHUe
  let src := bitAt r 61
  let code := match l with | .die _ => (if src then 0 else 1) | .stack _ => (if src then 3 else 2)
  let t := if bitAt r 63 then
      (t.logUe code ⟨0xFF, 0xFFFF⟩ (fld r 47 0) (BitVec.ofNat 8 (fld r 55 48))).updLogReg l
        R.turfEccUe R.eccHUe fun _ => 0
    else t
  t.updLogReg l R.turfEccSts (fun _ => R.eccSts) fun w =>
    let w := setBit (setBit w (LogId.stsBits l).1 false) (LogId.stsBits l).2 false
    match l with
    | .die _ => setFld w 63 32 0
    | .stack k => if k % 2 = 0 then setFld w 47 32 0 else setFld w 63 48 0

/-! ### What lies at an address -/

/-- The byte i places above a location, as it stands: in the cache line where one holds it, else in the store. -/
def peekByte (s : State) (l : Loc) (i : Nat) : Byte :=
  match l with
  | .hbm off => match s.cache.find? ((off + i) / 256) with
    | some c => c.data.getD ((off + i) % 256) 0
    | none => Memory.get s.mem (aliasBase + (off + i))
  | l => Memory.get s.mem (l.key + i)

/-- The `n` bytes from an address, unchecked: what lies there, seen by no requester. -/
def peek (s : State) (da n : Nat) : Nat :=
  match s.locate da with
  | some l => leNat ((List.range n).map (s.peekByte l))
  | none => 0

/-! ### A core's own memory -/

/-- The end of the part of a core's own memory that holds a DA, its SRAM or its turf slice; `none` for any other address. -/
def ownEnd (c da : Nat) : Option Nat :=
  if sramOf c ≤ da ∧ da < sramOf c + sramLen then some (sramOf c + sramLen)
  else if turfOf c ≤ da ∧ da < turfOf c + turfLen then some (turfOf c + turfLen)
  else none

end State

end Sys2Proof.Machine
end

