-- ==== Sys2Proof/Machine/Numbers.lean ====
section
/-!
DEFINITION. The number formats and the roundings of spec/03_number_formats.md: decoding (R59-R61, R66), exact arithmetic on
decoded values (R62), the one rounding into any format (R63, R74-R77), block scales (R69-R73), the stochastic generator
(R78-R80) and the digits of D7 (R87, R89).
-/

namespace Sys2Proof.Machine

/-- The element formats (R59, R66, R69). The block-scaled ones end in `s`. -/
inductive Fmt where
  | f4 | f8 | f8w | bf16 | fp16 | fp32 | fp64 | int4 | int8 | int32 | int48 | f4s | f8s | int8s
  deriving DecidableEq, Repr

/-- The rounding modes (R74). -/
inductive Rnd where
  | nearest | zero | stochastic
  deriving DecidableEq, Repr

/-- A decoded value: NaN, an infinity, or (-1)^neg × m × 2^e. Zeros keep their sign. -/
inductive Num where
  | nan
  | inf (neg : Bool)
  | fin (neg : Bool) (m : Nat) (e : Int)
  deriving DecidableEq, Repr

/-- Exponent width, fraction width, bias, and whether the format has infinities (R59). -/
structure FltP where
  ew   : Nat
  mw   : Nat
  bias : Nat
  ieee : Bool
  deriving DecidableEq, Repr

/-- The layout of a floating-point format, `none` for the integer ones (R59). A block-scaled format has the layout of its
plain format (R69). -/
def Fmt.flt? : Fmt → Option FltP
  | .f4 | .f4s => some ⟨2, 1, 1, false⟩
  | .f8 | .f8s => some ⟨4, 3, 7, false⟩
  | .f8w => some ⟨5, 2, 15, true⟩
  | .bf16 => some ⟨8, 7, 127, true⟩
  | .fp16 => some ⟨5, 10, 15, true⟩
  | .fp32 => some ⟨8, 23, 127, true⟩
  | .fp64 => some ⟨11, 52, 1023, true⟩
  | .int4 | .int8 | .int32 | .int48 | .int8s => none

/-- Bits an element has as a number (R59, R66). -/
def Fmt.width : Fmt → Nat
  | .f4 | .f4s | .int4 => 4
  | .f8 | .f8w | .f8s | .int8 | .int8s => 8
  | .bf16 | .fp16 => 16
  | .fp32 | .int32 => 32
  | .int48 => 48
  | .fp64 => 64

/-- Bits an element takes in memory (R66: INT48 takes eight bytes). -/
def Fmt.storeBits : Fmt → Nat
  | .int48 => 64
  | f => f.width

/-- Whether the format has a scale plane (R69). -/
def Fmt.scaled : Fmt → Bool
  | .f4s | .f8s | .int8s => true
  | _ => false

/-- The canonical NaN code (R62); 0 for integers (R75). -/
def Fmt.nanCode : Fmt → Nat
  | .f4 | .f4s => 0b1000
  | .f8 | .f8s => 0x80
  | .f8w => 0x7E
  | .bf16 => 0x7FC0
  | .fp16 => 0x7E00
  | .fp32 => 0x7FC00000
  | .fp64 => 0x7FF8000000000000
  | _ => 0

namespace Num

/-- Positive zero. -/
def zero : Num := .fin false 0 0

/-- An integer as a value. -/
def ofInt (i : Int) : Num := .fin (decide (i < 0)) i.natAbs 0

/-- Whether the value is NaN. -/
def isNan : Num → Bool
  | .nan => true
  | _ => false

/-- Whether the value is a zero. -/
def isZero : Num → Bool
  | .fin _ m _ => m == 0
  | _ => false

/-- Whether the sign is negative (NaN has none). -/
def isNeg : Num → Bool
  | .nan => false
  | .inf n => n
  | .fin n _ _ => n

/-- The value with its sign reversed. -/
def neg : Num → Num
  | .nan => .nan
  | .inf n => .inf (!n)
  | .fin n m e => .fin (!n) m e

/-- The magnitude. -/
def abs : Num → Num
  | .nan => .nan
  | .inf _ => .inf false
  | .fin _ m e => .fin false m e

/-- The value times 2^k. -/
def scale (k : Int) : Num → Num
  | .fin n m e => .fin n m (e + k)
  | x => x

/-- The signed integer mantissa of a finite value at exponent `e`, for `e` at most its own. -/
def mantAt (n : Bool) (m : Nat) (e0 e : Int) : Int :=
  let v : Int := (m <<< (e0 - e).toNat : Nat)
  if n then -v else v

/-- The exact product (R62: 0 × ∞ is NaN). -/
def mul : Num → Num → Num
  | .nan, _ => .nan
  | _, .nan => .nan
  | .inf a, .inf b => .inf (a != b)
  | .inf a, .fin b m _ => if m = 0 then .nan else .inf (a != b)
  | .fin a m _, .inf b => if m = 0 then .nan else .inf (a != b)
  | .fin a m e, .fin b k f => .fin (a != b) (m * k) (e + f)

/-- The exact sum (R62: ∞ - ∞ is NaN). A zero sum of operands that are not both negative is +0. -/
def add : Num → Num → Num
  | .nan, _ => .nan
  | _, .nan => .nan
  | .inf a, .inf b => if a = b then .inf a else .nan
  | .inf a, .fin _ _ _ => .inf a
  | .fin _ _ _, .inf b => .inf b
  | .fin a m e, .fin b k f =>
    let g := min e f
    let s := mantAt a m e g + mantAt b k f g
    if s = 0 then .fin (a && b) 0 g else .fin (decide (s < 0)) s.natAbs g

/-- The exact difference. -/
def sub (x y : Num) : Num := add x (neg y)

/-- The exact order of two values that are not NaN; the zeros are equal. -/
def lt : Num → Num → Bool
  | .nan, _ => false
  | _, .nan => false
  | .inf a, .inf b => a && !b
  | .inf a, .fin _ _ _ => a
  | .fin _ _ _, .inf b => !b
  | .fin a m e, .fin b k f =>
    let g := min e f
    decide (mantAt a m e g < mantAt b k f g)

/-- The exponent of the leading bit of a non-zero finite magnitude. -/
def lead (m : Nat) (e : Int) : Int := (m.log2 : Int) + e

end Num

/-- The value of a code (R59-R61, R66). INT48 ignores the bits above bit 47 (R68). -/
def Fmt.decode (f : Fmt) (code : Nat) : Num :=
  match f.flt? with
  | none => Num.ofInt (signed f.width code)
  | some p =>
    let c := code % 2 ^ f.width
    let neg := c.testBit (p.ew + p.mw)
    let ex := bits c (p.ew + p.mw - 1) p.mw
    let fr := c % 2 ^ p.mw
    if p.ieee then
      if ex = 2 ^ p.ew - 1 then (if fr = 0 then .inf neg else .nan)
      else if ex = 0 then .fin neg fr (1 - (p.bias : Int) - p.mw)
      else .fin neg (2 ^ p.mw + fr) ((ex : Int) - p.bias - p.mw)
    else if c = 2 ^ (p.ew + p.mw) then .nan
    else if ex = 0 then .fin neg fr (1 - (p.bias : Int) - p.mw)
    else .fin neg (2 ^ p.mw + fr) ((ex : Int) - p.bias - p.mw)

/-- A rounded result and what the counters of R65 count of it. -/
structure Rounded where
  code : Nat
  /-- It saturated to the largest finite value of a floating-point format. -/
  sat  : Bool := false
  /-- It overflowed to infinity. -/
  inf  : Bool := false
  /-- It saturated at an integer limit. -/
  isat : Bool := false
  deriving DecidableEq, Repr

/-- Whether the discarded part `rem` of `2^sh` moves the magnitude `lo` up to its neighbour (R74, R76). -/
def roundsUp (mode : Rnd) (draw : Nat) (lo rem sh : Nat) : Bool :=
  match mode with
  | .nearest => decide (2 * rem > 2 ^ sh) || (decide (2 * rem = 2 ^ sh) && lo % 2 == 1)
  | .zero => false
  | .stochastic => decide (draw < (rem * 65536) >>> sh)

/-- The magnitude m × 2^e rounded to a multiple of 2^q, in units of 2^q. -/
def roundMag (mode : Rnd) (draw m : Nat) (e q : Int) : Nat :=
  if q ≤ e then m <<< (e - q).toNat
  else
    let sh := (q - e).toNat
    let lo := m >>> sh
    lo + (roundsUp mode draw lo (m % 2 ^ sh) sh).toNat

/-- The code of the largest finite value of a floating-point format, without its sign. -/
def FltP.maxCode (p : FltP) : Nat := if p.ieee then (2 ^ p.ew - 1) * 2 ^ p.mw - 1 else 2 ^ (p.ew + p.mw) - 1

/-- A finite magnitude rounded into a floating-point format with no upper bound on the exponent (R75): the code it would
have, its exponent field not cut. -/
def FltP.encodeMag (p : FltP) (mode : Rnd) (draw m : Nat) (e : Int) : Nat :=
  if m = 0 then 0
  else
    let q := max (Num.lead m e - p.mw) (1 - (p.bias : Int) - p.mw)
    let k := roundMag mode draw m e q
    -- q - (1 - bias - mw) is the exponent field less one of a normal value; a subnormal has field 0 and the same quantum
    ((q - (1 - (p.bias : Int) - p.mw)).toNat) * 2 ^ p.mw + k

/-- The rounding of any value into any format (R62, R63, R74-R76). DESIGN CHOICE: log entry 107. -/
def Fmt.round (f : Fmt) (mode : Rnd) (draw : Nat) (x : Num) : Rounded :=
  match f.flt? with
  | some p =>
    let sgn (neg : Bool) (c : Nat) : Nat := if neg then c + 2 ^ (p.ew + p.mw) else c
    match x with
    | .nan => { code := f.nanCode }
    | .inf neg =>
      if p.ieee then { code := sgn neg ((2 ^ p.ew - 1) * 2 ^ p.mw) } else { code := sgn neg p.maxCode, sat := true }
    | .fin neg m e =>
      let c := p.encodeMag mode draw m e
      if c > p.maxCode then
        if p.ieee && mode != .zero then { code := sgn neg ((2 ^ p.ew - 1) * 2 ^ p.mw), inf := true }
        else { code := sgn neg p.maxCode, sat := true }
      else if c = 0 && !p.ieee then { code := 0 }
      else { code := sgn neg c }
  | none =>
    let w := f.width
    let hi : Int := 2 ^ (w - 1) - 1
    let lo : Int := -(2 ^ (w - 1))
    let out (v : Int) (s : Bool) : Rounded := { code := unsigned w v, isat := s }
    match x with
    | .nan => { code := 0 }
    | .inf neg => if f = .int8s then out (if neg then -127 else 127) true else out (if neg then lo else hi) true
    | .fin neg m e =>
      let k : Int := roundMag mode draw m e 0
      let v := if neg then -k else k
      if v > hi then out hi true else if v < lo then out lo true else out v false

/-- The value after rounding into a format. -/
def Fmt.roundNum (f : Fmt) (mode : Rnd) (draw : Nat) (x : Num) : Num := f.decode (f.round mode draw x).code

/-- The mode of a conversion from `src` to `dst`: stochastic rounding acts only into a narrower format (R77).
DESIGN CHOICE: log entry 107. -/
def Rnd.into (mode : Rnd) (src dst : Fmt) : Rnd :=
  if mode = .stochastic ∧ ¬ dst.width < src.width then .nearest else mode

/-! ### Block scales -/

/-- The factor of a scale byte applied to a decoded element (R69, R70): scale 255 marks NaN. -/
def applyScale (sb : Nat) (x : Num) : Num := if sb = 255 then .nan else x.scale ((sb : Int) - 127)

/-- The largest element magnitude a quantised block may hold (R71). -/
def Fmt.emax : Fmt → Num
  | .f4 | .f4s => .fin false 6 0
  | .f8 | .f8s => .fin false 480 0
  | _ => .fin false 127 0

/-- The largest finite value of the stored source format, as which an infinity counts (R71). DESIGN CHOICE: log entry 107. -/
def Fmt.largest (f : Fmt) : Num :=
  match f.flt? with
  | some p => f.decode p.maxCode
  | none => Num.ofInt (2 ^ (f.width - 1) - 1)

/-- The larger of two magnitudes. -/
def maxAbs (x y : Num) : Num := if x.lt y then y else x

/-- The smallest scale byte, from `s` up, with amax × 2^(127-S) at most emax; `n` bounds the search. -/
def scaleFrom (amax emax : Num) : Nat → Nat → Nat
  | 0, s => s
  | n + 1, s => if emax.lt (amax.scale (127 - (s : Int))) then scaleFrom amax emax n (s + 1) else s

/-- The scale byte of a block (R71). `src` is the stored source format. -/
def blockScale (src dst : Fmt) (xs : List Num) : Nat :=
  let amax := xs.foldl (fun a x => match x with
    | .nan => a
    | .inf _ => maxAbs a src.largest
    | y => maxAbs a y.abs) Num.zero
  if xs.any Num.isNan && dst == .int8s then 255
  else if amax.isZero then 127
  else scaleFrom amax dst.emax 254 0

/-- A block quantised: its scale byte and its rounded elements, one draw an element (R71, R73, R80). -/
def quantBlock (src dst : Fmt) (mode : Rnd) (draws : List Nat) (xs : List Num) : Nat × List Rounded :=
  let s := blockScale src dst xs
  (s, (xs.zip draws).map fun p => dst.round mode p.2 (p.1.scale (127 - (s : Int))))

/-! ### The stochastic generator -/

/-- One clock of the generator: the bit that leaves, and the next state (R78). -/
def lfsrClock (s : Word) : Bool × Word :=
  let b := s.getLsbD 0
  (b, if b then (s >>> 1) ^^^ 0xD800000000000000#64 else s >>> 1)

/-- `n` clocks: the bits that leave, the first as the highest (R78). -/
def lfsrRun : Nat → Nat → Word → Nat × Word
  | 0, r, s => (r, s)
  | n + 1, r, s => let (b, t) := lfsrClock s; lfsrRun n (2 * r + b.toNat) t

/-- One draw (R78). -/
def draw (s : Word) : Nat × Word := lfsrRun 16 0 s

/-- `n` draws in order, and the generator after them (R80). -/
def draws : Nat → Word → List Nat × Word
  | 0, s => ([], s)
  | n + 1, s => let (r, t) := draw s; let (l, u) := draws n t; (r :: l, u)

/-- The mixer of R79. -/
def mix64 (z0 : Word) : Word :=
  let z1 := z0 ^^^ (z0 >>> 30)
  let z2 := z1 * 0xBF58476D1CE4E5B9#64
  let z3 := z2 ^^^ (z2 >>> 27)
  let z4 := z3 * 0x94D049BB133111EB#64
  z4 ^^^ (z4 >>> 31)

/-- The generator's value at the start of an operation (R79). -/
def genSeed (seed : Word) (core : Nat) (rfn : BitVec 48) (op : Nat) : Word :=
  let s := mix64 (seed ^^^ mix64 (BitVec.ofNat 64 (core * 2 ^ 48 + rfn.toNat)) ^^^ mix64 (BitVec.ofNat 64 (op + 1)))
  if s = 0#64 then 1#64 else s

/-! ### D7 -/

/-- The exponent e with 2^(e-1) ≤ amax < 2^e, 0 for a zero maximum (R87). -/
def d7Exp (amax : Num) : Int :=
  match amax with
  | .fin _ m e => if m = 0 then 0 else Num.lead m e + 1
  | _ => 0

/-- The nearest integer, ties to even. -/
def rneInt (x : Num) : Int :=
  match x with
  | .fin neg m e => let k : Int := roundMag .nearest 0 m e 0; if neg then -k else k
  | _ => 0

/-- The `n` balanced base-256 digits of X, least first (R87). -/
def d7DigitsUp : Nat → Int → List Int
  | 0, _ => []
  | n + 1, x => let d := signed 8 (unsigned 8 x); d :: d7DigitsUp n ((x - d) / 256)

/-- The digits d0 to d6 of one element, the most significant first (R87). -/
def d7Digits (ea : Int) (x : Num) : List Int := (d7DigitsUp 7 (rneInt (x.scale (54 - ea)))).reverse

/-- The mark of a row that held a NaN or an infinity (R91). -/
def d7Mark : Int := -32768

/-- The finished element from the diagonals P0-P6 and the two exponents (R89, R91). -/
def d7Finish (p : List Int) (ea eb : Int) : Rounded :=
  if ea = d7Mark ∨ eb = d7Mark then { code := Fmt.nanCode .fp64 }
  else
    let t := p.foldl (fun a x => a * 256 + x) 0
    Fmt.round .fp64 .nearest 0 ((Num.ofInt t).scale (ea + eb - 60))

end Sys2Proof.Machine
end

