-- ==== Sys2Proof/Machine/Operands.lean ====
section
/-!
DEFINITION. Operands of the core's units: the fields of an operation word (R128-R132), word errors (R129), operand descriptors
(R133, R134), and matrices of elements read from and written to the core's own memory (R67, R69, R133).
-/

namespace Sys2Proof.Machine

/-- A unit's work on memory: it changes the state, and ends in a result or in the error its requester must handle. -/
abbrev Acc := ExceptT AccErr (StateM State)

/-- Bytes read. -/
def rd (w : Who) (da n : Nat) : Acc (List Byte) := ExceptT.mk fun s => s.readDa w da n

/-- Bytes written. -/
def wr (w : Who) (da : Nat) (bs : List Byte) : Acc Unit := ExceptT.mk fun s =>
  match s.writeDa w da bs with
  | (none, t) => (.ok (), t)
  | (some e, t) => (.error e, t)

/-- Bytes written of which the last holds one 4-bit element: its other nibble stays. -/
def wrHalf (w : Who) (da : Nat) (bs : List Byte) : Acc Unit := ExceptT.mk fun s =>
  match s.writeHalf w da bs with
  | (none, t) => (.ok (), t)
  | (some e, t) => (.error e, t)

/-- The outcome of a unit's work: its error or result, and the state after. -/
def runAcc (x : Acc α) (s : State) : Except AccErr α × State := x.run s

/-- Work whose error does not end the work that it is part of. -/
def tryAcc (x : Acc α) : Acc (Except AccErr α) := ExceptT.mk fun s =>
  match runAcc x s with
  | (r, t) => (.ok r, t)

/-- Address an error names. -/
def errDa : AccErr → Nat
  | .ue da _ _ => da
  | .addr da => da
  | .targetReset da => da
  | .frame da => da

/-- Cause code of an error in halt registers: 1 uncorrectable, 2 address, 3 `TARGET_RESET`, 4 frame (R157, R176). -/
def errCause : AccErr → Nat
  | .ue _ _ _ => 1
  | .addr _ => 2
  | .targetReset _ => 3
  | .frame _ => 4

/-- The error as one of the access at `da`. -/
def errAt (da : Nat) : AccErr → AccErr
  | .ue _ y m => .ue da y m
  | .addr _ => .addr da
  | .targetReset _ => .targetReset da
  | .frame a => .frame a

/-- Bytes read; an error names the access. -/
def rdAt (w : Who) (da n : Nat) : Acc (List Byte) := ExceptT.mk fun s =>
  match s.readDa w da n with
  | (.ok b, t) => (.ok b, t)
  | (.error e, t) => (.error (errAt da e), t)

/-! ### The operation word -/

/-- Bits [hi:lo] of an operation word. -/
def wbits (w : BitVec 128) (hi lo : Nat) : Nat := bits w.toNat hi lo

/-- Header fields (R128). -/
def wDfl (w : BitVec 128) : Nat := wbits w 127 120
def wOffset (w : BitVec 128) : Nat := wbits w 119 104
def wClass (w : BitVec 128) : Nat := wbits w 103 100
def wOpc (w : BitVec 128) : Nat := wbits w 99 92
def wDl (w : BitVec 128) : Bool := w.getLsbD 91
def wRnd (w : BitVec 128) : Nat := wbits w 90 89
def wSigEv (w : BitVec 128) : Nat := wbits w 88 85
def wWaitEv (w : BitVec 128) : Nat := wbits w 84 81
def wWaitCnt (w : BitVec 128) : Nat := wbits w 80 73

/-- The rounding mode of a word (R128). -/
def wRound (w : BitVec 128) : Rnd :=
  match wRnd w with
  | 1 => .zero
  | 2 => .stochastic
  | _ => .nearest

/-- The bits of `EMASK` (R131, R182). -/
def wEmask (w : BitVec 128) : Nat := wbits w 71 68

/-- Class and opcode are listed (R129, R146, R172). -/
def opcListed (cls opc : Nat) : Bool :=
  match cls with
  | 0 => opc ≤ 3
  | 1 => opc == 1 || opc == 2
  | 2 => (1 ≤ opc && opc ≤ 8) || (0x10 ≤ opc && opc ≤ 0x13) || (0x18 ≤ opc && opc ≤ 0x1C) || opc == 0x20 ||
      (0x28 ≤ opc && opc ≤ 0x2C) || (0x30 ≤ opc && opc ≤ 0x32) || opc == 0x38
  | 3 => 1 ≤ opc && opc ≤ 3
  | 4 => 1 ≤ opc && opc ≤ 4
  | 5 => 1 ≤ opc && opc ≤ 4
  | 6 => 1 ≤ opc && opc ≤ 3
  | _ => false

/-- The reserved argument ranges (hi, lo) of a class and opcode (R130, R145, R155, R158, R178, R182, R192, R193, R226). -/
def reservedArgs (cls opc : Nat) : List (Nat × Nat) :=
  match cls, opc with
  | 0, 0 => [(71, 0)]
  | 0, 1 => [(71, 48)]
  | 0, _ => [(71, 6)]
  | 2, _ => [(63, 60)]
  | 3, _ => [(12, 0)]
  | 4, 1 => [(18, 0)]
  | 4, 2 => [(71, 68), (62, 60), (32, 0)]
  | 4, 3 => [(4, 0)]
  | 4, 4 => [(18, 0)]
  | 5, 2 => [(36, 0)]
  | 5, _ => [(60, 0)]
  | 6, 1 => [(65, 0)]
  | 6, 2 => [(47, 0)]
  | 6, _ => [(56, 48), (23, 0)]
  | _, _ => []

/-- A word error (R129), for `cpf` cycles per flash. -/
def wordError (cpf : Nat) (w : BitVec 128) : Bool :=
  !opcListed (wClass w) (wOpc w) || wRnd w == 3 || decide (cpf ≤ wOffset w) || w.getLsbD 72 ||
  (reservedArgs (wClass w) (wOpc w)).any (fun r => wbits w r.1 r.2 != 0) ||
  (wClass w == 3 && wOpc w != 3 && wbits w 22 13 != 0)

/-- The engines of a mask in gang-slot order, under an engine rotation by k (R107, R207). -/
def enginesOf (mask k : Nat) : List Nat := (onesOf 4 mask).map fun e => (e + k) % 4

/-- The units in whose queues a word takes an entry (R140, R172), under an engine rotation by k. CTRL words take none. -/
def unitsOf (w : BitVec 128) (k : Nat) : List CoreUnit :=
  let es := (enginesOf (wEmask w) k).map fun e => CoreUnit.eng (Fin.ofNat 4 e)
  match wClass w, wOpc w with
  | 1, _ => es
  | 2, _ => [.vec]
  | 3, _ => [.str (Fin.ofNat 8 (wbits w 71 69))]
  | 4, 1 => .pgw :: .vec :: es
  | 4, 4 => .pgw :: .vec :: es
  | 4, 3 => [.pgw, .vec]
  | 4, _ => [.pgw]
  | 5, _ => [.chk]
  | 6, _ => [.que]
  | _, _ => []

/-! ### Descriptors -/

/-- An operand descriptor (R133); `rsv` says that a reserved bit is set. -/
structure Desc where
  scaleBase  : Nat
  scalePitch : Nat
  planePitch : Nat
  rowPitch   : Nat
  base       : Nat
  fmt        : Nat
  type       : Nat
  cq         : Nat
  rsv        : Bool
  deriving DecidableEq, Repr

/-- The descriptor that 32 bytes hold (R133). -/
def parseDesc (n : Nat) : Desc :=
  { scaleBase := bits n 255 208, scalePitch := bits n 207 176, planePitch := bits n 175 144, rowPitch := bits n 143 112
    base := bits n 111 64, fmt := bits n 55 52, type := bits n 51 50, cq := bits n 49 44
    rsv := bits n 63 56 != 0 || bits n 43 0 != 0 }

/-- The format a descriptor's code names (R133). -/
def fmtOf : Nat → Option Fmt
  | 0 => some .bf16 | 1 => some .fp16 | 2 => some .fp32 | 3 => some .fp64 | 4 => some .f8 | 5 => some .f8w
  | 6 => some .f4 | 7 => some .f8s | 8 => some .f4s | 9 => some .int8 | 10 => some .int4 | 11 => some .int8s
  | 12 => some .int32 | 13 => some .int48 | _ => none

/-- Entry `i` of the core's descriptor table (R133, R485). -/
def readDesc (c i : Nat) : Acc Desc := do
  let s ← get
  let b ← rd (.desc c) (sramOf c + fld (s.core c R.seqDesc) 22 0 + i * 32) 32
  return parseDesc (leNat b)

/-- Which part of the core's own memory holds the whole of [lo, hi): `some true` its SRAM, `some false` its turf slice. -/
def ownPart (c lo hi : Nat) : Option Bool :=
  if sramOf c ≤ lo ∧ hi ≤ sramOf c + sramLen then some true
  else if turfOf c ≤ lo ∧ hi ≤ turfOf c + turfLen then some false
  else none

/-- Bytes of a row of elements. -/
def rowBytes (f : Fmt) (cols : Nat) : Nat := cdiv (cols * f.storeBits) 8

/-- How blocks of a scaled operand run (R133). -/
inductive Dir where
  | row
  | col
  deriving DecidableEq, Repr

/-- The byte past the last element that an enumeration touches (R134). -/
def extentEnd (d : Desc) (row rows planes : Nat) : Nat :=
  d.base + (planes - 1) * d.planePitch + (rows - 1) * d.rowPitch + row

/-- The byte past the last scale byte. -/
def scaleEnd (d : Desc) (dir : Dir) (rows cols : Nat) : Nat :=
  match dir with
  | .row => d.scaleBase + (rows - 1) * d.scalePitch + cdiv cols 32
  | .col => d.scaleBase + (cdiv rows 32 - 1) * d.scalePitch + cols

/-- A range of rows of `row` bytes lies wholly in the core's SRAM or, unless `sramOnly`, wholly in its turf slice (R134). -/
def spanFits (c : Nat) (d : Desc) (row rows planes : Nat) (sramOnly : Bool) : Bool :=
  match ownPart c d.base (extentEnd d row rows planes) with
  | none => false
  | some sr => !sramOnly || sr

/-- A descriptor fits R134 as an operand of `rows` × `cols` elements in `planes` planes. -/
def descFits (c : Nat) (d : Desc) (f : Fmt) (dir : Dir) (rows cols planes : Nat) (sramOnly : Bool) : Bool :=
  spanFits c d (rowBytes f cols) rows planes sramOnly &&
  (!f.scaled || ownPart c d.scaleBase (scaleEnd d dir rows cols) == ownPart c d.base (extentEnd d (rowBytes f cols) rows planes))

/-- The elements that `cols` of them take in a block-scaled destination: the quantiser pads the last block with +0 (R72).
DEDUCED: log entry 99. -/
def padCols (f : Fmt) (cols : Nat) : Nat := if f.scaled then cdiv cols 32 * 32 else cols

/-- A memory descriptor with a listed format and no reserved bit (R134). -/
def descPlain (d : Desc) : Bool := d.type == 0 && !d.rsv && (fmtOf d.fmt).isSome

/-! ### Elements -/

/-- Element j's code in a row of bytes (R67). -/
def elemAt (f : Fmt) (bs : List Byte) (j : Nat) : Nat :=
  if f.storeBits = 4 then leAt bs (j / 2) 1 >>> (4 * (j % 2)) % 16 else leAt bs (j * (f.storeBits / 8)) (f.storeBits / 8)

/-- A row of codes as bytes; the last half byte of an odd 4-bit row comes from `old`. INT48 is written sign-extended (R68). -/
def packRow (f : Fmt) (codes : List Nat) (old : Nat) : List Byte :=
  if f.storeBits = 4 then
    let cs := if codes.length % 2 = 1 then codes ++ [old / 16] else codes
    (chunks 2 cs).map fun p => BitVec.ofNat 8 (p.headD 0 % 16 + p.getLastD 0 % 16 * 16)
  else codes.flatMap fun c => leBytes (f.storeBits / 8) (unsigned f.storeBits (signed f.width c))

/-- Row r of plane p of a descriptor, from byte o: its address. -/
def rowDa (d : Desc) (p r : Nat) : Nat := d.base + p * d.planePitch + r * d.rowPitch

/-- The codes of one row. -/
def readRow (w : Who) (d : Desc) (f : Fmt) (p r cols : Nat) : Acc (List Nat) := do
  let b ← rd w (rowDa d p r) (rowBytes f cols)
  return (List.range cols).map (elemAt f b)

/-- The values of one row, block scales applied along the row (R69, R70). -/
def readVals (w : Who) (d : Desc) (f : Fmt) (p r cols : Nat) : Acc (List Num) := do
  let cs ← readRow w d f p r cols
  if f.scaled then
    let sc ← rd w (d.scaleBase + r * d.scalePitch) (cdiv cols 32)
    return cs.mapIdx fun j c => applyScale (leAt sc (j / 32) 1) (f.decode c)
  else return cs.map f.decode

/-- One row of codes written, an odd row of 4-bit codes beside the nibble that stands there; the writes of R485 cannot fail where R134
holds. -/
def writeRow (w : Who) (d : Desc) (f : Fmt) (p r : Nat) (codes : List Nat) : Acc Unit := do
  let half := f.storeBits = 4 ∧ codes.length % 2 = 1
  (if half then wrHalf else wr) w (rowDa d p r) (packRow f codes 0)

/-- Scale bytes of a row written. -/
def writeScales (w : Who) (d : Desc) (r : Nat) (sc : List Nat) : Acc Unit :=
  wr w (d.scaleBase + r * d.scalePitch) (sc.map (BitVec.ofNat 8 ·))

end Sys2Proof.Machine
end

