-- ==== Sys2Proof/Machine/Flags.lean ====
section
/-!
DEFINITION. The flags and counters that operations set: event counters (R138), the counts of R65 and R109, descriptor and
format error flags (R95, R134).
-/

namespace Sys2Proof.Machine

/-! ### Counts of arithmetic events -/

/-- How many results saturated, became NaN from operands that were not, overflowed to infinity, saturated as integers (R65). -/
structure Tally where
  sat  : Nat := 0
  nan  : Nat := 0
  inf  : Nat := 0
  isat : Nat := 0
  deriving DecidableEq, Repr

/-- Two counts together. -/
def tallyAdd (a b : Tally) : Tally :=
  { sat := a.sat + b.sat, nan := a.nan + b.nan, inf := a.inf + b.inf, isat := a.isat + b.isat }

/-- What one rounded result counts; `nan` says that it is a NaN whose operands were none. -/
def tallyOf (r : Rounded) (nan : Bool) : Tally :=
  { sat := r.sat.toNat, nan := nan.toNat, inf := r.inf.toNat, isat := r.isat.toNat }

/-- A produced NaN. -/
def tallyNan (b : Bool) : Tally := { nan := b.toNat }

/-- Counts of a list together. -/
def tallySum (l : List Tally) : Tally := l.foldl tallyAdd {}

namespace State

/-- The counts added to a pair of registers in the layout of `ENG_FLT_CNT` and `ENG_OVF_CNT`. -/
def noteTally (s : State) (c flt ovf : Nat) (t : Tally) : State :=
  (s.updCore c flt fun w => incFld (incFld w 63 32 t.sat) 31 0 t.nan).updCore c ovf fun w =>
    incFld (incFld w 63 32 t.inf) 31 0 t.isat

/-- Counts of engine e (R109). -/
def noteEng (s : State) (c e : Nat) (t : Tally) : State :=
  s.noteTally c (0x1000 + e * 0x100 + R.engFltCnt) (0x1000 + e * 0x100 + R.engOvfCnt) t

/-- Counts of the vector engine. DEDUCED: log entry 27. -/
def noteVec (s : State) (c : Nat) (t : Tally) : State := s.noteTally c R.vecFltCnt R.vecOvfCnt t

/-! ### Event counters -/

/-- Event counter e of core c, 1-15 (R138). -/
def evCount (s : State) (c e : Nat) : Nat := fld (s.core c (R.seqEv (e / 4))) (e % 4 * 16 + 15) (e % 4 * 16)

/-- Event counter e incremented; 0 names none (R138). -/
def incEv (s : State) (c e : Nat) : State :=
  if e = 0 then s
  else s.updCore c (R.seqEv (e / 4)) fun w => setFld w (e % 4 * 16 + 15) (e % 4 * 16) (s.evCount c e + 1)

/-- The `WAIT_EV` condition of a word holds (R138). -/
def waitOk (s : State) (c : Nat) (w : BitVec 128) : Bool :=
  wWaitEv w == 0 || decide (((s.evCount c (wWaitEv w) : Int) - wWaitCnt w) % 256 < 128)

/-- `DESC_ERR_STS` of the sequencer (R134). -/
def descErr (s : State) (c : Nat) : State := s.updCore c R.seqSts fun w => setBit w 7 true

end State

end Sys2Proof.Machine
end

