-- ==== Sys2Proof/Machine/Pools.lean ====
section
/-!
DEFINITION. The page walker's tables: page frames (R165), contexts (R166), page lists (R167, R168), free-frame pools (R199), the
device status table (R200), and the walker's halt (R176).
-/

namespace Sys2Proof.Machine

/-- An entry of the page-frame table (R165): address in units of 64 bytes, class, state, references, fill, release RFN. -/
structure Frame where
  addr : Nat
  sz   : Nat
  st   : Nat
  ref  : Nat
  fill : Nat
  free : Nat
  deriving DecidableEq, Repr

/-- The 16 bytes of a frame entry, and back. -/
def parseFrame (n : Nat) : Frame :=
  { addr := bits n 127 86, sz := bits n 85 82, st := bits n 81 80, ref := bits n 79 64, fill := bits n 63 50, free := bits n 47 0 }

/-- A frame entry as a number. -/
def Frame.word (f : Frame) : Nat :=
  f.addr % 2 ^ 42 * 2 ^ 86 + f.sz % 16 * 2 ^ 82 + f.st % 4 * 2 ^ 80 + f.ref % 2 ^ 16 * 2 ^ 64 + f.fill % 2 ^ 14 * 2 ^ 50 +
    f.free % 2 ^ 48

/-- Token slots of a size class (R163). -/
def slotsOf (z : Nat) : Nat := 2 ^ (z + 4)

/-- A context entry (R166). -/
structure Ctx where
  gen    : Nat
  list   : Nat
  npages : Nat
  cap    : Nat
  grow   : Nat
  st     : Nat
  last   : Nat
  full   : Nat
  deriving DecidableEq, Repr

/-- The context entry that 32 bytes hold. -/
def parseCtx (n : Nat) : Ctx :=
  { gen := bits n 63 48, list := bits n 47 0, npages := bits n 127 115, cap := bits n 114 102, grow := bits n 101 98
    st := bits n 97 96, last := bits n 95 90, full := bits n 175 128 }

/-- A context entry as a number. -/
def Ctx.word (c : Ctx) : Nat :=
  c.gen % 2 ^ 16 * 2 ^ 48 + c.list % 2 ^ 48 +
    (c.npages % 2 ^ 13 * 2 ^ 51 + c.cap % 2 ^ 13 * 2 ^ 38 + c.grow % 16 * 2 ^ 34 + c.st % 4 * 2 ^ 32 + c.last % 64 * 2 ^ 26) *
      2 ^ 64 + c.full % 2 ^ 48 * 2 ^ 128

/-- A page descriptor (R167). -/
structure Page where
  pos   : Nat
  frame : Nat
  deriving DecidableEq, Repr

/-- The page descriptor that 8 bytes hold. -/
def parsePage (n : Nat) : Page := { pos := bits n 63 40, frame := bits n 15 0 }

/-- A page descriptor as a number. -/
def Page.word (p : Page) : Nat := p.pos % 2 ^ 24 * 2 ^ 40 + p.frame % 2 ^ 16

/-- The KV geometry of a core (R163): D, head slots, format, copy limit. -/
structure Geom where
  d   : Nat
  hs  : Nat
  fmt : Fmt
  cow : Nat
  deriving DecidableEq, Repr

namespace State

/-- The geometry `PGW_GEOM` holds. -/
def geom (s : State) (c : Nat) : Geom :=
  let g := s.core c R.pgwGeom
  { d := if bitAt g 4 then 128 else 64, hs := fld g 11 8 + 1
    fmt := match fld g 1 0 with | 1 => .int8s | 2 => .f4s | _ => .f8s
    cow := fld g 15 12 }

/-- Base of the page-frame table. -/
def pftBase (s : State) (c : Nat) : Nat := fld (s.core c R.pgwPftBase) 47 0

/-- Frame numbers in use. -/
def frames (s : State) (c : Nat) : Nat := fld (s.core c R.pgwPftBase) 63 48 + 1

/-- Address of the entry of frame f. -/
def frameDa (s : State) (c f : Nat) : Nat := s.pftBase c + f * 16

/-- Address of the entry of a context. -/
def ctxDa (s : State) (c x : Nat) : Nat := fld (s.core c R.pgwCtxBase) 47 0 + x * 32

/-- Address of slot i of pool z's ring (R199). -/
def poolDa (s : State) (c z i : Nat) : Nat := s.pftBase c + 0x10_0000 + z * 0x2_0000 + i % 65536 * 2

/-- Frames in pool z. -/
def poolCnt (s : State) (c z : Nat) : Nat := fld (s.core c (R.pgwPool z)) 16 0

/-- Watermark of pool z. -/
def poolWm (s : State) (c z : Nat) : Nat := fld (s.core c (R.pgwPool z)) 47 32

/-- Every context of the core is FREE and every frame ABSENT, as the walker's tables stand; before a walker has been given
tables nothing is in use (R169). -/
def tablesIdle (s : State) (c : Nat) : Bool :=
  let ctxs := (s.mem.filter fun e => s.ctxDa c 0 ≤ e.1 && e.1 < s.ctxDa c 4096).map fun e => (e.1 - s.ctxDa c 0) / 32
  let frs := (s.mem.filter fun e => s.frameDa c 0 ≤ e.1 && e.1 < s.frameDa c (s.frames c)).map fun e => (e.1 - s.pftBase c) / 16
  (s.core c R.pgwCtxBase == 0 || ctxs.all fun x => (parseCtx (s.peek (s.ctxDa c x) 32)).st == 0) &&
  (s.core c R.pgwPftBase == 0 || frs.all fun f => (parseFrame (s.peek (s.frameDa c f) 16)).st == 0)

/-- The count of pool z changed to n: above the watermark, the watermark flag may be set again (R199). -/
def setPoolCnt (s : State) (c z n : Nat) : State :=
  let t := s.updCore c (R.pgwPool z) fun w => setFld w 16 0 n
  if t.poolWm c z < n then t.updCx c fun x => { x with wmSet := x.wmSet &&& ~~~((1 : BitVec 16) <<< z) } else t

/-- A take has left pool z with its count: at or below the watermark, `WM_STS`, the interrupt and the log, once (R199). -/
def noteWatermark (s : State) (c z : Nat) : State :=
  if s.poolCnt c z ≤ s.poolWm c z && !(s.cxOf c).wmSet.getLsbD z then
    let t := (s.updCore c R.pgwSts fun w => setBit w (16 + z) true).updCx c fun x => { x with wmSet := x.wmSet ||| ((1 : BitVec 16) <<< z) }
    (t.logEv 0x32 (t.logSlot c) (leBytes 2 c ++ [BitVec.ofNat 8 z])).raise intWatermark
  else s

/-- The walker halts (R176, R177): the record, the flag, the log entry. A halted walker keeps its first record. -/
def walkerHalt (s : State) (c cause addr : Nat) : State :=
  if bitAt (s.core c R.pgwSts) 11 then s
  else
    let t := (s.updCore c R.pgwSts fun w => setBit w 11 true).setCore c R.pgwErrAddr
      (BitVec.ofNat 64 (2 ^ 63 + cause * 2 ^ 48 + addr % 2 ^ 48))
    let t := match t.slotOf c with
      | some p => t.updSlot p fun x => { x with walkerHalted := true }
      | none => t
    t.logEv 0x22 (t.logSlot c) (leBytes 2 c ++ [BitVec.ofNat 8 cause] ++ zeros 5 ++ leBytes 8 addr)

end State

/-! ### The walker's accesses -/

/-- A change of the state within a unit's work. -/
def step_ (f : State → State) : Acc Unit := modify f

/-- A frame entry read. -/
def rdFrame (c f : Nat) : Acc Frame := do
  let s ← get
  return parseFrame (leNat (← rdAt (.walker c) (s.frameDa c f) 16))

/-- A frame entry written. -/
def wrFrame (c f : Nat) (x : Frame) : Acc Unit := do
  let s ← get
  wr (.walker c) (s.frameDa c f) (leBytes 16 x.word)

/-- A context entry read. -/
def rdCtx (c x : Nat) : Acc Ctx := do
  let s ← get
  return parseCtx (leNat (← rdAt (.walker c) (s.ctxDa c x) 32))

/-- A context entry written. -/
def wrCtx (c x : Nat) (v : Ctx) : Acc Unit := do
  let s ← get
  wr (.walker c) (s.ctxDa c x) (leBytes 32 v.word)

/-- Descriptor i of a list. -/
def rdPage (c list i : Nat) : Acc Page := do
  return parsePage (leNat (← rdAt (.walker c) (list + i * 8) 8))

/-- Descriptor i of a list written. -/
def wrPage (c list i : Nat) (p : Page) : Acc Unit := wr (.walker c) (list + i * 8) (leBytes 8 p.word)

/-- The pages of a list. -/
def rdList (c list n : Nat) : Acc (List Page) := (List.range n).mapM (rdPage c list)

/-- A frame number returned to the tail of pool z (R199). -/
def poolPush (c z f : Nat) : Acc Unit := do
  let s ← get
  wr (.walker c) (s.poolDa c z ((s.cxOf c).poolHead.get 0 z + s.poolCnt c z)) (leBytes 2 f)
  step_ fun t => t.setPoolCnt c z (t.poolCnt c z + 1)

/-- The frame number at the head of pool z, taken (R199). -/
def poolPop (c z : Nat) : Acc Nat := do
  let s ← get
  let h := (s.cxOf c).poolHead.get 0 z
  let f := leNat (← rdAt (.walker c) (s.poolDa c z h) 2)
  step_ fun t => ((t.setPoolCnt c z (t.poolCnt c z - 1)).updCx c fun x =>
    { x with poolHead := x.poolHead.set z ((h + 1) % 65536) }).noteWatermark c z
  return f

/-- The PINNED frames whose release RFN passes `due` return to their pools, in ascending frame number (R198). -/
def releaseFrames (c : Nat) (due : Nat → Bool) : Acc Unit := do
  let s ← get
  let ks := ((s.mem.filter fun e => s.frameDa c 0 ≤ e.1 && e.1 < s.frameDa c (s.frames c)).map fun e =>
    (e.1 - s.pftBase c) / 16).eraseDups
  ks.forM fun f => do
    let raw := parseFrame (s.peek (s.frameDa c f) 16)
    if raw.st == 3 && due raw.free then
      let x ← rdFrame c f
      wrFrame c f { x with st := 1, free := 0 }
      poolPush c x.sz f

/-- A device status word updated by the shared-cache integer maximum: which 0 `KV_FULL`, 1 `SKIPPED` (R200). -/
def statusMax (c x which v : Nat) : Acc Unit := ExceptT.mk fun s =>
  let da := fld (s.core c R.pgwCstatBase) 47 0 + x * 16 + which * 8
  match s.atomicDa (.walker c) da 8 (fun t => if signed 64 t < signed 64 v then v else t) with
  | (.ok _, t) => (.ok (), t)
  | (.error e, t) => (.error (errAt da e), t)

/-- Work of the walker run to its end; an error halts the walker (R176). -/
def walkerRun (c : Nat) (x : Acc Unit) (s : State) : State :=
  match runAcc x s with
  | (.ok _, t) => t
  | (.error e, t) => t.walkerHalt c (errCause e) (errDa e)

end Sys2Proof.Machine
end

