-- ==== Sys2Proof/Machine/Mailbox.lean ====
section
/-!
DEFINITION. The mailbox: taking a command entry (R355, R357, R361), the checks every command shares (R363), completions (R356,
R358), buffers (R363), and the status codes (R365).
-/

namespace Sys2Proof.Machine

/-! ### Status codes (R365) -/

namespace Sts

abbrev ok : Nat := 0x0000
abbrev badOpcode : Nat := 0x0001
abbrev badLength : Nat := 0x0002
abbrev badArg : Nat := 0x0003
abbrev addressError : Nat := 0x0004
abbrev uncorrectable : Nat := 0x0005
abbrev timeout : Nat := 0x0006
abbrev targetReset : Nat := 0x0007
abbrev abortedByReset : Nat := 0x0008
abbrev notPermitted : Nat := 0x0009
abbrev lifecycleState : Nat := 0x000A
abbrev badAddress : Nat := 0x000B
abbrev dieUnavailable : Nat := 0x000C
abbrev runActive : Nat := 0x000D
abbrev slotState : Nat := 0x000E
abbrev coreState : Nat := 0x000F
abbrev badFormat : Nat := 0x0101
abbrev badDigest : Nat := 0x0102
abbrev badSignature : Nat := 0x0103
abbrev unsigned : Nat := 0x0104
abbrev partitionBusy : Nat := 0x0105
abbrev imageStale : Nat := 0x0106
abbrev periodMismatch : Nat := 0x0107
abbrev wordInvalid : Nat := 0x0108
abbrev routeInvalid : Nat := 0x0109
abbrev descInvalid : Nat := 0x010A
abbrev creditInvalid : Nat := 0x010B
abbrev queueInvalid : Nat := 0x010C
abbrev rotationInvalid : Nat := 0x010D
abbrev configRefused : Nat := 0x010E
abbrev notCounting : Nat := 0x0201
abbrev tooLate : Nat := 0x0202
abbrev tooEarly : Nat := 0x0203
abbrev marginPending : Nat := 0x0204
abbrev queueUnbound : Nat := 0x0205
abbrev linkDown : Nat := 0x0206
abbrev bcnState : Nat := 0x0207
abbrev startCancelled : Nat := 0x0208
abbrev genMismatch : Nat := 0x0301
abbrev ctxState : Nat := 0x0302
abbrev listInvalid : Nat := 0x0303
abbrev refOverflow : Nat := 0x0304
abbrev sharedFrame : Nat := 0x0305
abbrev frameState : Nat := 0x0306
abbrev poolShort : Nat := 0x0307
abbrev nbuBusy : Nat := 0x0401
abbrev nbuInvalid : Nat := 0x0402
abbrev nbuProtected : Nat := 0x0403
abbrev badToken : Nat := 0x0501
abbrev rateLimited : Nat := 0x0502

end Sts

/-! ### Opcodes (R364) -/

namespace Op

abbrev infoVersion : Nat := 0x0101
abbrev infoDevice : Nat := 0x0102
abbrev infoMap : Nat := 0x0103
abbrev resetWarm : Nat := 0x0201
abbrev resetCompute : Nat := 0x0202
abbrev resetPartition : Nat := 0x0203
abbrev schedLoad : Nat := 0x0301
abbrev schedUnload : Nat := 0x0302
abbrev schedInfo : Nat := 0x0303
abbrev bcnSetPeriod : Nat := 0x0401
abbrev bcnArm : Nat := 0x0402
abbrev bcnDisarm : Nat := 0x0403
abbrev runStart : Nat := 0x0404
abbrev runStop : Nat := 0x0405
abbrev queueBind : Nat := 0x0406
abbrev queueUnbind : Nat := 0x0407
abbrev coreTrapClear : Nat := 0x0408
abbrev pageCommit : Nat := 0x0501
abbrev pageRead : Nat := 0x0502
abbrev memStage : Nat := 0x0601
abbrev memAtomic : Nat := 0x0602
abbrev regGrant : Nat := 0x0603
abbrev nbuRun : Nat := 0x0701
abbrev nbuRawRun : Nat := 0x0702
abbrev nbuFence : Nat := 0x0703
abbrev nbuRegion : Nat := 0x0704
abbrev thmRead : Nat := 0x0801
abbrev thmCoolMin : Nat := 0x0802
abbrev lnkTarget : Nat := 0x0901
abbrev lnkRetrain : Nat := 0x0902
abbrev ageRead : Nat := 0x0A01
abbrev ageMeasure : Nat := 0x0A02
abbrev secAttest : Nat := 0x0B01
abbrev secCert : Nat := 0x0B02
abbrev secOwnerKey : Nat := 0x0B03
abbrev secLifecycle : Nat := 0x0B04
abbrev secDebugUnlock : Nat := 0x0B05
abbrev fwUpdate : Nat := 0x0B06
abbrev fwRecover : Nat := 0x0B07
abbrev logBind : Nat := 0x0C01
abbrev logEccRead : Nat := 0x0C02
abbrev logEccClear : Nat := 0x0C03

end Op

/-- The commands of R364: opcode, `LEN`, and the argument fields, each its first byte and its bytes. -/
def commands : List (Nat × Nat × List (Nat × Nat)) :=
  [(Op.infoVersion, 0, []), (Op.infoDevice, 0, []), (Op.infoMap, 16, [(0, 12)]), (Op.resetWarm, 0, []), (Op.resetCompute, 0, []),
   (Op.resetPartition, 8, [(0, 1)]), (Op.schedLoad, 24, [(0, 1), (8, 16)]), (Op.schedUnload, 8, [(0, 1)]), (Op.schedInfo, 8, [(0, 1)]),
   (Op.bcnSetPeriod, 8, [(0, 2)]), (Op.bcnArm, 8, [(0, 8)]), (Op.bcnDisarm, 0, []), (Op.runStart, 32, [(0, 2), (8, 24)]),
   (Op.runStop, 16, [(0, 2), (8, 8)]), (Op.queueBind, 16, [(0, 4), (8, 8)]), (Op.queueUnbind, 8, [(0, 2)]),
   (Op.coreTrapClear, 8, [(0, 2)]), (Op.pageCommit, 32, [(0, 4), (8, 24)]), (Op.pageRead, 8, [(0, 4)]), (Op.memStage, 16, [(0, 12)])] ++
  [(Op.memAtomic, 32, [(0, 2), (8, 24)]), (Op.regGrant, 16, [(0, 13)]), (Op.nbuRun, 24, [(0, 10), (16, 8)]),
   (Op.nbuRawRun, 24, [(0, 10), (16, 8)]), (Op.nbuFence, 16, [(0, 16)]), (Op.nbuRegion, 16, [(0, 3), (4, 8)]),
   (Op.thmRead, 16, [(0, 12)]), (Op.thmCoolMin, 8, [(0, 1)]), (Op.lnkTarget, 8, [(0, 2)]), (Op.lnkRetrain, 8, [(0, 1)]),
   (Op.ageRead, 16, [(0, 12)]), (Op.ageMeasure, 0, []), (Op.secAttest, 48, [(0, 44)]), (Op.secCert, 16, [(0, 12)]),
   (Op.secOwnerKey, 16, [(0, 12)]), (Op.secLifecycle, 16, [(0, 1), (8, 8)]), (Op.secDebugUnlock, 8, [(0, 8)]),
   (Op.fwUpdate, 16, [(0, 12)]), (Op.fwRecover, 16, [(0, 13)]), (Op.logBind, 16, [(0, 9)]), (Op.logEccRead, 16, [(0, 2), (8, 8)]),
   (Op.logEccClear, 16, [(0, 2), (8, 4)])]

/-! ### Ring indices -/

/-- Argument field: k bytes at byte o of `ARGS` (R363). -/
def arg (a : BitVec 384) (o k : Nat) : Nat := (a.toNat >>> (8 * o)) % 2 ^ (8 * k)

/-- Some byte of `ARGS` outside the named fields is not zero (R363). -/
def argsDirty (a : BitVec 384) (used : List (Nat × Nat)) : Bool :=
  (List.range 48).any fun b => arg a b 1 != 0 && !used.any fun f => f.1 ≤ b && b < f.1 + f.2

/-- How far index `a` lies ahead of index `b`, both free-running 32-bit indices. -/
def ahead (a b : Nat) : Nat := (a + 2 ^ 32 - b % 2 ^ 32) % 2 ^ 32

/-- The bytes of a command entry as they lie in BAR4 (R355). -/
def entryBytes (op : Nat) (m : Mbox) : List Byte :=
  leBytes 2 op ++ leBytes 2 m.tag.toNat ++ leBytes 2 m.len.toNat ++ leBytes 2 m.flags.toNat ++ leBytes 8 m.rsv.toNat ++
    leBytes 48 m.args.toNat

/-- The entry of a ring that 64 bytes of BAR4 hold, without its opcode (R355). -/
def mboxOf (r : Ring) (b : List Byte) : Mbox :=
  { ring := r, tag := BitVec.ofNat 16 (leNat ((b.drop 2).take 2)), len := BitVec.ofNat 16 (leNat ((b.drop 4).take 2))
    flags := BitVec.ofNat 16 (leNat ((b.drop 6).take 2)), rsv := BitVec.ofNat 64 (leNat ((b.drop 8).take 8))
    args := BitVec.ofNat 384 (leNat ((b.drop 16).take 48)) }

namespace State

/-- Registers of ring r: 0 `HOST_CRr_ADDR`, 1 `HOST_CRr_HEAD`, 2 `HOST_CRr_TAIL`, 3 `HOST_CMDr_HEAD`. -/
def crReg (s : State) (r k : Nat) : Word := s.host.cr.get 0 (4 * r + k)

/-- Register of ring r set. -/
def setCr (s : State) (r k : Nat) (v : Word) : State :=
  { s with host := { s.host with cr := s.host.cr.set (4 * r + k) v } }

/-- The commands of ring r taken and not complete. -/
def openCmds (s : State) (r : Nat) : List Cmd := s.kpr.accepted.filter fun c => c.ring == r

/-- Every earlier command of ring r has completed (R357): none is open, and none is still to be written. DEDUCED: log entry 70. -/
def ringIdle (s : State) (r : Nat) : Bool := (s.openCmds r).isEmpty && !s.kpr.done.any fun c => c.ring == r

/-- BAR4 offset of the entry of ring r that is next (R355). -/
def entryOff (s : State) (r : Nat) : Nat := r * 0x4000 + (s.crReg r 3).toNat % 256 * 64

/-- The next entry of ring r as BAR4 holds it. -/
def entryAt (s : State) (r : Nat) : List Byte := Memory.gets s.host.bar4 (s.entryOff r) 64

/-- The host has written the next entry of ring r, and the Keeper has not taken it. DEDUCED: log entry 69. -/
def freshAt (s : State) (r : Nat) : Bool := s.host.fresh.contains (256 * r + (s.crReg r 3).toNat % 256)

/-- The conditions of R357 on ring r, whose next entry has `FENCE` as given; in RECOVERY only ring 0 is served (R361). -/
def ringReady (s : State) (r : Nat) (fence : Bool) : Bool :=
  let i := (s.crReg r 3).toNat
  (s.kprState == 2 || (s.kprState == 3 && r == 0)) && bitAt (s.crReg r 0) 0 &&
  decide (0 < ahead (s.host.prod.get 0 r).toNat i) && decide (ahead i (fld (s.crReg r 1) 31 0) < 256) && (!fence || s.ringIdle r)

/-- How many rings are served before ring r, beginning behind the one served last (R357). -/
def turnsTo (s : State) (r : Nat) : Nat := (r + 63 - s.kpr.turn % 64) % 64

/-- The Keeper serves an opcode now: while it performs a reset it takes only `INFO_VERSION` and `INFO_DEVICE` (R360). -/
def servesNow (s : State) (op : Nat) : Bool :=
  s.kprState == 3 || s.kpr.reset.isNone || op == Op.infoVersion || op == Op.infoDevice

/-- The next entry of ring k is one that the Keeper would take before that of a later ring: what the host has written there, or, where
nothing is written yet, whatever its row will bring, but in a reset. DEDUCED: log entry 69. -/
def takesFirst (s : State) (k : Nat) : Bool :=
  let op := leNat ((s.entryAt k).take 2)
  s.ringReady k (((s.entryAt k).getD 6 0).getLsbD 1) &&
    if s.freshAt k then s.servesNow op else s.kpr.reset.isNone

/-- It is ring r's turn: no ring that comes before it has an entry to take (R357, R360). DEDUCED: log entry 69. -/
def inTurn (s : State) (r : Nat) : Bool :=
  (List.range 64).all fun k => !(decide (s.turnsTo k < s.turnsTo r) && s.takesFirst k)

/-- The entry may be taken now (R357, R360, R361): where the host has written one to BAR4, it is that one (R355). DEDUCED: log entry 69. -/
def takes (s : State) (op : Nat) (m : Mbox) : Bool :=
  s.ringReady m.ring.val (m.flags.getLsbD 1) && s.servesNow op && s.inTurn m.ring.val &&
    (!s.freshAt m.ring.val || s.entryAt m.ring.val == entryBytes op m)

/-- The entry is taken: it lies in BAR4, `HOST_CMDr_HEAD` advances, and the command is open (R355, R357). DEDUCED: log entry 69. -/
def taken (s : State) (op : Nat) (m : Mbox) : Cmd × State :=
  let r := m.ring.val
  let i := (s.crReg r 3).toNat
  let c : Cmd := { ring := r, idx := i, tag := m.tag, opcode := op, flags := m.flags, acc := s.fnWord, args := m.args, note := 0 }
  let t := s.setCr r 3 (BitVec.ofNat 64 ((i + 1) % 2 ^ 32))
  (c, { t with
    host := { t.host with
      bar4 := Memory.sets t.host.bar4 (s.entryOff r) (entryBytes op m), fresh := t.host.fresh.filter (· != 256 * r + i % 256) }
    kpr := { t.kpr with accepted := t.kpr.accepted ++ [c], turn := r } })

/-- Two commands are one and the same entry. -/
def sameCmd (a b : Cmd) : Bool := a.ring == b.ring && a.idx == b.idx

/-- The list without the first entry that is command c. -/
def dropCmd (c : Cmd) : List Cmd → List Cmd
  | [] => []
  | d :: l => if sameCmd c d then l else d :: dropCmd c l

/-- The list with the first entry that is command c replaced. -/
def replaceCmd (c e : Cmd) : List Cmd → List Cmd
  | [] => []
  | d :: l => if sameCmd c d then e :: l else d :: replaceCmd c e l

/-- A command completes: it is no longer open, and its completion waits to be written (R358). -/
def complete (s : State) (c : Cmd) (status detail : Nat) (result : List Byte) : State :=
  let d : Compl :=
    { ring := c.ring, tag := c.tag, opcode := c.opcode, noint := c.flags.getLsbD 0, status := status, detail := detail
      acc := c.acc, done := s.fnWord, result := result }
  { s with kpr := { s.kpr with accepted := dropCmd c s.kpr.accepted, done := s.kpr.done ++ [d] } }

/-- A command completes with a status and nothing else. -/
def answer (s : State) (c : Cmd) (status : Nat) : State := s.complete c status 0 []

/-- What the command still needs is noted. -/
def noteCmd (s : State) (c : Cmd) (n : Nat) : State :=
  { s with kpr := { s.kpr with accepted := replaceCmd c { c with note := n } s.kpr.accepted } }

/-- The open commands that `p` holds of complete with a status (R359). -/
def completeWhere (s : State) (p : Cmd → Bool) (status detail : Nat) (result : List Byte) : State :=
  forEach (s.kpr.accepted.filter p) s fun t c => t.complete c status detail result

/-- The ring whose next entry is taken next (R357). DEDUCED: log entry 69. -/
def turnRing (s : State) : Option Ring :=
  ((List.finRange 64).map fun k => k + Fin.ofNat 64 (s.kpr.turn + 1)).find? fun r => s.takesFirst r.val

/-- The next entry of ring r is one that the host has written, with an opcode that the running firmware does not know (R364). -/
def unknownAt (s : State) (r : Nat) : Bool := s.freshAt r && !commands.any fun e => e.1 == leNat ((s.entryAt r).take 2)

/-- Entries with opcodes that the running firmware does not know are taken while it is their turn, and complete with `BAD_OPCODE` (R357,
R364); `n` bounds them. DEDUCED: log entry 69. -/
def skipUnknown : Nat → State → State
  | 0, s => s
  | n + 1, s =>
    match s.turnRing with
    | none => s
    | some r =>
      if s.unknownAt r.val then
        let b := s.entryAt r.val
        let (c, t) := s.taken (leNat (b.take 2)) (mboxOf r b)
        skipUnknown n (t.answer c Sts.badOpcode)
      else s

/-- The Keeper takes what lies in the rings and has no row: entries of opcodes that it does not know (R357, R364). DEDUCED: log entry 69. -/
def sweepRings (s : State) : State := skipUnknown s.host.fresh.length s

/-- Taking an entry and the checks every command shares: the opcode in RECOVERY, `LEN`, reserved bits and bytes (R357, R361,
R363). Where it cannot be taken, those are first that have no row; where it cannot even then, nothing more happens.
DEDUCED: log entry 69. -/
def serve (s : State) (op len : Nat) (used : List (Nat × Nat)) (m : Mbox) (body : State → Cmd → State) : State :=
  let s := if s.takes op m then s else s.sweepRings
  if !s.takes op m then s
  else
    let (c, t) := s.taken op m
    if t.kprState == 3 && op != Op.infoVersion && op != Op.fwRecover then t.answer c Sts.badOpcode
    else if m.len.toNat != len then t.answer c Sts.badLength
    else if m.rsv != 0 || 4 ≤ m.flags.toNat || argsDirty m.args used then t.answer c Sts.badArg
    else body t c

/-! ### Buffers -/

/-- The device may initiate memory requests (R343); in D3hot it may not (R342). PRESUMED: log entry 104. -/
def mayMaster (s : State) : Bool := s.host.busMaster && !s.host.d3

/-- The status of a failed Keeper access (R365): of one that a wipe turns away `TARGET_RESET` (R304), of one to a part whose buoy is low
`DIE_UNAVAILABLE` (R376). DEDUCED: log entry 74. -/
def errStatus (s : State) : AccErr → Nat
  | .ue _ _ _ => Sts.uncorrectable
  | .addr _ => Sts.addressError
  | .targetReset da => if s.buoyLow da then Sts.dieUnavailable else Sts.targetReset
  | .frame _ => Sts.frameState

/-- A host bus address is named (R363). -/
def bufHost (buf : Nat) : Bool := buf.testBit 63

/-- The address in a `BUF` field. -/
def bufAddr (buf : Nat) : Nat := buf % 2 ^ 63

/-- Bytes of host memory. -/
def hostRead (s : State) (a n : Nat) : List Byte := Memory.gets s.hostMem a n

/-- Bytes of host memory written. -/
def hostWrite (s : State) (a : Nat) (bs : List Byte) : State := { s with hostMem := Memory.sets s.hostMem a bs }

/-- A command buffer read; while Bus Master Enable is clear an access to host memory cannot be made and times out
(R261, R343). -/
def bufRead (s : State) (buf n : Nat) : Except Nat (List Byte) × State :=
  if buf % 64 != 0 then (.error Sts.badArg, s)
  else if bufHost buf then
    if s.mayMaster then (.ok (s.hostRead (bufAddr buf) n), s) else (.error Sts.timeout, s)
  else
    match s.readDa Who.host (bufAddr buf) n with
    | (.ok b, t) => (.ok b, s.aside fun _ => t)
    | (.error e, t) => (.error (s.errStatus e), s.aside fun _ => t)

/-- A command buffer written; the status is `OK` where it was. -/
def bufWrite (s : State) (buf : Nat) (bs : List Byte) : Nat × State :=
  if buf % 64 != 0 then (Sts.badArg, s)
  else if bufHost buf then
    if s.mayMaster then (Sts.ok, s.hostWrite (bufAddr buf) bs) else (Sts.timeout, s)
  else
    match s.writeDa Who.host (bufAddr buf) bs with
    | (none, t) => (Sts.ok, t)
    | (some e, t) => (s.errStatus e, t)

end State

end Sys2Proof.Machine
end

