-- ==== Sys2Proof/Machine/Queues.lean ====
section
/-!
DEFINITION. The queues of a run: rings in HBM (R221), arrival and snapshots (R222-R225), the cord batcher (R120-R124), output
entries, notices and the publication of tails (R229-R231, R486), the host's index writes (R347).
-/

namespace Sys2Proof.Machine

/-! ### Flag bits of an output entry (R221) -/

abbrev flInputLate : Nat := 0x001
abbrev flCordMissed : Nat := 0x002
abbrev flInputDropped : Nat := 0x004
abbrev flChannelHalted : Nat := 0x008
abbrev flKvFull : Nat := 0x010
abbrev flAttnSkipped : Nat := 0x020
abbrev flGap : Nat := 0x040
abbrev flInputTrunc : Nat := 0x080
abbrev flWalkerHalted : Nat := 0x100
abbrev flInputErr : Nat := 0x200

/-- Index `i` moved on by `n`, a free-running 32-bit index. -/
def idxAdd (i n : Nat) : Nat := (i + n) % 2 ^ 32

/-- An input kind: plain input, cord or internal cord. -/
def QueueDecl.input (d : QueueDecl) : Bool := d.kind < 3

/-- A cord kind. -/
def QueueDecl.cordKind (d : QueueDecl) : Bool := d.kind == 1 || d.kind == 2

/-- Ring entries, bytes of an entry, and the address of index i (R221). -/
def QueueDecl.depth (d : QueueDecl) : Nat := 2 ^ d.depthLog
def QueueDecl.esize (d : QueueDecl) : Nat := 2 ^ d.esizeLog
def QueueDecl.entryDa (d : QueueDecl) (i : Nat) : Nat := d.ring + i % d.depth * d.esize

/-- The cord points in use (R206). -/
def QueueDecl.points (d : QueueDecl) : List Nat := d.cpoints.filter (· != 0xFFFF)

namespace State

/-- The declaration of queue q of the image in slot p. -/
def queDecl? (s : State) (p q : Nat) : Option QueueDecl :=
  match (s.slot p).img with
  | none => none
  | some i => i.queues.find? fun d => d.q == q

/-- Queue q of slot p. -/
def que (s : State) (p q : Nat) : QueueX := (s.slot p).queues.get {} q

/-- Queue changed by `f`. -/
def updQue (s : State) (p q : Nat) (f : QueueX → QueueX) : State :=
  s.updSlot p fun x => { x with queues := x.queues.set q (f (x.queues.get {} q)) }

/-- The declared queues of slot p, in order of their numbers. -/
def queNums (s : State) (p : Nat) : List Nat := (List.range 64).filter fun q => (s.queDecl? p q).isSome

/-- A flag of `KPR_Qq_STS` set. -/
def queFlag (s : State) (p q bit : Nat) : State := s.updQue p q fun x => { x with sts := setBit x.sts bit true }

/-- Core c is fed by a queue: its `FEED` bit, or that of the core whose stream it has taken over (R208). -/
def feeds (s : State) (p : Nat) (d : QueueDecl) (c : Nat) : Bool := d.feed.testBit ((s.slot p).streamOf.get c c)

/-! ### Writing entries -/

/-- No output entry of this flash is written any more (R143, R337). -/
def muted (s : State) (p rfn : Nat) : Bool :=
  match (s.slot p).mute with
  | none => false
  | some m => m.toNat ≤ rfn

/-- An output entry is lost: `LOST_CNT`, `GAP_STS`, and `GAP` on the next one written (R231). -/
def loseEntry (s : State) (p q : Nat) : State :=
  s.updQue p q fun x => { x with sts := setBit (incFld x.sts 47 16 1) 1 true, gap := true }

/-- An access of core w.core's queue port to `n` bytes has returned `TARGET_RESET`, 100 µs having passed (R333).
DESIGN CHOICE: log entry 35. -/
def portLate (s : State) (w : Who) (da n : Nat) : Bool :=
  w.kind == 8 && (s.cxOf w.core).late.any fun a => decide (da ≤ a ∧ a < da + n)

/-- An entry of queue q written to its ring at the next index, or lost (R231, R486). The header is formed from the index and
from whether `GAP` is due. -/
def putEntry (s : State) (w : Who) (p q rfn : Nat) (d : QueueDecl) (header : Nat → Bool → List Byte) (payload : List Byte) : State :=
  let x := s.que p q
  if d.depth ≤ ahead x.wtail (fld x.head 31 0) then s.loseEntry p q
  else if s.portLate w (d.entryDa x.wtail) (32 + payload.length) then s.loseEntry p q
  else
    match s.writeDa w (d.entryDa x.wtail) (header x.wtail x.gap ++ payload) with
    | (some _, t) => t.loseEntry p q
    | (none, t) => t.updQue p q fun y => { y with wtail := idxAdd y.wtail 1, wrote := y.wrote ++ [rfn], gap := false }

/-- Header of an output entry (R221). -/
def outHeader (kind ctx rfn flags len ans idx : Nat) : List Byte :=
  leBytes 8 (kind % 16 * 2 ^ 60 + ctx % 4096 * 2 ^ 48 + rfn % 2 ^ 48) ++
  leBytes 8 (flags % 2 ^ 16 * 2 ^ 48 + len % 2 ^ 16 * 2 ^ 32 + ans % 2 ^ 32) ++ leBytes 8 (idx % 2 ^ 32) ++ zeros 8

/-- The halt flags that every output entry of a run carries from a halt onward (R157, R177, R221). DEDUCED: log entry 37. -/
def haltFlags (s : State) (p : Nat) : Nat :=
  (if (s.slot p).channelHalted then flChannelHalted else 0) + (if (s.slot p).walkerHalted then flWalkerHalted else 0)

/-- An output entry of `LEN` len written to an output queue (R229-R231). -/
def putOut (s : State) (w : Who) (p q : Nat) (d : QueueDecl) (kind ctx rfn flags len ans : Nat) (payload : List Byte) : State :=
  if s.muted p rfn then s
  else
    let fl := flags ||| s.haltFlags p
    s.putEntry w p q rfn d (fun i gap => outHeader kind ctx rfn (if gap then fl ||| flGap else fl) len ans i) payload

/-- An entry that the schedule writes to an internal cord queue, with its deadline (R226). -/
def putIn (s : State) (w : Who) (p q : Nat) (d : QueueDecl) (ctx rfn dl : Nat) (payload : List Byte) : State :=
  if s.muted p rfn then s
  else s.putEntry w p q rfn d
    (fun _ _ => leBytes 8 (ctx % 4096 * 2 ^ 48 + dl % 2 ^ 48) ++ leBytes 8 (payload.length % 2 ^ 16 * 2 ^ 32) ++ zeros 16) payload

/-! ### Arrival -/

/-- The entries that queue q's snapshot of flash r shows for the first time: their headers are read, and each is in time when
this snapshot is one of those of R223 (R121, R223, R486). -/
def showEntries (s : State) (p q r : Nat) (d : QueueDecl) : State :=
  let x := s.que p q
  let lo := x.seen
  let t := forEach (List.range (ahead (fld x.avail 31 0) lo)) s fun t k =>
    let i := idxAdd lo k
    match t.readDa ⟨8, 0xFFFF⟩ (d.entryDa i) 32 with
    | (.error _, u) =>
      u.updSlot p fun y => { y with
        notices := y.notices ++ [{ q := q, idx := i, ctx := 0, flags := flInputErr, rfn := BitVec.ofNat 48 r }]
        queues := y.queues.set q { y.queues.get {} q with done := i :: (y.queues.get {} q).done } }
    | (.ok b, u) =>
      let h := leAt b 0 8
      let dl := bits h 47 0
      let e : InEnt :=
        { idx := i, dl := BitVec.ofNat 48 dl, ctx := bits h 59 48, len := leAt b 12 2, inTime := decide (r ≤ dl - d.w) }
      u.updQue p q fun y => { y with ents := y.ents ++ [e] }
  t.updQue p q fun y => { y with seen := fld x.avail 31 0 }

/-- The snapshots of the mark that begins flash r of slot p's run (R223). -/
def snapshot (s : State) (p r : Nat) : State :=
  forEach (s.queNums p) s fun t q =>
    match t.queDecl? p q with
    | some d => if d.input then (t.showEntries p q r d) else t
    | none => t

/-! ### The cord batcher -/

/-- An entry goes before another in a cord: by deadline, then by queue sequence number (R122). `head` is the queue's head. -/
def entBefore (head : Nat) (a b : InEnt) : Bool :=
  a.dl.toNat < b.dl.toNat || (a.dl == b.dl && ahead a.idx head ≤ ahead b.idx head)

/-- The entries that a cord point of flash f may take, in their order (R122). -/
def eligible (x : QueueX) (w f : Nat) : List InEnt :=
  sortBy (entBefore (fld x.head 31 0)) (x.ents.filter fun e => e.inTime && decide (f ≤ e.dl.toNat ∧ e.dl.toNat ≤ f + w))

/-- The cord that a cord point of flash f issues: full, partial or empty (R122). -/
def cordOf (x : QueueX) (w f : Nat) : List InEnt :=
  let l := eligible x w f
  if 32 ≤ l.length then l.take 32
  else match l with
    | [] => []
    | e :: _ => if e.dl.toNat = f then l else []

/-- Entries leave those that wait, and count for the head from now on (R225). -/
def settle (x : QueueX) (l : List InEnt) : QueueX :=
  { x with ents := x.ents.filter (fun e => !l.contains e), done := l.map (·.idx) ++ x.done }

/-- Entries are answered by notices with a flag (R121, R123, R224). -/
def answerEnts (s : State) (p q rfn flags : Nat) (l : List InEnt) : State :=
  (s.updQue p q fun x => settle x l).updSlot p fun y => { y with
    notices := y.notices ++ l.map fun e =>
      { q := q, idx := e.idx, ctx := e.ctx, flags := flags, rfn := BitVec.ofNat 48 rfn } }

/-- Cord point k of queue q in flash f: the cord is issued; after the last point of the flash the entries of deadline f that
no cord took are missed (R122, R123). -/
def cordPointAt (s : State) (p q k f : Nat) (d : QueueDecl) : State :=
  match d.points[k]? with
  | none => s
  | some off =>
    let l := cordOf (s.que p q) d.w f
    let t := s.updQue p q fun x =>
      { settle x l with cord := some { rfn := BitVec.ofNat 48 f, off := off
                                       lanes := l.map fun e => { idx := e.idx, ctx := e.ctx, len := e.len } } }
    if k + 1 = d.points.length then
      t.answerEnts p q f flCordMissed ((t.que p q).ents.filter fun e => e.inTime && e.dl.toNat == f)
    else t

/-! ### The end of a flash -/

/-- Entries of an input kind that flash n must answer: plain ones untaken, cord ones missed, late ones whose deadline has come
(R121, R123, R224). -/
def closeEntries (s : State) (p q n : Nat) (d : QueueDecl) : State :=
  let dueNow := (s.que p q).ents.filter fun e => e.inTime && e.dl.toNat == n
  let t := s.answerEnts p q n (if d.cordKind then flCordMissed else flInputDropped) dueNow
  let late := (t.que p q).ents.filter fun e => !e.inTime && decide (e.dl.toNat ≤ n)
  let u := t.answerEnts p q n flInputLate late
  if late.isEmpty then u else u.queFlag p q 0

/-- The notices of flash n written to output queue o, after its entries: by queue number, then by index (R230). -/
def writeNotices (s : State) (p o : Nat) (d : QueueDecl) : State :=
  let mine := (List.range 64).flatMap fun q =>
    match s.queDecl? p q with
    | some i =>
      if i.input && i.outq == o then
        sortBy (fun a b => ahead a.idx (fld (s.que p q).head 31 0) ≤ ahead b.idx (fld (s.que p q).head 31 0))
          ((s.slot p).notices.filter fun n => n.q == q)
      else []
    | none => []
  forEach mine s fun t n => t.putOut ⟨8, 0xFFFF⟩ p o d 2 n.ctx n.rfn.toNat n.flags 0 n.idx []

/-- The head moves past the longest run of indices taken or answered (R225). -/
def runLen (done : List Nat) : Nat → Nat → Nat
  | 0, _ => 0
  | k + 1, i => if done.contains i then 1 + runLen done k (idxAdd i 1) else 0

/-- The head of an input kind advanced. -/
def advanceHead (x : QueueX) : QueueX :=
  let h := fld x.head 31 0
  let n := runLen x.done x.done.length h
  { x with head := setFld x.head 31 0 (idxAdd h n), done := x.done.filter fun i => ahead i h ≥ n }

/-- The tail of an output kind or of an internal cord queue published (R230); an output queue's vector is sent when entries are
new and no host ring is bound (R351). -/
def publish (s : State) (p q : Nat) (d : QueueDecl) : State :=
  let x := s.que p q
  let fresh := x.wtail != fld x.tail 31 0
  let t := s.updQue p q fun y => { y with tail := setFld y.tail 31 0 y.wtail, avail := setFld y.avail 31 0 y.wtail, wrote := [] }
  if d.kind == 3 && fresh && x.vector != 0 && !x.hostRing then t.sendMsix x.vector else t

/-- The mark that ends flash n of slot p: entries answered, notices written, tails published, heads advanced
(R224, R225, R230). DEDUCED: log entry 15. -/
def closeFlash (s : State) (p n : Nat) : State :=
  let qs := s.queNums p
  let t := forEach qs s fun t q =>
    match t.queDecl? p q with
    | some d => if d.input then t.closeEntries p q n d else t
    | none => t
  let t := forEach qs t fun t q =>
    match t.queDecl? p q with
    | some d => if d.kind == 3 then t.writeNotices p q d else t
    | none => t
  forEach qs (t.updSlot p fun y => { y with notices := [] }) fun t q =>
    match t.queDecl? p q with
    | some d =>
      let t := if 2 ≤ d.kind then t.publish p q d else t
      if d.input then t.updQue p q advanceHead else t
    | none => t

/-- An output kind keeps of its unpublished entries those of flashes before m (R143, R230). -/
def keepBefore (m : Nat) (x : QueueX) : QueueX :=
  let kept := x.wrote.takeWhile fun f => decide (f < m)
  { x with wtail := idxAdd (fld x.tail 31 0) kept.length, wrote := kept }

/-- From flash m on no output entry is written: of what lies unpublished in the rings, the entries of flashes before m stay (R143, R337). -/
def muteFrom (s : State) (p : Nat) (m : BitVec 48) : State :=
  s.updSlot p fun y => { y with
    mute := some (match y.mute with
      | some o => if o.toNat ≤ m.toNat then o else m
      | none => m)
    queues := y.queues.map fun e => (e.1, keepBefore m.toNat e.2) }

/-- The queues of slot p armed for a run (R216): what an earlier run saw is forgotten, `LOST_CNT` cleared; an entry lost before it
still gives the next one `GAP` (R231). -/
def armQueues (s : State) (p : Nat) : State :=
  s.updSlot p fun y => { y with
    notices := []
    queues := y.queues.map fun e => (e.1, { e.2 with
      sts := setFld e.2.sts 47 16 0, seen := fld e.2.head 31 0, ents := [], done := [], cord := none
      wtail := fld e.2.tail 31 0, wrote := [] }) }

/-! ### Index writes of the host -/

/-- The host writes the tail of an input kind (R222). -/
def tailWrite (s : State) (p q v : Nat) (d : QueueDecl) : State :=
  let x := s.que p q
  let back := 2 ^ 31 ≤ ahead v (fld x.tail 31 0)
  if back || d.depth < ahead v (fld x.head 31 0) then s.queFlag p q 2
  else s.updQue p q fun y => { y with
    tail := setFld y.tail 31 0 v
    avail := if y.hostRing then y.avail else setFld y.avail 31 0 v
    wtail := if d.kind == 2 then v else y.wtail }

/-- The host writes the head of an output kind (R347). -/
def headWrite (s : State) (p q v : Nat) : State :=
  let x := s.que p q
  if 2 ^ 31 ≤ ahead v (fld x.head 31 0) || ahead (fld x.tail 31 0) (fld x.head 31 0) < ahead v (fld x.head 31 0) then
    s.queFlag p q 2
  else s.updQue p q fun y => { y with head := setFld y.head 31 0 v }

end State

end Sys2Proof.Machine
end

