-- ==== Sys2Proof/Machine/Units.lean ====
section
/-!
DEFINITION. The units of a core as a run uses them: their queues and credits (R140), the word a unit may issue (R136), the
engines' power states (R115-R119), banking (R161), the stream of a core (R135, R205), the halt of a run (R143, R218, R337) and the
trap of a core (R142), deadline operations (R41, R190).
-/

namespace Sys2Proof.Machine

/-! ### The operation word as units see it -/

/-- Channel of a STR word (R155). -/
def wCh (w : BitVec 128) : Nat := wbits w 71 69

/-- ATTN or SCORES. -/
def wAttn (w : BitVec 128) : Bool := wClass w == 4 && (wOpc w == 1 || wOpc w == 4)

/-- RFN by whose flash a deadline operation must be complete; `none` for any other word (R41, R190). -/
def QWord.due (q : QWord) : Option Nat :=
  if wAttn q.word then some (q.rfn.toNat + wbits q.word 21 19)
  else if wDl q.word then some q.rfn.toNat else none

/-- The word drains the bank it names (R131). -/
def wDrains (w : BitVec 128) : Bool := wOpc w == 2 || w.getLsbD 61

/-- The word drains the accumulators of engine e, which is its gang slot 0 (R107). -/
def drainsOn (e : Nat) (q : QWord) : Bool := wDrains q.word && (enginesOf (wEmask q.word) q.shift).head? == some e

/-- Two entries are one and the same word. -/
def sameWord (a b : QWord) : Bool := a.rfn == b.rfn && a.op == b.op

/-! ### Unit states in registers -/

/-- Engine states (R119). -/
abbrev engOff : Nat := 0
abbrev engBanked : Nat := 1
abbrev engIdle : Nat := 2
abbrev engRampUp : Nat := 3
abbrev engActive : Nat := 4
abbrev engKindle : Nat := 5
abbrev engRampDown : Nat := 6
abbrev engFault : Nat := 7

/-- States of the vector engine and the page walker. -/
abbrev unitOff : Nat := 0
abbrev unitBanked : Nat := 1
abbrev unitIdle : Nat := 2
abbrev unitActive : Nat := 3

/-- The core's own record of a unit other than a stream channel. -/
def CoreX.unit (x : CoreX) : CoreUnit → UnitX
  | .eng e => (x.eng.get {} e.val).u
  | .vec => x.vec
  | .pgw => x.pgw
  | .chk => x.chk
  | .que => x.que
  | .str _ => {}

/-- A unit's record changed; a stream channel has none. -/
def CoreX.setUnit (x : CoreX) (u : CoreUnit) (f : UnitX → UnitX) : CoreX :=
  match u with
  | .eng e => { x with eng := x.eng.upd {} e.val fun y => { y with u := f y.u } }
  | .vec => { x with vec := f x.vec }
  | .pgw => { x with pgw := f x.pgw }
  | .chk => { x with chk := f x.chk }
  | .que => { x with que := f x.que }
  | .str _ => x

/-- Depth of a unit's queue (R140). -/
def CoreUnit.depth : CoreUnit → Nat
  | .eng _ => 4
  | .vec => 16
  | .str _ => 32
  | .pgw => 8
  | .chk => 8
  | .que => 4

/-- Words that a unit's queue holds; the stream channels share one (R140). -/
def CoreX.queued (x : CoreX) : CoreUnit → List QWord
  | .str _ => x.strQ
  | u => (x.unit u).queue

/-- Every word dispatched and not complete. -/
def CoreX.words (x : CoreX) : List QWord :=
  x.eng.flatMap (fun e => e.2.u.queue ++ e.2.u.run.toList ++ e.2.drain.toList) ++
  [x.vec, x.pgw, x.chk, x.que].flatMap (fun u => u.queue ++ u.run.toList) ++
  x.strQ ++ x.strRun.map (·.2) ++ x.ctl.toList

/-- No unit holds a word. -/
def CoreX.empty (x : CoreX) : Bool := x.words.isEmpty

/-! ### Fields of an ENG word (R131, R132) -/

/-- The accumulator bank that a word uses (R131). -/
def wBank (w : BitVec 128) : Nat := wbits w 62 62

/-- Passes of a word (R132). -/
def wPasses (w : BitVec 128) : Nat :=
  match wbits w 60 59 with
  | 0 => 1
  | 1 => 3
  | 2 => 6
  | _ => wbits w 58 56 + 1

/-- Streamed rows, columns and tiles per pass of a word (R131). -/
def wM (w : BitVec 128) : Nat := wbits w 55 48 + 1
def wN (w : BitVec 128) : Nat := wbits w 47 43 + 1
def wT (w : BitVec 128) : Nat := wbits w 42 27 + 1

/-- Cycles from issue to the last accumulator update of an MMUL with every cycle executed: the first load, the swaps, the
streamed rows, the waits between swaps, the array (R97, R101-R104). A DRAIN accumulates nothing. DEDUCED: log entry 21. -/
def accSpan (w : BitVec 128) : Nat :=
  if wOpc w = 2 then 0
  else
    let swaps := cdiv (wT w) (popCount 4 (wEmask w)) * wPasses w
    32 + swaps * (1 + wM w) + (swaps - 1) * (62 - wM w) + wN w - 1 + 33

namespace State

/-- Cycle j of a window is removed at skip level n (R400). -/
def removedAt (n j : Nat) : Bool := decide (j * n / 32 < (j + 1) * n / 32)

/-- Cycles that a core executes of the first k of a window at skip level n (R400). -/
def ranOf (n k : Nat) : Nat := k - k * n / 32

/-- Cycles executed of the offsets [0, off) of a flash whose windows so far stood at the levels `ls`, oldest first, and since then
at `now` (R400, R405). -/
def execIn (ls : List Nat) (now off : Nat) : Nat :=
  (List.range (off / 32)).foldl (fun n w => n + ranOf (ls.getD w now) 32) 0 + ranOf (ls.getD (off / 32) now) (off % 32)

/-- Power state of engine e. -/
def engState (s : State) (c e : Nat) : Nat := fld (s.eng c e R.engSts) 2 0

/-- Power state of engine e set. -/
def setEngState (s : State) (c e v : Nat) : State := s.updEng c e R.engSts fun w => setFld w 2 0 v

/-- What core c's engine e holds beyond its registers. -/
def engX (s : State) (c e : Nat) : EngX := (s.cxOf c).eng.get {} e

/-- Engine record changed. -/
def updEngX (s : State) (c e : Nat) (f : EngX → EngX) : State := s.updCx c fun x => { x with eng := x.eng.upd {} e f }

/-- State of the vector engine, and of the page walker. -/
def vecState (s : State) (c : Nat) : Nat := fld (s.core c R.vecSts) 1 0
def pgwState (s : State) (c : Nat) : Nat := fld (s.core c R.pgwSts) 1 0

/-- State of the vector engine, and of the page walker, set. -/
def setVecState (s : State) (c v : Nat) : State := s.updCore c R.vecSts fun w => setFld w 1 0 v
def setPgwState (s : State) (c v : Nat) : State := s.updCore c R.pgwSts fun w => setFld w 1 0 v

/-! ### Time within a run -/

/-- Cycles per flash in force (R31). -/
def cpf (s : State) : Nat := fld s.bcn.cpf 15 0

/-- Offset cycles of the current flash, those that occultations have added included (R47). -/
def flashLen (s : State) (p : Nat) : Nat := s.cpf + (s.slot p).stretch

/-- Offset cycles from the beginning of flash s - 1 to offset `off` of the current flash. DEDUCED: log entry 18. -/
def runCycle (s : State) (p off : Nat) : Nat := (s.slot p).flashAt + off

/-- RFN of the current flash for a slot: while the start is prepared no flash of the run has begun, and a run that ends stays in the
flash whose operations it completes (R52). -/
def curRfn (s : State) (p : Nat) : Nat :=
  match (s.slot p).ending with
  | some (n, _) => n.toNat
  | none => if s.slotState p == 3 then (s.rfnOf p).toNat else 0

/-- The same with -1 for flash s - 1. -/
def curFlash (s : State) (p : Nat) : Int := if s.slotState p == 3 then (s.curRfn p : Int) else -1

/-- The compiled issue cycle of a word, offset `OFFSET` of the flash of its RFN, in offset cycles from the beginning of flash
s - 1 (R115). DEDUCED: log entry 18. -/
def issueCycle (s : State) (p : Nat) (q : QWord) : Int :=
  let d : Int := (q.rfn.toNat : Int) - s.curFlash p
  ((s.slot p).flashAt : Int) + (if 0 < d then ((s.slot p).stretch : Int) else 0) + d * s.cpf + wOffset q.word

/-- The image of core c's run asks for legacy pauses (R406). -/
def legacyOn (s : State) (c : Nat) : Bool :=
  match s.slotOf c with
  | none => false
  | some p => match (s.slot p).img with
    | none => false
    | some i => i.legacy

/-- Skip level by which the damper removes cycles of core c: D2 and D4 remove those of skip 16 and 24, and with legacy pauses a skip
level removes none (R400, R406). -/
def levelNow (s : State) (c : Nat) : Nat :=
  if s.legacyOn c && fld (s.die (dieOf c) R.thmSts) 1 0 == 0 then 0 else (s.thmDie (dieOf c)).skip.get 0 (localOf c)

/-- The damper removes offset cycle `off` of core c's flash: nothing executes in it in any unit of the core (R400). -/
def removed (s : State) (c off : Nat) : Bool := removedAt ((s.cxOf c).levels.reverse.getD (off / 32) (s.levelNow c)) (off % 32)

/-- exec(o) of R405: cycles that core c has executed of the offsets [0, off) of the current flash. -/
def execOf (s : State) (c off : Nat) : Nat := execIn (s.cxOf c).levels.reverse (s.levelNow c) off

/-- Cycles that core c has executed from the beginning of flash s - 1 to offset `off` of the current flash. -/
def ran (s : State) (c off : Nat) : Nat := (s.cxOf c).ranBase + s.execOf c off

/-! ### Engine power states -/

/-- Kindling cycles are counted (R115). -/
def addKnd (s : State) (c e n : Nat) : State := s.updEng c e R.engKndCnt fun w => incFld w 47 0 n

/-- The engine's kindling from its start to executed cycle t is counted, and ends. DEDUCED: log entry 21. -/
def endKindle (s : State) (c e t : Nat) : State :=
  match (s.engX c e).kindle with
  | none => s
  | some k => (s.addKnd c e (t - k)).updEngX c e fun x => { x with kindle := none }

/-- Kindling and ramps are enabled. -/
def kndOn (s : State) (c e : Nat) : Bool := bitAt (s.eng c e R.engCtrl) 2

/-- The engine reaches its idle state; with `BANK_EN` set it banks there (R119, R161). DESIGN CHOICE: log entry 112. -/
def engToIdle (s : State) (c e : Nat) : State :=
  s.setEngState c e (if bitAt (s.eng c e R.engCtrl) 1 then engBanked else engIdle)

/-- Executed cycles of a ramp: 8 steps of 8 (R116). -/
abbrev rampLen : Nat := 64

/-- A ramp down begins at executed cycle t (R116, R119). DEDUCED: log entry 21. -/
def rampDown (s : State) (c e t : Nat) : State :=
  ((s.updEng c e R.engRampCnt fun w => incFld w 31 0 1).setEngState c e engRampDown).updEngX c e fun x => { x with ramp := some t }

/-- The engine kindles in all columns from executed cycle t on (R115). -/
def beginKindle (s : State) (c e t : Nat) : State :=
  (s.setEngState c e engKindle).updEngX c e fun x => { x with ramp := none, kindle := some t }

/-- A ramp of engine e whose 8 steps are executed by cycle t is over: a ramp down ends in the gated clock, a ramp up in kindling
until the operation issues (R116, R117, R119). DEDUCED: log entry 21. -/
def settleEng (s : State) (c e t : Nat) : State :=
  match (s.engX c e).ramp with
  | none => s
  | some r =>
    if t < r + rampLen then s
    else if s.engState c e == engRampUp then s.beginKindle c e (r + rampLen)
    else (s.engToIdle c e).updEngX c e fun x => { x with ramp := none }

/-- The ramps of core c's engines as they stand at offset `off`. DEDUCED: log entry 21. -/
def settleRamps (s : State) (c off : Nat) : State := forEach (List.range 4) s fun t e => t.settleEng c e (s.ran c off)

/-- Columns in which engine e kindles at executed cycle t: all while it kindles, the columns of its step during a ramp
(R115, R116). -/
def kindleCols (s : State) (c e t : Nat) : Nat :=
  match (s.engX c e).ramp with
  | some r => if s.engState c e == engRampUp then 4 * min 8 ((t - r) / 8 + 1) else 4 * (8 - min 8 ((t - r) / 8 + 1))
  | none => if s.engState c e == engKindle then 32 else 0

/-- The gap to a word is at least 512 offset cycles from offset `off` on (R115, R116). -/
def longGap (s : State) (p off : Nat) (q : QWord) : Bool := decide ((s.runCycle p off : Int) + 512 ≤ s.issueCycle p q)

/-- At offset `off` the engine has nothing to compute: by what is left of the gap to its next word it kindles or ramps down
(R115, R116, R119). DEDUCED: log entry 21. -/
def enterGap (s : State) (p c e off : Nat) : State :=
  if !s.kndOn c e then s.engToIdle c e
  else
    match (s.engX c e).u.queue.head? with
    | none => s.beginKindle c e (s.ran c off)
    | some q => if s.longGap p off q then s.rampDown c e (s.ran c off) else s.beginKindle c e (s.ran c off)

/-- A word arrives in the queue of engine e at offset `off`: an engine that kindled for want of it measures its remaining gap
(R115). -/
def engArrival (s : State) (p c e off : Nat) : State :=
  let x := s.engX c e
  if s.engState c e == engKindle && x.u.run.isNone && x.drain.isNone && x.u.queue.length == 1 then
    match x.u.queue.head? with
    | some q => if s.longGap p off q then (s.endKindle c e (s.ran c off)).rampDown c e (s.ran c off) else s
    | none => s
  else s

/-- The kindling of core c's engines up to offset `off` is counted: the core gives up its words there (R115). -/
def endKindles (s : State) (c off : Nat) : State :=
  forEach (List.range 4) (s.settleRamps c off) fun t e => t.endKindle c e (s.ran c off)

/-! ### Banking -/

/-- A unit with its banking bit set banks if it is idle (R161). -/
def bankIfIdle (s : State) (c : Nat) : CoreUnit → State
  | .eng e =>
    if bitAt (s.eng c e.val R.engCtrl) 1 && s.engState c e.val == engIdle then s.setEngState c e.val engBanked else s
  | .vec => if (s.cxOf c).vec.bank && s.vecState c == unitIdle then s.setVecState c unitBanked else s
  | .pgw => if bitAt (s.core c R.pgwCtrl) 1 && s.pgwState c == unitIdle then s.setPgwState c unitBanked else s
  | _ => s

/-- The banking bit of a unit is set (R161). -/
def bankUnit (s : State) (c : Nat) (u : CoreUnit) : State :=
  let t := match u with
    | .eng e => s.updEng c e.val R.engCtrl fun w => setBit w 1 true
    | .vec => s.updCx c fun x => { x with vec := { x.vec with bank := true } }
    | .pgw => s.updCore c R.pgwCtrl fun w => setBit w 1 true
    | _ => s
  t.bankIfIdle c u

/-- The banking bit of a unit is cleared; a banked unit returns to idle and is not ready until `UNIT_READY` (R119, R161). -/
def unbankUnit (s : State) (c : Nat) (u : CoreUnit) : State :=
  let wake (t : State) := t.updCx c fun x => x.setUnit u fun y => { y with ready := false }
  match u with
  | .eng e =>
    let t := s.updEng c e.val R.engCtrl fun w => setBit w 1 false
    if s.engState c e.val == engBanked then wake (t.setEngState c e.val engIdle) else t
  | .vec =>
    let t := s.updCx c fun x => { x with vec := { x.vec with bank := false } }
    if s.vecState c == unitBanked then wake (t.setVecState c unitIdle) else t
  | .pgw =>
    let t := s.updCore c R.pgwCtrl fun w => setBit w 1 false
    if s.pgwState c == unitBanked then wake (t.setPgwState c unitIdle) else t
  | _ => s

/-- The units that can bank: E0-E3, the vector engine, the page walker, in the order of the mask of BANK (R130). -/
def bankable : List CoreUnit := [.eng 0, .eng 1, .eng 2, .eng 3, .vec, .pgw]

/-- The units that a mask of BANK or UNBANK names (R130). -/
def maskUnits (m : Nat) : List CoreUnit := bankable.zipIdx.filterMap fun p => if m.testBit p.2 then some p.1 else none

/-! ### Whether a unit may take its next word -/

/-- The unit is enabled, awake and not at fault. An engine must stand ready by its ramp or kindle, unless these are switched
off (R116, R119, R161). -/
def unitAwake (s : State) (c : Nat) : CoreUnit → Bool
  | .eng e =>
    let st := s.engState c e.val
    (s.engX c e.val).u.ready &&
      (st == engActive || st == engKindle || (st == engIdle && !s.kndOn c e.val))
  | .vec => (s.cxOf c).vec.ready && 2 ≤ s.vecState c
  | .pgw => (s.cxOf c).pgw.ready && 2 ≤ s.pgwState c
  | _ => true

/-- The word's own conditions of R136: its flash has begun, its offset is reached, its event condition holds; and the cycle is one that the
damper leaves the core (R400). -/
def due (s : State) (p c off : Nat) (q : QWord) : Bool :=
  s.slotState p == 3 && s.coreState c == 2 && !s.removed c off &&
  (q.rfn.toNat < s.curRfn p || (q.rfn.toNat == s.curRfn p && wOffset q.word ≤ off)) && s.waitOk c q.word

/-- A unit without a drain of its own has finished its operation before and holds the word at its queue's head. -/
def unitFree (s : State) (c : Nat) (q : QWord) (u : CoreUnit) : Bool :=
  let y := (s.cxOf c).unit u
  s.unitAwake c u && y.run.isNone && y.queue.head? == some q

/-- Engine e may take the word at its queue's head: its ramp is whole, its pause over, its accumulation before finished, and no
drain of the bank it names goes on there. Beside a drain of the other bank only an MMUL may start (R100, R107, R116, R117, R136, R406). -/
def engFree (s : State) (c off : Nat) (q : QWord) (e : Fin 4) : Bool :=
  let x := s.engX c e.val
  let now := s.ran c off
  s.unitAwake c (.eng e) && x.u.queue.head? == some q && x.pauseTo ≤ now &&
  (match x.u.run with
    | none => true
    | some r => x.drain.isNone && wClass r.word == 1 && wDrains r.word && !(drainsOn e r && wBank r.word == wBank q.word) && wClass q.word == 1 &&
        wOpc q.word == 1 && decide (x.began + accSpan r.word ≤ now)) &&
  (match x.drain with
    | none => true
    | some d => !(drainsOn e d && wBank d.word == wBank q.word) && wClass q.word == 1 && wOpc q.word == 1)

/-- Engine e takes the word: it leaves the queue and runs; an operation before it that drains goes on beside it, with the cycle it
issued at and its rejection (R100). -/
def engTake (s : State) (c off : Nat) (q : QWord) (e : Nat) : State :=
  let t := s.ran c off
  ((s.endKindle c e t).setEngState c e engActive).updEngX c e fun x =>
    let y := { x with u := { x.u with queue := x.u.queue.drop 1, run := some q }, began := t, reject := false }
    match x.u.run with
    | some r => { y with drain := some r, drainBegan := x.began, drainReject := x.reject }
    | none => y

/-- A unit takes the word at its queue's head. -/
def unitTake (s : State) (c : Nat) (u : CoreUnit) (q : QWord) : State :=
  let t := match u with
    | .vec => s.setVecState c unitActive
    | .pgw => s.setPgwState c unitActive
    | _ => s
  t.updCx c fun x => x.setUnit u fun y => { y with queue := y.queue.drop 1, run := some q }

/-! ### The stream of a core -/

/-- The STREAMS entry of core c in the image of slot p. -/
def streamEnt? (s : State) (p c : Nat) : Option StreamEnt :=
  match (s.slot p).img with
  | none => none
  | some i => i.streams.find? fun e => e.core == c

/-- The next word's number, the RFN it counts from, and whether its `DFL` counts: at the end a loop begins again (R205). -/
def streamNext (e : StreamEnt) (pos rfn : Nat) : Option (Nat × Nat × Bool) :=
  if pos < e.nwords then some (pos, rfn, true)
  else if e.loopDfl ≠ 0 ∧ e.loopIdx < e.nwords then some (e.loopIdx, rfn + e.loopDfl, false)
  else none

/-- Address of word n of core c's stream (R135). -/
def wordDa (s : State) (c n : Nat) : Nat := fld (s.core c R.seqStream) 47 0 + 16 * n

/-- RFN of a word from what it counts from (R128). -/
def wordRfn (base : Nat) (dfl : Bool) (w : BitVec 128) : Nat := (if dfl then base + wDfl w else base) % 2 ^ 48

/-- The words not yet dispatched of flash `f` and before, as they lie in memory. -/
def aheadFrom (s : State) (c f : Nat) (e : StreamEnt) : Nat → Nat → Nat → List QWord
  | 0, _, _ => []
  | k + 1, pos, rfn =>
    match streamNext e pos rfn with
    | none => []
    | some (n, base, dfl) =>
      let w := BitVec.ofNat 128 (s.peek (s.wordDa c n) 16)
      let r := wordRfn base dfl w
      if f < r then []
      else
        let adv := if wClass w == 0 && wOpc w == 1 then wbits w 47 0 else 0
        { word := w, rfn := BitVec.ofNat 48 r, op := 0, addr := 0, shift := 0 } :: aheadFrom s c f e k (n + 1) (r + adv)

/-- The words of flash `f` and before that core c has not completed: dispatched or still in the stream. -/
def openWords (s : State) (p c f : Nat) : List QWord :=
  let x := s.cxOf c
  x.words ++
    match s.streamEnt? p c with
    | none => []
    | some e => s.aheadFrom c f e (2 * e.nwords) x.pos x.rfn.toNat

/-- What tells one word of a run from every other, in this and in every other run (R57): an engine or core-group rotation changes nothing
of it (R207, R208). -/
def runKey (s : State) (p c : Nat) (q : QWord) : List Nat :=
  (match (s.slot p).img with
    | none => []
    | some i => i.digest.map (·.toNat)) ++ [(s.slot p).seed.toNat, (s.slot p).streamOf.get c c, q.rfn.toNat, q.op]

/-- The cores that run slot p's image. -/
def slotCores (s : State) (p : Nat) : List Nat :=
  match (s.slot p).img with
  | none => []
  | some i => s.partCores i

/-- Words of flash `f` or before of the run of slot p are not complete. -/
def busyUntil (s : State) (p f : Nat) : Bool :=
  (s.slotCores p).any fun c => (s.openWords p c f).any fun q => decide (q.rfn.toNat ≤ f)

/-- Core c has a deadline operation of flash f or before that is not complete (R41, R45, R50, R190). -/
def deadlineOpen (s : State) (p c f : Nat) : Bool :=
  (s.openWords p c f).any fun q =>
    match q.due with
    | none => false
    | some d => decide (d ≤ f)

/-- A deadline operation of core c completes before the flash that its image counts it in begins (R41, R190). -/
def noteEarly (s : State) (p c : Nat) (q : QWord) : State :=
  match q.due with
  | some d => if s.curFlash p < d then s.updCx c fun x => { x with early := x.early ++ [d] } else s
  | none => s

/-- No word of core c's stream is left to dispatch. -/
def streamDone (s : State) (p c : Nat) : Bool :=
  match s.streamEnt? p c with
  | none => true
  | some e => (streamNext e (s.cxOf c).pos (s.cxOf c).rfn.toNat).isNone && (s.cxOf c).ctl.isNone

/-- A stream without a loop has completed: its core's units are banked until the run ends (R205). -/
def bankIfDone (s : State) (p c off : Nat) : State :=
  if s.streamDone p c && (s.cxOf c).empty && (match s.streamEnt? p c with | some e => e.nwords != 0 | none => false) then
    forEach bankable s fun t u =>
      let t := match u with
        | .eng e =>
          if t.engState c e.val == engKindle || t.engState c e.val == engActive then
            (t.endKindle c e.val (s.ran c off)).rampDown c e.val (s.ran c off)
          else t
        | _ => t
      t.bankUnit c u
  else s

/-! ### The slack meter's requests -/

/-- Core c no longer requests an occultation. -/
def dropRequest (s : State) (c : Nat) : State := s.updCore c R.seqSlkCur fun w => setBit w 16 false

/-- Core c requests an occultation. -/
def requests (s : State) (c : Nat) : Bool := bitAt (s.core c R.seqSlkCur) 16

/-! ### Halts and traps -/

/-- The run of slot p is to halt at the end of flash n with a cause of R218; an earlier halt stands. -/
def haltAt (s : State) (p n cause : Nat) : State :=
  s.updSlot p fun y => { y with
    halt := match y.halt with
      | some (m, k) => if m.toNat ≤ n then some (m, k) else some (BitVec.ofNat 48 n, cause)
      | none => some (BitVec.ofNat 48 n, cause) }

/-- From flash n on the run of slot p writes no output entry, and none of its cores requests an occultation (R143, R337). -/
def silence (s : State) (p n : Nat) : State :=
  forEach (s.slotCores p) (s.muteFrom p (BitVec.ofNat 48 n)) fun t c => t.dropRequest c

/-- The tag of a fetch, walker or queue-port request whose core gave its words up. DESIGN CHOICE: log entry 112. -/
def deadReq : Req := { ch := 0, kind := 0, fromDa := 0, toDa := 0, bytes := 0, half := false, dev := 0, fmt := 0, dead := true }

/-- Every unit of core c gives up its words; engines that computed stand idle (R142), and none shows a drain (R119). A request on its way
keeps its memory tag until it completes (R156, R232). DESIGN CHOICE: log entry 112. -/
def abandon (s : State) (c : Nat) : State :=
  let x := s.cxOf c
  let t := s.updCx c fun x => { x with
    ctl := none, strQ := [], strRun := [], strRev := [], waiting := [], stalled := [], granted := [], late := []
    reqs := x.reqs.map (fun r => { r with dead := true }) ++ x.granted.map fun _ => deadReq
    eng := x.eng.map fun e => (e.1, { e.2 with u := { e.2.u with queue := [], run := none }, drain := none, kindle := none, ramp := none, pauseTo := 0 })
    vec := { x.vec with queue := [], run := none }, pgw := { x.pgw with queue := [], run := none }
    chk := { x.chk with queue := [], run := none }, que := { x.que with queue := [], run := none } }
  let t := forEach (List.range 4) t fun t e =>
    let t := when (bitAt (t.eng c e R.engSts) 7) (fun t : State => t.updEng c e R.engSts fun w => setBit w 7 false) t
    if 3 ≤ t.engState c e && t.engState c e < 7 then t.engToIdle c e else t
  let t := if t.vecState c == unitActive then t.setVecState c (if x.vec.bank then unitBanked else unitIdle) else t
  if t.pgwState c == unitActive then
    t.setPgwState c (if bitAt (t.core c R.pgwCtrl) 1 then unitBanked else unitIdle) else t

/-- Core c traps (R142, R143, R485): the record, TRAPPED, units abandoned, the log, and the halt of its run.
DEDUCED: log entry 15. -/
def trap (s : State) (c cause addr : Nat) : State :=
  let t := (s.setCore c R.seqTrap (BitVec.ofNat 64 (2 ^ 63 + cause * 2 ^ 48 + addr % 2 ^ 48))).setCoreState c 3
  let t := (t.abandon c).logEv 0x20 (s.logSlot c) (leBytes 2 c ++ [BitVec.ofNat 8 cause] ++ zeros 5 ++ leBytes 8 addr)
  match t.slotOf c with
  | none => t
  | some p => if t.slotActive p then (t.haltAt p (t.curRfn p) 6).silence p (t.curRfn p) else t

/-- A failure within a unit's own memory traps the core with cause 5 (R485). DEDUCED: log entry 23. -/
def trapOn (s : State) (c : Nat) (e : AccErr) : State := s.trap c 5 (errDa e)

/-- Every run halts at the end of its current flash (R50, R53). -/
def haltAll (s : State) (cause : Nat) : State :=
  forEach (List.range 8) s fun t p => if t.slotState p == 3 then t.haltAt p (t.curRfn p) cause else t

/-- The runs that `p` holds of halt at the end of the flash after this one, and are silent from now on; one that is STARTING does so with
its flash 0 (R337). DEDUCED: log entry 101. -/
def haltAffected (s : State) (affected : Nat → Bool) : State :=
  forEach (List.range 8) s fun t p =>
    if t.slotState p == 3 && affected p then (t.haltAt p (t.curRfn p + 1) 7).silence p (t.curRfn p)
    else if t.slotState p == 2 && affected p then (t.haltAt p 0 7).silence p 0
    else t

end State

end Sys2Proof.Machine
end

