-- ==== Sys2Proof/Machine/Runs.lean ====
section
/-!
DEFINITION. Runs: the preparation at the mark that begins flash s - 1 and the start at that of flash s (R216), what each flash's
beginning and end do (R41, R44, R223, R230), placement rotations (R207-R210 of schedules, R409, R410), the end of a run (R218), a
cancelled start (R216), and staleness (R212, R213).
-/

namespace Sys2Proof.Machine

/-! ### Rotation points -/

/-- The cores that a ROTATIONS entry covers: for kind 1 every core of every group (R207, R208). -/
def RotEnt.cores (r : RotEnt) : List Nat :=
  if r.kind = 0 then (List.range r.count).map (r.first + ·)
  else (r.gfirst.take r.mask).flatMap fun g => (List.range r.count).map (g + ·)

/-- A rotation point of the entry lies above `lo` and not above `hi`; points that recur lie `len` flashes apart (R207).
`at0` is the RFN of word `LOOP_IDX`. -/
def RotEnt.between (r : RotEnt) (at0 len : Nat) (lo hi : Int) : Bool :=
  let o : Int := (r.at_ % 2 ^ 48 : Nat)
  if !r.at_.testBit 63 then decide (lo < o ∧ o ≤ hi)
  else
    let o := o + at0
    decide (o ≤ hi) && (decide (lo < o) || (len != 0 && decide ((hi - o) / len ≠ (lo - o) / len)))

/-- The least shift of a list under a cost, the smallest shift on a tie. DESIGN CHOICE: log entry 17. -/
def cheapest (cost : Nat → Int) : List Nat → Nat
  | [] => 0
  | k :: ks => (ks.foldl (fun b j => if cost j < b.2 then (j, cost j) else b) (k, cost k)).1

namespace State

/-- The entry's loop figures: those of the stream of the first core it covers. -/
def rotBetween (s : State) (p : Nat) (r : RotEnt) (lo hi : Int) : Bool :=
  match s.streamEnt? p (r.cores.headD 0) with
  | none => r.between 0 0 lo hi
  | some e => r.between e.loopAt e.loopLen lo hi

/-- A rotation point for core c lies after the current flash and not after flash f; words of f wait for it. -/
def rotPending (s : State) (p c f : Nat) : Bool :=
  match (s.slot p).img with
  | none => false
  | some i => i.rots.any fun r =>
    r.cores.contains c && s.rotBetween p r (if s.slotState p == 3 then (s.curRfn p : Int) else -1) f

/-- Busy cycles of engine e of core c since the run started. -/
def busy (s : State) (c e : Nat) : Nat := fld (s.eng c e R.engBusyCnt) 47 0

/-- The engine shift in force on core c (R207). -/
def shiftOf (s : State) (p c : Nat) : Nat := (s.slot p).engShift.get 0 c

/-- Busy cycles of core c's engine slot e since the last point of kind 0. -/
def slotBusy (s : State) (p c e : Nat) : Nat :=
  let f := (e + s.shiftOf p c) % 4
  s.busy c f - (s.slot p).busyAt.get 0 (4 * c + f)

/-- An engine rotation point: the shift chosen by R409 takes effect on the covered cores, and is logged.
DESIGN CHOICE: log entry 17. -/
def engRotate (s : State) (p : Nat) (r : RotEnt) : State :=
  let cs := r.cores
  let total (f : Nat → Nat) : Nat := cs.foldl (fun n c => n + f c) 0
  let cost (k : Nat) : Int := (List.range 4).foldl (fun m e =>
    max m ((total (fun c => s.busy c ((e + k) % 4)) + total (fun c => s.slotBusy p c e) : Nat) : Int)) 0
  let k := cheapest cost (onesOf 4 r.mask)
  let t := s.updSlot p fun y => { y with
    engShift := cs.foldl (fun m c => m.set c k) y.engShift
    busyAt := cs.foldl (fun m c => (List.range 4).foldl (fun m e => m.set (4 * c + e) (s.busy c e)) m) y.busyAt }
  t.logEv 0x15 p [0, BitVec.ofNat 8 k]

/-- Sum of the µs and of the readings, each times its µs, of the last 100 ms of a list of cores; before the first sample their present
readings (R410). DESIGN CHOICE: log entry 17. -/
def heatSum (s : State) (cs : List Nat) : Nat × Int :=
  let past := cs.flatMap fun c => (s.thmDie (dieOf c)).past.map fun e => (e.1, e.2.get 0 (localOf c))
  let us := past.foldl (fun n e => n + e.1) 0
  if us = 0 then (max 1 cs.length, cs.foldl (fun n c => n + (s.thmDie (dieOf c)).core.get 0 (localOf c)) 0)
  else (us, past.foldl (fun n e => n + e.1 * e.2) 0)

/-- Mean readings of lists of cores, all over one denominator (R410). -/
def heatMeans (s : State) (gs : List (List Nat)) : List Int :=
  let sums := gs.map s.heatSum
  let den := sums.foldl (fun n e => n * e.1) 1
  sums.map fun e => e.2 * (den / e.1 : Nat)

/-- A core-group rotation point: the groups take over the streams and `FEED` bits of the groups that the shift chosen by R410
names, core for core, and the choice is logged. DESIGN CHOICE: log entry 17. -/
def groupRotate (s : State) (p : Nat) (r : RotEnt) : State :=
  let gs := r.gfirst.take r.mask
  let g := r.mask
  let heat := s.heatMeans (gs.map fun f => (List.range r.count).map (f + ·))
  let low := heat.foldl min (heat.headD 0)
  let work (j : Nat) : Nat := (List.range r.count).foldl (fun n d =>
    let c := gs.getD j 0 + d
    (List.range 4).foldl (fun n e => n + (s.busy c e - (s.slot p).busyAt.get 0 (4096 + 4 * c + e))) n) 0
  let cost (k : Nat) : Int := (List.range g).foldl (fun n i => n + (heat.getD i 0 - low) * work ((i + k) % g)) 0
  let k := cheapest cost (List.range g)
  let pairs := (List.range g).flatMap fun i => (List.range r.count).map fun d => (gs.getD i 0 + d, gs.getD ((i + k) % g) 0 + d)
  let t := forEach pairs s fun t q =>
    let x := s.cxOf q.2
    t.updCx q.1 fun y => { y with pos := x.pos, rfn := x.rfn, op := x.op }
  let t := t.updSlot p fun y => { y with
    streamOf := pairs.foldl (fun m q => m.set q.1 ((s.slot p).streamOf.get q.2 q.2)) y.streamOf
    busyAt := pairs.foldl (fun m q => (List.range 4).foldl (fun m e => m.set (4096 + 4 * q.1 + e) (s.busy q.1 e)) m) y.busyAt }
  t.logEv 0x15 p [1, BitVec.ofNat 8 k]

/-- The rotation points of flash f take effect (R207, R208). -/
def rotate (s : State) (p f : Nat) : State :=
  match (s.slot p).img with
  | none => s
  | some i => forEach i.rots s fun t r =>
    if t.rotBetween p r ((f : Int) - 1) f then (if r.kind = 0 then t.engRotate p r else t.groupRotate p r) else t

/-! ### The beginning of a flash -/

/-- The slack meter of core c at the beginning of flash f: no lateness (R44), and the slack if the flash holds a deadline
operation of the core, be it one that completed in an earlier flash (R41, R190). DESIGN CHOICE: log entry 16. -/
def beginMeter (s : State) (p c f : Nat) : State :=
  let cut := fld s.bcn.cpf 31 16
  let digest := match (s.slot p).img with
    | some i => i.digest
    | none => []
  let held := s.deadlineOpen p c f || (s.cxOf c).early.contains f
  let sl := if held then some (min cut (Config.slack digest c f)) else none
  (s.setCore c R.seqSlkCur (BitVec.ofNat 64 (sl.getD cut * 2 ^ 32))).updCx c fun x =>
    { x with slack := sl, charges := [], firstPast := 0, early := x.early.filter fun d => decide (f < d) }

/-- Flash f of slot p's run begins: rotations, snapshots, slack meters (R44, R207, R208, R223). DEDUCED: log entry 15. -/
def beginFlash (s : State) (p f : Nat) : State :=
  let t := (s.rotate p f).snapshot p f
  forEach (t.slotCores p) t fun t c => t.beginMeter p c f

/-! ### The end of a flash -/

/-- Cycles charged to a core in the current flash. -/
def lateness (s : State) (c : Nat) : Nat := (s.cxOf c).charges.foldl (fun n e => n + e.2) 0

/-- The slack meter of core c at the end of flash f: the smallest margin of the run (R41); the request and the lateness end
with the mark (R44). -/
def endMeter (s : State) (c f : Nat) : State :=
  let t := (s.updCore c R.seqSlkCur fun w => setFld (setFld w 50 48 0) 16 0 0).updCx c fun x => { x with charges := [] }
  match (s.cxOf c).slack with
  | none => t
  | some sl =>
    let m : Int := max (-32767) (min 32767 ((sl : Int) - s.lateness c))
    let old := signed 16 (fld (t.core c R.seqSlkMin) 63 48)
    if (s.cxOf c).minSeen && old ≤ m then t
    else (t.setCore c R.seqSlkMin (BitVec.ofNat 64 (unsigned 16 m * 2 ^ 48 + f % 2 ^ 48))).updCx c fun x => { x with minSeen := true }

/-! ### The end of a run -/

/-- Commands of an opcode that name slot p in their first argument byte. -/
def slotCmd (op p : Nat) (c : Cmd) : Bool := c.opcode == op && arg c.args 0 1 == p

/-- Core c leaves its run at offset `off`: its queues are empty, channel halts cleared, every PINNED frame returned (R144, R198).
DEDUCED: log entry 115. -/
def releaseCore (s : State) (c off : Nat) : State :=
  let t := (s.endKindles c off).abandon c
  let t := forEach (List.range 8) t fun t k => t.updCore c (R.strChSts k) fun w => setBit w 0 false
  let t := if s.pgwState c == unitOff || s.thm.trip then t else walkerRun c (releaseFrames c fun _ => true) t
  if t.coreState c == 2 then t.setCoreState c 1 else t

/-- The last flash with valid outputs of a run that halts at the end of flash n (R52, R143, R337). -/
def lastValid (s : State) (p n : Nat) : Nat :=
  match (s.slot p).mute with
  | none => n
  | some m => min n (m.toNat - 1)

/-- The run of slot p halts or ends after flash n with a cause of R218: RUNNING to LOADED (R216). -/
def finish (s : State) (p off cause n : Nat) : State :=
  let last := s.lastValid p n
  let t := s.logEv 0x11 p (BitVec.ofNat 8 cause :: zeros 7 ++ leBytes 8 last)
  let t := forEach (t.slotCores p) t fun t c => t.releaseCore c off
  let t := t.updSlot p fun y => { y with
    sts := setFld y.sts 1 0 1, endR := BitVec.ofNat 64 (cause * 2 ^ 56 + last % 2 ^ 48)
    halt := none, mute := none, ending := none, prepared := false, endRfn := 0, engShift := [], streamOf := [], busyAt := []
    channelHalted := false, walkerHalted := false }
  let t := { t with kpr := { t.kpr with idleMs := 0 } }
  (t.completeWhere (slotCmd Op.runStop p) Sts.ok 0 (leBytes 8 last)).raise intRun

/-- The run of slot p, at whose flash n a halt is due, halts once it has completed its operations of flash n; one that is silenced
abandons them (R52, R143). DEDUCED: log entry 15. -/
def endAt (s : State) (p off n cause : Nat) : State :=
  if s.busyUntil p n && (s.slot p).mute.isNone then
    (forEach (s.slotCores p) s fun t c => t.updCx c fun x => { x with slack := none }).updSlot p fun y =>
      { y with ending := some (BitVec.ofNat 48 n, cause) }
  else (s.closeFlash p n).finish p off cause n

/-- A halt that waited for operations of its flash goes on (R52, R230). DEDUCED: log entry 15. -/
def endIfQuiet (s : State) (p off : Nat) : State :=
  match (s.slot p).ending with
  | some (n, cause) => s.endAt p off n.toNat cause
  | none => s

/-- The cause of R218 for which the run of slot p halts at the end of flash n. -/
def haltCause (s : State) (p n : Nat) : Option Nat :=
  let y := s.slot p
  let last := if y.endRfn ≠ 0 ∧ y.endRfn ≤ n then some 1 else none
  match y.halt with
  | some (m, cause) => if m.toNat ≤ n then some cause else last
  | none => last

/-- Flash n of slot p's run ends; the run halts where a halt is due or its end RFN is reached (R52, R218, R230).
DEDUCED: log entry 15. -/
def endFlash (s : State) (p : Nat) : State :=
  if (s.slot p).ending.isSome then s.endIfQuiet p (s.flashLen p)
  else
    let n := s.curRfn p
    let t := forEach (s.slotCores p) s fun t c => t.endMeter c n
    match t.haltCause p n with
    | some cause => t.endAt p (s.flashLen p) n cause
    | none => t.closeFlash p n

/-- While the Beacon does not count, the flash in which runs halt is counted on the local reference; its end halts them
(R53). DESIGN CHOICE: log entry 1. -/
def endHalted (s : State) : State :=
  if s.counting then s
  else forEach (List.range 8) s fun t p => if t.slotState p == 3 then t.endFlash p else t

/-! ### The start of a run -/

/-- The registers that a run start clears on a core (R138, R144, R157, R176). -/
def clearedAtStart : List Nat :=
  (List.range 4).map R.seqEv ++ [R.seqSlkCur, R.seqSlkMin, R.seqSlkSlip, R.seqTrap] ++
  (List.range 7).map (fun k => R.seqSlkCause (k + 1)) ++
  (List.range 4).flatMap (fun e =>
    [R.engFltCnt, R.engOvfCnt, R.engOpsCnt, R.engBusyCnt, R.engKndCnt, R.engRampCnt].map (0x1000 + e * 0x100 + ·)) ++
  [R.vecFltCnt, R.vecOvfCnt, R.vecOpsCnt, R.strTag, R.pgwEntCnt, R.pgwFrmCnt, R.pgwErrAddr] ++
  (List.range 8).map R.strChSts ++ (List.range 8).map R.strChAddr

/-- Adjacent equals made one. -/
def dedup : List Nat → List Nat
  | [] => []
  | [a] => [a]
  | a :: b :: l => if a = b then dedup (b :: l) else a :: dedup (b :: l)

/-- Addresses of the 64-bit words between two addresses that are not plainly zero. -/
def usedWords (s : State) (lo hi : Nat) : List Nat :=
  dedup (((s.mem.filter fun e => lo ≤ e.1 && e.1 < hi).map fun e => e.1 / 8 * 8) ++
    ((s.syn.filter fun e => lo ≤ e.1 * 8 && e.1 * 8 < hi).map fun e => e.1 * 8))

/-- The walker's rotary RAM loaded from SRAM; a table that runs past the end of SRAM meets an address error there (R176, R186). -/
def loadRotary (s : State) (c : Nat) : State :=
  let lo := sramOf c + fld (s.core c R.pgwRamBase) 54 32
  let hi := lo + 4 * 64 * ((s.geom c).d / 2) * 8
  let stop := sramOf c + sramLen
  let work : Acc Unit := do
    (s.usedWords lo (min hi stop)).forM fun a => do
      let b ← rd (.walker c) a 8
      step_ fun t => t.updCx c fun x => { x with rot := x.rot.set ((a - lo) / 8) (BitVec.ofNat 64 (leNat b)) }
    if stop < hi then throw (.addr (max lo stop))
  walkerRun c work (s.updCx c fun x => { x with rot := [] })

/-- `CHK_SEQk` reloaded from AUDIT (R216). DEDUCED: log entry 76. -/
def reloadAudit (s : State) (c : Nat) (i : Image) : State :=
  match i.audit with
  | none => s
  | some l => forEach l.zipIdx s fun t a =>
    t.setCore c (R.chkSeq a.2) (BitVec.ofNat 64 (a.1.seq.toNat % 2 ^ fld (t.core c (R.chkCtrl a.2)) 6 0))

/-- Core c prepared for a run (R144, R186, R216, R418): counters and halts cleared, units woken, the sequencer at the first word. -/
def prepareCore (s : State) (c : Nat) (i : Image) : State :=
  let t := forEach clearedAtStart s fun t r => t.setCore c r 0
  let t := (t.updCore c R.pgwSts fun w => setBit w 11 false).updCx c fun x => { x with
    levels := [], ranBase := 0, early := [], pos := 0, rfn := 0, op := 0, ctl := none, chkRun := [], cords := [], lq := [], slack := none, minSeen := false
    charges := [], firstPast := 0 }
  let t := (t.abandon c).reloadAudit c i
  let t := forEach bankable t fun t u => t.unbankUnit c u
  let t := if t.pgwState c == unitOff then t else t.loadRotary c
  if t.coreState c == 1 then t.setCoreState c 2 else t

/-- The device status tables of a run's cores zeroed (R200). -/
def zeroStatus (s : State) (cs : List Nat) : State :=
  let bases := cs.map fun c => fld (s.core c R.pgwCstatBase) 47 0
  forEach bases.eraseDups s fun t b =>
    forEach (List.range 256) t fun t k => (t.writeDa Who.host (b + 256 * k) (zeros 256)).2

/-- `TURF_XREF_CNT` of the partition's dies and `HBM_XREF_CNT` of the stacks that its claims reach are cleared. -/
def clearXref (s : State) (i : Image) : State :=
  let t := forEach (onesOf 32 i.dieMask) s fun t d => t.setDie d R.turfXrefCnt 0
  forEach (List.range 8) t fun t k =>
    if i.claims.any (fun r => r.2 != 0 && (r.1 < aliasBase || (aliasBase + k * 2 ^ 36 < r.1 + r.2 && r.1 < aliasBase + (k + 1) * 2 ^ 36)))
    then t.setIod (k / 2) (R.hbmXrefCnt + k % 2 * 0x10000) 0 else t

/-- The mark that begins flash s - 1 prepares the run of slot p (R216). -/
def prepare (s : State) (p : Nat) (i : Image) : State :=
  let cs := s.partCores i
  let t := s.armQueues p
  let t := t.updSlot p fun y => { y with
    prepared := true, engShift := [], streamOf := [], busyAt := [], waited := [], tag := 0
    channelHalted := false, walkerHalted := false, flashAt := 0, stretch := 0 }
  let t := forEach cs t fun t c => t.prepareCore c i
  (t.zeroStatus cs).clearXref i

/-- Flash boundary for slot p: the cycles of the flash that ends are added up, and the damper's windows begin again (R47, R400). -/
def turnFlash (s : State) (p : Nat) : State :=
  let n := s.flashLen p
  let t := forEach (s.slotCores p) s fun t c => t.updCx c fun x => { x with ranBase := s.ran c n, levels := [] }
  t.updSlot p fun y => { y with flashAt := y.flashAt + n, stretch := 0 }

/-- The mark that begins flash s starts the run of slot p at RFN 0 (R38, R216). -/
def startRun (s : State) (p : Nat) (i : Image) : State :=
  let t := (s.turnFlash p).updSlot p fun y => { y with sts := setFld y.sts 1 0 3 }
  let y := t.slot p
  let t := t.logEv 0x10 p (leBytes 8 (fld y.start 47 0) ++ leBytes 8 y.seed.toNat ++ i.digest.take 16)
  (t.beginFlash p 0).completeWhere (slotCmd Op.runStart p) Sts.ok 0 []

/-- The start of slot p is cancelled: 1 `RUN_STOP`, 2 staleness, 3 Beacon (R216). DESIGN CHOICE: log entry 105. -/
def cancelStart (s : State) (p why : Nat) : State :=
  let off := Config.cancelOff s.free % (s.flashLen p + 1)
  let t := forEach (if (s.slot p).prepared then s.slotCores p else []) s.bumpFree fun t c => t.releaseCore c off
  let t := t.updSlot p fun y => { y with
    sts := setFld y.sts 1 0 1, prepared := false, endRfn := 0, halt := none, mute := none, ending := none }
  let t := { t with kpr := { t.kpr with idleMs := 0 } }
  let t := t.completeWhere (slotCmd Op.runStart p) Sts.startCancelled why []
  t.logEv 0x12 p [BitVec.ofNat 8 why]

/-- What a mark that the device accepts does to slot p, the FN having advanced: a RUNNING run begins its next flash, a STARTING
one is prepared or begins (R216). After a trip the core clocks stand still and nothing does (R416). DEDUCED: log entry 115. -/
def markSlot (s : State) (p : Nat) : State :=
  if s.thm.trip then s else
  match (s.slot p).img with
  | none => s
  | some i =>
    let y := s.slot p
    let start : BitVec 48 := y.start.truncate 48
    if s.slotState p == 3 then
      if y.ending.isSome then s.updSlot p fun y => { y with stretch := y.stretch + s.cpf } else
      let t := s.turnFlash p
      t.beginFlash p (t.curRfn p)
    else if s.slotState p == 2 then
      if s.fn + 1 == start && !y.prepared then s.prepare p i
      else if s.fn == start && y.prepared then s.startRun p i
      else s
    else s

/-! ### Staleness -/

/-- Hash of the map record as it stands (R384). -/
def mapHash (s : State) : List Byte := shake256 32 s.kpr.mapRec

/-- The image fits the machine no longer: by its margin class, by the map (R212). -/
def badMargin (s : State) (i : Image) : Bool := i.margin != s.thm.cls || s.thm.pendCls.isSome
def badMap (s : State) (i : Image) : Bool := i.mapHash != s.mapHash

/-- Images that no longer fit become stale: 1 by the margin class, 2 by the map record (R212, R213). -/
def markStale (s : State) (cause : Nat) : State :=
  forEach (List.range 8) s fun t p =>
    match (t.slot p).img with
    | none => t
    | some i =>
      let bad := if cause = 1 then t.badMargin i else t.badMap i
      if bitAt (t.slot p).sts 8 || !bad then t
      else
        let u := if t.slotState p == 2 then t.cancelStart p 2 else t
        let u := u.updSlot p fun y => { y with sts := setFld (setBit y.sts 8 true) 10 9 cause }
        (u.logEv 0x13 p [BitVec.ofNat 8 cause]).raise intStale

end State

end Sys2Proof.Machine
end

