-- ==== Sys2Proof/Machine/Map.lean ====
section
/-!
DEFINITION. The map record (R384, R386), the degraded device (R383), and what a change of the record does (R212).
-/

namespace Sys2Proof.Machine

/-- The compute end of connection c (R310): its die and edge. -/
def connEnd (c : Nat) : Nat × Nat :=
  if c < 28 then (c / 7 * 8 + c % 7, 1) else if c < 52 then (c - 28, 2) else if c < 60 then (c - 52, 0) else (c - 36, 2)

namespace State

/-- Record byte of connection c (R384): what its trained port says; 5 where it is not trained. -/
def connByte (s : State) (c : Nat) : Nat :=
  let w := s.die (connEnd c).1 (R.d2dPortSts (connEnd c).2)
  match fld w 7 5 with
  | 2 => fld w 4 3
  | 3 => 3
  | 4 => 4
  | _ => 5

/-- Logical cores presented (R384). -/
def coresUp (s : State) : Nat := (List.range 512).countP s.presented

/-- Bit d set when die d presents fewer than 16 cores. -/
def shortDies (s : State) : Nat :=
  (List.range 32).foldl (fun m d => if (s.presentedOn d).length < 16 then m + 2 ^ d else m) 0

/-- Die entry d of the map record. DEDUCED: log entry 51. -/
def dieEntry (s : State) (d : Nat) : List Byte :=
  ((List.range 16).map fun l => match s.bearer d l with
    | some p => BitVec.ofNat 8 p
    | none => 0xFF) ++
  leBytes 4 (s.map.fuseOut.get 0 d).toNat ++
  leBytes 4 (s.map.softOut.get 0 d &&& ~~~ (s.map.fuseOut.get 0 d)).toNat ++ zeros 8

/-- The map record that describes the machine now (R384). -/
def mapNow (s : State) : List Byte :=
  ascii "KRYMAPRC" ++ leBytes 2 1 ++ leBytes 2 1280 ++ leBytes 4 s.map.fenced.toNat ++ leBytes 4 s.shortDies ++
  leBytes 1 s.map.iodFenced.toNat ++ leBytes 1 s.map.hbmOut.toNat ++ leBytes 2 s.coresUp ++ zeros 40 ++
  (List.range 32).flatMap s.dieEntry ++ (List.range 68).map (fun c => BitVec.ofNat 8 (s.connByte c)) ++ zeros 60 ++
  (List.range 24).flatMap (fun j => leBytes 2 (s.cl.get {} j).padded) ++ zeros 16

/-- The device is degraded (R383). -/
def degraded (s : State) : Bool :=
  decide (s.coresUp < 512) || s.map.fenced != 0 || s.map.iodFenced != 0 || s.map.hbmOut != 0

/-- The map record is brought up to date, and images that no longer match it become stale (R212, R386). Before the cold
sequence is complete, and while a reset of wider scope than a partition runs, there is no record to change. -/
def mapChange (s : State) : State :=
  if !s.kpr.coldDone || (match s.kpr.reset with | some r => r.code != 5 | none => false) then s
  else if s.mapNow = s.kpr.mapRec then s
  else ({ s with kpr := { s.kpr with mapRec := s.mapNow } }).markStale 2

end State

end Sys2Proof.Machine
end

