-- ==== Sys2Proof/Machine/Route.lean ====
section
/-!
DEFINITION. The die-to-die fabric's routes (R307), the detours that replace a connection of a route (R324), and the virtual channel of
each hop (R308). A flit crosses the fabric within the command that moves it: no buffer of a router holds one between two commands, and
every credit has returned. DESIGN CHOICE: log entry 100.
-/

namespace Sys2Proof.Machine

/-- A hop over edge `dir` (0 N, 1 E, 2 S, 3 W) of the router at (x, y), or the other way over that edge. -/
structure Hop where
  x   : Nat
  y   : Nat
  dir : Nat
  deriving DecidableEq, Repr

/-- Column and row of a core in the logical mesh (R18). -/
def coreX (c : Nat) : Nat := c % 32
def coreY (c : Nat) : Nat := c / 32

/-- The hop runs in the Y dimension. -/
def Hop.vert (h : Hop) : Bool := h.dir % 2 == 0

/-- The die-to-die connection that a hop crosses; none within a die (R306, R310). -/
def Hop.conn (h : Hop) : Option Nat :=
  let edge := match h.dir with
    | 0 => h.y % 4 == 0
    | 1 => h.x % 4 == 3
    | 2 => h.y % 4 == 3
    | _ => h.x % 4 == 0
  if edge then connAt (dieOf (h.y * 32 + h.x)) h.dir else none

/-- Hops along row y from column a to column b, and along column x from row a to row b. -/
def hopsX (y a b : Nat) : List Hop :=
  if a ≤ b then (List.range (b - a)).map fun k => ⟨a + k, y, 1⟩ else (List.range (a - b)).map fun k => ⟨a - k, y, 3⟩
def hopsY (x a b : Nat) : List Hop :=
  if a ≤ b then (List.range (b - a)).map fun k => ⟨x, a + k, 2⟩ else (List.range (a - b)).map fun k => ⟨x, a - k, 0⟩

/-- The route from core a to core b: X first, then Y (R307). -/
def routeCore (a b : Nat) : List Hop := hopsX (coreY a) (coreX a) (coreX b) ++ hopsY (coreX b) (coreY a) (coreY b)

/-- The column at which core c's traffic to I/O die i leaves its row (R307). -/
def iodColumn (c i : Nat) : Nat := max (i % 2 * 16) (min (i % 2 * 16 + 15) (coreX c))

/-- The route from core c to I/O die i (R307). -/
def routeIod (c i : Nat) : List Hop :=
  let x := iodColumn c i
  let y := if i < 2 then 0 else 15
  hopsX (coreY c) (coreX c) x ++ hopsY x (coreY c) y ++ [⟨x, y, if i < 2 then 0 else 2⟩]

/-- A route reversed: that of a response, and that of I/O die to core (R307). -/
def routeBack (r : List Hop) : List Hop := r.reverse

/-- Connections that a route crosses. -/
def routeConns (r : List Hop) : List Nat := r.filterMap Hop.conn

/-- Whether each hop of the detour that replaces connection c runs in the Y dimension, as it is crossed from its lower end or
towards its I/O die (R324). -/
def detourDims (c : Nat) : List Bool :=
  if c < 28 then [true, false, true] else if c < 52 then [false, true, false] else [false, true]

/-- Whether each hop of a route towards core or I/O die runs in the Y dimension, detours taken for the connections that `deg` holds
of (R308, R324). -/
def routeDims (deg : Nat → Bool) (r : List Hop) : List Bool :=
  r.flatMap fun h => match h.conn with
    | some c => if deg c then detourDims c else [h.vert]
    | none => [h.vert]

/-- The virtual channel of each hop: it moves up one at each reverse turn, a step from a Y hop to an X hop (R308). -/
def channelsFrom (vc : Nat) : List Bool → List Nat
  | [] => []
  | [_] => [vc]
  | a :: b :: l => vc :: channelsFrom (if a && !b then vc + 1 else vc) (b :: l)

/-- The virtual channels of a flit's hops, from VC0 (R308). DESIGN CHOICE: log entry 100. -/
def channels (dims : List Bool) : List Nat := channelsFrom 0 dims

/-- Reverse turns of a route. -/
def reverseTurns (dims : List Bool) : Nat := (channels dims).getLastD 0

/-- A request on a route, or its response, would need more than the six virtual channels (R308, R324).
DESIGN CHOICE: log entry 100. -/
def turnsOut (dims : List Bool) : Bool := 5 < reverseTurns dims || 5 < reverseTurns dims.reverse

/-- The routes between cores of a list, and from each to every I/O die. -/
def routesOf (cs : List Nat) : List (List Hop) :=
  cs.flatMap fun a => (cs.map (routeCore a)) ++ (List.range 4).map (routeIod a)

end Sys2Proof.Machine
end

