-- ==== Sys2Proof/Machine/Links.lean ====
section
/-!
DEFINITION. The links: registers of die-to-die ports at both ends of a connection (R310, R320), detours (R324), what a lost
connection, die or chip-link port does (R320, R336, R337, R339), and what takes effect at an accepted mark (R319, R322).
-/

namespace Sys2Proof.Machine

/-- One end of a connection: port `p` of compute die or I/O die `n`. -/
structure PortAt where
  iod : Bool
  n   : Nat
  p   : Nat
  deriving DecidableEq, Repr

/-- The end that a command names. -/
def portAt : D2dPort → PortAt
  | .die d p => ⟨false, d.val, edgeNum p⟩
  | .iod i f => ⟨true, i.val, f.val⟩

/-- The connection of an end (R310). -/
def PortAt.conn (e : PortAt) : Option Nat :=
  if e.iod then connAt (dieAtIod e.n e.p).1 (dieAtIod e.n e.p).2 else connAt e.n e.p

/-- The end that faces this one. -/
def PortAt.other (e : PortAt) : Option PortAt :=
  if e.iod then some ⟨false, (dieAtIod e.n e.p).1, (dieAtIod e.n e.p).2⟩
  else match iodPortAt e.n e.p with
    | some (i, f) => some ⟨true, i, f⟩
    | none => (neighbour e.n e.p).map fun q => ⟨false, q.1, q.2⟩

/-- Number of an end in the table of link states. -/
def PortAt.key (e : PortAt) : Nat := (if e.iod then 128 else 0) + 4 * e.n + e.p

/-- The two ends of connection c. -/
def connEnds (c : Nat) : List PortAt :=
  let e : PortAt := ⟨false, (connEnd c).1, (connEnd c).2⟩
  e :: e.other.toList

/-- Port states (R320, `D2D_PORTp_STS`). -/
abbrev portReset : Nat := 0
abbrev portTraining : Nat := 1
abbrev portUp : Nat := 2
abbrev portDegraded : Nat := 3
abbrev portDown : Nat := 4

/-- Chip-link port states (R330, `LNK_PORTj_STS`). -/
abbrev lnkDown : Nat := 0
abbrev lnkTraining : Nat := 1
abbrev lnkPadding : Nat := 2
abbrev lnkUp : Nat := 3
abbrev lnkFailed : Nat := 4

/-- Registers of a port: `STS`, `RTY_CNT`, `WIN`, `LANE`, `EQ`, at their distance from `STS`. -/
abbrev prSts : Nat := 0x00
abbrev prRty : Nat := 0x08
abbrev prWin : Nat := 0x10
abbrev prLane : Nat := 0x18
abbrev prEq : Nat := 0x20

/-- The connections of the detour that replaces connection c (R324). -/
def detourOf (c : Nat) : List Nat :=
  if c < 28 then
    let dy := c / 7; let dx := c % 7
    let r := if dy = 3 then dy - 1 else dy
    let far := if dy = 3 then dy - 1 else dy + 1
    [28 + r * 8 + dx, far * 7 + dx, 28 + r * 8 + dx + 1]
  else if c < 52 then
    let dy := (c - 28) / 8; let dx := (c - 28) % 8
    let w := if dx = 7 then dx - 1 else dx
    let far := if dx = 7 then dx - 1 else dx + 1
    [dy * 7 + w, 28 + dy * 8 + far, (dy + 1) * 7 + w]
  else
    let dy := if c < 60 then 0 else 3
    let dx := (c - 52) % 8
    [dy * 7 + dx / 2 * 2, (if c < 60 then 52 else 60) + (dx ^^^ 1)]

/-- The device ID that the image in a slot gives this device, and the port of a route of it. -/
def Image.routeTo (i : Image) (dev : Nat) : Option Nat := (i.routes.find? fun r => r.1 == dev).map fun r => r.2.1

namespace State

/-- Register of a port end. -/
def port (s : State) (e : PortAt) (k : Nat) : Word :=
  if e.iod then s.iod e.n (R.iodD2dPortSts e.p + k) else s.die e.n (R.d2dPortSts e.p + k)

/-- Register of a port end changed. -/
def updPort (s : State) (e : PortAt) (k : Nat) (f : Word → Word) : State :=
  if e.iod then s.updIod e.n (R.iodD2dPortSts e.p + k) f else s.updDie e.n (R.d2dPortSts e.p + k) f

/-- State of a port end. -/
def portState (s : State) (e : PortAt) : Nat := fld (s.port e prSts) 7 5

/-- State of a port end set. -/
def setPortState (s : State) (e : PortAt) (v : Nat) : State := s.updPort e prSts fun w => setFld w 7 5 v

/-- State of connection c, as its compute end has it. -/
def connState (s : State) (c : Nat) : Nat := s.portState ⟨false, (connEnd c).1, (connEnd c).2⟩

/-- Both ends of connection c in a state. -/
def setConn (s : State) (c v : Nat) : State := forEach (connEnds c) s fun t e => t.setPortState e v

/-- What an end holds beyond its registers. -/
def link (s : State) (e : PortAt) : D2dX := s.d2d.get {} e.key

/-- That record changed. -/
def updLink (s : State) (e : PortAt) (f : D2dX → D2dX) : State := { s with d2d := s.d2d.set e.key (f (s.link e)) }

/-- Connection c is DEGRADED and its detour cannot be used: it crosses one that is DEGRADED or DOWN (R324). -/
def unroutable (s : State) (c : Nat) : Bool :=
  s.connState c == portDegraded && (detourOf c).any fun x => s.connState x == portDegraded || s.connState x == portDown

/-- The run of slot p uses a connection that `f` holds of. -/
def usesConn (s : State) (p : Nat) (f : Nat → Bool) : Bool :=
  match (s.slot p).img with
  | none => false
  | some i => (List.range 68).any fun c => i.d2dUsed.testBit c && f c

/-- The run of slot p uses chip-link port j. -/
def usesLink (s : State) (p j : Nat) : Bool :=
  match (s.slot p).img with
  | none => false
  | some i => i.clUsed.testBit j

/-- Where the loss of a part that an entry of type `type` names is kept; none for a connection that is only DEGRADED. -/
def failKey (type n : Nat) : Option Nat :=
  if type = 0x50 then none else if type = 0x51 then some n else if type = 0x52 then some (100 + n) else some (200 + n)

/-- An entry that reports a lost part, with its interrupt; later failures that follow from it name it (R332, R351). -/
def logFault (s : State) (type n : Nat) : State :=
  let t := s.logEv type 0xFF [BitVec.ofNat 8 n]
  let t := match failKey type n with
    | some k => { t with kpr := { t.kpr with failSeq := t.kpr.failSeq.set k s.kpr.logSeq } }
    | none => t
  t.raise intFault

/-- A part works again: what its loss was reported by is forgotten. -/
def forgetFail (s : State) (k : Nat) : State := { s with kpr := { s.kpr with failSeq := s.kpr.failSeq.erase k } }

/-- A route of the run of slot p would need more reverse turns than there are virtual channels for (R308, R324): its routes are those
between its cores and to the I/O dies over connections that `D2D_USED` names. Each detour adds at most two reverse turns, so
that none does with fewer than three detours. DESIGN CHOICE: log entry 100. -/
def turnedOut (s : State) (p : Nat) : Bool :=
  match (s.slot p).img with
  | none => false
  | some i =>
    let deg (c : Nat) : Bool := i.d2dUsed.testBit c && s.connState c == portDegraded
    decide (3 ≤ (List.range 68).countP deg) && (routesOf (s.partCores i)).any fun r =>
      ((routeConns r).all fun c => i.d2dUsed.testBit c) && turnsOut (routeDims deg r)

/-- Connection c is DOWN (R320, R336, R337): both ends, the log, the runs whose routes cross it or a detour that needs it, the
map record. -/
def downConn (s : State) (c : Nat) : State :=
  let t := (s.setConn c portDown).logFault 0x51 c
  let t := t.haltAffected fun p => (t.usesConn p fun x => x == c || t.unroutable x) || t.turnedOut p
  t.mapChange

/-- Connection c is DEGRADED (R322): both ends, the log, the runs whose routes have become unroutable (R324), the map record. -/
def degradeConn (s : State) (c : Nat) : State :=
  let t := (s.setConn c portDegraded).logFault 0x50 c
  let t := t.haltAffected fun p => t.usesConn p t.unroutable || t.turnedOut p
  t.mapChange

/-- A compute die is marked fenced: `FENCED`, the map, its buoy (R336, R375). -/
def markFenced (s : State) (d : Nat) : State :=
  let t := s.updDie d R.d2dDieSts fun w => setBit w 0 true
  ({ t with map := { t.map with fenced := t.map.fenced ||| ((1 : BitVec 32) <<< d) } }).buoy0 (16 + d) false

/-- An I/O die is marked fenced: the map, the buoys of its stacks, its chip links, its cache slice (R339, R375). -/
def markIodFenced (s : State) (i : Nat) : State :=
  let t := { s with map := { s.map with iodFenced := s.map.iodFenced ||| ((1 : BitVec 4) <<< i) }
                    cache := s.cache.drop fun u => unitIod u == i }
  let t := forEach [2 * i, 2 * i + 1] t fun t k => t.buoy0 (8 + k) false
  forEach ((List.range 6).map (6 * i + ·)) t fun t j =>
    (t.updIod i (R.lnkPortSts (j % 6)) fun w => setFld w 2 0 lnkDown).buoy1 j false

/-- Page commits that wait on the cores of die d complete with a status (R194, R394). -/
def dropCommits (s : State) (d status : Nat) : State :=
  forEach (coresOf d) s fun t c =>
    let gone := (t.cxOf c).commits
    let u := if gone.isEmpty then t else t.updCx c fun x => { x with commits := [] }
    u.completeWhere (fun k => gone.any fun g => g.ring == k.ring && g.idx == k.idx) status 0 []

/-- The cores of die d are held in reset: their registers and whatever their units hold go to reset values (R9). -/
def clearCores (s : State) (d : Nat) : State :=
  let mine (c : Nat) : Bool := dieOf c == d
  { s with
    coreR := s.coreR.drop mine, cx := s.cx.drop mine
    acb := s.acb.drop fun k => mine (k / 4), stat := s.stat.drop fun k => mine (k / 4) }

/-- A compute die is lost (R336, R337): it is fenced and held in reset, the ports to it are held in RESET, and affected runs halt. -/
def loseDie (s : State) (d : Nat) : State :=
  let t := forEach (connsOf d) (s.markFenced d) fun t c => t.setConn c portReset
  let t := (t.dropCommits d Sts.dieUnavailable).clearCores d
  let t := t.logFault 0x52 d
  let t := t.haltAffected fun p => t.slotHasDie p d || t.usesConn p fun c => (connsOf d).contains c
  t.mapChange

/-- Connections of I/O die i (R14, R310). -/
def iodConns (i : Nat) : List Nat := (List.range 4).map fun f => 52 + 4 * i + f

/-- A claim of the image in slot p lies on a stack of I/O die i (R339). The hashed range spreads over every stack. -/
def claimsOn (s : State) (p i : Nat) : Bool :=
  match (s.slot p).img with
  | none => false
  | some m => m.claims.any fun r => r.2 != 0 &&
    (r.1 < aliasBase || (r.1 < aliasBase + (i + 1) * 2 ^ 37 && aliasBase + i * 2 ^ 37 < r.1 + r.2))

/-- A fence accepted before a command, over rows of it, is not complete (R277). -/
def nbHeld (s : State) (i : Nat) (c : NbCmd) : Bool :=
  (s.nb i).fences.any fun f => decide (f.ord < c.ord) && c.inRange f.base f.len

/-- Dirty lines of a command's rows go back to HBM, and stay valid (R277). DEDUCED: log entry 52. -/
def nbFlush (s : State) (c : NbCmd) : State :=
  forEach (s.cache.filter fun e => e.2.dirty && c.rows.contains (e.1 / 4)) s fun t e =>
    let t := t.writeBack e.1 e.2
    { t with cache := t.cache.set e.1 { e.2 with dirty := false } }

/-- The near-bank commands, fences and region changes that `p`, `q` and `r` hold of, and the open commands `w` holds of, end with a
status; commands that such a fence held start (R277, R286, R359, R394). DEDUCED: log entry 87. -/
def dropNb (s : State) (p : NbCmd → Bool) (q : NbFence → Bool) (r : Nat → Bool) (w : Cmd → Bool) (status : Nat) : State :=
  let dies := [2, 3]
  let gone := dies.flatMap fun i =>
    ((s.nb i).cmds.filter p).map (fun c => (c.ring, c.idx)) ++ ((s.nb i).fences.filter q).map (fun f => (f.ring, f.idx)) ++
      (if r i then (s.nb i).region.map fun g => (g.ring, g.idx) else [])
  let keep (a b : Nat) : Bool := !gone.contains (a, b)
  let t := forEach (dies.filter fun i => s.nb i != {}) s fun t i =>
    let t := t.updNb i fun n => { n with
      cmds := n.cmds.filter fun c => keep c.ring c.idx, fences := n.fences.filter fun f => keep f.ring f.idx
      region := n.region.filter fun g => keep g.ring g.idx }
    t.updIod i R.nbuSts fun v => setFld (setFld v 3 0 (t.nb i).cmds.length) 11 8 (t.nb i).fences.length
  let t := forEach dies t fun t i => forEach ((t.nb i).cmds.filter fun c => s.nbHeld i c && !t.nbHeld i c) t nbFlush
  t.completeWhere (fun c => !keep c.ring c.idx || w c) status 0 []

/-- Commands of a lost I/O die complete with `DIE_UNAVAILABLE`: near-bank work on its stacks, and the retraining of its ports (R359). -/
def dropIod (s : State) (i : Nat) : State :=
  s.dropNb (fun c => (c.words ++ c.ran).any fun w => wbits w 112 100 / 2048 == i)
    (fun f => decide (f.base < (i + 1) * 2 ^ 37 ∧ i * 2 ^ 37 < f.base + f.len)) (· == i)
    (fun c => (c.opcode == Op.nbuRegion && c.note == 1 && arg c.args 0 1 == i) ||
      (c.opcode == Op.lnkRetrain && arg c.args 0 1 / 6 == i)) Sts.dieUnavailable

/-- IOD1, IOD2 or IOD3 is lost (R339). The log names it by 32 + i. -/
def loseIod (s : State) (i : Nat) : State :=
  let t := forEach (iodConns i) ((s.markIodFenced i).dropIod i) fun t c => t.setConn c portReset
  let t := t.logFault 0x52 (32 + i)
  let t := t.haltAffected fun p =>
    t.claimsOn p i || (t.usesConn p fun c => (iodConns i).contains c) || (List.range 6).any fun j => t.usesLink p (6 * i + j)
  t.mapChange

/-! ### At an accepted mark -/

/-- Detours are installed for every DEGRADED connection that has one (R322, R324). -/
def installDetours (s : State) : State :=
  forEach (List.range 68) s fun t c =>
    if t.connState c == portDegraded && !t.unroutable c then
      forEach (connEnds c) t fun t e => t.updPort e prSts fun w => setBit w 1 true
    else t

/-- The band the slices of die d refresh at. -/
def stackBand (s : State) (d : Nat) : Nat := fld (s.die d R.turfSts) 5 4

/-- The equalisation preset of a port end for a band (R319, R425). DESIGN CHOICE: log entry 48. -/
def setPreset (s : State) (e : PortAt) (band : Nat) : State :=
  s.updPort e prEq fun _ => BitVec.ofNat 64 (band % 4 * 64 + Config.preset s.thm.plan e.key band % 64)

/-- Ports below a stack whose band has changed apply the new preset at both ends (R319). -/
def applyPresets (s : State) : State :=
  forEach (List.range 32) s fun t d =>
    if (t.thmDie d).presetPend then
      forEach ((connsOf d).flatMap connEnds) (t.updThmDie d fun x => { x with presetPend := false }) fun t e =>
        t.setPreset e (t.stackBand d)
    else t

/-! ### Chip links -/

/-- Register of chip-link port j: `STS` 0, `PAD` 8, `PEER` 16, `RPL_CNT` 24, `FEC_CNT` 32. -/
def lnk (s : State) (j k : Nat) : Word := s.iod (j / 6) (R.lnkPortSts (j % 6) + k)

/-- Register of chip-link port j changed. -/
def updLnk (s : State) (j k : Nat) (f : Word → Word) : State := s.updIod (j / 6) (R.lnkPortSts (j % 6) + k) f

/-- State of chip-link port j. -/
def lnkState (s : State) (j : Nat) : Nat := fld (s.lnk j 0) 2 0

/-- What chip-link port j holds beyond its registers. -/
def clx (s : State) (j : Nat) : ClX := s.cl.get {} j

/-- That record changed. -/
def updCl (s : State) (j : Nat) (f : ClX → ClX) : State := { s with cl := s.cl.set j (f (s.clx j)) }

/-- State of chip-link port j set: `PEER` reads 0 unless UP, and the buoy follows (R20, R330, R375). -/
def setLnkState (s : State) (j v : Nat) : State :=
  let t := s.updLnk j 0 fun w => setFld (if v = lnkUp then w else setFld w 20 16 0) 2 0 v
  let t := if v = lnkUp then t else t.updLnk j 0x10 fun _ => 0
  t.buoy1 j (v == lnkUp)

/-- The `LNK_RETRAIN` commands of port j complete with its state. -/
def retrainDone (s : State) (j : Nat) : State :=
  s.completeWhere (fun c => c.opcode == Op.lnkRetrain && arg c.args 0 1 == j) Sts.ok 0 [BitVec.ofNat 8 (s.lnkState j)]

/-- Chip-link port j fails (R328, R330, R337). -/
def failLink (s : State) (j : Nat) : State :=
  let t := (s.setLnkState j lnkFailed).logFault 0x53 j
  (t.haltAffected fun p => t.usesLink p j).retrainDone j

/-- Chip-link port j loses its partner (R330, R337). -/
def dropLink (s : State) (j : Nat) : State :=
  let t := (s.setLnkState j lnkDown).logFault 0x54 j
  t.haltAffected fun p => t.usesLink p j

end State

end Sys2Proof.Machine
end

