-- ==== Sys2Proof/Machine/Beacon.lean ====
section
/-!
DEFINITION. The Beacon family: the clock, marks, occultations, arming, the slack meter (ch. 2). `BCN_STS` bit numbers are those of
its table.
-/

namespace Sys2Proof.Machine

/-- Cycles per flash of a period in units of 10 ns at margin class 0 A, 1 B, 2 C; 0 where R32 does not allow the period. -/
def cpfOf (cls period : Nat) : Nat :=
  match cls with
  | 1 => 21 * period
  | 0 => if period % 2 = 0 then 45 * period / 2 else 0
  | _ => if period % 2 = 0 then 39 * period / 2 else 0

/-- o_t(e) of R405: the smallest offset o with exec_t(o) ≥ e for a core held at skip t. -/
def offsetAt (t e : Nat) : Nat :=
  if e = 0 then 0
  else
    let r := (e - 1) % (32 - t) + 1
    32 * ((e - 1) / (32 - t)) + ((List.range 33).find? fun k => r ≤ State.ranOf t k).getD 32

/-- K cycles from the cut-off to the expected end of the flash (R40). -/
def cutK (cls : Nat) : Nat :=
  match cls with
  | 0 => 390
  | 1 => 364
  | _ => 338

namespace State

/-- Beacon block changed by `f`. -/
def updBcn (s : State) (f : Bcn → Bcn) : State := { s with bcn := f s.bcn }

/-- `STATE` of `BCN_STS` set. -/
def setBcnState (s : State) (v : Nat) : State := s.updBcn fun b => { b with sts := setFld b.sts 2 0 v }

/-- A fault flag of `BCN_STS` set. -/
def bcnFlag (s : State) (b : Nat) : State := s.updBcn fun x => { x with sts := setBit x.sts b true }

/-- The programmed period (R27). -/
def period (s : State) : Nat := fld s.bcn.period 10 0

/-- `BCN_CPF` for the present period and margin class; 0 where R32 does not allow the period (R31, R32, R35, R40).
DESIGN CHOICE: log entry 111. -/
def refreshCpf (s : State) : State :=
  let n := cpfOf s.thm.cls s.period
  s.updBcn fun b => { b with cpf := if n = 0 then 0 else BitVec.ofNat 64 (s.thm.cls * 2 ^ 32 + (n - cutK s.thm.cls) * 2 ^ 16 + n) }

/-- The slots that are STARTING have their starts cancelled (R216). -/
def cancelStarts (s : State) (why : Nat) : State :=
  forEach (List.range 8) s fun t p => if t.slotState p == 2 then t.cancelStart p why else t

/-- The open `BCN_ARM` commands complete: at the arming mark, or where the state is left without one (R364).
DEDUCED: log entry 14. -/
def armDone (s : State) (status : Nat) : State := s.completeWhere (fun c => c.opcode == Op.bcnArm) status 0 []

/-- `ARM` cleared. DESIGN CHOICE: log entry 110. -/
def clearArm (s : State) : State := s.updBcn fun b => { b with ctrl := setBit b.ctrl 0 false }

/-! ### Clock -/

/-- `BCN_CLK` locked: NO_CLOCK becomes LOCKED and the lock buoy rises (R34, R35). -/
def clkLock (s : State) : State :=
  if !s.powered || s.thm.trip then s
  else
    let t := s.aside endHalted
    let t := if t.bcnState == 0 then (t.setBcnState 1).updBcn fun b => { b with locked := true, hasMark := false, phase := 0 } else t
    (t.updBcn fun b => { b with locked := true }).refreshCpf.aside fun u => u.buoy0 2 true

/-- Beacon loss (R35, R51, R53). DESIGN CHOICE: log entry 110. DESIGN CHOICE: log entry 119. -/
def beaconLoss (s : State) : State :=
  if s.bcnState == 0 then s
  else
    let t := s.aside fun u => (u.logEv 0x03 0xFF []).haltAll 3
    let t := ((t.setBcnState 0).bcnFlag 8).updBcn fun b => { b with locked := false, hasMark := false }
    t.clearArm.aside fun u => ((u.armDone Sts.bcnState).cancelStarts 3).buoy0 2 false

/-! ### Marks -/

/-- The cores with a deadline operation of the current flash incomplete (R50). -/
def lateCores (s : State) : List Nat :=
  (List.range 8).flatMap fun p =>
    if s.slotState p == 3 && (s.slot p).ending.isNone then (s.slotCores p).filter fun c => !s.muted p (s.curRfn p) && s.deadlineOpen p c (s.curRfn p) else []

/-- The mark ends flash n while deadline operations of some cores are incomplete: an overrun (R50). -/
def overrun (s : State) : State :=
  match sortBy (fun a b : Nat => a ≤ b) s.lateCores with
  | [] => s
  | c :: _ => (s.bcnFlag 12).aside fun u => (u.logEv 0x02 (s.logSlot c) (leBytes 2 s.lateCores.length ++ leBytes 2 c)).haltAll 5

/-- A flash of `n` periods has ended: the damper's windows begin again (R400). -/
def turnWindows (s : State) (n : Nat) : State :=
  { s with thm := { s.thm with win := 0, winTail := (s.cpf * n + 31) % 32 + 1 } }

/-- Consecutive missing marks. -/
def missRun (s : State) : Nat := fld s.bcn.sts 23 16

/-- A mark on phase in COUNTING: the flash ends, the next begins (R35, R44, R50, R52, R216, R319, R322). DEDUCED: log entry 115. -/
def nextFlash (s : State) : State :=
  let t := s.overrun.aside (turnWindows · (s.missRun + 1))
  let t := t.aside fun u => forEach (List.range 8) u fun u p => if u.slotState p == 3 && !u.thm.trip then u.endFlash p else u
  let t := t.updBcn fun b => { b with fn := BitVec.ofNat 64 ((fld b.fn 47 0 + 1) % 2 ^ 48), sts := setFld b.sts 23 16 0 }
  t.aside fun u => (forEach (List.range 8) u markSlot).installDetours.applyPresets

/-- The first mark in ARMED loads the FN and fixes the phase (R35). -/
def armingMark (s : State) : State :=
  let t := s.updBcn fun b => { b with
    fn := b.armFn, sts := setFld (setFld b.sts 23 16 0) 2 0 3, phase := 0, hasMark := true }
  t.clearArm.aside fun u => (forEach (List.range 8) ((u.turnWindows 1).armDone Sts.ok) markSlot).installDetours.applyPresets

/-- A mark in LOCKED takes the phase afresh; its interval is checked (R29, R35). -/
def lockedMark (s : State) (edges : Nat) : State :=
  let t := s.aside endHalted
  let t := if t.bcn.hasMark && edges % t.period != 0 then (t.bcnFlag 10).aside fun u => u.logEv 0x06 0xFF [] else t
  (t.updBcn fun b => { b with hasMark := true, phase := 0 }).aside fun u => u.installDetours.applyPresets

/-- A stray mark: counted, flagged, ignored (R30). -/
def strayMark (s : State) (phase : Nat) : State :=
  ((s.bcnFlag 11).updBcn fun b => { b with strayCnt := incFld b.strayCnt 31 0 1, phase := phase }).aside fun u => u.logEv 0x05 0xFF []

/-- A mark, `edges` reference edges after the one before (R26, R35). -/
def mark (s : State) (edges : Nat) : State :=
  match s.bcnState with
  | 1 => s.lockedMark edges
  | 2 => s.armingMark
  | 3 =>
    let ph := (s.bcn.phase + edges) % s.period
    if ph = 0 then (s.updBcn fun b => { b with phase := 0 }).nextFlash else s.strayMark ph
  | _ => s

/-! ### Absent marks -/

/-- The expected mark is absent in COUNTING (R35, R47, R49). DESIGN CHOICE: log entry 106. -/
def occult (s : State) : State :=
  if s.bcnState != 3 || 64 ≤ s.missRun then s
  else
    let own := bitAt s.bcn.sts 13
    let cs := (List.range 512).filter s.requests
    let c := cs.headD 0
    let slot := if own && !cs.isEmpty then s.logSlot c else ((List.range 8).find? fun p => s.slotState p == 3).getD 0xFF
    let data : List Byte :=
      if own && !cs.isEmpty then
        [1, BitVec.ofNat 8 (fld (s.core c R.seqSlkSlip) 50 48)] ++ leBytes 2 cs.length ++ leBytes 2 c ++ zeros 2 ++
          leBytes 4 (fld (s.core c R.seqSlkCur) 47 32) ++ leBytes 4 (s.lateness c)
      else [BitVec.ofNat 8 own.toNat]
    let t := s.aside fun u => u.logEv 0x01 slot data
    let t := t.updBcn fun b => { b with
      sts := incFld b.sts 23 16 1
      occCnt := incFld (incFld b.occCnt 31 0 1) 63 32 own.toNat
      lastOcc := BitVec.ofNat 64 (own.toNat * 2 ^ 63 + s.fn.toNat) }
    t.aside fun t =>
      let t := forEach (List.range 8) t fun t p =>
        if t.slotState p == 3 || (t.slot p).prepared then t.updSlot p fun y => { y with stretch := y.stretch + s.cpf } else t
      forEach cs t dropRequest

/-- The 65th consecutive expected mark is absent: Beacon stall (R35, R51, R53). -/
def beaconStall (s : State) : State :=
  if s.bcnState != 3 || s.missRun != 64 then s
  else
    let t := s.aside fun u => (u.logEv 0x04 0xFF []).haltAll 4
    let t := (t.bcnFlag 9).updBcn fun b => { b with sts := setFld (incFld b.sts 23 16 1) 2 0 1 }
    t.aside fun u => (forEach (List.range 512) u dropRequest).cancelStarts 3

/-! ### Arming -/

/-- The programmed period meets R32 at the margin class in force. -/
def periodFits (s : State) : Bool := cpfOf s.thm.cls s.period != 0

/-- The state allows an arm command: LOCKED, or COUNTING with no run active (R35, R36); in ARMED it is ignored.
DESIGN CHOICE: log entry 110. -/
def mayArm (s : State) : Bool := (s.bcnState == 1 || s.bcnState == 3) && !s.anyActive && s.periodFits

/-- An arm command with a load value (R35). DESIGN CHOICE: log entry 119. -/
def armWith (s : State) (load : BitVec 48) : State :=
  s.updBcn fun b => { b with
    armFn := BitVec.ofNat 64 load.toNat, sts := setFld b.sts 2 0 2, ctrl := setBit b.ctrl 0 true, occCnt := 0, strayCnt := 0 }

/-- Disarm: ARMED to LOCKED (R35). -/
def disarm (s : State) : State := if s.bcnState == 2 then (s.setBcnState 1).clearArm.aside fun u => u.armDone Sts.bcnState else s

/-! ### The slack meter -/

/-- Core c requests an occultation for a cause; `SLIP_L` is driven low (R45, R46). -/
def request (s : State) (p c cause : Nat) : State :=
  if s.requests c || s.muted p (s.curRfn p) then s
  else
    let t := s.updCore c R.seqSlkCur fun w => setBit w 16 true
    let t := t.updCore c R.seqSlkSlip fun w => setFld (incFld (setFld w 50 48 cause) 47 16 1) 15 0 (s.curRfn p)
    { t with bcn := { t.bcn with sts := setBit t.bcn.sts 13 true }, pins := { t.pins with slip := true } }

/-- The cause with the largest charge, the lower code between equals, 0 without charges (R49). -/
def topCause (s : State) (c : Nat) : Nat :=
  let n (k : Nat) : Nat := (s.cxOf c).charges.get 0 k
  (List.range 8).foldl (fun b k => if n b < n k then k else b) 0

/-- The lateness λ(o) of R405 for core c in a run of thermal class t. -/
def dampLag (s : State) (c t o : Nat) : Int := (o : Int) - offsetAt t (s.execOf c o)

/-- λ exceeds its largest earlier value in the flash at offset `off`; a core damped at or below the class of its run is never late by it
(R405). -/
def dampLate (s : State) (p c off : Nat) : Bool :=
  match (s.slot p).img with
  | none => false
  | some i => off != 0 && decide (i.thermal < s.levelNow c) && (List.range off).all fun o => decide (s.dampLag c i.thermal o < s.dampLag c i.thermal off)

/-- A place of `ThmX.refs`, the slices of a die or an HBM bank, has made more refreshes in the current flash than its slack is compiled to
absorb (R243). -/
def refreshBeyond (s : State) (place : Nat) : Bool :=
  let e := s.thm.refs.get (0, 0) place
  e.1 == s.fn.toNat && decide (cdiv (10 * s.period) 3900 < e.2)

/-- One late cycle of core c, charged to cause k (R41, R42, R44, R45). Once its lateness has passed the slack, the core requests with
each further late cycle, also where an occultation has answered its request before: the slack stays that of the flash.
DESIGN CHOICE: log entry 106. -/
def charge (s : State) (p c k : Nat) : State :=
  match (s.cxOf c).slack with
  | some slack =>
    let t := s.updCx c fun x => { x with charges := x.charges.upd 0 k (· + 1) }
    let late := t.lateness c
    let t := t.updCore c (R.seqSlkCause k) fun w => incFld w 47 0 1
    let t := t.updCore c R.seqSlkCur fun w => setFld (setFld w 15 0 (min late 65535)) 50 48 (t.topCause c)
    if late ≤ slack then t
    else
      let x := t.cxOf c
      let first := if x.firstPast = 0 then k else x.firstPast
      (t.updCx c fun x => { x with firstPast := first }).request p c first
  | none => s

/-- The causes of a late cycle at offset `off` that may be charged: DAMP where the damper holds the core later than its thermal
class, REFRESH where the slice or bank that blocks, at `place`, refreshes beyond the compiled number (R42, R243, R405). -/
def lateCauses (s : State) (p c off place : Nat) (causes : BitVec 8) : List Nat :=
  (List.range 8).filter fun k => k != 0 && causes.getLsbD k && (k != 1 || s.dampLate p c off) && (k != 2 || s.refreshBeyond place)

/-- A cycle in which causes hold a deadline operation of core c late: charged once, to the lowest of them (R42). -/
def slackCharge (s : State) (c off : Nat) (causes : BitVec 8) (place : Nat) : State :=
  match s.slotOf c with
  | none => s
  | some p =>
    match s.lateCauses p c off place causes with
    | [] => s
    | k :: _ => if s.slotState p == 3 && s.deadlineOpen p c (s.curRfn p) then s.charge p c k else s

/-- The cut-off: every core with an incomplete deadline operation of the flash requests an occultation (R40, R45, R49). -/
def cutOff (s : State) : State :=
  if s.bcnState != 3 then s
  else forEach (List.range 8) s fun t p =>
    if t.slotState p == 3 then
      forEach (t.slotCores p) t fun t c =>
        let x := t.cxOf c
        if x.slack.isSome && t.deadlineOpen p c (t.curRfn p) then
          t.request p c (if x.firstPast = 0 then t.topCause c else x.firstPast)
        else t
    else t

/-- 40 ns after the expected time of the mark, `SLIP_L` is released where no core requests one (R47). -/
def slipRelease (s : State) : State :=
  if (List.range 512).any s.requests then s
  else { s with bcn := { s.bcn with sts := setBit s.bcn.sts 13 false }, pins := { s.pins with slip := false } }

end State

/-- `BEACON_LOSS` (R51). -/
def execBeaconLoss (s : State) : Host.Outcome State Fault Refusal := s.bcnDone s.beaconLoss

/-- `OCCULTATION` (R49). -/
def execOccultation (s : State) : Host.Outcome State Fault Refusal := s.bcnDone s.occult

/-- `BEACON_STALL` (R51). -/
def execBeaconStall (s : State) : Host.Outcome State Fault Refusal := s.bcnDone s.beaconStall

/-- `ARM` (R35, R36): `ARM` of `BCN_CTRL` set with a load value. -/
def execArm (load : BitVec 48) (s : State) : Host.Outcome State Fault Refusal :=
  s.bcnDone (if s.mayArm then s.armWith load else s)

/-- `DISARM` (R35). -/
def execDisarm (s : State) : Host.Outcome State Fault Refusal := s.bcnDone s.disarm

/-- `SLACK_CHARGE` (R42). -/
def execSlackCharge (core : Core) (off : Nat) (causes : BitVec 8) (place : Fin 8256) (s : State) : Host.Outcome State Fault Refusal :=
  s.bcnDone (if s.thm.trip then s else s.slackCharge core.val off causes place.val)

/-- `CUT_OFF` (R45). -/
def execCutOff (s : State) : Host.Outcome State Fault Refusal := s.bcnDone (if s.thm.trip then s else s.cutOff)

/-- `SLIP_RELEASE` (R47). -/
def execSlipRelease (s : State) : Host.Outcome State Fault Refusal := s.bcnDone s.slipRelease

end Sys2Proof.Machine
end

