-- ==== Sys2Proof/Machine/Crc.lean ====
section
/-!
DEFINITION. The check value of R159, which the check unit, the die-to-die links (R317) and the chip links (R326) compute.
-/

namespace Sys2Proof.Machine

/-- The parameters of a check value (R159). -/
structure CrcP where
  w      : Nat
  poly   : Nat
  init   : Nat
  refin  : Bool
  refout : Bool
  finv   : Bool
  deriving DecidableEq, Repr

/-- The low `w` bits of a number reversed. -/
def reflect (w n : Nat) : Nat := (List.range w).foldl (fun r i => 2 * r + (n >>> i) % 2) 0

/-- One bit of a byte fed, the most significant first. -/
def crcBit (p : CrcP) (crc : Nat) : Nat :=
  if crc.testBit (p.w - 1) then ((crc * 2) ^^^ p.poly) % 2 ^ p.w else crc * 2 % 2 ^ p.w

/-- `n` bits fed. -/
def crcBits (p : CrcP) : Nat → Nat → Nat
  | 0, crc => crc
  | n + 1, crc => crcBits p n (crcBit p crc)

/-- A byte fed (R159). -/
def crcByte (p : CrcP) (crc : Nat) (b : Byte) : Nat :=
  let b := if p.refin then reflect 8 b.toNat else b.toNat
  crcBits p 8 ((crc ^^^ (b <<< (p.w - 8))) % 2 ^ p.w)

/-- Bytes fed in order. -/
def crcFeed (p : CrcP) (crc : Nat) (bs : List Byte) : Nat := bs.foldl (crcByte p) crc

/-- The check value finished (R159). -/
def crcFinish (p : CrcP) (crc : Nat) : Nat :=
  let c := if p.refout then reflect p.w crc else crc
  if p.finv then c ^^^ (2 ^ p.w - 1) else c

/-- The check value of a list of bytes. -/
def crcOf (p : CrcP) (bs : List Byte) : Nat := crcFinish p (crcFeed p (p.init % 2 ^ p.w) bs)

end Sys2Proof.Machine
end

