-- ==== Sys2Proof/Machine/Tags.lean ====
section
/-!
DEFINITION. Transfer tags (R156, R232-R234): the requests that hold one and those that wait, what a remote request sends (R326, R329),
and the halt of a stream channel (R157), which gives its waiting requests up.
-/

namespace Sys2Proof.Machine

/-- The core in whose window of SRAM or turf an address lies (R235). -/
def coreOfDa (da : Nat) : Option Nat :=
  if turfBase ≤ da ∧ da < sramBase then some ((da - turfBase) / turfLen)
  else if sramBase ≤ da ∧ da < 0x00C1_0000_0000 then some ((da - sramBase) / 0x80_0000)
  else none

/-- Parameters of a chip-link CRC (R326). -/
def clCrc : CrcP := { w := 32, poly := 0x1EDC6F41, init := 0xFFFFFFFF, refin := false, refout := false, finv := true }

namespace State

/-- Channel ch of core c is halted. -/
def chanHalted (s : State) (c ch : Nat) : Bool := bitAt (s.core c (R.strChSts ch)) 0

/-- Channel ch of core c halts with a cause and an address (R157); what still waits for a tag is given up. A halted channel keeps
its first record. DEDUCED: log entry 34. -/
def chanHalt (s : State) (c ch cause da : Nat) : State :=
  if s.chanHalted c ch then s
  else
    let t := (s.updCore c (R.strChSts ch) fun w => setFld (setBit w 0 true) 9 8 cause).setCore c (R.strChAddr ch)
      (BitVec.ofNat 64 (da % 2 ^ 48))
    let t := t.updCx c fun x => { x with waiting := x.waiting.filter fun r => r.ch != ch }
    let t := match t.slotOf c with
      | some p => t.updSlot p fun y => { y with channelHalted := true }
      | none => t
    t.logEv 0x21 (t.logSlot c) (leBytes 2 c ++ [BitVec.ofNat 8 ch, BitVec.ofNat 8 cause] ++ zeros 4 ++ leBytes 8 da)

/-- The trailer of a flit (R326): sequence number, acknowledgement of the last flit taken, type, and the CRC over the content and
these 4 bytes. -/
def flitTrailer (ty sq ack : Nat) (content : List Byte) : List Byte :=
  let low := leBytes 4 (sq % 4096 + ack % 4096 * 2 ^ 12 + ty * 2 ^ 24)
  low ++ leBytes 4 (crcOf clCrc (content ++ low))

/-- A data flit leaves through chip-link port j: its sequence number and the replay buffer of 512 flits (R326, R328). The manual
gives the content no layout; the flit holds the bytes it carries, then +0. DESIGN CHOICE: log entry 35. -/
def sendFlit (s : State) (j : Nat) (data : List Byte) : State :=
  s.updCl j fun x =>
    let content := data ++ zeros (256 - data.length)
    { x with
      txSeq := (x.txSeq + 1) % 4096
      replay := (x.replay ++ [((x.txSeq : Nat), content ++ flitTrailer 1 x.txSeq (x.rxSeq + 4095) content)]).drop (x.replay.length + 1 - 512) }

/-- A packet for a device that no route names, or whose port is not UP, is discarded (R329). `port` is the port it arrived at, 0xFF
for one of this device. -/
def discardPacket (s : State) (slot dev port : Nat) : State := s.logEv 0x56 slot (leBytes 2 dev ++ [BitVec.ofNat 8 port])

/-- A request takes a tag and goes out; a remote one reads its data and leaves through the port its route names (R155, R329).
DESIGN CHOICE: log entry 35. -/
def launch (s : State) (p c : Nat) (r : Req) : State :=
  let t := (s.updCx c fun x => { x with reqs := x.reqs ++ [r] }).noteTags p c 0
  if r.kind ≠ 2 then t
  else
    match t.readDa (.stream c) r.fromDa r.bytes with
    | (.error e, u) => (u.updCx c fun x => { x with reqs := x.reqs.dropLast }).chanHalt c r.ch (errCause e) r.fromDa
    | (.ok b, u) =>
      match (u.slot p).img with
      | none => u
      | some i =>
        match i.routeTo r.dev with
        | none => u.discardPacket p r.dev 0xFF
        | some j => if u.lnkState j == lnkUp then u.sendFlit j b else u

/-- A request of core c takes a tag, or waits for one: the wait is counted, and the first at each die in a run is logged (R232,
R234). -/
def post (s : State) (p c : Nat) (r : Req) : State :=
  if s.chanHalted c r.ch then s
  else
    match s.tagBound c (r.kind == 2) with
    | none => s.launch p c r
    | some b =>
      (s.updCx c fun x => { x with waiting := x.waiting ++ [r] }).noteWait p c b

/-- The first waiting request of core c of a kind that a tag is free for goes out; `n` bounds the search. -/
def admitCore (p c : Nat) (remote : Bool) : Nat → State → State
  | 0, s => s
  | n + 1, s =>
    match (s.cxOf c).waiting.find? fun r => (r.kind == 2) == remote with
    | none => s
    | some r =>
      if (s.tagBound c remote).isSome then s
      else admitCore p c remote n ((s.updCx c fun x => { x with waiting := x.waiting.erase r }).launch p c r)

/-- The fetch, walker or queue-port request of core c that has waited longest takes a tag that is free for it; `n` bounds the search.
DESIGN CHOICE: log entry 35. -/
def admitStalled (p c : Nat) : Nat → State → State
  | 0, s => s
  | n + 1, s =>
    match (s.cxOf c).stalled.head? with
    | none => s
    | some k =>
      if (s.tagBound c false).isSome then s
      else admitStalled p c n
        ((s.updCx c fun x => { x with stalled := x.stalled.drop 1, granted := x.granted ++ [k] }).noteTags p c 0)

/-- Freed tags go to requests that wait, by ascending local core number, memory before remote (R232). -/
def grantTags (s : State) (p d : Nat) : State :=
  forEach (coresOf d) s fun t c => admitCore p c true 128 (admitCore p c false 256 (admitStalled p c 3 t))

/-- A request of kind k of core c may go out: a tag is free, or it has been given one (R232); outside a run none is counted.
DESIGN CHOICE: log entry 35. -/
def tagReady (s : State) (c k : Nat) : Bool :=
  !s.coreActive c || (s.tagBound c false).isNone || (s.cxOf c).granted.contains k

/-- A request of kind k of core c waits at the bound that it meets (R232): it is counted once (R234).
DESIGN CHOICE: log entry 35. -/
def stallTag (s : State) (c k : Nat) : State :=
  if (s.cxOf c).stalled.contains k then s
  else match s.slotOf c, s.tagBound c false with
    | some p, some b => (s.updCx c fun x => { x with stalled := x.stalled ++ [k] }).noteWait p c b
    | _, _ => s

/-- What a request of kind k of core c does, its tag in hand or its own; a tag that it was given is freed afterwards (R156, R232).
DESIGN CHOICE: log entry 35. -/
def holdTag (s : State) (c k : Nat) (f : State → State) : State :=
  if (s.cxOf c).granted.contains k then
    let t := f (s.updCx c fun x => { x with granted := x.granted.erase k })
    match s.slotOf c with
    | some p => t.grantTags p (dieOf c)
    | none => t
  else f s

end State

end Sys2Proof.Machine
end

