-- ==== Sys2Proof/Machine/Sequencer.lean ====
section
/-!
DEFINITION. The sequencer family: dispatch, CTRL words, completion, banking (R128-R144, R161, R205). A word given up or not yet
able to act leaves the state as it is.
-/

namespace Sys2Proof.Machine

namespace State

/-! ### Dispatch -/

/-- Every queue that a word needs has a credit (R140). -/
def hasCredit (s : State) (c : Nat) (us : List CoreUnit) : Bool :=
  us.all fun u => ((s.cxOf c).queued u).length < CoreUnit.depth u

/-- A word put into the queue of a unit. -/
def enqueue (s : State) (c : Nat) (u : CoreUnit) (q : QWord) : State :=
  s.updCx c fun x => match u with
    | .str _ => { x with strQ := x.strQ ++ [q] }
    | u => x.setUnit u fun y => { y with queue := y.queue ++ [q] }

/-- A fetched word goes to the queues of its units, or, for a CTRL word, to the sequencer itself (R135, R137, R140). An ENG word whose
`EMASK` names no engine is rejected with no engine to run it (R132), and is done at once. DEDUCED: log entry 19. -/
def place (s : State) (p c off n : Nat) (q : QWord) : State :=
  let t := s.updCx c fun x => { x with
    pos := n + 1, rfn := q.rfn, op := q.op + 1, ctl := if wClass q.word = 0 then some q else x.ctl }
  let t := if wClass q.word != 0 && (unitsOf q.word q.shift).isEmpty then (t.noteEarly p c q).incEv c (wSigEv q.word) else t
  forEach (unitsOf q.word q.shift) t fun t u =>
    let t := t.enqueue c u q
    match u with
    | .eng e => t.engArrival p c e.val off
    | _ => t

/-- The next word of core c's stream is fetched and dispatched (R128, R135, R137, R142, R205, R207). At a bound of its tags the fetch waits
(R232). DEDUCED: log entry 19. -/
def dispatch (s : State) (c off : Nat) : State :=
  match s.slotOf c with
  | none => s
  | some p =>
    match s.streamEnt? p c with
    | none => s
    | some e =>
      let x := s.cxOf c
      if s.coreState c != 2 || !s.slotActive p || x.ctl.isSome || s.removed c off then s
      else
        match streamNext e x.pos x.rfn.toNat with
        | none => s
        | some (n, base, dfl) =>
          let s := s.settleRamps c off
          let da := s.wordDa c n
          if !(turfOf c ≤ da && da + 16 ≤ turfOf c + turfLen) then (s.endKindles c off).trap c 2 da
          else if !s.tagReady c 0 then s.stallTag c 0
          else s.holdTag c 0 fun s =>
            match s.readDa (Who.fetch c) da 16 with
            | (.error (.ue _ _ _), t) => (t.endKindles c off).trap c 1 da
            | (.error _, t) => (t.endKindles c off).trap c 2 da
            | (.ok bs, t) =>
              let w := BitVec.ofNat 128 (leNat bs)
              let r := BitVec.ofNat 48 (wordRfn base dfl w)
              let q : QWord :=
                { word := w, rfn := r, op := if r = x.rfn then x.op else 0, addr := BitVec.ofNat 48 da, shift := s.shiftOf p c }
              if wordError s.cpf w then (t.endKindles c off).trap c 3 da
              else if s.rotPending p c r.toNat || ((s.slot p).ending.isSome && decide (s.curRfn p < r.toNat)) || !s.hasCredit c (unitsOf w q.shift) then s
              else t.place p c off n q

/-! ### CTRL words -/

/-- The slot whose run core c is in. -/
def runSlot (s : State) (c : Nat) : Option Nat :=
  match s.slotOf c with
  | some p => if s.slotState p == 3 && s.coreState c == 2 then some p else none
  | none => none

/-- A CTRL word of opcode `opc` that the sequencer has reached and that is due completes, with the effect `f` (R130, R136,
R138). DEDUCED: log entry 19. -/
def ctrlWord (s : State) (c off opc : Nat) (f : State → BitVec 128 → State) : State :=
  match s.runSlot c, (s.cxOf c).ctl with
  | some p, some q =>
    if wOpc q.word == opc && s.due p c off q then
      (((f (s.updCx c fun x => { x with ctl := none }) q.word).incEv c (wSigEv q.word)).bankIfDone p c off).endIfQuiet p off
    else s
  | _, _ => s

/-- SYNC: `ADV` is added to the RFN of every later word (R130). -/
def syncAdv (s : State) (c : Nat) (w : BitVec 128) : State :=
  let adv := wbits w 47 0
  s.updCx c fun x => { x with rfn := x.rfn + BitVec.ofNat 48 adv, op := if adv = 0 then x.op else 0 }

/-! ### Completion -/

/-- The units of a core that hold a word of class 4: the walker, the vector engine, engines (R172). -/
def freeWalkerUnits (s : State) (p c off : Nat) (q : QWord) : State :=
  let mine (r : Option QWord) : Bool := match r with
    | some a => sameWord a q
    | none => false
  let t := if mine (s.cxOf c).pgw.run then
      (s.updCx c fun x => { x with pgw := { x.pgw with run := none } }).setPgwState c
        (if bitAt (s.core c R.pgwCtrl) 1 then unitBanked else unitIdle)
    else s
  let t := if mine (t.cxOf c).vec.run then
      (t.updCx c fun x => { x with vec := { x.vec with run := none } }).setVecState c
        (if (t.cxOf c).vec.bank then unitBanked else unitIdle)
    else t
  forEach (List.range 4) t fun t e =>
    if mine (t.engX c e).u.run then
      let t := t.updEngX c e fun x => { x with u := { x.u with run := none } }
      if (t.engX c e).drain.isNone then t.enterGap p c e off else t
    else t

/-- An engine operation that issued at executed cycle `b` has completed on the engines `es` at cycle t; with the image's legacy pause
they idle for the pause that the core's skip level gives, and the cycles beyond the pause of the thermal class are charged while a
deadline operation of the flash is not complete (R42, R406). -/
def legacyPause (s : State) (p c : Nat) (es : List Nat) (b t : Nat) : State :=
  match (s.slot p).img with
  | none => s
  | some i =>
    let n := if fld (s.die (dieOf c) R.thmSts) 1 0 = 0 then (s.thmDie (dieOf c)).skip.get 0 (localOf c) else 0
    if !i.legacy || n = 0 then s
    else
      let d := t - b
      let pause := min 1023 (cdiv (d * n) (32 - n))
      let paid := cdiv (d * i.thermal) (32 - i.thermal)
      let u := forEach es s fun u e => u.updEngX c e fun x => { x with pauseTo := t + pause }
      if u.deadlineOpen p c (u.curRfn p) then forEach (List.range (pause - paid)) u fun u _ => u.charge p c 1 else u

/-- Engine e drains the word. -/
def drainsNow (s : State) (c e : Nat) (q : QWord) : Bool :=
  match (s.engX c e).drain with
  | some d => sameWord d q
  | none => false

/-- Engine e runs the word. -/
def runsNow (s : State) (c e : Nat) (q : QWord) : Bool :=
  match (s.engX c e).u.run with
  | some r => sameWord r q
  | none => false

/-- Executed cycle at which the word issued on engine e, and whether it was rejected there. -/
def issuedAt (s : State) (c e : Nat) (q : QWord) : Nat × Bool :=
  let x := s.engX c e
  if s.drainsNow c e q then (x.drainBegan, x.drainReject) else (x.began, x.reject)

/-- Cycles by which a word that engine e has run from `b` to `t` outlasted its own span: its rows entered late, and kindling rows ran
in their place (R42, R104). DEDUCED: log entry 22. -/
def lateRows (e b t : Nat) (q : QWord) : Nat := (t - b) - (accSpan q.word + if drainsOn e q then wM q.word else 0)

/-- The word leaves engine e at executed cycle t: it counts, as kindling the cycles of a rejected one (R95, R100) and those in which an
accepted MMUL waited for late operands (R104), whether it drains beside another by now or not. DEDUCED: log entry 22. -/
def engFinish (s : State) (c e t : Nat) (q : QWord) : State :=
  let isDrain := s.drainsNow c e q
  let (b, rejected) := s.issuedAt c e q
  let u := s.updEngX c e fun y =>
    if isDrain then { y with drain := none, drainReject := false } else { y with u := { y.u with run := none }, reject := false }
  let u := if rejected then u.addKnd c e (t - b) else if wOpc q.word == 1 then u.addKnd c e (lateRows e b t q) else u
  (u.updEng c e R.engOpsCnt fun w => incFld w 47 0 1).updEng c e R.engSts fun w =>
    setBit w 7 (((u.engX c e).drain.toList ++ (u.engX c e).u.run.toList).any (drainsOn e))

/-- An ENG word completes on every engine it names (R100, R107, R138). -/
def engComplete (s : State) (p c off : Nat) (q : QWord) : State :=
  let t := s.ran c off
  let es := (enginesOf (wEmask q.word) q.shift).filter fun e => s.drainsNow c e q || s.runsNow c e q
  let u := forEach es s fun u e => u.engFinish c e t q
  let u := match es with
    | [] => u
    | e :: _ => u.legacyPause p c es (s.issuedAt c e q).1 t
  forEach es u fun u e => if (u.engX c e).u.run.isNone && (u.engX c e).drain.isNone then u.enterGap p c e off else u

/-- The word that a unit completes: of an engine the one that drains, or, `beside` it, the one that accumulates and does not drain
(R100). -/
def completing (s : State) (c : Nat) (beside : Bool) : CoreUnit → Option QWord
  | .eng e => match (s.engX c e.val).drain with
    | some d => if beside then (s.engX c e.val).u.run.filter fun r => !wDrains r.word else some d
    | none => (s.engX c e.val).u.run
  | .str ch => (s.cxOf c).strRun.find? ch.val
  | u => ((s.cxOf c).unit u).run

/-- No request of channel ch is outstanding. -/
def chanQuiet (s : State) (c ch : Nat) : Bool :=
  ((s.cxOf c).reqs ++ (s.cxOf c).waiting).all fun r => r.dead || r.ch != ch

/-- The word of channel ch has written its last byte: the counter `REV` of the core that holds DST is incremented (R138, R155). -/
def signalRemote (s : State) (c ch : Nat) (q : QWord) : State :=
  match (s.cxOf c).strRev.find? ch with
  | some d => (s.updCx c fun x => { x with strRev := x.strRev.erase ch }).incEv d (wbits q.word 26 23)
  | none => s

/-- The unit becomes free, its word done (R138). -/
def retire (s : State) (p c off : Nat) (u : CoreUnit) (q : QWord) : State :=
  match u with
  | .eng _ => if wClass q.word == 1 then s.engComplete p c off q else s
  | .vec =>
    if wClass q.word == 2 then
      ((s.updCx c fun x => { x with vec := { x.vec with run := none } }).setVecState c
        (if (s.cxOf c).vec.bank then unitBanked else unitIdle)).updCore c R.vecOpsCnt fun w => incFld w 47 0 1
    else s
  | .pgw => s.freeWalkerUnits p c off q
  | .str ch => (s.updCx c fun x => { x with strRun := x.strRun.erase ch.val }).signalRemote c ch.val q
  | .chk => s.updCx c fun x => { x with chk := { x.chk with run := none } }
  | .que => s.updCx c fun x => { x with que := { x.que with run := none } }

/-- The word that unit u runs is one that completes through u: words of class 4 do so through the walker. -/
def completesAt (u : CoreUnit) (q : QWord) : Bool :=
  match u with
  | .eng _ => wClass q.word == 1
  | .vec => wClass q.word == 2
  | _ => true

/-- Unit u of core c completes its word at offset `off` (R138). -/
def wordComplete (s : State) (c off : Nat) (u : CoreUnit) (beside : Bool) : State :=
  match s.runSlot c, s.completing c beside u with
  | some p, some q =>
    let quiet := match u with
      | .str ch => s.chanQuiet c ch.val
      | _ => true
    if completesAt u q && quiet && !s.removed c off then (((((s.settleRamps c off).retire p c off u q).noteEarly p c q).incEv c (wSigEv q.word)).bankIfDone p c off).endIfQuiet p off
    else s
  | _, _ => s

end State

namespace State

/-- The word of a class and opcode at the head of a unit's queue issues, and works as `work` says for the slot of its run; an
uncorrectable error in the core's own memory traps the core (R136, R485). A word that reads or writes an entry of a queue waits at a bound
of the core's tags (R232). -/
def unitIssue (s : State) (c off : Nat) (u : CoreUnit) (cls opc : Nat) (work : Nat → QWord → Acc Unit) : State :=
  match s.runSlot c, ((s.cxOf c).unit u).queue.head? with
  | some p, some q =>
    if wClass q.word == cls && wOpc q.word == opc && s.due p c off q && s.unitFree c q u then
      let go (s : State) : State :=
        match runAcc (work p q) (s.unitTake c u q) with
        | (.error e, t) => (t.endKindles c off).trapOn c e
        | (.ok _, t) => t
      if u ≠ .que ∨ opc = 1 then go s else if s.tagReady c 8 then s.holdTag c 8 go else s.stallTag c 8
    else s
  | _, _ => s

end State

/-- `DISPATCH` (R135). -/
def execDispatch (core : Core) (off : Nat) (s : State) : Host.Outcome State Fault Refusal := s.coreDone (s.dispatch core.val off)

/-- `WORD_COMPLETE` (R138). -/
def execWordComplete (core : Core) (u : CoreUnit) (off : Nat) (beside : Bool) (s : State) : Host.Outcome State Fault Refusal :=
  s.bcnDone (if s.thm.trip then s else s.wordComplete core.val off u beside)

/-- `NOP` (R130). -/
def execNop (core : Core) (off : Nat) (s : State) : Host.Outcome State Fault Refusal :=
  s.coreDone (s.ctrlWord core.val off 0 fun t _ => t)

/-- `SYNC` (R130). -/
def execSync (core : Core) (off : Nat) (s : State) : Host.Outcome State Fault Refusal :=
  s.coreDone (s.ctrlWord core.val off 1 fun t w => t.syncAdv core.val w)

/-- `BANK` (R130, R161). -/
def execBank (core : Core) (off : Nat) (s : State) : Host.Outcome State Fault Refusal :=
  s.coreDone (s.ctrlWord core.val off 2 fun t w => forEach (State.maskUnits (wbits w 5 0)) t fun t u => t.bankUnit core.val u)

/-- `UNBANK` (R130, R161). -/
def execUnbank (core : Core) (off : Nat) (s : State) : Host.Outcome State Fault Refusal :=
  s.coreDone (s.ctrlWord core.val off 3 fun t w => forEach (State.maskUnits (wbits w 5 0)) t fun t u => t.unbankUnit core.val u)

/-- `UNIT_READY` (R119, R161): an unbanked unit is ready. -/
def execUnitReady (core : Core) (u : CoreUnit) (s : State) : Host.Outcome State Fault Refusal :=
  s.coreDone (s.updCx core.val fun x => x.setUnit u fun y => { y with ready := true })

end Sys2Proof.Machine
end

