-- ==== Sys2Proof/Machine/Check.lean ====
section
/-!
DEFINITION. The check unit (R158-R160): its four contexts and its four operations.
-/

namespace Sys2Proof.Machine

/-- Context and source descriptor of a CHK word (R158). -/
def wCtx (w : BitVec 128) : Nat := wbits w 71 70
def wChkSrc (w : BitVec 128) : Nat := wbits w 69 61

/-- The parameters of a context from its registers: bits at and above w count for nothing (`CHK_CTRLk`). -/
def chkParams (ctrl poly init : Word) : CrcP :=
  let w := fld ctrl 6 0
  { w := w, poly := poly.toNat % 2 ^ w, init := init.toNat % 2 ^ w, refin := bitAt ctrl 10, refout := bitAt ctrl 11
    finv := bitAt ctrl 12 }

/-- Bytes fed with `FOLD` 1: before each 64-byte block that they enter, the block's address (R159). -/
def feedFolded (p : CrcP) (da : Nat) (last : Option Nat) : Nat → List Byte → Nat × Option Nat
  | crc, [] => (crc, last)
  | crc, b :: bs =>
    let k := da / 64 * 64
    let crc := if last = some k then crc else crcFeed p crc (leBytes 8 k)
    feedFolded p (da + 1) (some k) (crcByte p crc b) bs

namespace State

/-- Parameters of context k of core c. -/
def chkP (s : State) (c k : Nat) : CrcP :=
  chkParams (s.core c (R.chkCtrl k)) (s.core c (R.chkPoly k)) (s.core c (R.chkInit k))

/-- The running value of context k; without a BEGIN it starts from `INIT`. -/
def chkVal (s : State) (c k : Nat) : Nat :=
  match (s.cxOf c).chkRun.find? k with
  | some v => v.toNat
  | none => (s.chkP c k).init

/-- Running value of context k set. -/
def setChk (s : State) (c k v : Nat) : State := s.updCx c fun x => { x with chkRun := x.chkRun.set k (BitVec.ofNat 64 v) }

/-- BEGIN (R158). DEDUCED: log entry 36. -/
def chkBeginWork (s : State) (c k : Nat) : State :=
  let p := s.chkP c k
  s.setChk c k
    (if fld (s.core c (R.chkCtrl k)) 15 14 = 2 then crcFeed p p.init (leBytes 8 (s.core c (R.chkSeq k)).toNat) else p.init)

end State

/-- FEED (R158, R159). DEDUCED: log entry 36. -/
def chkFeedWork (c : Nat) (q : QWord) : Acc Unit := do
  let w := q.word; let k := wCtx w
  let d ← readDesc c (wChkSrc w)
  let rows := wbits w 60 49 + 1
  let n := rowBytes ((fmtOf d.fmt).getD .fp32) (wbits w 48 37 + 1)
  if descPlain d && spanFits c d n rows 1 false then
    let s ← get
    let p := s.chkP c k
    let fold := fld (s.core c (R.chkCtrl k)) 15 14 == 1
    let r ← (List.range rows).foldlM (fun v i => do
      let b ← rd (.check c) (rowDa d 0 i) n
      return if fold then feedFolded p (rowDa d 0 i) v.2 v.1 b else (crcFeed p v.1 b, none)) (s.chkVal c k, none)
    modify (·.setChk c k r.1)
  else modify (·.descErr c)

/-- END (R158, R159). DEDUCED: log entry 36. -/
def chkEndWork (c : Nat) (q : QWord) : Acc Unit := do
  let k := wCtx q.word
  let d ← readDesc c (wChkSrc q.word)
  if descPlain d && spanFits c d 8 1 1 true then
    let s ← get
    let v := crcFinish (s.chkP c k) (s.chkVal c k)
    modify fun s =>
      let t := (s.setCore c (R.chkRes k) (BitVec.ofNat 64 v)).updCx c fun x => { x with chkRun := x.chkRun.erase k }
      if bitAt (t.core c (R.chkCtrl k)) 13 then t.updCore c (R.chkSeq k) (· + 1) else t
    wr (.check c) d.base (leBytes 8 v)
  else modify (·.descErr c)

/-- CMP (R158). DEDUCED: log entry 36. -/
def chkCmpWork (c : Nat) (q : QWord) : Acc Unit := do
  let k := wCtx q.word
  let d ← readDesc c (wChkSrc q.word)
  if descPlain d && spanFits c d 8 1 1 false then
    let b ← rd (.check c) d.base 8
    modify fun s => if leNat b = (s.core c (R.chkRes k)).toNat then s else s.updCore c R.chkSts fun v => setBit v k true
  else modify (·.descErr c)

/-- `BEGIN` (R158). -/
def execChkBegin (core : Core) (off : Nat) (s : State) : Host.Outcome State Fault Refusal :=
  s.coreDone (s.unitIssue core.val off .chk 5 1 fun _ q => modify fun t => t.chkBeginWork core.val (wCtx q.word))

/-- `FEED` (R158). -/
def execChkFeed (core : Core) (off : Nat) (s : State) : Host.Outcome State Fault Refusal :=
  s.coreDone (s.unitIssue core.val off .chk 5 2 fun _ => chkFeedWork core.val)

/-- `END` (R158). -/
def execChkEnd (core : Core) (off : Nat) (s : State) : Host.Outcome State Fault Refusal :=
  s.coreDone (s.unitIssue core.val off .chk 5 3 fun _ => chkEndWork core.val)

/-- `CMP` (R158). -/
def execChkCmp (core : Core) (off : Nat) (s : State) : Host.Outcome State Fault Refusal :=
  s.coreDone (s.unitIssue core.val off .chk 5 4 fun _ => chkCmpWork core.val)

end Sys2Proof.Machine
end

