-- ==== Sys2Proof/Machine/Stream.lean ====
section
/-!
DEFINITION. The stream unit (R155-R157, R232-R234, R251, R252, R329, R333): STR words and what their
requests do, reduction windows, remote requests.
-/

namespace Sys2Proof.Machine

/-- Work on a request: an error is the cause of a channel halt and the address of the request (R157). -/
abbrev ReqAcc := ExceptT (Nat × Nat) (StateM State)

/-- An access of a request to `da`. -/
def reqAcc (da : Nat) (x : Acc α) : ReqAcc α := ExceptT.mk fun s =>
  match runAcc x s with
  | (.ok a, t) => (.ok a, t)
  | (.error e, t) => (.error (errCause e, da), t)

/-! ### Reduction windows (R251) -/

/-- Width index, operation and target DA of an address in a reduction window. -/
def windowAt (da : Nat) : Option (Nat × Nat × Nat) :=
  if redBase ≤ da ∧ da < redBase + 16 * 2 ^ 39 then
    let k := (da - redBase) / 2 ^ 39
    if k / 8 = 1 ∧ k % 8 = 5 ∨ 5 < k % 8 then none else some (k / 8, k % 8, (da - redBase) % 2 ^ 39)
  else none

/-- The descriptor format of a window's elements (R251). DEDUCED: log entry 33. -/
def windowFmt (w op : Nat) : Fmt := if op = 5 then .fp32 else if w = 1 then .int48 else .int32

/-- The operation of a window on a target t and a source element x of `w` bits (R251). DEDUCED: log entry 33. -/
def windowOp (op w x t : Nat) : Nat :=
  match op with
  | 0 => (t + x) % 2 ^ w
  | 1 => if signed w x < signed w t then x else t
  | 2 => if signed w t < signed w x then x else t
  | 3 => min t x
  | 4 => max t x
  | _ => (Fmt.round .fp32 .nearest 0 ((Fmt.decode .fp32 t).add (Fmt.decode .fp32 x))).code

/-- The elements of a request applied at a window, one after another (R252). DEDUCED: log entry 33. -/
def reduceTo (c da w op to_ : Nat) (bs : List Byte) : ReqAcc Unit := do
  let n := if w = 1 then 8 else 4
  if to_ % n ≠ 0 then throw (2, da)
  (chunks n bs).zipIdx.forM fun e => ExceptT.mk fun s =>
    match s.atomicDa (.stream c) (to_ + n * e.2) n (windowOp op (8 * n) (leNat e.1)) with
    | (.ok _, t) => (.ok (), t)
    | (.error x, t) => (.error (errCause x, da), t)

/-! ### Requests (R156) -/

/-- The requests of a row of `n` bytes: at most 256 bytes each, from the start of the row. DEDUCED: log entry 32. -/
def rowReqs (ch kind fromDa toDa n dev fmt : Nat) (half : Bool) : List Req :=
  (List.range (cdiv n 256)).map fun i =>
    let k := min 256 (n - 256 * i)
    { ch := ch, kind := kind, fromDa := fromDa + 256 * i, toDa := toDa + 256 * i, bytes := k
      half := half && 256 * i + k == n, dev := dev, fmt := fmt }

/-- The requests of a word, in its element order (R133, R155). DEDUCED: log entry 32. -/
def reqsOf (w : BitVec 128) (src dst : Desc) (f : Fmt) : List Req :=
  let rows := wbits w 50 39 + 1; let cols := wbits w 38 27 + 1
  (List.range rows).flatMap fun r =>
    if wOpc w = 2 then
      [{ ch := wCh w, kind := 1, fromDa := rowDa src 0 r, toDa := rowDa dst 0 r, bytes := 32, half := false, dev := 0, fmt := dst.fmt }]
    else
      rowReqs (wCh w) (if wOpc w = 3 then 2 else 0) (rowDa src 0 r) (rowDa dst 0 r) (rowBytes f cols) (wbits w 22 13) dst.fmt
        (f.storeBits == 4 && cols % 2 == 1)

/-- Bytes of a request written; of a last byte that holds one 4-bit element the other nibble stays. -/
def putBytes (c : Nat) (r : Req) (bs : List Byte) : ReqAcc Unit :=
  reqAcc r.toDa (if r.half then wrHalf (.stream c) r.toDa bs else wr (.stream c) r.toDa bs)

/-- What a memory request moves (R155, R251, R255): whole words keep their check bytes (R289). DEDUCED: log entry 98. -/
def moveReq (c : Nat) (r : Req) : ReqAcc Unit := do
  if r.kind = 1 then
    let e ← reqAcc r.fromDa (rd (.stream c) r.fromDa 8)
    let a := leNat e % 2 ^ 48
    if a % 32 ≠ 0 ∨ !(a < turfBase ∨ (aliasBase ≤ a ∧ a < 0x0180_0000_0000)) then throw (2, a)
    let ks := (← get).wrongChecks a r.toDa 32
    let b ← reqAcc a (rd (.stream c) a 32)
    reqAcc r.toDa (wr (.stream c) r.toDa b)
    modify fun t => forEach ks t State.keepCheck
  else
    let ks := (← get).wrongChecks r.fromDa r.toDa (r.bytes - r.half.toNat)
    let b ← reqAcc r.fromDa (rd (.stream c) r.fromDa r.bytes)
    match windowAt r.toDa with
    | some (w, op, da) => reduceTo c r.toDa w op da b
    | none =>
      putBytes c r b
      modify fun t => forEach ks t State.keepCheck

namespace State

/-- Request i of core c leaves. -/
def dropReq (s : State) (c i : Nat) : State := s.updCx c fun x => { x with reqs := x.reqs.eraseIdx i }

/-- Request i of core c leaves, its tag freed; `f` is what its return does. -/
def closeReq (s : State) (p c i : Nat) (f : State → State) : State := (f (s.dropReq c i)).grantTags p (dieOf c)

/-- Address of a request as halts and the log name it: what it reads, and for a remote one the cluster address of what it writes, DEV × 2^48
+ DA (R237). -/
def reqDa (r : Req) : Nat := if r.kind = 2 then r.dev * 2 ^ 48 + r.toDa else r.fromDa

/-- What a request of core c to I/O die i, and to a device address, crosses, as `failSeq` numbers it (R307). -/
def iodParts (c i : Nat) : List Nat := (132 + i) :: routeConns (routeIod c i)
def daParts (s : State) (c a : Nat) : List Nat :=
  match s.locate a with
  | some (.hbm off) => iodParts c (unitStack (off / 256) / 2)
  | _ => match coreOfDa a with
    | some d => (100 + dieOf d) :: routeConns (routeCore c d)
    | none => []

/-- The parts that a request of core c crosses, as `failSeq` numbers them: its target, the connections of its route, and for a remote one the
port its run's routes name and that port's I/O die (R307, R332). -/
def reqParts (s : State) (p c : Nat) (r : Req) : List Nat :=
  if r.kind = 2 then
    s.daParts c r.fromDa ++ match (s.slot p).img with
      | none => []
      | some i => match i.routeTo r.dev with
        | some j => (200 + j) :: iodParts c (j / 6)
        | none => []
  else s.daParts c r.fromDa ++ s.daParts c r.toDa

/-- `SEQ` of the latest report of the loss of one of some parts. DEDUCED: log entry 34. -/
def lowerCause (s : State) (parts : List Nat) : Option Nat :=
  parts.foldl (fun b k => match b, s.kpr.failSeq.find? k with
    | some m, some n => some (max m n)
    | none, n => n
    | b, none => b) none

/-- The log entry of a request of core c that has not returned 100 µs after its issue: a consequent one where the loss of a part that it
crosses has been reported (R332, R333). DEDUCED: log entry 34. -/
def logTimeout (s : State) (p c : Nat) (parts : List Nat) (da : Nat) : State :=
  let data := leBytes 2 c ++ zeros 6 ++ leBytes 8 da
  match s.lowerCause parts with
  | some k => s.logFull 0x55 p true k data
  | none => s.logEv 0x55 p data

/-- A stream request that has not returned in time: `TARGET_RESET` (R157, R333). DEDUCED: log entry 34. -/
def reqTimeout (s : State) (p c : Nat) (r : Req) : State :=
  (s.logTimeout p c (s.reqParts p c r) (reqDa r)).chanHalt c r.ch 3 (reqDa r)

/-- A walker access that has not returned in time, while the walker runs a word: `TARGET_RESET` (R176, R333). DEDUCED: log entry 34. -/
def walkTimeout (s : State) (p c da : Nat) : State :=
  if (s.cxOf c).pgw.run.isSome then (s.logTimeout p c (s.daParts c da) da).walkerHalt c 3 da else s

/-- An access of the IN_READ or OUT_WRITE at the head of core c's queue port that will not return in time (R333, R486): it is logged, and
fails when the word issues, which makes all its accesses at once. DESIGN CHOICE: log entry 35. -/
def portTimeout (s : State) (p c da : Nat) : State :=
  match (s.cxOf c).que.queue.head? with
  | some q =>
    if wClass q.word == 6 && 2 ≤ wOpc q.word then
      (s.logTimeout p c (s.daParts c da) da).updCx c fun x => { x with late := x.late ++ [da] }
    else s
  | none => s

/-- What the return of a memory request does: the data moves, or the channel halts (R156, R157). An uncorrectable error that the
return itself reports arose on the path (R289, R484). -/
def reqReturn (s : State) (p c : Nat) (r : Req) (st : ReqStatus) : State :=
  match st with
  | .ok =>
    match (moveReq c r).run s with
    | (.ok _, t) => t
    | (.error e, t) => t.chanHalt c r.ch e.1 e.2
  | .uncorrectable => (s.logUe 7 (.stream c) r.fromDa 0).chanHalt c r.ch 1 r.fromDa
  | .addressError => s.chanHalt c r.ch 2 r.fromDa
  | .targetReset => s.chanHalt c r.ch 3 r.fromDa
  | .timeout => s.reqTimeout p c r

/-- What the acknowledgement of a remote request does (R329): an error halts the channel. -/
def ackReturn (s : State) (p c : Nat) (r : Req) (st : ReqStatus) : State :=
  match st with
  | .ok => s
  | .uncorrectable => s.chanHalt c r.ch 1 (reqDa r)
  | .addressError => s.chanHalt c r.ch 2 (reqDa r)
  | .targetReset => s.chanHalt c r.ch 3 (reqDa r)
  | .timeout => s.reqTimeout p c r

/-- What the return of a request does whose core gave its words up: it is logged where it reports an error of the path or comes too
late, and moves nothing. DESIGN CHOICE: log entry 112. -/
def deadReturn (s : State) (p c : Nat) (r : Req) (st : ReqStatus) : State :=
  match st with
  | .uncorrectable => if r.kind = 2 then s else s.logUe 7 (.stream c) r.fromDa 0
  | .timeout => s.logTimeout p c (s.reqParts p c r) (reqDa r)
  | _ => s

/-- Request i of core c, memory or remote, returns with a status: what it does is `f`'s while the core is in a run. -/
def answerReq (s : State) (c i : Nat) (remote : Bool) (st : ReqStatus) (f : Nat → Req → State → State) : State :=
  match (s.cxOf c).reqs[i]?, s.slotOf c with
  | some r, some p =>
    if (r.kind == 2) != remote then s
    else if r.dead then s.closeReq p c i fun t => t.deadReturn p c r st
    else if (s.runSlot c).isSome then s.closeReq p c i (f p r) else s
  | some r, none => if r.dead && (r.kind == 2) == remote then s.dropReq c i else s
  | none, _ => s

/-! ### STR words -/

/-- The first queued word of channel ch (R140, R156). -/
def strHead (s : State) (c ch : Nat) : Option QWord := (s.cxOf c).strQ.find? fun q => wCh q.word == ch

/-- The word leaves the queue. -/
def strTake (s : State) (c : Nat) (q : QWord) : State := s.updCx c fun x => { x with strQ := x.strQ.erase q }

/-- The core whose SRAM or turf slice holds an address (R235): a core's window ends beyond its memory. DEDUCED: log entry 34. -/
def holderOf (da : Nat) : Option Nat :=
  match coreOfDa da with
  | some d => if (ownEnd d da).isSome then some d else none
  | none => none

/-- An STR word with its descriptors performs work (R134, R155, R251). -/
def strFits (w : BitVec 128) (src dst : Desc) : Bool :=
  descPlain src && descPlain dst &&
  (wbits w 26 23 == 0 || (holderOf dst.base).isSome) &&
  (if wOpc w = 2 then wbits w 38 27 == 0 else src.fmt == dst.fmt) &&
  (wOpc w != 1 || match windowAt dst.base with
    | some (k, op, _) => fmtOf dst.fmt == some (windowFmt k op)
    | none => true)

/-- The STR word of opcode `opc` that is next on channel ch issues (R136, R155-R157). On a halted channel it completes at once.
DESIGN CHOICE: log entry 20. DEDUCED: log entry 32. DEDUCED: log entry 34. -/
def strIssue (s : State) (c ch off opc : Nat) : State :=
  match s.runSlot c, s.strHead c ch with
  | some p, some q =>
    let w := q.word
    if wOpc w == opc && s.due p c off q && ((s.cxOf c).strRun.find? ch).isNone then
      let look : Acc (Desc × Desc) := do return (← readDesc c (wbits w 68 60), ← readDesc c (wbits w 59 51))
      match runAcc look (s.strTake c q) with
      | (.error e, t) => (t.endKindles c off).trapOn c e
      | (.ok (src, dst), t) =>
        let t := match if wOpc w != 3 && wbits w 26 23 != 0 then holderOf dst.base else none with
          | some d => t.updCx c fun x => { x with strRev := x.strRev.set ch d }
          | none => t
        if t.chanHalted c ch then
          ((((t.updCore c (R.strChSts ch) fun v => incFld v 47 16 1).signalRemote c ch q).incEv c (wSigEv w)).bankIfDone p c off).endIfQuiet p off
        else
          let t := t.updCx c fun x => { x with strRun := x.strRun.set ch q }
          if strFits w src dst then
            forEach (reqsOf w src dst ((fmtOf src.fmt).getD .fp32)) t fun t r => t.post p c r
          else t.descErr c
    else s
  | _, _ => s

end State

/-- `COPY` (R155). -/
def execStrCopy (core : Core) (ch : Fin 8) (off : Nat) (s : State) : Host.Outcome State Fault Refusal :=
  s.clockDone (s.strIssue core.val ch.val off 1)

/-- `GATHER` (R155). -/
def execStrGather (core : Core) (ch : Fin 8) (off : Nat) (s : State) : Host.Outcome State Fault Refusal :=
  s.clockDone (s.strIssue core.val ch.val off 2)

/-- `XSEND` (R155). -/
def execStrXsend (core : Core) (ch : Fin 8) (off : Nat) (s : State) : Host.Outcome State Fault Refusal :=
  s.clockDone (s.strIssue core.val ch.val off 3)

/-- `REQUEST_COMPLETE` (R156): memory request i of the core returns. -/
def execRequestComplete (core : Core) (i : Nat) (st : ReqStatus) (s : State) : Host.Outcome State Fault Refusal :=
  s.clockDone (s.answerReq core.val i false st fun p r t => t.reqReturn p core.val r st)

/-- `MEMORY_TIMEOUT` (R333). -/
def execMemoryTimeout (core : Core) (r : TimedReq) (s : State) : Host.Outcome State Fault Refusal :=
  s.clockDone (match r, s.runSlot core.val with
    | .stream i, _ => match (s.cxOf core.val).reqs[i]? with
      | some r => s.answerReq core.val i (r.kind == 2) .timeout fun p r t => t.reqTimeout p core.val r
      | none => s
    | .walker da, some p => s.walkTimeout p core.val da.toNat
    | .queue da, some p => s.portTimeout p core.val da.toNat
    | _, none => s)

/-- `REMOTE_ACK` (R329): remote request i of the core returns. -/
def execRemoteAck (core : Core) (i : Nat) (st : ReqStatus) (s : State) : Host.Outcome State Fault Refusal :=
  s.clockDone (s.answerReq core.val i true st fun p r t => t.ackReturn p core.val r st)

end Sys2Proof.Machine
end

