-- ==== Sys2Proof/Machine/Enables.lean ====
section
/-!
DEFINITION. The enables of a core's units (R119, R144, R161, R418), the commands that write them, and a write to any register of a
core block by its fields' access types (R8, R10, R169).
-/

namespace Sys2Proof.Machine

/-- A register after a write of v: fields in `rw` take v, ones in `w1c` clear, ones in `w1s` set (R8); the rest stays (R10). -/
def regAfter (old v rw w1c w1s : Word) : Word := (((old &&& ~~~rw) ||| (v &&& rw)) &&& ~~~(v &&& w1c)) ||| (v &&& w1s)

namespace State

/-! ### Engines -/

/-- `ENG_EN` written: set, it takes the engine from OFF to IDLE (R119). DESIGN CHOICE: log entry 112. -/
def setEngEn (s : State) (c e : Nat) (v : Bool) : State :=
  let t := s.updEng c e R.engCtrl fun w => setBit w 0 v
  if v && t.engState c e == engOff then t.setEngState c e engIdle else t

/-- `BANK_EN` written (R119, R161). -/
def setEngBank (s : State) (c : Nat) (e : Eng) (v : Bool) : State :=
  if v then s.bankUnit c (.eng e) else s.unbankUnit c (.eng e)

/-- The counters that `CNT_CLR` of `ENG_CTRL` clears. -/
def engCounters : List Nat :=
  [R.engFltCnt, R.engOvfCnt, R.engOpsCnt, R.engBusyCnt, R.engKndCnt, R.engRampCnt, R.engEccCnt]

/-- Counters of an engine cleared. -/
def clearEngCnt (s : State) (c e : Nat) : State := forEach engCounters s fun t r => t.updEng c e r fun _ => 0

/-- `ENG_CTRL` written; `KND_EN` stays while a run is active on the core. -/
def writeEngCtrl (s : State) (c : Nat) (e : Eng) (v : Word) : State :=
  let t := s.setEngEn c e.val (bitAt v 0)
  let t := if bitAt v 1 = bitAt (t.eng c e.val R.engCtrl) 1 then t else t.setEngBank c e (bitAt v 1)
  let t := if t.coreRunning c then t else t.updEng c e.val R.engCtrl fun w => setBit w 2 (bitAt v 2)
  if bitAt v 3 then t.clearEngCnt c e.val else t

/-! ### Page walker -/

/-- `WALK_EN` written: set, it takes the walker from OFF to its idle state. -/
def setWalkEn (s : State) (c : Nat) (v : Bool) : State :=
  let t := s.updCore c R.pgwCtrl fun w => setBit w 0 v
  if v && t.pgwState c == unitOff then t.setPgwState c unitIdle else t

/-- `BANK_EN` of the walker written (R161). -/
def setPgwBank (s : State) (c : Nat) (v : Bool) : State := if v then s.bankUnit c .pgw else s.unbankUnit c .pgw

/-- The walker's counters cleared. -/
def clearPgwCnt (s : State) (c : Nat) : State := (s.setCore c R.pgwEntCnt 0).setCore c R.pgwFrmCnt 0

/-- `PGW_CTRL` written. -/
def writePgwCtrl (s : State) (c : Nat) (v : Word) : State :=
  let t := s.setWalkEn c (bitAt v 0)
  let t := if bitAt v 1 = bitAt (t.core c R.pgwCtrl) 1 then t else t.setPgwBank c (bitAt v 1)
  if bitAt v 2 then t.clearPgwCnt c else t

/-! ### The core -/

/-- `CORE_EN` set: OFF to READY (R144). Its vector engine, which has no enable of its own, leaves OFF with it.
DEDUCED: log entry 76. -/
def setCoreEn (s : State) (c : Nat) : State :=
  let t := s.updCore c R.seqCtrl fun w => setBit w 0 true
  let t := if t.vecState c == unitOff then t.setVecState c unitIdle else t
  if t.coreState c == 0 then t.setCoreState c 1 else t

/-- A trap of core c may be cleared: its run has halted, so that its slot neither starts nor runs, and no engine is in FAULT (R144). -/
def trapClears (s : State) (c : Nat) : Bool :=
  s.coreState c == 3 && !s.coreActive c && (List.range 4).all fun e => s.engState c e != engFault

/-- `TRAP_CLR` set: TRAPPED to READY (R144). -/
def clearTrap (s : State) (c : Nat) : State := if s.trapClears c then s.setCoreState c 1 else s

/-- Core c has been idle for 1 ms: READY, in no STARTING or RUNNING slot; every unit is banked (R418). -/
def idleBank (s : State) (c : Nat) : State :=
  let free := match s.slotOf c with
    | some p => !s.slotActive p
    | none => true
  if s.coreState c == 1 && free then forEach bankable s fun t u => t.bankUnit c u else s

/-! ### A write to a register of a core block -/

/-- A base whose `n` bytes lie in core c's turf slice. -/
def inTurf (c da n : Nat) : Bool := decide (turfOf c ≤ da ∧ da + n ≤ turfOf c + turfLen)

/-- A walker register written; `PGW_GEOM`, `PGW_CTX_BASE` and `PGW_PFT_BASE` only while nothing is in use (R163, R205). A reserved format
leaves the format field of `PGW_GEOM` as it is (R8). -/
def writeWalker (s : State) (c off : Nat) (v : Word) : State :=
  let idle := s.tablesIdle c
  if off = R.pgwCtrl then s.writePgwCtrl c v
  else if off = R.pgwSts then s.updCore c off fun w => regAfter w v 0 (fldMask 25 16 ||| fldMask 10 9) 0
  else if off = R.pgwGeom then
    if idle then s.updCore c off fun w => regAfter w (if fld v 1 0 = 3 then setFld v 1 0 (fld w 1 0) else v) 0xFF13 0 0 else s
  else if off = R.pgwCtxBase then if idle then s.updCore c off fun w => regAfter w v (fldMask 47 0) 0 0 else s
  else if off = R.pgwPftBase then if idle then s.setCore c off v else s
  else if off = R.pgwRamBase then s.updCore c off fun w => regAfter w v (fldMask 54 32 ||| fldMask 22 0) 0 0
  else if off = R.pgwCstatBase then s.updCore c off fun w => regAfter w v (fldMask 47 0) 0 0
  else if R.pgwPool 0 ≤ off ∧ off ≤ R.pgwPool 9 then s.updCore c off fun w => regAfter w v (fldMask 47 32) 0 0
  else s

/-- Context k of the check unit is between its BEGIN and its END. DEDUCED: log entry 36. -/
def chkOpen (s : State) (c k : Nat) : Bool := ((s.cxOf c).chkRun.find? k).isSome

/-- A check-unit register written: nothing between BEGIN and END (R160); a `WIDTH` outside 8-64 is ignored, and so are bits of the
others at and above it. DESIGN CHOICE: log entry 118. -/
def writeCheck (s : State) (c off : Nat) (v : Word) : State :=
  if off = R.chkSts then s.updCore c off fun w => regAfter w v 0 0xF 0
  else
    let k := (off - R.chkCtrl 0) / 0x40
    if s.chkOpen c k then s
    else match off % 0x40 with
      | 0x00 =>
        let w := if 8 ≤ fld v 6 0 ∧ fld v 6 0 ≤ 64 then fldMask 6 0 else 0
        s.updCore c off fun o => regAfter o v (0xFC00 ||| w) 0 0
      | 0x08 | 0x10 | 0x18 => s.setCore c off (v &&& fldMask (fld (s.core c (R.chkCtrl k)) 6 0 - 1) 0)
      | _ => s

/-- A write to the register at `off` of core c's block. -/
def writeCore (s : State) (c off : Nat) (v : Word) : State :=
  let run := s.coreState c == 2
  if off = R.seqCtrl then
    let t := if bitAt v 1 then s.clearTrap c else s
    if bitAt v 0 then t.setCoreEn c else t
  else if off = R.seqSts then s.updCore c off fun w => regAfter w v 0 0x80 0
  else if off = R.seqStream then if run then s else s.updCore c off fun w => regAfter w v (fldMask 47 0) 0 0
  else if off = R.seqDesc then
    if run || fld v 22 0 % 0x4000 != 0 || 0x5FC000 < fld v 22 0 then s
    else s.updCore c off fun w => regAfter w v (fldMask 22 0) 0 0
  else if 0x1000 ≤ off ∧ off < 0x1400 then
    let e := Fin.ofNat 4 ((off - 0x1000) / 0x100)
    if off % 0x100 = R.engCtrl then s.writeEngCtrl c e v
    else if off % 0x100 = R.engSts then s.updCore c off fun w => regAfter w v 0 0xF000 0
    else s
  else if off = R.vecSts then s.updCore c off fun w => regAfter w v 0 0x100 0
  else if 0x4000 ≤ off ∧ off < 0x5000 then s.writeWalker c off v
  else if (R.chkCtrl 0 ≤ off ∧ off < R.chkCtrl 4) ∨ off = R.chkSts then s.writeCheck c off v
  else s

end State

/-- `ENG_EN` (R119). -/
def execEngEn (core : Core) (eng : Eng) (s : State) : Host.Outcome State Fault Refusal := s.coreDone (s.setEngEn core.val eng.val true)

/-- `BANK_EN` of an engine (R119, R161). -/
def execEngBankEn (core : Core) (eng : Eng) (v : Bool) (s : State) : Host.Outcome State Fault Refusal :=
  s.coreDone (s.setEngBank core.val eng v)

/-- `CNT_CLR` of an engine (R8). -/
def execEngCntClr (core : Core) (eng : Eng) (s : State) : Host.Outcome State Fault Refusal :=
  s.coreDone (s.clearEngCnt core.val eng.val)

/-- `WALK_EN` (R8). -/
def execWalkEn (core : Core) (s : State) : Host.Outcome State Fault Refusal := s.coreDone (s.setWalkEn core.val true)

/-- `BANK_EN` of a page walker (R161). -/
def execPgwBankEn (core : Core) (v : Bool) (s : State) : Host.Outcome State Fault Refusal := s.coreDone (s.setPgwBank core.val v)

/-- `CNT_CLR` of a page walker (R8). -/
def execPgwCntClr (core : Core) (s : State) : Host.Outcome State Fault Refusal := s.coreDone (s.clearPgwCnt core.val)

/-- `CORE_EN` (R144). -/
def execCoreEn (core : Core) (s : State) : Host.Outcome State Fault Refusal := s.coreDone (s.setCoreEn core.val)

/-- `TRAP_CLR` (R144). -/
def execTrapClr (core : Core) (s : State) : Host.Outcome State Fault Refusal := s.coreDone (s.clearTrap core.val)

/-- `IDLE_BANK` (R418). -/
def execIdleBank (core : Core) (s : State) : Host.Outcome State Fault Refusal := s.coreDone (s.idleBank core.val)

end Sys2Proof.Machine
end

