-- ==== Sys2Proof/Machine/Engine.lean ====
section
/-!
DEFINITION. The matrix engines (R93-R113, R131, R132): operand reading through the array edge, the fixed reduction order, the
accumulator buffer, drains, rejected operations, FAULT, and the ramp.
-/

namespace Sys2Proof.Machine

/-! ### Operand classes -/

/-- An element as it reaches a cell: its code and the scale byte of its block, 127 without one. -/
abbrev Elem := Nat × Nat

/-- The missing element of R96: +0, scale 127. -/
def Elem.pad : Elem := (0, 127)

/-- The formats that an operand class accepts for either operand (R94). -/
def classAccepts (cls : Nat) (f : Fmt) : Bool :=
  match cls, f with
  | 0, .bf16 | 1, .f8 | 1, .f8w | 2, .f4 | 3, .f8s | 4, .f4s | 5, .int8 | 6, .int4 | 7, .int8s | 8, .int8 => true
  | _, _ => false

/-- Elements per cell of a class: K_t / 32 (R94). -/
def classGroup (cls : Nat) : Nat :=
  match cls with
  | 0 => 1
  | 2 | 4 | 6 => 4
  | _ => 2

/-- Tile depth K_t (R94). -/
def classKt (cls : Nat) : Nat := 32 * classGroup cls

/-- The accumulator format of a class (R94). -/
def classAcc (cls : Nat) : Fmt :=
  match cls with
  | 5 | 6 => .int32
  | 8 => .int48
  | _ => .fp32

/-- The drain formats of an accumulator (R99). -/
def drainAccepts (acc f : Fmt) : Bool :=
  match acc, f with
  | .fp32, .fp32 | .fp32, .bf16 | .fp32, .fp16 | .fp32, .f8w | .fp32, .f8 | .fp32, .f4 => true
  | .int32, .int32 | .int32, .int8 | .int32, .int4 | .int48, .int48 => true
  | _, _ => false

/-- The passes (i, j) of a word, in order (R85, R88, R132). -/
def passesOf (w : BitVec 128) : List (Nat × Nat) :=
  match wbits w 60 59 with
  | 0 => [(0, 0)]
  | 1 => [(1, 0), (0, 1), (0, 0)]
  | 2 => [(2, 0), (1, 1), (0, 2), (1, 0), (0, 1), (0, 0)]
  | _ => (List.range (wbits w 58 56 + 1)).map fun i => (i, wbits w 58 56 - i)

/-- The combination of fields that R132 accepts, but for the drain format. -/
def engFields (w : BitVec 128) : Bool :=
  let cls := wbits w 67 64; let split := wbits w 60 59; let diag := wbits w 58 56
  let g := popCount 4 (wEmask w)
  if wOpc w = 2 then g == 1 && cls ≤ 8
  else (g == 1 || g == 2 || g == 4) && cls ≤ 8 && diag ≤ 6 && (split == 3 || diag == 0) &&
    (match split with
      | 0 => true
      | 3 => cls == 8
      | _ => cls == 0)

/-! ### The reduction order (R105) -/

/-- A value with what has been counted on the way to it. -/
abbrev Counted := Num × Tally

/-- An FP32 addition at nearest-even: it counts a NaN from operands that are none, and an overflow (R109).
DEDUCED: log entry 22. -/
def fadd (x y : Num) : Counted :=
  let e := x.add y
  let r := Fmt.round .fp32 .nearest 0 e
  (Fmt.decode .fp32 r.code, tallyOf r (e.isNan && !x.isNan && !y.isNan))

/-- A value rounded to FP32 in a cell. -/
def cellRound (x : Num) : Counted :=
  let r := Fmt.round .fp32 .nearest 0 x
  (Fmt.decode .fp32 r.code, tallyOf r false)

/-- A product; the NaN of 0 × ∞ is counted (R62, R65). -/
def prodOf (x y : Num) : Counted := let e := x.mul y; (e, tallyNan (e.isNan && !x.isNan && !y.isNan))

/-- The exact sum of a cell's products; a NaN that arises in the sum is counted. -/
def cellSum (ps : List Counted) : Counted :=
  match ps with
  | [] => (Num.zero, {})
  | p :: ps => ps.foldl (fun a x =>
      let e := a.1.add x.1
      (e, tallyAdd a.2 (tallyAdd x.2 (tallyNan (e.isNan && !a.1.isNan && !x.1.isNan))))) p

/-- An integer value without a sign of zero. -/
def unsignZero (x : Num) : Num := if x.isZero then Num.zero else x

/-- One column addition (R105): carry f and, for INT8s, the integer carry i of the block, at row r. -/
def colAdd (cls r : Nat) (s : (Num × Num) × Tally) (cell : Counted) : (Num × Num) × Tally :=
  let t := tallyAdd s.2 cell.2
  match cls with
  | 5 | 6 | 8 => ((s.1.1.add cell.1, Num.zero), t)
  | 7 =>
    let i := unsignZero (s.1.2.add cell.1)
    if r = 15 ∨ r = 31 then
      let f := fadd s.1.1 i
      ((f.1, Num.zero), tallyAdd t f.2)
    else ((s.1.1, i), t)
  | _ => let f := fadd s.1.1 cell.1; ((f.1, Num.zero), tallyAdd t f.2)

/-- The contribution of one cell (R105): the products of its group, rounded where the class rounds. DESIGN CHOICE: log entry 93. -/
def cellOf (cls : Nat) (ps : List Counted) : Counted :=
  let s := cellSum ps
  match cls with
  | 1 | 3 | 4 => let r := cellRound s.1; (r.1, tallyAdd s.2 r.2)
  | _ => s

/-- finish(p) of one tile: the column from row 0 to row 31 over the products of the tile (R105). -/
def tileSum (cls : Nat) (ps : List Counted) : Counted :=
  let g := classGroup cls
  let r := (List.range 32).foldl (fun s r => colAdd cls r s (cellOf cls ((ps.drop (r * g)).take g))) ((Num.zero, Num.zero), {})
  (r.1.1, r.2)

/-- acc_add of a class (R83, R105): FP32, saturating INT32, exact INT48. DEDUCED: log entry 22. -/
def accAdd (cls : Nat) (x y : Num) : Counted :=
  match classAcc cls with
  | .int32 =>
    let r := Fmt.round .int32 .nearest 0 (x.add y)
    (Fmt.decode .int32 r.code, tallyOf r false)
  | .int48 =>
    let v := match x.add y with
      | .fin n m e => Num.mantAt n m e 0
      | _ => 0
    let w := if -(2 ^ 47 : Int) ≤ v ∧ v < 2 ^ 47 then unsigned 48 v else Config.d7Over v
    (Fmt.decode .int48 w, {})
  | _ => fadd x y

/-- One gang slot's accumulation over its tiles, in order (R105). `none` begins with the first tile itself.
DESIGN CHOICE: log entry 25. -/
def accumulate (cls : Nat) (prior : Option Num) (tiles : List (List Counted)) : Counted :=
  let r := tiles.foldl (fun (s : Option Num × Tally) ps =>
    let f := tileSum cls ps
    match s.1 with
    | none => (some f.1, tallyAdd s.2 f.2)
    | some a => let b := accAdd cls a f.1; (some b.1, tallyAdd s.2 (tallyAdd f.2 b.2))) (prior, {})
  (r.1.getD Num.zero, r.2)

/-- The combination of the slots' sums (R105). -/
def combine (cls : Nat) (l : List Num) : Counted :=
  match l with
  | [a, b] => accAdd cls a b
  | [a, b, c, d] =>
    let x := accAdd cls a b; let y := accAdd cls c d; let z := accAdd cls x.1 y.1
    (z.1, tallyAdd x.2 (tallyAdd y.2 z.2))
  | l => (l.headD Num.zero, {})

/-! ### Errors at the array edge and in accumulators -/

/-- An uncorrectable error of R110: the gang slot whose engine meets it, the site, the address or slot of the buffer. -/
inductive EngErr where
  | edge (slot site : Nat) (e : AccErr)
  | slotErr (slot loc : Nat) (syn : Byte)
  deriving DecidableEq, Repr

/-- Work of an engine. -/
abbrev EAcc := ExceptT EngErr (StateM State)

/-- What comes through the array edge for a gang slot's engine: site 0 streamed, 1 stationary. DEDUCED: log entry 23. -/
def edgeRead (slot site : Nat) (x : Acc α) : EAcc α := ExceptT.mk fun s =>
  match runAcc x s with
  | (.ok a, t) => (.ok a, t)
  | (.error e, t) => (.error (.edge slot site e), t)

/-- Words of the core's own memory in a byte range whose check byte alone is wrong: a word keeps its check byte on the way, so that the
array edge finds that error again (R289). -/
def edgeCes (s : State) (da n : Nat) : Nat :=
  (List.range (cdiv (da + n) 8 - da / 8)).countP fun i => classify (s.syn.get 0 (da / 8 + i)) == .check

/-- Bytes that gang slot `slot` reads on a path: each word is checked at the array edge of its engine `e`, which counts the errors
corrected there, those of the other words too where one is found uncorrectable (R110, R289, R290). DEDUCED: log entry 23. -/
def edgeRd (c slot e site da n : Nat) : EAcc (List Byte) := ExceptT.mk fun s =>
  let checked (t : State) : State := t.updEng c e R.engEccCnt fun w => incFld w 31 0 (edgeCes s da n)
  match runAcc (rd (.engine c) da n) s with
  | (.ok b, t) => (.ok b, checked t)
  | (.error err, t) => (.error (.edge slot site err), match err with
    | .ue .. => checked t
    | _ => t)

/-! ### Convolution descriptors (R111) -/

/-- One spatial dimension (R111). -/
structure ConvDim where
  pitch  : Nat
  pad    : Nat
  dil    : Nat
  stride : Nat
  ker    : Nat
  out    : Nat
  ext    : Nat
  deriving DecidableEq, Repr

/-- A convolution descriptor (R111): its dimensions in use, channels, base. -/
structure Conv where
  dims : List ConvDim
  cin  : Nat
  base : Nat
  ok   : Bool
  /-- Its 64 bytes lie in the core's own memory (R134). -/
  own  : Bool
  deriving DecidableEq, Repr

/-- The convolution descriptor that 64 bytes hold; `ok` says that it meets R111 for elements of format f. DEDUCED: log entry 24. -/
def parseConv (f : Fmt) (n : Nat) : Conv :=
  let nd := bits n 66 64
  let dims := (List.range nd).map fun j =>
    let o := 128 + 96 * j
    { pitch := bits n (o + 95) (o + 64), pad := bits n (o + 63) (o + 56), dil := bits n (o + 55) (o + 48)
      stride := bits n (o + 47) (o + 40), ker := bits n (o + 39) (o + 32), out := bits n (o + 31) (o + 16)
      ext := bits n (o + 15) o : ConvDim }
  let cin := bits n 63 48
  { dims := dims, cin := cin, base := bits n 47 0, own := true
    ok := 1 ≤ nd && nd ≤ 4 && bits n 127 67 == 0 && cin % 32 == 0 && 1 ≤ cin && cin ≤ 65504 &&
      dims.all fun d => d.pitch % (32 * f.storeBits / 8) == 0 && 1 ≤ d.dil && 1 ≤ d.stride && 1 ≤ d.ker && 1 ≤ d.out && 1 ≤ d.ext }

/-- Kernel taps. -/
def Conv.taps (v : Conv) : Nat := v.dims.foldl (fun n d => n * d.ker) 1

/-- Contraction length K (R112). -/
def Conv.k (v : Conv) : Nat := v.taps * v.cin

/-- The mixed-radix digits of n, the first radix fastest; the last digit takes what is left. DESIGN CHOICE: log entry 108. -/
def digitsOf : List Nat → Nat → List Nat
  | [], _ => []
  | [_], n => [n]
  | r :: rs, n => n % r :: digitsOf rs (n / r)

/-- Address of the run of output position o, tap q, channel ch, in plane bytes `plane`; `none` where it is padding (R112). -/
def Conv.runDa (v : Conv) (f : Fmt) (o q ch : Nat) : Option Nat :=
  let os := digitsOf (v.dims.map (·.out)) o
  let qs := digitsOf (v.dims.map (·.ker)) q
  let ins : List Int := (v.dims.zip (os.zip qs)).map fun p =>
    (p.2.1 * p.1.stride + p.2.2 * p.1.dil : Nat) - (p.1.pad : Int)
  if (v.dims.zip ins).all fun p => decide (0 ≤ p.2 ∧ p.2 < p.1.ext) then
    some (v.base + (v.dims.zip ins).foldl (fun n p => n + p.2.toNat * p.1.pitch) 0 + ch * f.storeBits / 8)
  else none

/-- The byte past the last input byte that R112 can read. -/
def Conv.endDa (v : Conv) (f : Fmt) (planes pitch : Nat) : Nat :=
  v.base + (planes - 1) * pitch + v.dims.foldl (fun n d => n + (d.ext - 1) * d.pitch) 0 + v.cin * f.storeBits / 8

/-! ### Reading a tile -/

/-- `n` elements from an address, each with the scale bytes of `sc` by blocks of 32. -/
def elemsOf (f : Fmt) (n : Nat) (bs sc : List Byte) : List Elem :=
  (List.range n).map fun j => (elemAt f bs j, if f.scaled then leAt sc (j / 32) 1 else 127)

/-- Streamed row m of plane i from element k0: `kt` elements of A (R96, R112, R133). -/
def readA (c slot e : Nat) (d : Desc) (f : Fmt) (conv : Option Conv) (i m k0 kt : Nat) : EAcc (List Elem) := do
  match conv with
  | none =>
    let bs ← edgeRd c slot e 0 (rowDa d i m + k0 * f.storeBits / 8) (rowBytes f kt)
    let sc ← if f.scaled then edgeRd c slot e 0 (d.scaleBase + m * d.scalePitch + k0 / 32) (kt / 32) else pure []
    return elemsOf f kt bs sc
  | some v =>
    let runs ← (List.range (kt / 32)).mapM fun r => do
      let k := k0 + 32 * r
      match if k < v.k then v.runDa f m (k / v.cin) (k % v.cin) else none with
      | none => return List.replicate 32 Elem.pad
      | some a =>
        let bs ← edgeRd c slot e 0 (a + i * d.planePitch) (rowBytes f 32)
        let sc ← if f.scaled then edgeRd c slot e 0 (d.scaleBase + (a - v.base) * 8 / (32 * f.storeBits)) 1 else pure []
        return elemsOf f 32 bs sc
    return runs.flatten

/-- Rows k0 to k0 + kt - 1 of plane j of B, the first `lanes` columns read and the others +0 (R124); rows at or above `kmax`
are missing (R96). -/
def readB (c slot e : Nat) (d : Desc) (f : Fmt) (j k0 kt n lanes kmax : Nat) : EAcc (List (List Elem)) := do
  let cols := min n lanes
  let scs ← (List.range (kt / 32)).mapM fun b =>
    if f.scaled && cols != 0 && k0 + 32 * b < kmax then
      edgeRd c slot e 1 (d.scaleBase + (k0 / 32 + b) * d.scalePitch) cols
    else pure []
  (List.range kt).mapM fun k => do
    let bs ← if cols = 0 ∨ kmax ≤ k0 + k then pure []
      else edgeRd c slot e 1 (rowDa d j (k0 + k)) (rowBytes f cols)
    let sc := scs.getD (k / 32) []
    return (List.range n).map fun x =>
      if x < cols && k0 + k < kmax then (elemAt f bs x, if f.scaled then leAt sc x 1 else 127) else Elem.pad

/-- The value of an element (R70). -/
def elemVal (f : Fmt) (e : Elem) : Num := if f.scaled then applyScale e.2 (f.decode e.1) else f.decode e.1

/-- A tile: M rows of A and the rows of B. -/
structure TileData where
  a : List (List Elem)
  b : List (List Elem)
  deriving DecidableEq, Repr

/-- The products of output (m, n) in a tile, in ascending k. -/
def TileData.products (t : TileData) (fa fb : Fmt) (m n : Nat) : List Counted :=
  ((t.a.getD m []).zip t.b).map fun p => prodOf (elemVal fa p.1) (elemVal fb (p.2.getD n Elem.pad))

/-! ### The accumulator buffer (R98) -/

/-- Number of engine e of core c in the tables that the engines share. -/
def engKey (c e : Nat) : Nat := c * 4 + e

/-- Place of a slot as `ENG_ECC_ADDR` has it. -/
def acbLoc (bank m n : Nat) : Nat := bank * 2 ^ 13 + m * 2 ^ 5 + n

/-- The bits a slot stores for a value of an accumulator format (R98). -/
def acbBits (f : Fmt) (code : Nat) : Nat :=
  match f with
  | .fp32 => code % 2 ^ 32
  | f => unsigned 64 (signed f.width code)

/-- A slot written, with fresh check bits. -/
def setAcb (c e bank m n : Nat) (v : Nat) (s : State) : State :=
  { s with acb := s.acb.set (engKey c e) (Tbl.set (acbLoc bank m n) (BitVec.ofNat 72 (v % 2 ^ 64)) (s.acb.get [] (engKey c e))) }

/-- A slot read and checked (R110): its 64 bits. DESIGN CHOICE: log entry 26. -/
def readAcb (c slot e bank m n : Nat) : EAcc Nat := ExceptT.mk fun s =>
  let w := match Tbl.find? (acbLoc bank m n) (s.acb.get [] (engKey c e)) with
    | some w => w
    | none => match (s.engX c e).left with
      | some k => BitVec.ofNat 72 (Config.accLeft k (acbLoc bank m n)).toNat
      | none => 0
  let r := checkWord (leBytes 8 (w.toNat % 2 ^ 64)) (BitVec.ofNat 8 (w.toNat / 2 ^ 64))
  if r.ue then (.error (.slotErr slot (acbLoc bank m n) (BitVec.ofNat 8 (w.toNat / 2 ^ 64))), s)
  else (.ok (leNat r.data), if r.ce then s.updEng c e R.engEccCnt fun w => incFld w 31 0 1 else s)

/-! ### Issue and rejection -/

namespace State

/-- An engine meets an uncorrectable error at offset `off`: it records and logs it and moves to FAULT, and the core traps
(R110, R142, R295, R484). DEDUCED: log entry 23. -/
def engFault (s : State) (c off : Nat) (gang : List Nat) (x : EngErr) : State :=
  let (slot, site, loc, syn) : Nat × Nat × Nat × Byte := match x with
    | .edge k site (.ue da y _) => (k, site, da, y)
    | .edge k site err => (k, site, errDa err, 0)
    | .slotErr k l y => (k, 2, l, y)
  let e := gang.getD slot 0
  let t := (s.endKindles c off).updEng c e R.engSts fun w => setFld (setBit w (if site = 2 then 15 else 14) true) 2 0 7
  let t := (t.updEng c e R.engEccCnt fun w => incFld w 47 32 1).updEng c e R.engEccAddr fun _ =>
    BitVec.ofNat 64 (2 ^ 63 + site * 2 ^ 48 + loc)
  let t := t.logUe (if site = 2 then 6 else 4 + site) (Who.engine c) loc syn
  t.trap c 4 e

/-- An operation is rejected (R95): it runs as kindling. -/
def engReject (s : State) (c : Nat) (gang : List Nat) : State :=
  forEach gang s fun t e =>
    (t.updEng c e R.engSts fun w => setBit w 12 true).updEngX c e fun x => { x with reject := true }

/-- The generator of core c at the start of a word that rounds stochastically (R79). -/
def seedGen (s : State) (p c : Nat) (q : QWord) : Word := genSeed (s.slot p).seed c q.rfn q.op

/-- `n` draws for a word where its mode is stochastic, with the generator left as they leave it (R78-R80). -/
def takeDraws (s : State) (p c n : Nat) (q : QWord) : List Nat × State :=
  if wRound q.word = .stochastic then
    let (l, g) := draws n (s.seedGen p c q)
    (l, s.updCx c fun x => { x with gen := g })
  else (List.replicate n 0, s)

end State

/-! ### The drain (R99, R124) -/

/-- Rows 0 to M - 1 of a bank drained by the engine of gang slot 0 into C: every element is converted, the first `lanes`
columns are counted and written; the others run as kindling, which counts nothing (R114, R124). -/
def drainBank (p c e : Nat) (q : QWord) (d : Desc) (f : Fmt) (lanes : Nat) : EAcc Unit := do
  let w := q.word
  let acc := classAcc (wbits w 67 64)
  let m := wM w; let n := wN w
  let s ← get
  let (rs, t) := s.takeDraws p c (m * n) q
  set t
  (List.range m).forM fun i => do
    let vs ← (List.range n).mapM fun j => readAcb c 0 e (wBank w) i j
    let rd := (List.range n).map fun j =>
      f.round ((wRound w).into acc f) (rs.getD (i * n + j) 0) (acc.decode (vs.getD j 0))
    modify fun t => t.noteEng c e (tallySum ((rd.take lanes).map fun r => tallyOf r false))
    if min n lanes ≠ 0 then
      edgeRead 0 0 (writeRow (.engine c) d f 0 i ((rd.take lanes).map (·.code)))

/-! ### MMUL -/

/-- Everything an MMUL has read of its word and its descriptors. -/
structure MmulOp where
  w    : BitVec 128
  gang : List Nat
  a    : Desc
  b    : Desc
  d    : Desc
  fa   : Fmt
  fb   : Fmt
  fd   : Fmt
  conv : Option Conv
  lanes : Nat
  deriving DecidableEq, Repr

/-- The tiles of gang slot g, pass by pass, read through the array edge (R105, R107). DESIGN CHOICE: log entry 108. -/
def readTiles (c g : Nat) (o : MmulOp) : EAcc (List TileData) := do
  let w := o.w
  let kt := classKt (wbits w 67 64)
  let kmax := match o.conv with
    | none => wT w * kt
    | some v => v.k
  let ts := (List.range (wT w)).filter fun t => t % o.gang.length == g
  let r ← (passesOf w).mapM fun ij => ts.mapM fun t => do
    let e := o.gang.getD g 0
    let b ← readB c g e o.b o.fb ij.2 (t * kt) kt (wN w) o.lanes kmax
    let a ← (List.range (wM w)).mapM fun m => readA c g e o.a o.fa o.conv ij.1 m (t * kt) kt
    return { a := a, b := b : TileData }
  return r.flatten

/-- What the stationary cells of an engine hold after its tiles: the last tile in the active set, the one before in the
shadow (R93, R101, R102). DESIGN CHOICE: log entry 113. -/
def loadCells (c e : Nat) (cls : Nat) (f : Fmt) (tiles : List TileData) (s : State) : State :=
  let set0 := fld (s.eng c e R.engSts) 4 4
  let g := classGroup cls
  forEach tiles.zipIdx s fun s p =>
    let st := (set0 + p.2 + 1) % 2
    let cells := forEach (List.range 1024) (s.stat.get [] (engKey c e)) fun (cells : Tbl (BitVec 16)) rc =>
      let r := rc / 32; let col := rc % 32
      let v := (List.range g).foldl (fun n x => n + ((p.1.b.getD (r * g + x) []).getD col Elem.pad).1 * 2 ^ (x * f.width)) 0
      let key := st * 1024 + rc
      if v = 0 then cells.erase key else cells.set key (BitVec.ofNat 16 v)
    { s with stat := s.stat.set (engKey c e) cells }

/-- An MMUL carried out (R93-R110, R124). The columns of unfilled lanes run as kindling and count no event (R114, R124).
DESIGN CHOICE: log entry 108. -/
def mmulRun (p c : Nat) (q : QWord) (o : MmulOp) : EAcc Unit := do
  let w := o.w
  let cls := wbits w 67 64
  let acc := classAcc cls
  let m := wM w; let n := wN w; let bank := wBank w
  let e0 := o.gang.getD 0 0
  let slots ← (List.range o.gang.length).mapM fun g => readTiles c g o
  (o.gang.zip slots).forM fun x => modify (loadCells c x.1 cls o.fb x.2)
  (List.range m).forM fun i => (List.range n).forM fun j => do
    let prior ← if w.getLsbD 63 then some <$> readAcb c 0 e0 bank i j else pure none
    let sums := slots.zipIdx.map fun x =>
      accumulate cls (if x.2 = 0 then prior.map acc.decode else none) (x.1.map fun t => t.products o.fa o.fb i j)
    let out := combine cls (sums.map (·.1))
    let code (x : Num) : Nat := acbBits acc (acc.round .nearest 0 x).code
    modify fun s =>
      let note (e : Nat) (y : Tally) (s : State) : State := if j < o.lanes then s.noteEng c e y else s
      let s := forEach ((o.gang.zip sums).drop 1) s fun s x => note x.1 x.2.2 (setAcb c x.1 bank i j (code x.2.1) s)
      note e0 (tallyAdd ((sums.headD (Num.zero, {})).2) out.2) (setAcb c e0 bank i j (code out.1) s)
  if w.getLsbD 61 then drainBank p c e0 q o.d o.fd o.lanes

namespace State

/-- Lanes of the cord that a cord-buffer operand names; a queue with no cord taken has an empty one (R120, R124). -/
def cordLanes (s : State) (c cq : Nat) : Nat :=
  match (s.cxOf c).cords.find? cq with
  | none => 0
  | some k => min 32 k.lanes.length

/-- The last tile that gang slot g of G takes of T: tile t goes to slot t mod G (R107); 0 for a slot that takes none.
DESIGN CHOICE: log entry 108. -/
def lastTile (n g G : Nat) : Nat := if g < n then g + (n - 1 - g) / G * G else 0

/-- `ENG_OP`, `ENG_CORD`, `ENG_STS` and the busy and kindling counts of an engine for an MMUL whose last tile there is `last` (R96, R104),
and the columns that it has filled of its bank (R124). The kindling rows inside an operation count also with `KND_EN` 0.
DEDUCED: log entry 22. DESIGN CHOICE: log entry 108. DESIGN CHOICE: log entry 116. -/
def noteMmul (s : State) (c e : Nat) (q : QWord) (last tiles : Nat) (cord : Option Nat) : State :=
  let w := q.word
  let m := wM w
  let lanes := cord.getD 0
  let t := s.updEng c e R.engOp fun _ =>
    BitVec.ofNat 64 (last * 2 ^ 32 + (m - 1) * 2 ^ 24 + wbits w 67 64 * 2 ^ 16 + q.op % 2 ^ 16)
  let t := t.updEng c e R.engCord fun _ => BitVec.ofNat 64 ((2 ^ lanes - 1) * 2 ^ 32 + lanes)
  let t := t.updEng c e R.engSts fun v =>
    setFld (setFld (setBit v 7 (drainsOn e q || (s.engX c e).drain.any (drainsOn e))) 6 6 (wBank w)) 4 4 (fld v 4 4 + tiles)
  let t := t.updEngX c e fun y => { y with lanes := y.lanes.set (wBank w) (cord.getD 32) }
  (t.updEng c e R.engBusyCnt fun v => incFld v 47 0 (m * tiles)).addKnd c e ((tiles - 1) * (62 - m))

/-- An engine's work done on the state that issued it: a fault ends it and traps the core. DESIGN CHOICE: log entry 20. -/
def engRun (s : State) (c off : Nat) (gang : List Nat) (x : EAcc Unit) : State :=
  match x.run s with
  | (.ok _, t) => t
  | (.error e, t) => t.engFault c off gang e

/-- The destination of a drain is fit (R99, R134). -/
def fitsC (c : Nat) (w : BitVec 128) (d : Desc) : Bool :=
  descPlain d && (match fmtOf d.fmt with
    | some f => descFits c d f .row (wM w) (wN w) 1 true
    | none => false)

/-- The format of a drain is one of R99 for the class. -/
def drainFmt (w : BitVec 128) (d : Desc) : Bool :=
  match fmtOf d.fmt with
  | some f => drainAccepts (classAcc (wbits w 67 64)) f
  | none => false

/-- The convolution descriptor of A, where A has one: `own` false where it does not lie in the core's own memory (R134), `ok` false where
it breaks R111 (R113). An uncorrectable error in it is taken as one of a descriptor-table entry (R485). DEDUCED: log entry 24. -/
def convOf (c : Nat) (d : Desc) (f : Fmt) : Acc (Option Conv) := do
  if d.type ≠ 1 then return none
  else if (ownPart c d.base (d.base + 64)).isNone then return some { dims := [], cin := 0, base := 0, ok := true, own := false }
  else
    let b ← rd (.desc c) d.base 64
    return some (parseConv f (leNat b))

/-- A's extent is fit (R134): for a convolution its descriptor, every input byte and the scale plane lie in one memory. -/
def fitsA (c : Nat) (w : BitVec 128) (d : Desc) (f : Fmt) (conv : Option Conv) (planes : Nat) : Bool :=
  match conv with
  | none => descFits c d f .row (wM w) (wT w * classKt (wbits w 67 64)) planes false
  | some v =>
    let part := ownPart c v.base (v.endDa f planes d.planePitch)
    part.isSome && ownPart c d.base (d.base + 64) == part &&
    (!f.scaled || ownPart c d.scaleBase (d.scaleBase + cdiv ((v.endDa f 1 0 - v.base) * 8) (32 * f.storeBits)) == part)

/-- A of an MMUL in a format is fit: its fields, and its whole extent where the class gives a tile depth and R111 is kept (R134). -/
def fitA (c : Nat) (w : BitVec 128) (a : Desc) (v : Option Conv) (planes : Nat) : Bool :=
  match fmtOf a.fmt with
  | none => false
  | some f =>
    !a.rsv && (a.type == 0 || a.type == 1) &&
    (match v with
      | none => 8 < wbits w 67 64 || fitsA c w a f none planes
      | some x => x.own && (!x.ok || 8 < wbits w 67 64 || fitsA c w a f v planes))

/-- B of an MMUL is fit, `k` rows deep (R134). -/
def fitB (c : Nat) (w : BitVec 128) (b : Desc) (k planes : Nat) : Bool :=
  match fmtOf b.fmt with
  | none => false
  | some f => !b.rsv && (b.type == 0 || b.type == 2) && (8 < wbits w 67 64 || descFits c b f .col k (wN w) planes false)

/-- The formats of an MMUL's operands and of its drain are those of its class (R94, R99, R132). -/
def mmulFmts (w : BitVec 128) (a b d : Desc) : Bool :=
  match fmtOf a.fmt, fmtOf b.fmt with
  | some fa, some fb => classAccepts (wbits w 67 64) fa && classAccepts (wbits w 67 64) fb && (!w.getLsbD 61 || drainFmt w d)
  | _, _ => false

/-- The pieces or digit planes that the passes of a word read (R132). -/
def planesOf (w : BitVec 128) : Nat :=
  match wbits w 60 59 with
  | 0 => 1
  | 1 => 2
  | 2 => 3
  | _ => wbits w 58 56 + 1

/-- The MMUL of word q issues on its gang (R95, R113, R131-R134). Each flag is set for its own cause; where A's format is reserved, its
convolution descriptor is held to the pitches of the narrowest format. DEDUCED: log entry 24. -/
def mmul (s : State) (p c off : Nat) (q : QWord) : State :=
  let w := q.word
  let gang := enginesOf (wEmask w) q.shift
  let cls := wbits w 67 64
  let look : Acc (Desc × Desc × Desc × Option Conv) := do
    let a ← readDesc c (wbits w 26 18)
    let b ← readDesc c (wbits w 17 9)
    let d ← if w.getLsbD 61 then readDesc c (wbits w 8 0) else pure a
    let v ← convOf c a ((fmtOf a.fmt).getD .int4)
    return (a, b, d, v)
  match runAcc look s with
  | (.error e, t) => (t.endKindles c off).trapOn c e
  | (.ok (a, b, d, v), t) =>
    let convBad := match v with
      | some x => x.own && !x.ok
      | none => false
    let kB := match v with
      | some x => if x.own && x.ok then min x.k (wT w * classKt cls) else wT w * classKt cls
      | none => wT w * classKt cls
    let descOk := fitA c w a v (planesOf w) && fitB c w b kB (planesOf w) && (!w.getLsbD 61 || fitsC c w d)
    if !engFields w || !mmulFmts w a b d || convBad || !descOk then
      let t := when (!descOk) (fun t : State => t.descErr c) t
      let t := when convBad (fun t : State => forEach gang t fun t e => t.updEng c e R.engSts fun x => setBit x 13 true) t
      t.engReject c gang
    else
      let lanes := if b.type = 2 then t.cordLanes c b.cq else wN w
      let o : MmulOp :=
        { w := w, gang := gang, a := a, b := b, d := d, fa := (fmtOf a.fmt).getD .fp32, fb := (fmtOf b.fmt).getD .fp32
          fd := (fmtOf d.fmt).getD .fp32, conv := v, lanes := lanes }
      match (mmulRun p c q o).run t with
      | (.error e, t) => t.engFault c off gang e
      | (.ok _, t) => forEach gang.zipIdx t fun t e =>
        t.noteMmul c e.1 q (lastTile (wT w) e.2 gang.length) (((List.range (wT w)).countP fun k => k % gang.length == e.2) * (passesOf w).length)
          (if b.type = 2 then some lanes else none)

/-- The DRAIN of word q issues (R99, R131, R134): of a bank that a cord's operation filled, the filled lanes alone are written (R124). -/
def drainWord (s : State) (p c off : Nat) (q : QWord) : State :=
  let w := q.word
  let gang := enginesOf (wEmask w) q.shift
  match runAcc (readDesc c (wbits w 8 0)) s with
  | (.error e, t) => (t.endKindles c off).trapOn c e
  | (.ok d, t) =>
    match fmtOf d.fmt with
    | none => (t.descErr c).engReject c gang
    | some f =>
      if !engFields w || !drainFmt w d then (when (!fitsC c w d) (fun t : State => t.descErr c) t).engReject c gang
      else if !fitsC c w d then (t.descErr c).engReject c gang
      else
        let e := gang.getD 0 0
        let t := (t.updEng c e R.engSts fun v => setBit v 7 true).updEng c e R.engOp fun v =>
          setFld (setFld v 19 16 (wbits w 67 64)) 15 0 q.op
        t.engRun c off gang (drainBank p c e q d f ((t.engX c e).lanes.get 32 (wBank w)))

/-- The ENG word of opcode `opc` at the head of engine e's queue issues on every engine it names (R136). -/
def engIssue (s : State) (c off : Nat) (e : Eng) (opc : Nat) : State :=
  let s := s.settleRamps c off
  match s.runSlot c, (s.engX c e.val).u.queue.head? with
  | some p, some q =>
    let gang := enginesOf (wEmask q.word) q.shift
    if wClass q.word == 1 && wOpc q.word == opc && s.due p c off q && gang.all fun g => s.engFree c off q (Fin.ofNat 4 g) then
      let t := forEach gang s fun t g => t.engTake c off q g
      if opc = 1 then t.mmul p c off q else t.drainWord p c off q
    else s
  | _, _ => s

/-- Engine e ramps up for the word at its queue's head, 64 offset cycles before its compiled issue cycle or later
(R116, R117, R119). DEDUCED: log entry 21. -/
def rampUp (s : State) (c off : Nat) (e : Eng) : State :=
  let s := s.settleRamps c off
  match s.slotOf c, (s.engX c e.val).u.queue.head? with
  | some p, some q =>
    if s.coreState c == 2 && s.slotActive p && !s.removed c off && s.engState c e.val == engIdle && (s.engX c e.val).u.ready && s.kndOn c e.val &&
        decide (s.issueCycle p q ≤ s.runCycle p off + 64) then
      ((s.setEngState c e.val engRampUp).updEng c e.val R.engRampCnt fun w => incFld w 63 32 1).updEngX c e.val fun y =>
        { y with ramp := some (s.ran c off) }
    else s
  | _, _ => s

end State

/-- `MMUL` (R131). -/
def execMmul (core : Core) (eng : Eng) (off : Nat) (s : State) : Host.Outcome State Fault Refusal :=
  s.coreDone (s.engIssue core.val off eng 1)

/-- `DRAIN` (R131). -/
def execDrain (core : Core) (eng : Eng) (off : Nat) (s : State) : Host.Outcome State Fault Refusal :=
  s.coreDone (s.engIssue core.val off eng 2)

/-- `RAMP_UP` (R116). -/
def execRampUp (core : Core) (eng : Eng) (off : Nat) (s : State) : Host.Outcome State Fault Refusal :=
  s.coreDone (s.rampUp core.val off eng)

/-- `CORD_POINT` (R122): cord point k of cord queue q in the current flash. -/
def execCordPoint (slot : Slot) (q : QNum) (k : Fin 8) (s : State) : Host.Outcome State Fault Refusal :=
  s.coreDone (match s.queDecl? slot.val q.val with
    | none => s
    | some d =>
      if s.slotState slot.val == 3 && d.cordKind then s.cordPointAt slot.val q.val k.val (s.curRfn slot.val) d else s)

end Sys2Proof.Machine
end

