-- ==== Sys2Proof/Machine/Ed448.lean ====
section
/-!
DEFINITION. Ed448, pure mode with a context, the signature of images, records, tokens and reports (R433, R436, R437, R445). The
manual names RFC 8032 and does not restate it; the curve, its constants and the encodings are those of that standard. PRESUMED: log
entry 13.
-/

namespace Sys2Proof.Machine.Ed448

/-- The prime of the field. -/
def p : Nat := 2 ^ 448 - 2 ^ 224 - 1

/-- The order of the base point. -/
def order : Nat := 2 ^ 446 - 13818066809895115352007386748515426880336692474882178609894547503885

/-- The curve constant d = -39081. -/
def d : Nat := p - 39081

/-- Products and differences in the field. -/
def mul (a b : Nat) : Nat := a * b % p
def sub (a b : Nat) : Nat := (a + p - b % p) % p

/-- A power in the field, by the bits of the exponent; `n` bounds their number. -/
def pow (a : Nat) : Nat → Nat → Nat
  | 0, _ => 1
  | n + 1, e =>
    let h := pow a n (e / 2)
    let q := mul h h
    if e % 2 = 1 then mul q a else q

/-- A point in projective coordinates. -/
structure Point where
  x : Nat
  y : Nat
  z : Nat

/-- The neutral point. -/
def zero : Point := { x := 0, y := 1, z := 1 }

/-- The base point. -/
def base : Point :=
  { x := 224580040295924300187604334099896036246789641632564134246125461686950415467406032909029192869357953282578032075146446173674602635247710
    y := 298819210078481492676017930443930673437544040154080242095928241372331506189835876003536878655418784733982303233503462500531545062832660
    z := 1 }

/-- The sum of two points. -/
def add (s t : Point) : Point :=
  let a := mul s.z t.z
  let b := mul a a
  let c := mul s.x t.x
  let e := mul s.y t.y
  let k := mul d (mul c e)
  let f := sub b k
  let g := (b + k) % p
  let h := mul (s.x + s.y) (t.x + t.y)
  { x := mul (mul a f) (sub (sub h c) e), y := mul (mul a g) (sub e c), z := mul f g }

/-- n times a point; `k` bounds the number of bits of n. -/
def times (q : Point) : Nat → Nat → Point
  | 0, _ => zero
  | k + 1, n =>
    let h := times q k (n / 2)
    let t := add h h
    if n % 2 = 1 then add t q else t

/-- Two points are one. -/
def same (s t : Point) : Bool := mul s.x t.z == mul t.x s.z && mul s.y t.z == mul t.y s.z

/-- The 57 bytes of a point. -/
def encode (s : Point) : List Byte :=
  let zi := pow s.z 448 (p - 2)
  leBytes 57 (mul s.y zi + mul s.x zi % 2 * 2 ^ 455)

/-- The point of 57 bytes, where they are one's. -/
def decode (b : List Byte) : Option Point :=
  let n := leNat b
  let y := n % 2 ^ 455
  let sign := n / 2 ^ 455 % 2
  let u := sub (mul y y) 1
  let v := sub (mul d (mul y y)) 1
  let u3v := mul (mul (mul u u) u) v
  let x := mul u3v (pow (mul (mul u3v (mul u u)) (mul v v)) 448 ((p - 3) / 4))
  if b.length ≠ 57 ∨ p ≤ y ∨ mul v (mul x x) ≠ u ∨ (x = 0 ∧ sign = 1) then none
  else some { x := if x % 2 = sign then x else p - x, y := y, z := 1 }

/-- The domain prefix of a context. -/
def dom (ctx : List Byte) : List Byte := ascii "SigEd448" ++ [0, BitVec.ofNat 8 ctx.length] ++ ctx

/-- The secret scalar and the prefix of a private key. -/
def expand (priv : List Byte) : Nat × List Byte :=
  let h := shake256 114 priv
  (leNat (h.take 56) / 4 * 4 % 2 ^ 447 + 2 ^ 447, h.drop 57)

/-- The public key of a private key. -/
def publicKey (priv : List Byte) : List Byte := encode (times base 448 (expand priv).1)

/-- The signature of a message under a private key. -/
def sign (priv ctx m : List Byte) : List Byte :=
  let (s, pre) := expand priv
  let a := publicKey priv
  let r := leNat (shake256 114 (dom ctx ++ pre ++ m)) % order
  let rb := encode (times base 448 r)
  let k := leNat (shake256 114 (dom ctx ++ rb ++ a ++ m)) % order
  rb ++ leBytes 57 ((r + k * s) % order)

/-- A signature of a message verifies under a public key. -/
def verify (key ctx m sig : List Byte) : Bool :=
  match decode key, decode (sig.take 57) with
  | some a, some r =>
    let s := leNat (sig.drop 57)
    let k := leNat (shake256 114 (dom ctx ++ sig.take 57 ++ key ++ m)) % order
    let four (q : Point) : Point := add (add q q) (add q q)
    sig.length == 114 && decide (s < order) && same (four (times base 448 s)) (four (add r (times a 448 k)))
  | _, _ => false

end Sys2Proof.Machine.Ed448
end

