-- ==== Sys2Proof/Machine/Image.lean ====
section
/-!
DEFINITION. Schedule images: their layout and every format rule (R203, R204), what the device keeps of one, signature blocks (R436,
R437), the HBM bytes that claims and ranges share (R202, R205, R247).
-/

namespace Sys2Proof.Machine

/-- A check of R209 that failed: its status and order, the section type and the core, entry or word that it names. -/
structure ImgFail where
  status : Nat
  order  : Nat
  sec    : Nat
  core   : Nat
  idx    : Nat
  deriving DecidableEq, Repr

/-- A check, or what it reads. -/
abbrev Chk := Except ImgFail

/-- A condition that a check demands. -/
def must (ok : Bool) (f : ImgFail) : Chk Unit := if ok then .ok () else .error f

/-- Every element of a list passes a check that is given its place. -/
def needAll (l : List α) (ok : Nat → α → Bool) (f : Nat → α → ImgFail) : Chk Unit :=
  l.zipIdx.forM fun x => must (ok x.2 x.1) (f x.2 x.1)

/-! ### Sections -/

/-- Section types (R204). -/
abbrev secMap : Nat := 1
abbrev secClass : Nat := 2
abbrev secStreams : Nat := 3
abbrev secData : Nat := 4
abbrev secConfig : Nat := 5
abbrev secRoutes : Nat := 6
abbrev secCredits : Nat := 7
abbrev secQueues : Nat := 8
abbrev secHeat : Nat := 9
abbrev secRotations : Nat := 10
abbrev secAudit : Nat := 11

/-- A section: type, entries, offset, length. -/
structure Sect where
  type  : Nat
  count : Nat
  off   : Nat
  len   : Nat
  deriving DecidableEq, Repr

/-- Bytes of a section's header and of an entry (R204). -/
def secHead (t : Nat) : Nat := if t = secRoutes then 32 else if t = secHeat then 16 else 0
def secEntry (t : Nat) : Nat := [0, 256, 64, 32, 32, 16, 8, 4, 128, 64, 64, 136].getD t 0

/-- `n` bytes from offset o are zero. -/
def zeroAt (b : List Byte) (o n : Nat) : Bool := ((b.drop o).take n).all (· == 0)

/-- The reserved bytes and bits of an entry of a section are zero; `e` is the entry's bytes (R204). -/
def entryClean (t : Nat) (e : List Byte) : Bool :=
  match t with
  | 1 => zeroAt e 0x0A 6 && zeroAt e 0x30 16 && leAt e 6 2 < 1024
  | 2 => zeroAt e 7 1 && zeroAt e 0x10 48 && leAt e 6 1 < 2
  | 3 => zeroAt e 2 2
  | 4 => zeroAt e 24 8
  | 5 => zeroAt e 2 2
  | 6 => bits (leAt e 0 8) 63 32 == 0 && bits (leAt e 0 8) 23 21 == 0 && bits (leAt e 0 8) 15 10 == 0
  | 8 => zeroAt e 0x60 32
  | 10 => zeroAt e 0x0E 2 && zeroAt e 0x30 16 && bits (leAt e 0 8) 62 48 == 0
  | 11 => zeroAt e 129 7
  | _ => true

/-- The reserved bytes and bits of a section's header are zero. -/
def headClean (t : Nat) (h : List Byte) : Bool :=
  if t = secRoutes then zeroAt h 24 8 && leAt h 0 16 < 2 ^ 68 && leAt h 16 4 < 2 ^ 24
  else if t = secHeat then zeroAt h 1 3 && zeroAt h 12 4 else true

/-- Section of a type. -/
def sectOf (ss : List Sect) (t : Nat) : Option Sect := ss.find? fun x => x.type == t

/-- Bytes of the header, and of each entry, of a section; none where the image has no such section. -/
def sectHead (b : List Byte) (ss : List Sect) (t : Nat) : List Byte :=
  match sectOf ss t with
  | some x => (b.drop x.off).take (secHead t)
  | none => []
def sectEntries (b : List Byte) (ss : List Sect) (t : Nat) : List (List Byte) :=
  match sectOf ss t with
  | some x => (List.range x.count).map fun i => (b.drop (x.off + secHead t + i * secEntry t)).take (secEntry t)
  | none => []

/-! ### What an image holds -/

/-- A DATA entry: destination, length, image offset. -/
structure DataEnt where
  da  : Nat
  len : Nat
  off : Nat
  deriving DecidableEq, Repr

/-- A CONFIG entry. -/
structure ConfEnt where
  core : Nat
  off  : Nat
  val  : Word
  deriving DecidableEq, Repr

/-- An image read: what the device keeps, and what its loading writes. `raw` is bytes 0 to L - 1, `block` the signature block. -/
structure Parsed where
  img    : Image
  raw    : List Byte
  signed : Bool
  block  : List Byte
  ncores : Nat
  words  : List (List (BitVec 128))
  data   : List DataEnt
  config : List ConfEnt
  deriving DecidableEq, Repr

/-- The 16-bit values of a list of bytes. -/
def halves (b : List Byte) : List Nat := (chunks 2 b).map leNat

/-- RFNs of the words of a stream, and the RFN from which a word after the last would count (R128, R130). -/
def wordRfns (ws : List (BitVec 128)) : List Nat × Nat :=
  ws.foldl (fun a w =>
    let n := w.toNat
    let r := a.2 + bits n 127 120
    (a.1 ++ [r], if bits n 103 92 = 1 then r + bits n 47 0 else r)) ([], 0)

/-- A STREAMS entry with its words (R205, R207). -/
def parseStream (e : List Byte) (ws : List (BitVec 128)) : StreamEnt :=
  let ld := leAt e 0x1B 1; let li := leAt e 0x1C 4
  let (rs, last) := wordRfns ws
  let at0 := rs.getD li 0
  { core := leAt e 0 2, nwords := leAt e 4 4, imgOff := leAt e 8 8, loadDa := leAt e 0x10 8, descOff := leAt e 0x18 3
    loopDfl := ld, loopIdx := li, loopAt := at0, loopLen := if ld = 0 then 0 else last + ld - at0 }

/-- A QUEUES entry (R206). -/
def parseQueue (e : List Byte) : QueueDecl :=
  { q := leAt e 0 1, kind := leAt e 1 1, w := leAt e 2 1, outq := leAt e 3 1, depthLog := leAt e 4 1, esizeLog := leAt e 5 1
    writer := leAt e 6 2, ring := leAt e 8 8, cpoints := halves ((e.drop 0x10).take 16), feed := leAt e 0x20 64 }

/-- A ROTATIONS entry (R207, R208). -/
def parseRot (e : List Byte) : RotEnt :=
  { at_ := leAt e 0 8, kind := leAt e 8 1, mask := leAt e 9 1, count := leAt e 10 2, first := leAt e 12 2
    gfirst := halves ((e.drop 0x10).take 32) }

/-- The AUDIT section (R216). -/
def parseAudit (e : List Byte) : List AuditEnt :=
  (List.range 4).map fun k =>
    let v (j : Nat) : Word := BitVec.ofNat 64 (leAt e (32 * k + 8 * j) 8)
    { ctrl := v 0, poly := v 1, init := v 2, seq := v 3 }

/-- A claim is one of R204: multiples of 2 MiB, within one of the two HBM ranges; length 0 is unused. -/
def claimFits (base len : Nat) : Bool :=
  len == 0 || (base % 2 ^ 21 == 0 && len % 2 ^ 21 == 0 &&
    (decide (base + len ≤ turfBase) || decide (aliasBase ≤ base ∧ base + len ≤ 0x0180_0000_0000)))

/-- A signature block of a kind is well formed (R436, R437). -/
def blockForm (k : Nat) (b : List Byte) : Bool :=
  b.length == 256 && b.take 8 == ascii "KRYSIG01" && leAt b 8 1 == k && zeroAt b 9 7 && zeroAt b 0x49 7 && zeroAt b 0xC2 62

/-- Signer of a block, and its signature. -/
def blockKey (b : List Byte) : List Byte := (b.drop 0x10).take 57
def blockSig (b : List Byte) : List Byte := (b.drop 0x50).take 114

/-- A key hash. -/
def keyHash (k : List Byte) : List Byte := shake256 32 k

/-- The directory and its sections (R203, R204). -/
def parseDir (b : List Byte) (l n : Nat) : Chk (List Sect) := do
  let bad (t i : Nat) : ImgFail := ⟨Sts.badFormat, 2, t, 0, i⟩
  let ss := (List.range n).map fun i =>
    let e := (b.drop (0x60 + 32 * i)).take 32
    ({ type := leAt e 0 2, count := leAt e 4 4, off := leAt e 8 8, len := leAt e 16 8 : Sect }, zeroAt e 2 2 && zeroAt e 24 8)
  needAll ss (fun i x => x.2 && 1 ≤ x.1.type && x.1.type ≤ 11 && x.1.off % 64 == 0 && 0x60 + 32 * n ≤ x.1.off &&
      x.1.off + x.1.len ≤ l && x.1.len == secHead x.1.type + x.1.count * secEntry x.1.type &&
      (x.1.count == 1 || (x.1.type != secMap && x.1.type != secClass && x.1.type != secAudit)) &&
      (ss.take i).all fun y => y.1.type != x.1.type && (x.1.len == 0 || y.1.len == 0 || y.1.off + y.1.len ≤ x.1.off || x.1.off + x.1.len ≤ y.1.off))
    (fun i x => bad x.1.type i)
  let ss := ss.map (·.1)
  [secMap, secClass, secStreams, secCredits, secQueues, secHeat].forM fun t => must (sectOf ss t).isSome (bad t 0)
  ss.forM fun x => do
    must (headClean x.type (sectHead b ss x.type)) (bad x.type 0)
    needAll (sectEntries b ss x.type) (fun _ e => entryClean x.type e) (fun i _ => bad x.type i)
  return ss

/-- An image of a given length, its signature block included, read by every format rule (R203, R204, R440).
DEDUCED: log entry 75. -/
def parseImage (f : List Byte) : Chk Parsed := do
  let bad (t i : Nat) : ImgFail := ⟨Sts.badFormat, 2, t, 0, i⟩
  let l := leAt f 0x10 8; let n := leAt f 0x18 4; let signed := leAt f 0x0C 4 == 1
  must (0x60 ≤ f.length && f.take 8 == ascii "KRYSCHED" && leAt f 8 2 == 3 && leAt f 10 2 == 0 && leAt f 0x0C 4 < 2 && zeroAt f 0x1C 4 &&
    l % 64 == 0 && f.length == l + (if signed then 256 else 0) && 1 ≤ n && n ≤ 16 && 0x60 + 32 * n ≤ l) (bad 0 0)
  let b := f.take l; let block := f.drop l
  must (!signed || blockForm 2 block) (bad 0 0)
  let ss ← parseDir b l n
  let m := (sectEntries b ss secMap).headD []; let c := (sectEntries b ss secClass).headD []
  let st := sectEntries b ss secStreams
  let rh := sectHead b ss secRoutes; let hh := sectHead b ss secHeat
  let routes := sectEntries b ss secRoutes; let heat := sectEntries b ss secHeat
  let credits := sectEntries b ss secCredits
  let claims := (List.range 12).map fun k => (leAt m (0x40 + 16 * k) 8, leAt m (0x48 + 16 * k) 8)
  must (leAt m 0 4 != 0 && (leAt m 8 2 ≤ 1 || (sectOf ss secRoutes).isSome)) (bad secMap 0)
  needAll claims (fun _ r => claimFits r.1 r.2) (fun _ _ => bad secMap 0)
  must (st.length == leAt m 4 2) (bad secStreams 0)
  needAll st (fun i e =>
      let off := leAt e 8 8; let nw := leAt e 4 4; let ld := leAt e 0x1B 1; let li := leAt e 0x1C 4
      off % 16 == 0 && off + 16 * nw ≤ l && (if ld = 0 then li == 0 else decide (li < nw)) &&
      (st.take i).all fun d => leAt d 0 2 < leAt e 0 2)
    (fun i _ => bad secStreams i)
  let data := (sectEntries b ss secData).map fun e => ({ da := leAt e 0 8, len := leAt e 8 8, off := leAt e 16 8 } : DataEnt)
  needAll data (fun i d => decide (d.off + d.len ≤ l) && decide (((data.take (i + 1)).map (·.len)).sum ≤ 2 ^ 32))
    (fun i _ => bad secData i)
  must ((sectOf ss secRoutes).isNone || leAt rh 20 4 == routes.length) (bad secRoutes 0)
  must (credits.length == st.length) (bad secCredits 0)
  must (leAt hh 4 4 == heat.length) (bad secHeat 0)
  let words := st.map fun e => (chunks 16 ((b.drop (leAt e 8 8)).take (16 * leAt e 4 4))).map fun w => BitVec.ofNat 128 (leNat w)
  let audit := (sectEntries b ss secAudit).head?
  return {
    raw := b, signed := signed, block := block, ncores := leAt m 4 2, words := words, data := data
    config := (sectEntries b ss secConfig).map fun e => { core := leAt e 0 2, off := leAt e 4 4, val := BitVec.ofNat 64 (leAt e 8 8) }
    img := {
      digest := (b.drop 0x20).take 64, dieMask := leAt m 0 4, cores := leAt m 4 2, devId := leAt m 6 2, ndev := leAt m 8 2
      mapHash := (m.drop 0x10).take 32, claims := claims.filter fun r => r.2 != 0
      margin := leAt c 0 1, thermal := leAt c 1 1, period := leAt c 2 2, cpf := leAt c 4 2, legacy := leAt c 6 1 == 1
      seed := BitVec.ofNat 64 (leAt c 8 8), streams := (st.zip words).map fun x => parseStream x.1 x.2
      d2dUsed := leAt rh 0 16, clUsed := leAt rh 16 4
      routes := routes.map fun e => (bits (leAt e 0 8) 9 0, bits (leAt e 0 8) 20 16, bits (leAt e 0 8) 31 24)
      credits := credits.map fun e => (leAt e 0 2, leAt e 2 2), queues := (sectEntries b ss secQueues).map parseQueue
      winLog := leAt hh 0 1, loopWin := leAt hh 8 4, heat := heat.map halves
      rots := (sectEntries b ss secRotations).map parseRot, audit := audit.map parseAudit
      digestQ := match audit with
        | some e => leAt e 128 1
        | none => 0 } }

/-- The digest of R203. -/
def imageDigest (raw : List Byte) : List Byte := shake256 64 (overlay raw 0x20 (zeros 64))

/-! ### Claims -/

/-- The 32 groups of rows that every claim is made of: those whose row numbers share their upper five bits. A hashed claim of 2 MiB
units lies in one group each, over every bank; an alias unit is one group of one bank (R245, R246). -/
def claimGroup (r : Nat × Nat) (g : Nat) : Bool :=
  let lo := r.1 / 2 ^ 21; let hi := (r.1 + r.2) / 2 ^ 21
  if r.1 < turfBase then decide (lo < 8192 * (g + 1) ∧ 8192 * g < hi)
  else (List.range (min 32 (hi - lo))).any fun i => (lo + i) % 32 == g

/-- Two claims reach a common HBM byte (R202, R204): intervals of one range, groups of rows across the two. -/
def claimsMeet (a b : Nat × Nat) : Bool :=
  if decide (a.1 < turfBase) = decide (b.1 < turfBase) then decide (a.1 < b.1 + b.2 ∧ b.1 < a.1 + a.2)
  else (List.range 32).any fun g => claimGroup a g && claimGroup b g

/-- The piece of a range that begins at `da` and lies within one 256-byte unit is within an image's claims (R205, R247). -/
def pieceClaimed (i : Image) (da : Nat) : Bool :=
  if da < turfBase then i.claims.any fun r => State.rangeHas r (hashAt da).alias_
  else decide (aliasBase ≤ da ∧ da < 0x0180_0000_0000) && i.claims.any fun r => State.rangeHas r (da - aliasBase)

/-- A range lies within an image's claims, byte by byte. -/
def inClaims (i : Image) (da n : Nat) : Bool := (State.pieces da n).all fun p => pieceClaimed i p.1

end Sys2Proof.Machine
end

