-- ==== Sys2Proof/Machine/QueuePort.lean ====
section
/-!
DEFINITION. The queue port: CORD_TAKE, IN_READ and OUT_WRITE (R226-R229, R486), and the tail writes of host and Keeper (R222,
R347). The row length of a descriptor is its `ROW_PITCH`.
-/

namespace Sys2Proof.Machine

/-- Fields of a QUE word (R226). -/
def wQ (w : BitVec 128) : Nat := wbits w 71 66
def wQDesc (w : BitVec 128) : Nat := wbits w 65 57
def wMax (w : BitVec 128) : Nat := wbits w 56 48 + 1
def wLq (w : BitVec 128) : Nat := wbits w 47 42
def wSback (w : BitVec 128) : Nat := wbits w 41 34
def wDdl (w : BitVec 128) : Nat := wbits w 33 27
def wOne (w : BitVec 128) : Bool := w.getLsbD 26
def wOkind (w : BitVec 128) : Nat := wbits w 25 24

/-- `rows` rows of a queue descriptor lie in the core's own SRAM or turf slice (R134). -/
def rowsFit (c : Nat) (d : Desc) (rows : Nat) : Bool := descPlain d && spanFits c d d.rowPitch (max rows 1) 1 false

/-- The entries recorded for the lanes of a cord, in lane order. -/
def lanesOf (k : Cord) : List LqRec :=
  k.lanes.mapIdx fun j l => { row := j, idx := l.idx, ctx := l.ctx, trunc := false, err := false }

namespace State

/-- CORD_TAKE (R227): the cord of the most recent cord point of the queue in this flash, at or before the issue; an empty one where
there is none. -/
def takeCord (s : State) (p c off : Nat) (q : QWord) : State :=
  let n := wQ q.word
  let k : Cord :=
    match (s.que p n).cord with
    | some k => if k.rfn == q.rfn && (k.off ≤ off || q.rfn.toNat < s.curRfn p) then k else { rfn := q.rfn, off := off, lanes := [] }
    | none => { rfn := q.rfn, off := off, lanes := [] }
  s.updCx c fun x => { x with cords := x.cords.set n k, lq := x.lq.set n (lanesOf k) }

/-- The plain entries that an IN_READ of flash f takes: deadline f, in time, in index order, at most `n` (R224). -/
def plainTake (x : QueueX) (f n : Nat) : List InEnt :=
  let h := fld x.head 31 0
  (sortBy (fun a b => ahead a.idx h ≤ ahead b.idx h) (x.ents.filter fun e => e.inTime && e.dl.toNat == f)).take n

/-- The payload of an entry of queue d, `n` bytes of it, or none where the access fails (R486). DEDUCED: log entry 37. -/
def payload (s : State) (c : Nat) (d : QueueDecl) (idx n : Nat) : Option (List Byte) × State :=
  if s.portLate (.queue c) (d.entryDa idx + 32) n then (none, s)
  else match s.readDa (.queue c) (d.entryDa idx + 32) n with
  | (.ok b, t) => (some b, t)
  | (.error _, t) => (none, t)

/-- The flags of R200 of a context against a step-start RFN. DESIGN CHOICE: log entry 38. -/
def statusFlags (s : State) (key : List Nat) (c ctx start : Nat) : Nat × State :=
  let a := fld (s.core c R.pgwCstatBase) 47 0 + 16 * ctx
  let lost : Nat :=
    (if Config.statusFlag (key ++ [ctx, 0]) then flKvFull else 0) + (if Config.statusFlag (key ++ [ctx, 1]) then flAttnSkipped else 0)
  if s.portLate (.queue c) a 16 then (lost, s)
  else match s.readDa (.queue c) a 16 with
    | (.ok b, t) => ((if start < leAt b 0 8 then flKvFull else 0) + (if start < leAt b 8 8 then flAttnSkipped else 0), t)
    | (.error _, t) => (lost, t)

/-- The accesses of core c's queue-port word are over, those that came too late among them. DESIGN CHOICE: log entry 35. -/
def portDone (s : State) (c : Nat) : State :=
  if (s.cxOf c).late = [] then s else s.updCx c fun x => { x with late := [] }

end State

/-- Row j of an IN_READ: at most `LEN`, the entry's room and the row length of an entry's payload, then +0; what is recorded of the
entry (R227, R228, R486). -/
def readRowIn (p c q : Nat) (qd : QueueDecl) (d : Desc) (j len : Nat) (r : Option LqRec) : Acc (Option LqRec) := do
  let n := min len (min (qd.esize - 32) d.rowPitch)
  let (b, out) ← match r with
    | none => pure ([], none)
    | some e => do
      let s ← get
      let (b, t) := s.payload c qd e.idx n
      let cut := decide (n < len)
      set (if cut then t.queFlag p q 3 else t)
      pure (b.getD [], some { e with trunc := cut, err := b.isNone })
  wr (.queue c) (rowDa d 0 j) (b ++ zeros (d.rowPitch - b.length))
  return out

/-- IN_READ (R224, R227, R228, R486). DEDUCED: log entry 37. -/
def inReadWork (c p : Nat) (w : QWord) : Acc Unit := do
  let q := wQ w.word
  let s ← get
  match s.queDecl? p q with
  | none => return
  | some qd =>
    if !qd.input then return
    let d ← readDesc c (wQDesc w.word)
    if !rowsFit c d (if qd.cordKind then 32 else wMax w.word) then modify (·.descErr c)
    else if qd.cordKind then
      let lanes := match (s.cxOf c).cords.find? q with
        | some k => k.lanes
        | none => []
      let recs ← (List.range 32).mapM fun j => match lanes[j]? with
        | some l => readRowIn p c q qd d j l.len (some { row := j, idx := l.idx, ctx := l.ctx, trunc := false, err := false })
        | none => readRowIn p c q qd d j 0 none
      modify fun t => t.updCx c fun x => { x with lq := x.lq.set q (recs.filterMap id) }
    else
      let es := State.plainTake (s.que p q) w.rfn.toNat (wMax w.word)
      modify fun t => t.updQue p q fun x => State.settle x es
      let recs ← es.zipIdx.mapM fun e =>
        readRowIn p c q qd d e.2 e.1.len (some { row := e.2, idx := e.1.idx, ctx := e.1.ctx, trunc := false, err := false })
      modify fun t => t.updCx c fun x => { x with lq := x.lq.set q (recs.filterMap id) }

/-- One entry of an OUT_WRITE, from its row, in the RFN of its word (R58, R221, R226, R229). `LEN` is the row length; bytes of a row that
the entry has no room for are not written (log entry 37). -/
def outRow (c p : Nat) (w : QWord) (q : Nat) (qd : QueueDecl) (d : Desc) (r : LqRec) : Acc Unit := do
  let n := min d.rowPitch (qd.esize - 32)
  let b ← rd (.queue c) (rowDa d 0 r.row) n
  let s ← get
  let rfn := w.rfn.toNat
  if qd.kind = 2 then set (s.putIn (.queue c) p q qd r.ctx rfn (rfn + wDdl w.word) b)
  else
    let (fl, t) := if wOne w.word then (0, s) else s.statusFlags (s.runKey p c w) c r.ctx (rfn - wSback w.word)
    let fl := fl + (if r.trunc then flInputTrunc else 0) + (if r.err then flInputErr else 0)
    set (t.putOut (.queue c) p q qd (wOkind w.word) r.ctx rfn fl d.rowPitch r.idx b)

/-- OUT_WRITE (R226, R229, R231). DEDUCED: log entry 37. -/
def outWriteWork (c p : Nat) (w : QWord) : Acc Unit := do
  let q := wQ w.word
  let s ← get
  match s.queDecl? p q with
  | none => return
  | some qd =>
    if qd.kind < 2 then return
    let recs := if wOne w.word then [{ row := 0, idx := 0, ctx := 0, trunc := false, err := false : LqRec }]
      else (s.cxOf c).lq.get [] (wLq w.word)
    let cord := !wOne w.word && match s.queDecl? p (wLq w.word) with
      | some l => l.cordKind
      | none => false
    let d ← readDesc c (wQDesc w.word)
    if rowsFit c d (if cord then 32 else recs.length) then recs.forM fun r => outRow c p w q qd d r
    else modify (·.descErr c)

/-- `CORD_TAKE` (R227). -/
def execCordTake (core : Core) (off : Nat) (s : State) : Host.Outcome State Fault Refusal :=
  s.coreDone (s.unitIssue core.val off .que 6 1 fun p q => modify fun t => t.takeCord p core.val off q)

/-- `IN_READ` (R227, R228). -/
def execInRead (core : Core) (off : Nat) (s : State) : Host.Outcome State Fault Refusal :=
  s.coreDone (s.unitIssue core.val off .que 6 2 fun p q => do inReadWork core.val p q; modify (·.portDone core.val))

/-- `OUT_WRITE` (R229). -/
def execOutWrite (core : Core) (off : Nat) (s : State) : Host.Outcome State Fault Refusal :=
  s.coreDone (s.unitIssue core.val off .que 6 3 fun p q => do outWriteWork core.val p q; modify (·.portDone core.val))

end Sys2Proof.Machine
end

