-- ==== Sys2Proof/Machine/Vector.lean ====
section
/-!
DEFINITION. The vector engine (R145-R149, R84, R87, R89-R91, R134): its operands, their widening, the row functions, the special
functions, and its 29 operations. Arithmetic events are counted for every arithmetic step of a definition (R65, R109).
-/

namespace Sys2Proof.Machine

/-! ### Counted FP32 arithmetic -/

/-- A computation with the events counted on its way. DEDUCED: log entry 27. -/
abbrev CountM := StateM Tally

/-- Events counted. -/
def note (t : Tally) : CountM Unit := modify (tallyAdd · t)

/-- The exact result of operands `xs`; a NaN that none of them is, is counted (R62, R65). -/
def exactOp (e : Num) (xs : List Num) : CountM Num := do
  note (tallyNan (e.isNan && !xs.any Num.isNan))
  return e

/-- A rounding into FP32 or FP64 at nearest-even, counted. DEDUCED: log entry 28. -/
def roundTo (f : Fmt) (e : Num) : CountM Num := do
  let r := f.round .nearest 0 e
  note (tallyOf r false)
  return f.decode r.code

/-- An FP32 operation at nearest-even. -/
def op32 (e : Num) (xs : List Num) : CountM Num := do roundTo .fp32 (← exactOp e xs)

def add32c (x y : Num) : CountM Num := op32 (x.add y) [x, y]
def sub32c (x y : Num) : CountM Num := op32 (x.sub y) [x, y]
def mul32c (x y : Num) : CountM Num := op32 (x.mul y) [x, y]
def fma32c (x y z : Num) : CountM Num := op32 ((x.mul y).add z) [x, y, z]

/-- MAX and MIN of R146. -/
def maxNum (x y : Num) : Num :=
  if x.isNan || y.isNan then .nan
  else if x.isZero && y.isZero then (if x.isNeg then y else x)
  else if x.lt y then y else x

def minNum (x y : Num) : Num :=
  if x.isNan || y.isNan then .nan
  else if x.isZero && y.isZero then (if x.isNeg then x else y)
  else if y.lt x then y else x

/-! ### Special functions (R149) -/

/-- The largest n below 2^k with n² at most a. -/
def isqrt (a : Nat) : Nat → Nat → Nat
  | 0, r => r
  | k + 1, r => let t := r + 2 ^ k; isqrt a k (if t * t ≤ a then t else r)

/-- 1 / m × 2^-e with a bit below that says whether the quotient is exact: it rounds as the exact value does. -/
def recipNum (neg : Bool) (m : Nat) (e : Int) : Num :=
  .fin neg (2 ^ 160 / m * 2 + (if 2 ^ 160 % m = 0 then 0 else 1)) (-161 - e)

/-- RCP, correctly rounded. -/
def rcp32 (x : Num) : CountM Num :=
  match x with
  | .nan => return .nan
  | .inf n => return .fin n 0 0
  | .fin n m e => if m = 0 then do note { inf := 1 }; return .inf n else roundTo .fp32 (recipNum n m e)

/-- RSQRT, correctly rounded. -/
def rsqrt32 (x : Num) : CountM Num :=
  match x with
  | .nan => return .nan
  | .inf n => if n then exactOp .nan [x] else return Num.zero
  | .fin n m e =>
    if m = 0 then do note { inf := 1 }; return .inf n
    else if n then exactOp .nan [x]
    else
      let (m, e) := if e % 2 = 0 then (m, e) else (m * 2, e - 1)
      let r := isqrt (2 ^ 160 / m) 82 0
      roundTo .fp32 (.fin false (r * 2 + (if r * r * m = 2 ^ 160 then 0 else 1)) (-81 - e / 2))

/-- ln 2 × 2^256, its fraction dropped. -/
def ln2Fix : Nat := 80260960185991308862233904206310070533990667611589946606122867505419956976171

/-- The sum of r^i / i! over `n` terms from i on, in units of 2^-256. -/
def expSeries (r : Nat) : Nat → Nat → Nat → Nat
  | 0, _, _ => 0
  | n + 1, i, t => t + expSeries r n (i + 1) (t * r / (2 ^ 256 * i))

/-- e^x, from below, to more than 200 bits. -/
def expNum (neg : Bool) (m : Nat) (e : Int) : Num :=
  let x := Num.mantAt neg m e (-256)
  let k := x / ln2Fix
  .fin false (expSeries (x % ln2Fix).toNat 64 1 (2 ^ 256)) (k - 256)

/-- EXP: the result lies within 1 unit in the last place; which of the two neighbours it is, is not published. -/
def exp32 (x : Num) : CountM Num :=
  match x with
  | .nan => return .nan
  | .inf n => return (if n then Num.zero else .inf false)
  | .fin n m e =>
    let tooLarge : CountM Num := do note { inf := 1 }; return .inf false
    let code := (Fmt.round .fp32 .nearest 0 x).code
    let up := (Config.expUp code).toNat
    if !n && !(x.lt (.fin false 128 0)) then tooLarge
    else if n && x.lt (.fin true 128 0) then return Fmt.decode .fp32 up
    else
      let y := expNum n m e
      if Num.lt (Fmt.largest .fp32) y then tooLarge
      else return Fmt.decode .fp32 ((Fmt.round .fp32 .zero 0 y).code + up)

/-- The segment of ACT: floor of rne((x - LO) × SCALE), clamped; `free` where that is NaN. DEDUCED: log entry 28. -/
def actSegOf (v : Num) (free : Nat) : Nat :=
  match v with
  | .nan => free % 64
  | .inf n => if n then 0 else 63
  | .fin n m e => if n then 0 else min 63 (roundMag .zero 0 m e 0)

/-- ACT with a table: LO, SCALE and 64 triples c0, c1, c2. DESIGN CHOICE: log entry 120. -/
def act32 (table : List (BitVec 32)) (x : Num) : CountM Num := do
  let at_ (i : Nat) : Num := Fmt.decode .fp32 (table.getD i 0).toNat
  let v := Fmt.roundNum .fp32 .nearest 0 ((x.sub (at_ 0)).mul (at_ 1))
  let k := 2 + 3 * actSegOf v (Config.actSegment (Fmt.round .fp32 .nearest 0 x).code)
  fma32c (← fma32c (at_ (k + 2)) x (at_ (k + 1))) x (at_ k)

/-! ### Row functions -/

/-- The binary tree over a list, neighbours pairwise, level by level (R147). -/
def treeLevel (f : Num → Num → CountM Num) : List Num → CountM (List Num)
  | a :: b :: l => return (← f a b) :: (← treeLevel f l)
  | l => return l

/-- The lanes of R147: lane l takes the elements l, l + 64, and so on; then six levels of the tree. -/
def laneReduce (init : Num) (f : Num → Num → CountM Num) (xs : List Num) : CountM Num := do
  let rows := chunks 64 xs
  let lanes ← (List.range 64).mapM fun l => (rows.filterMap fun r => r[l]?).foldlM f init
  let out ← (List.range 6).foldlM (fun v _ => treeLevel f v) lanes
  return out.headD init

/-- RSUM and RMAX (R147). -/
def rsum (xs : List Num) : CountM Num := laneReduce Num.zero add32c xs
def rmax (xs : List Num) : CountM Num := laneReduce (.inf true) (fun x y => return maxNum x y) xs

/-- The FP32 reciprocal of a count (R146). -/
def recipOf (n : Nat) : Num := Fmt.roundNum .fp32 .nearest 0 (recipNum false n 0)

/-- SOFTMAX of a row: y, and the pair (m, s) (R146). DEDUCED: log entry 29. -/
def softmaxRow (xs : List Num) : CountM (List Num × List Num) := do
  let m ← rmax xs
  let es ← xs.mapM fun x => do exp32 (← sub32c x m)
  let s ← rsum es
  let r ← rcp32 s
  return (← es.mapM (mul32c · r), [m, s])

/-- RSQRT of the mean square of a row and 2^-IMM (R146). -/
def rootMean (imm : Nat) (xs : List Num) : CountM Num := do
  let s ← rsum (← xs.mapM fun x => mul32c x x)
  rsqrt32 (← add32c (← mul32c s (recipOf xs.length)) (.fin false 1 (-(imm : Int))))

/-- RMSNORM of a row (R146). DEDUCED: log entry 29. -/
def rmsRow (imm : Nat) (xs g : List Num) : CountM (List Num) := do
  let r ← rootMean imm xs
  (xs.zip g).mapM fun p => do mul32c (← mul32c p.1 r) p.2

/-- LAYERNORM of a row (R146). DEDUCED: log entry 29. -/
def layerRow (imm : Nat) (xs g b : List Num) : CountM (List Num) := do
  let mu ← mul32c (← rsum xs) (recipOf xs.length)
  let ds ← xs.mapM (sub32c · mu)
  let r ← rootMean imm ds
  (ds.zip (g.zip b)).mapM fun p => do add32c (← mul32c (← mul32c p.1 r) p.2.1) p.2.2

/-- ROPE of a row (R146); `odd` is what becomes of an element without a partner. -/
def ropeRow (odd : Num) : List Num → List Num → CountM (List Num)
  | x0 :: x1 :: xs, c :: s :: cs => do
    let t ← mul32c x1 s
    let y0 ← fma32c x0 c t.neg
    let u ← mul32c x1 c
    let y1 ← fma32c x0 s u
    return y0 :: y1 :: (← ropeRow odd xs cs)
  | _ :: _, _ => return [odd]
  | [], _ => return []

/-- The first `n` BF16 pieces of a value (R84). -/
def splitPieces : Nat → Num → CountM (List Num)
  | 0, _ => return []
  | n + 1, a => do
    let p ← roundTo .bf16 a
    let rest ← if n = 0 then pure a else exactOp (a.sub p) [a, p]
    return p :: (← splitPieces n rest)

/-! ### Operands of a VEC word (R145, R146) -/

/-- A VEC word with the descriptors it uses. -/
structure VecOp where
  w    : BitVec 128
  rows : Nat
  cols : Nat
  imm  : Nat
  /-- S1, S2, S3, DST. -/
  ds   : List Desc
  deriving DecidableEq, Repr

/-- Operand k: 0 S1, 1 S2, 2 S3, 3 DST. -/
def VecOp.d (o : VecOp) (k : Nat) : Desc := o.ds.getD k (parseDesc 0)

/-- Its format, where its code names one. -/
def VecOp.f (o : VecOp) (k : Nat) : Fmt := (fmtOf (o.d k).fmt).getD .fp32

/-- What an operand enumerates. -/
inductive Shape where
  /-- ROWS × COLS elements in n planes. -/
  | full (planes : Nat)
  /-- One element a row. -/
  | column
  /-- An FP32 pair a row. -/
  | pairs
  /-- Two-byte exponents, one a row or one a column. -/
  | exps (perRow : Bool)
  deriving DecidableEq, Repr

/-- The operands of an operation and their shapes (R146). S2 is a single column where bit 0 of `IMM` says so. -/
def vecUses (opc imm : Nat) : List (Nat × Shape) :=
  let one := imm.testBit 0
  let s2 := if one then Shape.column else .full 1
  match opc with
  | 0x01 | 0x02 => [(0, .full 1), (1, s2), (3, .full 1)]
  | 0x03 => [(0, .full 1), (1, s2), (2, .full 1), (3, .full 1)]
  | 0x04 | 0x05 | 0x1B | 0x20 | 0x2C | 0x30 | 0x31 => [(0, .full 1), (1, .full 1), (3, .full 1)]
  | 0x1C | 0x32 => [(0, .full 1), (1, .full 1), (2, .full 1), (3, .full 1)]
  | 0x18 | 0x19 => [(0, .full 1), (3, .column)]
  | 0x1A => [(0, .full 1), (3, .full 1)] ++ (if one then [(2, .pairs)] else [])
  | 0x28 => [(0, .full 1), (3, .full 2)]
  | 0x29 => [(0, .full 1), (3, .full 3)]
  | 0x2A => [(0, .full 1), (2, .exps (!one)), (3, .full 7)]
  | 0x2B => [(0, .full 7), (1, .exps true), (2, .exps false), (3, .full 1)]
  | 0x38 => [(0, .full 1)]
  | _ => [(0, .full 1), (3, .full 1)]

/-- Operand k of an operation is written (R146). -/
def vecWrites (opc k : Nat) : Bool := k == 3 || (k == 2 && (opc == 0x1A || opc == 0x2A))

/-- The operand of the given shape fits R134. -/
def VecOp.fits (c : Nat) (o : VecOp) (opc : Nat) (u : Nat × Shape) : Bool :=
  let d := o.d u.1; let so := vecWrites opc u.1
  match u.2 with
  | .full n => descPlain d && descFits c d (o.f u.1) .row o.rows (if so then padCols (o.f u.1) o.cols else o.cols) n so
  | .column => descPlain d && descFits c d (o.f u.1) .row o.rows 1 1 so
  | .pairs => descPlain d && spanFits c d 8 o.rows 1 so
  | .exps true => d.type == 0 && !d.rsv && spanFits c d 2 o.rows 1 so
  | .exps false => d.type == 0 && !d.rsv && spanFits c d (2 * o.cols) 1 1 so

/-- The operation accepts the formats named (R146). -/
def VecOp.accepts (o : VecOp) (opc : Nat) : Bool :=
  match opc with
  | 0x06 => true
  | 0x07 => (o.f 3).scaled
  | 0x08 => (o.f 0).scaled && !(o.f 3).scaled
  | 0x28 | 0x29 => o.f 3 == .bf16
  | 0x2A => o.f 0 == .fp64 && o.f 3 == .int8
  | 0x2B => o.f 0 == .int48 && o.f 3 == .fp64
  | 0x2C => o.f 0 == .int48 && o.f 1 == .int48 && o.f 3 == .int48
  | 0x38 => o.f 0 == .fp32
  | _ => !(o.f 3).scaled

/-- The descriptors that a word uses, read from the table; others are not consulted (R133). -/
def vecLook (c : Nat) (w : BitVec 128) : Acc VecOp := do
  let uses := vecUses (wOpc w) (wbits w 71 64)
  let ds ← (List.range 4).mapM fun k =>
    if uses.any (·.1 == k) then readDesc c (wbits w (35 - 9 * k) (27 - 9 * k)) else pure (parseDesc 0)
  return { w := w, rows := wbits w 59 48 + 1, cols := wbits w 47 36 + 1, imm := wbits w 71 64, ds := ds }

/-! ### Reading and writing -/

/-- A counted computation of core c's vector engine. DEDUCED: log entry 27. -/
def tallied (c : Nat) (x : CountM α) : Acc α := do
  let (a, t) := x.run {}
  modify (·.noteVec c t)
  return a

/-- Row r of operand k, widened (R145). -/
def vecRow (c : Nat) (o : VecOp) (wide : Option Fmt) (r k cols : Nat) : Acc (List Num) := do
  let xs ← readVals (.vec c) (o.d k) (o.f k) 0 r cols
  match wide with
  | some f => tallied c (xs.mapM (roundTo f))
  | none => return xs

/-- Every row of the operands `ks`, a single column spread over its row. DEDUCED: log entry 31. -/
def vecRows (c : Nat) (o : VecOp) (wide : Option Fmt) (ks : List Nat) : Acc (List (List (List Num))) :=
  (List.range o.rows).mapM fun r => ks.mapM fun k => do
    if (vecUses (wOpc o.w) o.imm).contains (k, .column) then
      return List.replicate o.cols ((← vecRow c o wide r k 1).headD Num.zero)
    else vecRow c o wide r k o.cols

/-- Rows of results written to DST: each element converted by `RND` from the computed format `comp`, with one draw (R77, R80). -/
def vecOut (p c : Nat) (q : QWord) (o : VecOp) (comp : Fmt) (m : List (List Num)) : Acc Unit := do
  let f := o.f 3
  let cols := (m.headD []).length
  let s ← get
  let (rs, t) := s.takeDraws p c (m.length * cols) q
  set t
  (m.zip (chunks cols rs)).zipIdx.forM fun x => do
    let out := (x.1.1.zip x.1.2).map fun e => f.round ((wRound o.w).into comp f) e.2 e.1
    modify (·.noteVec c (tallySum (out.map (tallyOf · false))))
    writeRow (.vec c) (o.d 3) f 0 x.2 (out.map (·.code))

/-- Rows quantised into the block-scaled format of DST, block by block of a row; the last block of a row is padded with +0
elements, which are stored (R71-R73, R80). DEDUCED: log entry 99. -/
def vecQuantOut (p c : Nat) (q : QWord) (o : VecOp) (m : List (List Num)) : Acc Unit := do
  let f := o.f 3
  let s ← get
  let (rs, t) := s.takeDraws p c (o.rows * o.cols) q
  set t
  (m.zip (chunks o.cols rs)).zipIdx.forM fun x => do
    let bs := ((chunks 32 x.1.1).zip (chunks 32 x.1.2)).map fun b => quantBlock (o.f 0) f (wRound o.w) b.2 b.1
    modify (·.noteVec c (tallySum (bs.flatMap fun b => b.2.map (tallyOf · false))))
    let codes := bs.flatMap fun b => b.2.map (·.code)
    writeRow (.vec c) (o.d 3) f 0 x.2 (codes ++ List.replicate (padCols f o.cols - codes.length) 0)
    writeScales (.vec c) (o.d 3) x.2 (bs.map (·.1))

/-- An operation that works row by row: `f` gives a row of results from the rows of its operands. -/
def vecMap (ks : List Nat) (wide : Fmt) (f : List (List Num) → CountM (List Num)) (p c : Nat) (q : QWord) (o : VecOp) : Acc Unit := do
  let rows ← vecRows c o (some wide) ks
  let ys ← rows.mapM fun r => tallied c (f r)
  vecOut p c q o wide ys

/-- A row function of one operand. -/
def onRow (f : List Num → CountM (List Num)) (r : List (List Num)) : CountM (List Num) := f (r.headD [])

/-- An exact operation on two or three operands, element by element (R145). -/
def zip2 (f : Num → Num → Num) (r : List (List Num)) : CountM (List Num) :=
  ((r.getD 0 []).zip (r.getD 1 [])).mapM fun x => exactOp (f x.1 x.2) [x.1, x.2]

def zip3 (f : Num → Num → Num → Num) (r : List (List Num)) : CountM (List Num) :=
  ((r.getD 0 []).zip ((r.getD 1 []).zip (r.getD 2 []))).mapM fun x => exactOp (f x.1 x.2.1 x.2.2) [x.1, x.2.1, x.2.2]

/-- CVT and QUANT (R145, R146): CVT converts the exact source values. DEDUCED: log entry 28. -/
def vecConvert (wide : Option Fmt) (p c : Nat) (q : QWord) (o : VecOp) : Acc Unit := do
  let rows ← vecRows c o wide [0]
  let m := rows.map (·.headD [])
  if (o.f 3).scaled then vecQuantOut p c q o m else vecOut p c q o (o.f 0) m

/-- SOFTMAX (R146). DESIGN CHOICE: log entry 117. -/
def vecSoftmaxWork (p c : Nat) (q : QWord) (o : VecOp) : Acc Unit := do
  let rows ← vecRows c o (some .fp32) [0]
  let ys ← rows.mapM fun r => tallied c (softmaxRow (r.headD []))
  vecOut p c q o .fp32 (ys.map (·.1))
  if o.imm.testBit 0 then
    ys.zipIdx.forM fun y =>
      wr (.vec c) (rowDa (o.d 2) 0 y.2) (y.1.2.flatMap fun x => leBytes 4 (Fmt.round .fp32 .nearest 0 x).code)

/-- SPLIT2 and SPLIT3 (R84): n pieces into n planes. -/
def vecSplit (n : Nat) (_ c : Nat) (_ : QWord) (o : VecOp) : Acc Unit := do
  let rows ← vecRows c o (some .fp32) [0]
  rows.zipIdx.forM fun x => do
    let ps ← tallied c ((x.1.headD []).mapM (splitPieces n))
    (List.range n).forM fun i =>
      writeRow (.vec c) (o.d 3) .bf16 i x.2 (ps.map fun l => (Fmt.round .bf16 .nearest 0 (l.getD i Num.zero)).code)

/-- A list of rows turned: its columns. -/
def transposed (cols : Nat) (m : List (List Num)) : List (List Num) :=
  (List.range cols).map fun j => m.map fun r => r.getD j Num.zero

/-- The exponent and the digits of one row or column (R87, R91). -/
def d7Slice (xs : List Num) : Int × List (List Int) :=
  if xs.any fun x => match x with | .fin _ _ _ => false | _ => true then (d7Mark, xs.map fun _ => List.replicate 7 0)
  else
    let ea := d7Exp (xs.foldl (fun a x => maxAbs a x.abs) Num.zero)
    (ea, xs.map (d7Digits ea))

/-- D7SLICE (R87, R146). -/
def vecD7sliceWork (_ c : Nat) (_ : QWord) (o : VecOp) : Acc Unit := do
  let byCol := o.imm.testBit 0
  let m := (← vecRows c o none [0]).map (·.headD [])
  let slices := (if byCol then transposed o.cols m else m).map d7Slice
  let digit (i r col : Nat) : Int :=
    let (a, b) := if byCol then (col, r) else (r, col)
    ((((slices.map (·.2)).getD a []).getD b []).getD i 0)
  (List.range 7).forM fun i => (List.range o.rows).forM fun r =>
    writeRow (.vec c) (o.d 3) .int8 i r ((List.range o.cols).map fun col => unsigned 8 (digit i r col))
  slices.zipIdx.forM fun s =>
    wr (.vec c) (if byCol then (o.d 2).base + 2 * s.2 else rowDa (o.d 2) 0 s.2) (leBytes 2 (unsigned 16 s.1.1))

/-- A two-byte exponent. DEDUCED: log entry 31. -/
def readExp (c da : Nat) : Acc Int := do return signed 16 (leNat (← rd (.vec c) da 2))

/-- D7FINISH (R89, R91, R146). Its operands are integers, none of them a NaN: each NaN it writes for a mark counts (R65).
DESIGN CHOICE: log entry 97. -/
def vecD7finishWork (_ c : Nat) (_ : QWord) (o : VecOp) : Acc Unit := do
  let ebs ← (List.range o.cols).mapM fun n => readExp c ((o.d 2).base + 2 * n)
  let rows ← (List.range o.rows).mapM fun r => do
    let ea ← readExp c (rowDa (o.d 1) 0 r)
    let ps ← (List.range 7).mapM fun i => readRow (.vec c) (o.d 0) .int48 i r o.cols
    return ebs.mapIdx fun n eb => d7Finish (ps.map fun l => signed 48 (l.getD n 0)) ea eb
  rows.zipIdx.forM fun x => do
    modify (·.noteVec c (tallySum (x.1.map fun r => tallyOf r (r.code == Fmt.nanCode .fp64))))
    writeRow (.vec c) (o.d 3) .fp64 0 x.2 (x.1.map (·.code))

/-- IADD48 (R146). -/
def vecIadd48Work (p c : Nat) (q : QWord) (o : VecOp) : Acc Unit := do
  let rows ← vecRows c o none [0, 1]
  vecOut p c q o .int48 (rows.map fun r => ((r.getD 0 []).zip (r.getD 1 [])).map fun x => x.1.add x.2)

/-- What becomes of an element without a partner: a free value of the row's operands. DESIGN CHOICE: log entry 30. -/
def ropeLast (xs cs : List Num) : Num :=
  Fmt.decode .fp32 (Config.ropeOdd ((xs ++ cs).map fun x => (Fmt.round .fp32 .nearest 0 x).code)).toNat

/-- ROPE (R146). DEDUCED: log entry 29. -/
def vecRopeWork : Nat → Nat → QWord → VecOp → Acc Unit :=
  vecMap [0, 1] .fp32 fun r => ropeRow (ropeLast (r.getD 0 []) (r.getD 1 [])) (r.getD 0 []) (r.getD 1 [])

/-- ACT: with the table loaded last (R149). -/
def vecActWork (p c : Nat) (q : QWord) (o : VecOp) : Acc Unit := do
  let s ← get
  vecMap [0] .fp32 (onRow (·.mapM (act32 (s.cxOf c).act))) p c q o

/-- ACTLOAD: the elements of S1, in order, replace the table from its start (R149). DEDUCED: log entry 31. -/
def vecActloadWork (_ c : Nat) (_ : QWord) (o : VecOp) : Acc Unit := do
  let cs ← (List.range o.rows).mapM fun r => readRow (.vec c) (o.d 0) .fp32 0 r o.cols
  let new := (cs.flatten.take 194).map (BitVec.ofNat 32 ·)
  modify fun s => s.updCx c fun x => { x with act := new ++ x.act.drop new.length }

namespace State

/-- A vector, check, queue or stream operation that performs no work (R134). -/
def vecReject (s : State) (c : Nat) : State := (s.descErr c).updCore c R.vecSts fun w => setBit w 8 true

/-- The VEC word of opcode `opc` issues, and works as `work` says where its operands are fit (R134, R145).
DESIGN CHOICE: log entry 20. -/
def vecIssue (s : State) (c off opc : Nat) (work : Nat → Nat → QWord → VecOp → Acc Unit) : State :=
  s.unitIssue c off .vec 2 opc fun p q => do
    let o ← vecLook c q.word
    if o.accepts opc && (vecUses opc o.imm).all (o.fits c opc) then work p c q o else modify (·.vecReject c)

end State

/-- `ADD` (R146). -/
def execVecAdd (core : Core) (off : Nat) (s : State) : Host.Outcome State Fault Refusal :=
  s.coreDone (s.vecIssue core.val off 0x01 (vecMap [0, 1] .fp32 (zip2 Num.add)))

/-- `MUL` (R146). -/
def execVecMul (core : Core) (off : Nat) (s : State) : Host.Outcome State Fault Refusal :=
  s.coreDone (s.vecIssue core.val off 0x02 (vecMap [0, 1] .fp32 (zip2 Num.mul)))

/-- `FMA` (R146). -/
def execVecFma (core : Core) (off : Nat) (s : State) : Host.Outcome State Fault Refusal :=
  s.coreDone (s.vecIssue core.val off 0x03 (vecMap [0, 1, 2] .fp32 (zip3 fun x y z => (x.mul y).add z)))

/-- `MAX` (R146). -/
def execVecMax (core : Core) (off : Nat) (s : State) : Host.Outcome State Fault Refusal :=
  s.coreDone (s.vecIssue core.val off 0x04 (vecMap [0, 1] .fp32 (zip2 maxNum)))

/-- `MIN` (R146). -/
def execVecMin (core : Core) (off : Nat) (s : State) : Host.Outcome State Fault Refusal :=
  s.coreDone (s.vecIssue core.val off 0x05 (vecMap [0, 1] .fp32 (zip2 minNum)))

/-- `CVT` (R146). -/
def execVecCvt (core : Core) (off : Nat) (s : State) : Host.Outcome State Fault Refusal :=
  s.coreDone (s.vecIssue core.val off 0x06 (vecConvert none))

/-- `QUANT` (R146). -/
def execVecQuant (core : Core) (off : Nat) (s : State) : Host.Outcome State Fault Refusal :=
  s.coreDone (s.vecIssue core.val off 0x07 (vecConvert (some .fp32)))

/-- `DEQUANT` (R146). -/
def execVecDequant (core : Core) (off : Nat) (s : State) : Host.Outcome State Fault Refusal :=
  s.coreDone (s.vecIssue core.val off 0x08 (vecConvert none))

/-- `EXP` (R149). -/
def execVecExp (core : Core) (off : Nat) (s : State) : Host.Outcome State Fault Refusal :=
  s.coreDone (s.vecIssue core.val off 0x10 (vecMap [0] .fp32 (onRow (·.mapM exp32))))

/-- `RCP` (R149). -/
def execVecRcp (core : Core) (off : Nat) (s : State) : Host.Outcome State Fault Refusal :=
  s.coreDone (s.vecIssue core.val off 0x11 (vecMap [0] .fp32 (onRow (·.mapM rcp32))))

/-- `RSQRT` (R149). -/
def execVecRsqrt (core : Core) (off : Nat) (s : State) : Host.Outcome State Fault Refusal :=
  s.coreDone (s.vecIssue core.val off 0x12 (vecMap [0] .fp32 (onRow (·.mapM rsqrt32))))

/-- `ACT` (R149). -/
def execVecAct (core : Core) (off : Nat) (s : State) : Host.Outcome State Fault Refusal :=
  s.coreDone (s.vecIssue core.val off 0x13 vecActWork)

/-- `RMAX` (R147). -/
def execVecRmax (core : Core) (off : Nat) (s : State) : Host.Outcome State Fault Refusal :=
  s.coreDone (s.vecIssue core.val off 0x18 (vecMap [0] .fp32 (onRow fun xs => return [← rmax xs])))

/-- `RSUM` (R147). -/
def execVecRsum (core : Core) (off : Nat) (s : State) : Host.Outcome State Fault Refusal :=
  s.coreDone (s.vecIssue core.val off 0x19 (vecMap [0] .fp32 (onRow fun xs => return [← rsum xs])))

/-- `SOFTMAX` (R146). -/
def execVecSoftmax (core : Core) (off : Nat) (s : State) : Host.Outcome State Fault Refusal :=
  s.coreDone (s.vecIssue core.val off 0x1A vecSoftmaxWork)

/-- `RMSNORM` (R146). -/
def execVecRmsnorm (core : Core) (off : Nat) (s : State) : Host.Outcome State Fault Refusal :=
  s.coreDone (s.vecIssue core.val off 0x1B fun p c q o =>
    vecMap [0, 1] .fp32 (fun r => rmsRow o.imm (r.getD 0 []) (r.getD 1 [])) p c q o)

/-- `LAYERNORM` (R146). -/
def execVecLayernorm (core : Core) (off : Nat) (s : State) : Host.Outcome State Fault Refusal :=
  s.coreDone (s.vecIssue core.val off 0x1C fun p c q o =>
    vecMap [0, 1, 2] .fp32 (fun r => layerRow o.imm (r.getD 0 []) (r.getD 1 []) (r.getD 2 [])) p c q o)

/-- `ROPE` (R146). -/
def execVecRope (core : Core) (off : Nat) (s : State) : Host.Outcome State Fault Refusal :=
  s.coreDone (s.vecIssue core.val off 0x20 vecRopeWork)

/-- `SPLIT2` (R84). -/
def execVecSplit2 (core : Core) (off : Nat) (s : State) : Host.Outcome State Fault Refusal :=
  s.coreDone (s.vecIssue core.val off 0x28 (vecSplit 2))

/-- `SPLIT3` (R84). -/
def execVecSplit3 (core : Core) (off : Nat) (s : State) : Host.Outcome State Fault Refusal :=
  s.coreDone (s.vecIssue core.val off 0x29 (vecSplit 3))

/-- `D7SLICE` (R87). -/
def execVecD7slice (core : Core) (off : Nat) (s : State) : Host.Outcome State Fault Refusal :=
  s.coreDone (s.vecIssue core.val off 0x2A vecD7sliceWork)

/-- `D7FINISH` (R89). -/
def execVecD7finish (core : Core) (off : Nat) (s : State) : Host.Outcome State Fault Refusal :=
  s.coreDone (s.vecIssue core.val off 0x2B vecD7finishWork)

/-- `IADD48` (R146). -/
def execVecIadd48 (core : Core) (off : Nat) (s : State) : Host.Outcome State Fault Refusal :=
  s.coreDone (s.vecIssue core.val off 0x2C vecIadd48Work)

/-- `DADD` (R146). -/
def execVecDadd (core : Core) (off : Nat) (s : State) : Host.Outcome State Fault Refusal :=
  s.coreDone (s.vecIssue core.val off 0x30 (vecMap [0, 1] .fp64 (zip2 Num.add)))

/-- `DMUL` (R146). -/
def execVecDmul (core : Core) (off : Nat) (s : State) : Host.Outcome State Fault Refusal :=
  s.coreDone (s.vecIssue core.val off 0x31 (vecMap [0, 1] .fp64 (zip2 Num.mul)))

/-- `DFMA` (R146). -/
def execVecDfma (core : Core) (off : Nat) (s : State) : Host.Outcome State Fault Refusal :=
  s.coreDone (s.vecIssue core.val off 0x32 (vecMap [0, 1, 2] .fp64 (zip3 fun x y z => (x.mul y).add z)))

/-- `ACTLOAD` (R149). -/
def execVecActload (core : Core) (off : Nat) (s : State) : Host.Outcome State Fault Refusal :=
  s.coreDone (s.vecIssue core.val off 0x38 vecActloadWork)

end Sys2Proof.Machine
end

