-- ==== Sys2Proof/Machine/Walker.lean ====
section
/-!
DEFINITION. The page walker's words (R163-R193): walker lists, latching, skipped entries, the walker's halt; APPEND, ATTN, MERGE and
SCORES.
-/

namespace Sys2Proof.Machine

/-! ### Walker lists (R173) -/

/-- An entry of a walker list. -/
structure WEnt where
  ctx  : Nat
  lsrc : Bool
  lane : Nat
  ntok : Nat
  qrow : Nat
  orow : Nat
  cmax : Nat
  deriving DecidableEq, Repr

/-- A walker list. -/
structure WList where
  scale : Nat
  cq    : Nat
  cqEn  : Bool
  ents  : List WEnt
  /-- The error that ended the reading of the list; `ents` are those read before it. -/
  err   : Option AccErr
  deriving DecidableEq, Repr

/-- The entry that 16 bytes hold. -/
def parseEnt (n : Nat) : WEnt :=
  { ctx := bits n 127 116, lsrc := n.testBit 115, lane := bits n 114 110, ntok := bits n 109 105 + 1, qrow := bits n 104 93
    orow := bits n 92 81, cmax := bits n 80 65 }

/-- The first n entries of a list from `da` on, up to the first that cannot be read. -/
def readEnts (c : Nat) : Nat → Nat → Acc (List WEnt × Option AccErr)
  | 0, _ => return ([], none)
  | n + 1, da => do
    match ← tryAcc (rdAt (.walker c) da 16) with
    | .error e => return ([], some e)
    | .ok b =>
      let r ← readEnts c n (da + 16)
      return (parseEnt (leNat b) :: r.1, r.2)

/-- The walker list at `base`, `none` where that is no address of the window of the core's SRAM (R173); a part of the list beyond the end of
the SRAM is an address error like any other (R153, R176). -/
def readWalkList (c base : Nat) : Acc (Option WList) := do
  if !decide (sramOf c ≤ base ∧ base < sramOf c + 0x80_0000) then return none
  match ← tryAcc (rdAt (.walker c) base 16) with
  | .error e => return some { scale := 0, cq := 0, cqEn := false, ents := [], err := some e }
  | .ok b =>
    let h := leNat b
    let n := bits h 88 84 + 1
    let es ← readEnts c n (base + 16)
    return some { scale := bits h 127 96, cq := bits h 95 90, cqEn := h.testBit 89, ents := es.1, err := es.2 }

/-! ### Fields of the words (R178, R182, R192, R193) -/

def wSlot (w : BitVec 128) : Nat := wbits w 67 64
def wGq (w : BitVec 128) : Nat := wbits w 63 60 + 1
def wStat (w : BitVec 128) : Bool := w.getLsbD 23
def wNorm (w : BitVec 128) : Bool := w.getLsbD 22
def wSpan (w : BitVec 128) : Nat := wbits w 21 19 + 1

/-- Query rows that share a key-value head; APPEND has none. -/
def wShare (w : BitVec 128) : Nat := if wAttn w then wGq w else 1

/-! ### Latching and skipping (R174-R176) -/

/-- A context as a word latches it: its number and entry, its pages with their frames. -/
structure Latched where
  num   : Nat
  ctx   : Ctx
  pages : List (Page × Frame)
  deriving DecidableEq, Repr

/-- The pages of a context with their frames; a frame that is not IN_USE halts the walker (R176). -/
def latchPages (c : Nat) (x : Ctx) : Acc (List (Page × Frame)) :=
  (List.range x.npages).mapM fun i => do
    let p ← rdPage c x.list i
    let f ← rdFrame c p.frame
    if f.st = 2 then return (p, f) else throw (.frame (x.list + 8 * i))

/-- The next position of a list (R168). DEDUCED: log entry 39. -/
def nextPos (ps : List (Page × Frame)) : Nat :=
  match ps.getLast? with
  | none => 0
  | some p => p.1.pos + p.2.fill

/-- Chunks of a page: its token slots by 256 (R184). -/
def pageChunks (p : Page × Frame) : List (Nat × Nat) :=
  (List.range (cdiv p.2.fill 256)).map fun k => (256 * k, min 256 (p.2.fill - 256 * k))

/-- Chunks of a list, in page order. -/
def chunksOf (ps : List (Page × Frame)) : List ((Page × Frame) × (Nat × Nat)) :=
  ps.flatMap fun p => (pageChunks p).map fun k => (p, k)

/-- The context an entry names, by its field or by its lane; `none` for an unfilled lane (R173). -/
def entryCtx (s : State) (c : Nat) (l : WList) (e : WEnt) : Option Nat :=
  if e.lsrc && l.cqEn then
    match (s.cxOf c).cords.find? l.cq with
    | none => none
    | some k => (k.lanes[e.lane]?).map (·.ctx)
  else some e.ctx

/-- A skipped entry of a word of an RFN: its status words, counts and flags (R175, R200). `full` and `skip` say which words are updated.
DEDUCED: log entry 39. -/
def skipEntry (c x rfn : Nat) (full skip ctxErr listErr : Bool) : Acc Unit := do
  modify fun s =>
    let t := s.updCore c R.pgwEntCnt fun v => incFld v 63 32 1
    t.updCore c R.pgwSts fun v => setBit (setBit v 10 (bitAt v 10 || ctxErr)) 9 (bitAt v 9 || listErr)
  if full then statusMax c x 0 (rfn + 1)
  if skip then statusMax c x 1 (rfn + 1)

/-- What an entry latches; `none` where it is skipped, every effect of the cases of R175 that hold then done.
DEDUCED: log entry 39. DESIGN CHOICE: log entry 122. -/
def latchEntry (c rfn : Nat) (w : BitVec 128) (l : WList) (e : WEnt) : Acc (Option Latched) := do
  let s ← get
  match entryCtx s c l e with
  | none => return none
  | some n =>
    let x ← rdCtx c n
    let bad := 32 < e.ntok * wShare w || e.cmax == 0 || (e.lsrc && !l.cqEn)
    if x.st ≠ 1 then
      skipEntry c n rfn (x.st == 2) (x.st != 2 || bad) (x.st != 2) bad
      return none
    else
      let ps ← latchPages c x
      let tooMany := wAttn w && e.cmax < (chunksOf ps).length
      let bad := bad || (wAttn w && nextPos ps < e.ntok)
      if tooMany || bad then
        skipEntry c n rfn false true false bad
        return none
      else
        modify fun s => s.updCore c R.pgwEntCnt fun v => incFld v 31 0 1
        return some { num := n, ctx := x, pages := ps }

/-- The entries of a word in order: `serve` on each, `blank` on those that a halted walker cannot serve (R177).
DEDUCED: log entry 39. -/
def walkEntries (c : Nat) (serve blank : WEnt → Acc Unit) (es : List WEnt) (s : State) : State :=
  let fill (s : State) (e : WEnt) : State := (runAcc (blank e) s).2
  forEach es s fun t e =>
    if bitAt (t.core c R.pgwSts) 11 then fill t e
    else match runAcc (serve e) t with
      | (.ok _, u) => u
      | (.error x, u) => fill (u.walkerHalt c (errCause x) (errDa x)) e

/-! ### Draws -/

/-- The generator seeded for a word that rounds stochastically (R79). -/
def seedWord (p c : Nat) (q : QWord) : Acc Unit :=
  modify fun s => if wRound q.word = .stochastic then s.updCx c fun x => { x with gen := s.seedGen p c q } else s

/-- The next `n` draws of the word (R80). -/
def nextDraws (c n : Nat) (q : QWord) : Acc (List Nat) := ExceptT.mk fun s =>
  if wRound q.word = .stochastic then
    let (l, g) := draws n (s.cxOf c).gen
    (.ok l, s.updCx c fun x => { x with gen := g })
  else (.ok (List.replicate n 0), s)

/-! ### Frames (R164) -/

/-- Bytes of elements and of scales that one vector has. -/
def Geom.e (g : Geom) : Nat := g.d * g.fmt.storeBits / 8
def Geom.c (g : Geom) : Nat := g.d / 32

/-- Addresses of the elements and the scales of token slot t of head slot h: keys (kind 0) or values (kind 1).
DESIGN CHOICE: log entry 123. -/
def kvDa (g : Geom) (f : Frame) (kind h t : Nat) : Nat × Nat :=
  let n := slotsOf f.sz
  let i := (kind * g.hs + h) * n + t
  (f.addr * 64 + i * g.e, f.addr * 64 + 2 * g.hs * n * g.e + i * g.c)

/-- The bytes of a frame (R164). -/
def frameLen (g : Geom) (z : Nat) : Nat := 2 * g.hs * slotsOf z * (g.e + g.c)

/-- A stored vector, dequantised exactly (R70, R185). -/
def kvRead (c : Nat) (g : Geom) (f : Frame) (kind h t : Nat) : Acc (List Num) := do
  let (a, b) := kvDa g f kind h t
  let es ← rdAt (.walker c) a g.e
  let sc ← rdAt (.walker c) b g.c
  return (List.range g.d).map fun j => applyScale (leAt sc (j / 32) 1) (g.fmt.decode (elemAt g.fmt es j))

/-- A vector quantised and written (R71-R73, R180). -/
def kvWrite (c : Nat) (g : Geom) (f : Frame) (kind h t : Nat) (src : Fmt) (mode : Rnd) (ds : List Nat) (xs : List Num) :
    Acc Unit := do
  let (a, b) := kvDa g f kind h t
  let bs := ((chunks 32 xs).zip (chunks 32 ds)).map fun x => quantBlock src g.fmt mode x.2 x.1
  wr (.walker c) a (packRow g.fmt (bs.flatMap fun x => x.2.map (·.code)) 0)
  wr (.walker c) b (bs.map fun x => BitVec.ofNat 8 x.1)

/-- Row r of an SRAM or turf operand of D columns, widened to FP32 (R180, R185). -/
def walkRow (c : Nat) (d : Desc) (f : Fmt) (r n : Nat) : Acc (List Num) := do
  let b ← rdAt (.walker c) (rowDa d 0 r) (rowBytes f n)
  let sc ← if f.scaled then rdAt (.walker c) (d.scaleBase + r * d.scalePitch) (cdiv n 32) else pure []
  return (List.range n).map fun j =>
    let x := f.decode (elemAt f b j)
    Fmt.roundNum .fp32 .nearest 0 (if f.scaled then applyScale (leAt sc (j / 32) 1) x else x)

/-! ### APPEND (R171, R178-R181) -/

/-- A page list while an append works on it. -/
structure Growing where
  ctx  : Ctx
  last : Option (Page × Frame)
  deriving DecidableEq, Repr

/-- `kv_full` (R181): the context is parked, counted, recorded, logged. -/
def kvFull (p c n z : Nat) (q : QWord) (x : Ctx) : Acc Ctx := do
  modify fun s =>
    let t := s.updCore c R.pgwFrmCnt fun v => incFld v 63 32 1
    let t := t.setCore c R.pgwLastFull (BitVec.ofNat 64 (n * 2 ^ 52 + z * 2 ^ 48 + q.rfn.toNat))
    t.logEv 0x30 p (leBytes 2 c ++ leBytes 2 n ++ [BitVec.ofNat 8 z])
  statusMax c n 0 (q.rfn.toNat + 1)
  return { x with st := 2, full := q.rfn.toNat }

/-- The last page copied into a frame of its class (R171). -/
def copyOnWrite (c : Nat) (g : Geom) (x : Ctx) (pg : Page) (old : Frame) : Acc (Page × Frame) := do
  let n ← poolPop c old.sz
  let f ← rdFrame c n
  let new : Frame := { f with st := 2, ref := 1, fill := old.fill, free := 0 }
  (List.range g.hs).forM fun h => [0, 1].forM fun k => (List.range old.fill).forM fun t => do
    let (a, b) := kvDa g old k h t
    let (a', b') := kvDa g new k h t
    wr (.walker c) a' (← rdAt (.walker c) a g.e)
    wr (.walker c) b' (← rdAt (.walker c) b g.c)
  wrFrame c n new
  wrFrame c pg.frame { old with ref := old.ref - 1 }
  let np := { pg with frame := n }
  wrPage c x.list (x.npages - 1) np
  modify fun s => s.updCore c R.pgwFrmCnt fun v => incFld v 31 0 1
  return (np, new)

/-- Room for one more token: the page and frame that take it, or the class whose pool is empty (R171, R179). -/
def makeRoomFor (c : Nat) (g : Geom) (v : Growing) : Acc (Except Nat Growing) := do
  let x := v.ctx
  let grow : Acc (Except Nat Growing) := do
    let s ← get
    if x.npages = x.cap ∨ s.poolCnt c x.grow = 0 then return .error x.grow
    let n ← poolPop c x.grow
    let f ← rdFrame c n
    let new : Frame := { f with st := 2, ref := 1, fill := 0, free := 0 }
    wrFrame c n new
    let pg : Page := { pos := match v.last with | none => 0 | some l => l.1.pos + l.2.fill, frame := n }
    wrPage c x.list x.npages pg
    return .ok { ctx := { x with npages := x.npages + 1 }, last := some (pg, new) }
  match v.last with
  | none => grow
  | some (pg, f) =>
    if f.fill = slotsOf f.sz ∨ (1 < f.ref ∧ g.cow < f.sz) then grow
    else if 1 < f.ref then
      let s ← get
      if s.poolCnt c f.sz = 0 then return .error f.sz
      return .ok { v with last := some (← copyOnWrite c g x pg f) }
    else return .ok v

/-- The operands of an APPEND. -/
structure AppOp where
  kd : Desc
  vd : Desc
  fk : Fmt
  fv : Fmt
  deriving DecidableEq, Repr

/-- Key and value of one token written to a slot (R180). -/
def putToken (c : Nat) (g : Geom) (o : AppOp) (q : QWord) (e : WEnt) (i : Nat) (f : Frame) (t : Nat) : Acc Unit := do
  let h := wSlot q.word
  let dk ← nextDraws c g.d q
  kvWrite c g f 0 h t o.fk (wRound q.word) dk (← walkRow c o.kd o.fk (e.qrow + i) g.d)
  let dv ← nextDraws c g.d q
  kvWrite c g f 1 h t o.fv (wRound q.word) dv (← walkRow c o.vd o.fv (e.qrow + i) g.d)

/-- The tokens of a reserving append from the i-th on, `n` of them left: what the list has become, how many were appended, and the
class whose pool was empty. -/
def reserve (c : Nat) (g : Geom) (o : AppOp) (q : QWord) (e : WEnt) : Nat → Nat → Growing → Acc (Growing × Nat × Option Nat)
  | 0, i, v => return (v, i, none)
  | n + 1, i, v => do
    match ← makeRoomFor c g v with
    | .error z =>
      let _ ← nextDraws c (2 * g.d * (n + 1)) q
      return (v, i, some z)
    | .ok v =>
      match v.last with
      | none => return (v, i, none)
      | some (pg, f) =>
        putToken c g o q e i f f.fill
        let f := { f with fill := f.fill + 1 }
        wrFrame c pg.frame f
        reserve c g o q e n (i + 1) { v with last := some (pg, f) }

/-- An entry of an APPEND (R175, R179). -/
def appendEntry (p c : Nat) (q : QWord) (l : WList) (o : AppOp) (e : WEnt) : Acc Unit := do
  let s ← get
  let g := s.geom c
  match ← latchEntry c q.rfn.toNat q.word l e with
  | none => let _ ← nextDraws c (2 * g.d * e.ntok) q
  | some a =>
    if q.word.getLsbD 63 then
      let (v, n, full) ← reserve c g o q e e.ntok 0 { ctx := a.ctx, last := a.pages.getLast? }
      let x := { v.ctx with last := n }
      match full with
      | none => wrCtx c a.num x
      | some z => wrCtx c a.num (← kvFull p c a.num z q x)
    else
      let slots := a.pages.flatMap fun x => (List.range x.2.fill).map fun t => (x.2, t)
      (slots.drop (slots.length - a.ctx.last)).zipIdx.forM fun x => putToken c g o q e x.2 x.1.1 x.1.2
      let _ ← nextDraws c (2 * g.d * (e.ntok - a.ctx.last)) q

/-! ### The rotary code (R185, R186) -/

/-- Complex product ⊗ of R186. -/
def rotMul (x y : Num × Num) : Num × Num :=
  let r (e : Num) : Num := Fmt.roundNum .fp32 .nearest 0 e
  (r ((x.1.mul y.1).add (r (x.2.mul y.2)).neg), r ((x.1.mul y.2).add (r (x.2.mul y.1))))

/-- Entry (k, j, i) of the rotary RAM for vectors of D elements. -/
def rotAt (x : CoreX) (d k j i : Nat) : Num × Num :=
  let w := x.rot.get 0 ((k * 64 + j) * (d / 2) + i)
  (Fmt.decode .fp32 (fld w 31 0), Fmt.decode .fp32 (fld w 63 32))

/-- The rotation of position p as cos and sin in turn (R186). -/
def rotation (x : CoreX) (d p : Nat) : List Num :=
  (List.range (d / 2)).flatMap fun i =>
    let t (k : Nat) : Num × Num := rotAt x d k (p / 64 ^ k % 64) i
    let c := rotMul (rotMul (rotMul (t 3) (t 2)) (t 1)) (t 0)
    [c.1, c.2]

/-- A vector rotated and rounded to BF16 as the walker stages it (R185). -/
def stageRotated (x : CoreX) (d p : Nat) (v : List Num) : List Num :=
  ((ropeRow Num.zero v (rotation x d p)).run {}).1.map (Fmt.roundNum .bf16 .nearest 0)

/-! ### ATTN (R182-R191) -/

/-- A running row: m, l and O. -/
structure Acc3 where
  m : Num
  l : Num
  o : List Num
  deriving DecidableEq, Repr

/-- The value is -∞. -/
def isNegInf (x : Num) : Bool := x == .inf true

/-- `merge` of R187. -/
def mergeRow (a b : Acc3) : CountM Acc3 := do
  if isNegInf b.m then return a
  if isNegInf a.m then return b
  if !a.m.isNan && !b.m.isNan && !a.m.lt b.m then
    let x ← exp32 (← sub32c b.m a.m)
    return { m := a.m, l := ← fma32c b.l x a.l, o := ← (a.o.zip b.o).mapM fun e => fma32c e.2 x e.1 }
  else
    let x ← exp32 (← sub32c a.m b.m)
    return { m := b.m, l := ← fma32c a.l x b.l, o := ← (a.o.zip b.o).mapM fun e => fma32c e.1 x e.2 }

/-- The normalised row (R187). -/
def normRow (a : Acc3) : CountM (List Num) := do
  if a.l.isZero then return a.o.map fun _ => Num.zero
  let r ← rcp32 a.l
  a.o.mapM (mul32c · r)

/-- A dot product of class 0 in the order of R105. -/
def dot32 (xs ys : List Num) : Counted := accumulate 0 none (chunks 32 ((xs.zip ys).map fun p => prodOf p.1 p.2))

/-- A matrix of dot products, with the counts of the engine that makes it. -/
def product (rows cols : List (List Num)) : List (List Num) × Tally :=
  let m := rows.map fun r => cols.map fun x => dot32 r x
  (m.map fun r => r.map (·.1), tallySum (m.flatMap fun r => r.map (·.2)))

/-- The FP32 codes of a matrix. -/
def codesOf (m : List (List Num)) : List Nat := m.flatMap fun r => r.map fun x => (Fmt.round .fp32 .nearest 0 x).code

/-- What a product of attention leaves in an engine: the manual does not say which bank the products use, nor in which order a tile's
columns lie, so that the bank, the accumulator slots and the stationary cells hold free values, the same for the same operands of the
same operation (R57). DESIGN CHOICE: log entry 26. -/
def leaveEng (c e : Nat) (key : List Nat) (s : State) : State :=
  let t := s.updEng c e R.engSts fun v => setFld v 6 6 (Config.accBank key).toNat
  let cells := ((List.range 2048).map fun k => (k, Config.cellLeft key k)).filter fun x => x.2 != 0
  { t.updEngX c e fun x => { x with left := some key, lanes := [] } with
      acb := t.acb.erase (engKey c e), stat := t.stat.set (engKey c e) cells }

/-- A product of `tiles` tiles of `m` streamed rows made by engine e: its counts and status (R96, R102, R104, R109).
DEDUCED: log entry 40. DESIGN CHOICE: log entry 26. -/
def noteProduct (c m tiles : Nat) (key : List Nat) (t : Tally) (s : State) : Option Nat → State
  | none => s
  | some e =>
    let s := ((leaveEng c e key s).noteEng c e t).updEng c e R.engOpsCnt fun v => incFld v 47 0 1
    let s := s.updEng c e R.engOp fun v => setFld (setFld v 47 32 (tiles - 1)) 31 24 (m - 1)
    let s := s.updEng c e R.engSts fun v => setFld v 4 4 (fld v 4 4 + tiles)
    (s.updEng c e R.engBusyCnt fun v => incFld v 47 0 (m * tiles)).addKnd c e ((tiles - 1) * (62 - m))

/-- Bytes of the staging area (`PGW_RAM_BASE`). -/
abbrev stageLen : Nat := 0x6_0000

/-- The staging area of a core whose walker stages an entry's chunks: the manual does not say where in it an operand lies, so that
its bytes are free values, with their check bits, the same for the same operands of the same operation (R57, R185).
DESIGN CHOICE: log entry 41. -/
def leaveStage (c : Nat) (key : List Nat) (s : State) : State :=
  let a := sramOf c + fld (s.core c R.pgwRamBase) 22 0
  let n := min stageLen (sramOf c + sramLen - a)
  let t := s.wipeKeys fun k => decide (a ≤ k ∧ k < a + n)
  { t with mem := Memory.sets t.mem a ((List.range n).map (Config.staged key)) }

/-- What an entry stages: its pages' frames and its query rows, as they lie in memory. -/
def stageKey (s : State) (p c : Nat) (q : QWord) (qd : Desc) (f : Fmt) (g : Geom) (e : WEnt) (a : Latched) : List Nat :=
  s.runKey p c q ++ a.num :: a.pages.flatMap (fun x => [x.1.pos, x.2.fill, s.peek (x.2.addr * 64) (frameLen g x.2.sz)]) ++
    (List.range (e.ntok * wGq q.word)).map fun r => s.peek (rowDa qd 0 (e.qrow + r)) (rowBytes f g.d)

/-- An entry that has a chunk stages it; where the area runs past the end of SRAM, the walker meets an address error there (R176).
DESIGN CHOICE: log entry 41. -/
def stageArea (c : Nat) (key : List Nat) (a : Latched) : Acc Unit := do
  let s ← get
  if (chunksOf a.pages).isEmpty then return ()
  set (leaveStage c key s)
  if sramLen < fld (s.core c R.pgwRamBase) 22 0 + stageLen then throw (.addr (sramOf c + sramLen))

/-- The queries of an entry, rotated and rounded as the walker stages them (R183, R185). -/
def stageQueries (c : Nat) (q : QWord) (qd : Desc) (f : Fmt) (g : Geom) (e : WEnt) (next : Nat) : Acc (List (List Num)) :=
  (List.range (e.ntok * wGq q.word)).mapM fun r => do
    let v ← walkRow c qd f (e.qrow + r) g.d
    let s ← get
    return stageRotated (s.cxOf c) g.d (next - e.ntok + r / wGq q.word) v

/-- The scores of a chunk: for each token the row of scaled and masked scores (R187). -/
def chunkScores (p c : Nat) (q : QWord) (l : WList) (g : Geom) (e : WEnt) (next : Nat) (es : List Nat) (qs : List (List Num))
    (ci : Nat) (k : (Page × Frame) × (Nat × Nat)) : Acc (List (List Num)) := do
  let ts := (List.range k.2.2).map (k.2.1 + ·)
  let keys ← ts.mapM fun t => do
    let v ← kvRead c g k.1.2 0 (wSlot q.word) t
    let s ← get
    return stageRotated (s.cxOf c) g.d (k.1.1.pos + t) v
  let (sc, n) := product keys qs
  modify fun s => noteProduct c k.2.2 (g.d / 32) (s.runKey p c q ++ [2 * ci] ++ codesOf (keys ++ qs)) n s es[ci % es.length]?
  let scale := Fmt.decode .fp32 l.scale
  tallied c <| (ts.zip sc).mapM fun x => x.2.zipIdx.mapM fun y =>
    if k.1.1.pos + x.1 + e.ntok ≤ next + y.2 / wGq q.word then mul32c y.1 scale else return .inf true

/-- Column r of a list of rows. -/
def colOf (m : List (List Num)) (r : Nat) : List Num := m.map fun x => x.getD r Num.zero

/-- One chunk folded into the rows (R187). -/
def foldChunk (p c : Nat) (q : QWord) (g : Geom) (es : List Nat) (ci : Nat) (k : (Page × Frame) × (Nat × Nat))
    (sc : List (List Num)) (rows : List Acc3) : Acc (List Acc3) := do
  let ts := (List.range k.2.2).map (k.2.1 + ·)
  let ps ← tallied c <| (List.range rows.length).mapM fun r => do
    let s := colOf sc r
    let mc ← rmax s
    let p ← s.mapM fun x => do
      if isNegInf x then return Num.zero
      return Fmt.roundNum .bf16 .nearest 0 (← exp32 (← sub32c x mc))
    return (mc, ← rsum p, p)
  let vs ← ts.mapM fun t => do
    return (← kvRead c g k.1.2 1 (wSlot q.word) t).map (Fmt.roundNum .bf16 .nearest 0)
  let (oc, n) := product ((List.range g.d).map (colOf vs)) (ps.map fun p => p.2.2)
  modify fun s => noteProduct c g.d (cdiv k.2.2 32) (s.runKey p c q ++ [2 * ci + 1] ++ codesOf (vs ++ ps.map fun p => p.2.2)) n s
    es[ci % es.length]?
  tallied c <| (rows.zip ps).zipIdx.mapM fun x =>
    mergeRow x.1.1 { m := x.1.2.1, l := x.1.2.2.1, o := colOf oc x.2 }

/-- The operands of an ATTN or SCORES: queries, outputs, statistics. -/
structure AttnOp where
  qd : Desc
  od : Desc
  sd : Desc
  fq : Fmt
  fo : Fmt
  es : List Nat
  deriving DecidableEq, Repr

/-- A row of FP32 values written to SRAM. -/
def put32 (c da : Nat) (xs : List Num) : Acc Unit :=
  wr (.vec c) da (xs.flatMap fun x => leBytes 4 (Fmt.round .fp32 .nearest 0 x).code)

/-- Statistics of a row (R191). They take no draws. DESIGN CHOICE: log entry 117. -/
def putStat (c : Nat) (o : AttnOp) (r : Nat) (m l : Num) : Acc Unit := put32 c (rowDa o.sd 0 r) [m, l]

/-- Output rows below row r that the entries of an ATTN word write: OD is enumerated in ascending rows (R133), and entries that meet in a row
share its draws. DEDUCED: log entry 40. -/
def rowsBelow (w : BitVec 128) (es : List WEnt) (r : Nat) : Nat :=
  (List.range r).countP fun x => es.any fun e => decide (e.orow ≤ x ∧ x < e.orow + e.ntok * wGq w)

/-- The draws of the `n` elements of output row r of an ATTN word (R78-R80). The rows of STAT take none. DEDUCED: log entry 40.
DESIGN CHOICE: log entry 117. -/
def State.rowDraws (s : State) (p c : Nat) (q : QWord) (es : List WEnt) (r n : Nat) : List Nat :=
  if wRound q.word = .stochastic then
    let k := rowsBelow q.word es r * n
    (draws (k + n) (s.seedGen p c q)).1.drop k
  else List.replicate n 0

/-- The output rows of an ATTN entry, one draw an element (R80). DEDUCED: log entry 40. -/
def putRows (p c : Nat) (q : QWord) (l : WList) (o : AttnOp) (e : WEnt) (rows : List (List Num)) : Acc Unit :=
  rows.zipIdx.forM fun x => do
    let ds := (← get).rowDraws p c q l.ents (e.orow + x.2) x.1.length
    let out := (x.1.zip ds).map fun y => o.fo.round ((wRound q.word).into .fp32 o.fo) y.2 y.1
    modify (·.noteVec c (tallySum (out.map (tallyOf · false))))
    writeRow (.vec c) o.od o.fo 0 (e.orow + x.2) (out.map (·.code))

/-- A skipped ATTN entry (R175, R177). DESIGN CHOICE: log entry 117. -/
def attnBlank (p c : Nat) (q : QWord) (l : WList) (o : AttnOp) (g : Geom) (e : WEnt) : Acc Unit := do
  let n := e.ntok * wGq q.word
  putRows p c q l o e (List.replicate n (List.replicate g.d Num.zero))
  if wStat q.word then (List.range n).forM fun r => putStat c o (e.orow + r) (.inf true) Num.zero

/-- An ATTN entry (R187). -/
def attnEntry (p c : Nat) (q : QWord) (l : WList) (o : AttnOp) (e : WEnt) : Acc Unit := do
  let s ← get
  let g := s.geom c
  match ← latchEntry c q.rfn.toNat q.word l e with
  | none => attnBlank p c q l o g e
  | some a =>
    let next := nextPos a.pages
    stageArea c (stageKey (← get) p c q o.qd o.fq g e a) a
    let qs ← stageQueries c q o.qd o.fq g e next
    let start := qs.map fun _ => { m := .inf true, l := Num.zero, o := List.replicate g.d Num.zero : Acc3 }
    let rows ← (chunksOf a.pages).zipIdx.foldlM (fun rows k => do
      let sc ← chunkScores p c q l g e next o.es qs k.2 k.1
      foldChunk p c q g o.es k.2 k.1 sc rows) start
    let ys ← if wNorm q.word then tallied c (rows.mapM normRow) else pure (rows.map (·.o))
    putRows p c q l o e ys
    if wStat q.word then rows.zipIdx.forM fun x => putStat c o (e.orow + x.2) x.1.m x.1.l

/-! ### SCORES (R193) -/

/-- A skipped SCORES entry: its output rows, over their pitch, and its statistics rows (R175, R177). DEDUCED: log entry 40. -/
def scoresBlank (c : Nat) (q : QWord) (o : AttnOp) (e : WEnt) : Acc Unit :=
  (List.range (e.ntok * wGq q.word)).forM fun r => do
    if spanFits c o.od o.od.rowPitch (e.orow + r + 1) 1 true then
      wr (.vec c) (rowDa o.od 0 (e.orow + r)) (zeros o.od.rowPitch)
    if spanFits c o.sd 8 (e.orow + r + 1) 1 false then putStat c o (e.orow + r) (.inf true) Num.zero

/-- The weights of a chunk: w = rne(exp(s - m) × rcp(l)), +0 where masked. DESIGN CHOICE: log entry 125. -/
def weights (stats : List (Num × Num)) (sc : List (List Num)) : CountM (List (List Num)) :=
  sc.mapM fun row => (row.zip stats).mapM fun x => do
    if isNegInf x.1 then return Num.zero
    mul32c (← exp32 (← sub32c x.1 x.2.1)) (← rcp32 x.2.2)

/-- A SCORES entry (R193). DESIGN CHOICE: log entry 124. -/
def scoresEntry (p c : Nat) (q : QWord) (l : WList) (o : AttnOp) (e : WEnt) : Acc Unit := do
  let s ← get
  let g := s.geom c
  match ← latchEntry c q.rfn.toNat q.word l e with
  | none => scoresBlank c q o e
  | some a =>
    let next := nextPos a.pages
    stageArea c (stageKey (← get) p c q o.qd o.fq g e a) a
    let qs ← stageQueries c q o.qd o.fq g e next
    let stats ← (List.range qs.length).mapM fun r => do
      let b ← rdAt (.walker c) (rowDa o.sd 0 (e.orow + r)) 8
      return (Fmt.decode .fp32 (leAt b 0 4), Fmt.decode .fp32 (leAt b 4 4))
    let ws ← (chunksOf a.pages).zipIdx.mapM fun k => do
      let sc ← chunkScores p c q l g e next o.es qs k.2 k.1
      return (k.1.1.1.frame, ← tallied c (weights stats sc))
    (List.range qs.length).forM fun r => do
      let out ← if !wStat q.word then pure (ws.flatMap fun w => colOf w.2 r)
        else tallied c <| a.pages.mapM fun pg =>
          ((ws.filter fun w => w.1 == pg.1.frame).flatMap fun w => colOf w.2 r).foldlM add32c Num.zero
      if spanFits c o.od (4 * out.length) (e.orow + r + 1) 1 true then put32 c (rowDa o.od 0 (e.orow + r)) out
      else modify (·.descErr c)

/-! ### Issue -/

/-- Rows that a list's entries reach in an operand, at least one. -/
def rowsUsed (es : List WEnt) (f : WEnt → Nat) : Nat := es.foldl (fun m e => max m (f e)) 1

/-- A memory descriptor of a given format for `rows` rows of `cols` columns (R134). -/
def rowsOk (c : Nat) (d : Desc) (cols rows : Nat) (sramOnly : Bool) (okFmt : Fmt → Bool) : Bool :=
  descPlain d && match fmtOf d.fmt with
    | some f => okFmt f && descFits c d f .row rows cols 1 sramOnly
    | none => false

/-- The descriptors of an ATTN or SCORES are fit (R134, R182, R193). DESIGN CHOICE: log entry 114. -/
def attnFits (c : Nat) (w : BitVec 128) (g : Geom) (l : WList) (o : AttnOp) : Bool :=
  let qrows := rowsUsed l.ents fun e => e.qrow + e.ntok * wGq w
  let orows := rowsUsed l.ents fun e => e.orow + e.ntok * wGq w
  let fp32 (f : Fmt) : Bool := f == .fp32
  rowsOk c o.qd g.d qrows false (fun f => f == .bf16 || f == .fp32) &&
  (if wOpc w = 1 then
    rowsOk c o.od g.d orows true (fun f => if wNorm w then !f.scaled else f == .fp32) &&
      (!wStat w || rowsOk c o.sd 2 orows true fp32)
  else rowsOk c o.od 1 orows true fp32 && rowsOk c o.sd 2 orows false fp32)

namespace State

/-- A walker word that performs no work (R134). DEDUCED: log entry 42. -/
def walkReject (s : State) (c : Nat) : State := s.descErr c

/-- `ENG_OP` and `ENG_CORD` of the engines that an attention word takes: its index, class 0, and no cord. -/
def noteAttn (s : State) (c : Nat) (es : List Nat) (q : QWord) : State :=
  forEach es s fun t e =>
    (t.updEng c e R.engOp fun v => setFld (setFld v 19 16 0) 15 0 q.op).updEng c e R.engCord fun _ => 0

/-- An error in reading the walker list halts the walker; the entries read before it are blanked (R176, R177). -/
def listHalt (s : State) (c : Nat) (l : WList) : State :=
  match l.err with
  | none => s
  | some e => s.walkerHalt c (errCause e) (errDa e)

/-- ATTN and SCORES (R175, R177, R182, R193). DEDUCED: log entry 40. -/
def attnWork (s : State) (p c off : Nat) (q : QWord) (es : List Nat) : State :=
  let w := q.word
  let attn := wOpc w = 1
  let look : Acc (Desc × Desc × Desc × Desc) := do
    let l ← readDesc c (wbits w 59 51)
    let a ← readDesc c (wbits w 50 42)
    let b ← readDesc c (wbits w 41 33)
    let d ← if !attn || wStat w then readDesc c (wbits w 32 24) else pure b
    return (l, a, b, d)
  match runAcc look s with
  | (.error e, t) => (t.endKindles c off).trapOn c e
  | (.ok (ld, qd, b, d), t) =>
    match runAcc (readWalkList c ld.base) t with
    | (.error e, t) => t.walkerHalt c (errCause e) (errDa e)
    | (.ok none, t) => t.walkReject c
    | (.ok (some l), t) =>
      let t := t.listHalt c l
      let (od, sd) := if attn then (b, d) else (d, b)
      let o : AttnOp :=
        { qd := qd, od := od, sd := sd, fq := (fmtOf qd.fmt).getD .fp32, fo := (fmtOf od.fmt).getD .fp32, es := es }
      let g := t.geom c
      if !attnFits c w g l o then t.walkReject c
      else
        let t := (runAcc (seedWord p c q) (t.noteAttn c es q)).2
        if attn then walkEntries c (attnEntry p c q l o) (attnBlank p c q l o g) l.ents t
        else walkEntries c (scoresEntry p c q l o) (scoresBlank c q o) l.ents t

/-- APPEND (R175, R177-R181). -/
def appendWork (s : State) (p c off : Nat) (q : QWord) (_ : List Nat) : State :=
  let w := q.word
  let look : Acc (Desc × Desc × Desc) := do
    return (← readDesc c (wbits w 59 51), ← readDesc c (wbits w 50 42), ← readDesc c (wbits w 41 33))
  match runAcc look s with
  | (.error e, t) => (t.endKindles c off).trapOn c e
  | (.ok (ld, kd, vd), t) =>
    match runAcc (readWalkList c ld.base) t with
    | (.error e, t) => t.walkerHalt c (errCause e) (errDa e)
    | (.ok none, t) => t.walkReject c
    | (.ok (some l), t) =>
      let t := t.listHalt c l
      let g := t.geom c
      let rows := rowsUsed l.ents fun e => e.qrow + e.ntok
      if !rowsOk c kd g.d rows false (fun _ => true) || !rowsOk c vd g.d rows false (fun _ => true) then t.walkReject c
      else
        let o : AppOp := { kd := kd, vd := vd, fk := (fmtOf kd.fmt).getD .fp32, fv := (fmtOf vd.fmt).getD .fp32 }
        walkEntries c (appendEntry p c q l o) (fun _ => pure ()) l.ents (runAcc (seedWord p c q) t).2

/-- MERGE (R177, R192). DEDUCED: log entry 40. -/
def mergeWork (s : State) (_ c off : Nat) (q : QWord) (_ : List Nat) : State :=
  let w := q.word
  let rows := wbits w 16 5 + 1
  match runAcc ((List.range 6).mapM fun k => readDesc c (wbits w (71 - 9 * k) (63 - 9 * k))) s with
  | (.error e, t) => (t.endKindles c off).trapOn c e
  | (.ok ds, t) =>
    let d (k : Nat) : Desc := ds.getD k (parseDesc 0)
    let dim := (t.geom c).d
    let fp32 (f : Fmt) : Bool := f == .fp32
    let fit (k : Nat) : Bool := rowsOk c (d k) (if k % 2 = 0 then dim else 2) rows (4 ≤ k) fp32
    if !(List.range 6).all fit then t.walkReject c
    else
      let blank (r : Nat) : Acc Unit := do
        put32 c (rowDa (d 4) 0 r) (List.replicate dim Num.zero)
        put32 c (rowDa (d 5) 0 r) [.inf true, Num.zero]
      let row (r k : Nat) : Acc Acc3 := do
        let o ← walkRow c (d k) .fp32 r dim
        let st ← walkRow c (d (k + 1)) .fp32 r 2
        return { m := st.getD 0 Num.zero, l := st.getD 1 Num.zero, o := o }
      let serve (r : Nat) : Acc Unit := do
        let x ← tallied c (mergeRow (← row r 0) (← row r 2))
        let y ← if w.getLsbD 17 then tallied c (normRow x) else pure x.o
        put32 c (rowDa (d 4) 0 r) y
        put32 c (rowDa (d 5) 0 r) [x.m, x.l]
      let blankAll (t : State) : State := (runAcc ((List.range rows).forM blank) t).2
      if bitAt (t.core c R.pgwSts) 11 then blankAll t
      else match runAcc ((List.range rows).forM serve) t with
        | (.ok _, u) => u
        | (.error e, u) => blankAll (u.walkerHalt c (errCause e) (errDa e))

/-- The class 4 word of opcode `opc` at the head of the walker's queue issues on all its units (R136, R172, R197, R198). At a bound of
the core's tags it waits (R232); on a halted walker it does not wait for commits, which are not applied (R177). DESIGN CHOICE: log entry 20.
DEDUCED: log entry 43. -/
def walkIssue (s : State) (c off opc : Nat) (work : State → Nat → Nat → Nat → QWord → List Nat → State) : State :=
  let s := s.settleRamps c off
  match s.runSlot c, (s.cxOf c).pgw.queue.head? with
  | some p, some q =>
    let w := q.word
    let es := if wAttn w then enginesOf (wEmask w) q.shift else []
    let vec := opc != 2
    let ready := wOpc w == opc && s.due p c off q && s.unitFree c q .pgw && (!vec || s.unitFree c q .vec) &&
      es.all (fun e => s.engFree c off q (Fin.ofNat 4 e)) && (bitAt (s.core c R.pgwSts) 11 || (s.cxOf c).commits.all fun k => decide (q.rfn.toNat < k.b.toNat))
    if !ready then s
    else if !s.tagReady c 2 then s.stallTag c 2
    else s.holdTag c 2 fun s =>
      let t := if bitAt (s.core c R.pgwSts) 11 then s else walkerRun c (releaseFrames c fun f => decide (f ≤ q.rfn.toNat)) s
      let t := t.unitTake c .pgw q
      let t := if vec then t.unitTake c .vec q else t
      work (forEach es t fun t e => t.engTake c off q e) p c off q es
  | _, _ => s

/-- The walker returns the frames due before the next word it issues (R198). -/
def frameRelease (s : State) (c : Nat) : State :=
  match s.runSlot c, (s.cxOf c).pgw.queue.head? with
  | some _, some q =>
    if bitAt (s.core c R.pgwSts) 11 then s
    else if !s.tagReady c 2 then s.stallTag c 2
    else s.holdTag c 2 (walkerRun c (releaseFrames c fun f => decide (f ≤ q.rfn.toNat)))
  | _, _ => s

end State

/-- `ATTN` (R187). -/
def execAttn (core : Core) (off : Nat) (s : State) : Host.Outcome State Fault Refusal :=
  s.coreDone (s.walkIssue core.val off 1 State.attnWork)

/-- `APPEND` (R179). -/
def execAppend (core : Core) (off : Nat) (s : State) : Host.Outcome State Fault Refusal :=
  s.coreDone (s.walkIssue core.val off 2 State.appendWork)

/-- `MERGE` (R192). -/
def execMerge (core : Core) (off : Nat) (s : State) : Host.Outcome State Fault Refusal :=
  s.coreDone (s.walkIssue core.val off 3 State.mergeWork)

/-- `SCORES` (R193). -/
def execScores (core : Core) (off : Nat) (s : State) : Host.Outcome State Fault Refusal :=
  s.coreDone (s.walkIssue core.val off 4 State.attnWork)

/-- `FRAME_RELEASE` (R198). -/
def execFrameRelease (core : Core) (s : State) : Host.Outcome State Fault Refusal := s.coreDone (s.frameRelease core.val)

end Sys2Proof.Machine
end

