-- ==== Sys2Proof/Machine/Validate.lean ====
section
/-!
DEFINITION. The checks of R209 on an image, in their order, and the writing of a validated image (R210).
-/

namespace Sys2Proof.Machine

namespace State

/-! ### Writing an image (R210) -/

/-- A CONFIG value written, as a write of the Keeper (R205). -/
def writeConfig (s : State) (e : ConfEnt) : State :=
  if R.pgwGeom ≤ e.off ∧ e.off ≤ R.pgwPool 9 ∧ e.core < 512 then s.writeCore e.core e.off e.val else s

/-- The check units of core c loaded from AUDIT; without one they hold their reset values. Running contexts end with the
run before. -/
def loadAudit (s : State) (c : Nat) (a : Option (List AuditEnt)) : State :=
  let t := s.updCx c fun x => { x with chkRun := [] }
  let l : List AuditEnt := a.getD (List.replicate 4 { ctrl := 0x40, poly := 0, init := 0, seq := 0 })
  forEach l.zipIdx t fun t e =>
    forEach [(R.chkCtrl e.2, e.1.ctrl), (R.chkPoly e.2, e.1.poly), (R.chkInit e.2, e.1.init), (R.chkSeq e.2, e.1.seq)] t
      fun t w => t.writeCheck c w.1 w.2

/-- What loading an image writes to memory, in order: streams, then DATA. -/
def imageWrites (m : Parsed) : List (Nat × List Byte) :=
  (m.img.streams.map fun e => (e.loadDa, (m.raw.drop e.imgOff).take (16 * e.nwords))) ++
  m.data.map fun e => (e.da, (m.raw.drop e.off).take e.len)

/-- The first `n` bytes of a list of writes. DESIGN CHOICE: log entry 67. -/
def cutWrites : Nat → List (Nat × List Byte) → List (Nat × List Byte)
  | _, [] => []
  | n, w :: l => if n = 0 then [] else (w.1, w.2.take n) :: cutWrites (n - w.2.length) l

/-- Writes made by the Keeper, in order. -/
def writeAll (s : State) (l : List (Nat × List Byte)) : State := forEach l s fun t w => (t.writeDa Who.host w.1 w.2).2

/-- A load ends early: part of the image lies in the partition's memories (R211, R261). Each word is written whole. -/
def placePart (s : State) (m : Parsed) : State := s.bumpFree.writeAll (cutWrites (Config.copied s.free / 8 * 8) (imageWrites m))

/-- Streams, DATA, CONFIG, `SEQ_STREAM`, `SEQ_DESC` and AUDIT of an image written. -/
def placeImage (s : State) (m : Parsed) : State :=
  let t := forEach m.img.streams (s.writeAll (imageWrites m)) fun t e =>
    (t.setCore e.core R.seqStream (BitVec.ofNat 64 (e.loadDa % 2 ^ 48))).setCore e.core R.seqDesc
      (BitVec.ofNat 64 (e.descOff % 2 ^ 23))
  let t := forEach m.config t writeConfig
  forEach (t.partCores m.img) t fun t c => t.loadAudit c m.img.audit

/-! ### Words and descriptors (checks 9 and 10) -/

/-- What a read finds, the state left as it was. -/
def look (s : State) (x : Acc α) : Option α :=
  match runAcc x s with
  | (.ok a, _) => some a
  | (.error _, _) => none

/-- An ENG word of no rejected shape or combination (R95, R131, R132); a reserved format is a matter of its descriptor. -/
def engWordOk (s : State) (c : Nat) (w : BitVec 128) : Bool :=
  let accepts (k : Nat) (ok : Fmt → Bool) : Bool :=
    match s.look (readDesc c k) with
    | some d => match fmtOf d.fmt with
      | some f => ok f
      | none => true
    | none => true
  let cls := wbits w 67 64
  engFields w && (wOpc w == 2 || (accepts (wbits w 26 18) (classAccepts cls) && accepts (wbits w 17 9) (classAccepts cls))) &&
  (!wDrains w || accepts (wbits w 8 0) (drainAccepts (classAcc cls)))

/-- The descriptors of an MMUL or DRAIN (R111, R134). -/
def engDescOk (s : State) (c : Nat) (w : BitVec 128) : Bool :=
  let cOk : Bool := !wDrains w || match s.look (readDesc c (wbits w 8 0)) with
    | some d => fitsC c w d
    | none => false
  cOk && (wOpc w == 2 ||
    match s.look (readDesc c (wbits w 26 18)), s.look (readDesc c (wbits w 17 9)) with
    | some a, some b =>
      match fmtOf a.fmt, fmtOf b.fmt with
      | some fa, some fb =>
        match s.look (convOf c a fa) with
        | none => false
        | some v =>
          let cls := wbits w 67 64
          let planes := match wbits w 60 59 with
            | 0 => 1
            | 1 => 2
            | 2 => 3
            | _ => wbits w 58 56 + 1
          let kB := match v with
            | some x => min x.k (wT w * classKt cls)
            | none => wT w * classKt cls
          let vOk := match v with
            | some x => x.ok
            | none => true
          !a.rsv && !b.rsv && (a.type == 0 || a.type == 1) && (b.type == 0 || b.type == 2) && vOk && fitsA c w a fa v planes &&
            descFits c b fb .col kB (wN w) planes false
      | _, _ => false
    | _, _ => false)

/-- The descriptors of a class 4 word, with the walker list as loaded (R134, R182, R192, R193). -/
def walkDescOk (s : State) (c : Nat) (w : BitVec 128) : Bool :=
  let g := s.geom c
  let fp32 (f : Fmt) : Bool := f == .fp32
  let lk : Acc (List Desc × Option WList) := do
    let ds ← [wbits w 59 51, wbits w 50 42, wbits w 41 33, wbits w 32 24].mapM (readDesc c)
    return (ds, ← readWalkList c (ds.headD (parseDesc 0)).base)
  if wOpc w = 3 then
    match s.look ((List.range 6).mapM fun k => readDesc c (wbits w (71 - 9 * k) (63 - 9 * k))) with
    | some ds => ds.zipIdx.all fun d => rowsOk c d.1 (if d.2 % 2 = 0 then g.d else 2) (wbits w 16 5 + 1) (4 ≤ d.2) fp32
    | none => false
  else
    match s.look lk with
    | some ([ld, a, b, d], some l) =>
      descPlain ld &&
      (if wOpc w = 2 then
        let rows := rowsUsed l.ents fun e => e.qrow + e.ntok
        rowsOk c a g.d rows false (fun _ => true) && rowsOk c b g.d rows false (fun _ => true)
      else
        let (od, sd) := if wOpc w = 1 then (b, d) else (d, b)
        attnFits c w g l { qd := a, od := od, sd := sd, fq := (fmtOf a.fmt).getD .fp32, fo := (fmtOf od.fmt).getD .fp32, es := [] })
    | _ => false

/-- Rows that a QUE word can touch: 32 of a cord, the entries that the reads of a plain queue on the core take, or one (R134). -/
def queRows (qs : List QueueDecl) (ws : List (BitVec 128)) (w : BitVec 128) : Nat :=
  if wOpc w = 3 && wOne w then 1
  else
    let q := if wOpc w = 2 then wQ w else wLq w
    match qs.find? fun d => d.q == q with
    | some d => if d.cordKind then 32
      else if wOpc w = 2 then wMax w
      else (ws.filter fun v => wClass v == 6 && wOpc v == 2 && wQ v == q).foldl (fun m v => max m (wMax v)) 1
    | none => 1

/-- Every descriptor that a word of core c uses is valid for its whole extent and its formats (check 10). `ws` is the core's
stream. -/
def wordDescOk (s : State) (qs : List QueueDecl) (c : Nat) (ws : List (BitVec 128)) (w : BitVec 128) : Bool :=
  match wClass w with
  | 1 => s.engDescOk c w
  | 2 =>
    match s.look (vecLook c w) with
    | some o => o.accepts (wOpc w) && (vecUses (wOpc w) o.imm).all (o.fits c (wOpc w))
    | none => false
  | 3 =>
    match s.look (readDesc c (wbits w 68 60)), s.look (readDesc c (wbits w 59 51)) with
    | some a, some b => strFits w a b
    | _, _ => false
  | 4 => s.walkDescOk c w
  | 5 =>
    if wOpc w = 1 then true
    else match s.look (readDesc c (wChkSrc w)) with
      | some d =>
        descPlain d && if wOpc w = 2 then spanFits c d (rowBytes ((fmtOf d.fmt).getD .fp32) (wbits w 48 37 + 1)) (wbits w 60 49 + 1) 1 false
          else spanFits c d 8 1 1 (wOpc w == 3)
      | none => false
  | 6 =>
    if wOpc w = 1 then true
    else match s.look (readDesc c (wQDesc w)) with
      | some d => rowsFit c d (queRows qs ws w)
      | none => false
  | _ => true

/-- Words of each stream with their core and number, in order. DEDUCED: log entry 75. -/
def allWords (m : Parsed) : List (Nat × Nat × List (BitVec 128) × BitVec 128) :=
  (m.img.streams.zip m.words).flatMap fun x => x.2.zipIdx.map fun w => (x.1.core, w.2, x.2, w.1)

/-! ### Queues (check 12) -/

/-- A declaration meets R206 and its field ranges. -/
def queueOk (m : Parsed) (cs : List Nat) (i : Nat) (d : QueueDecl) : Bool :=
  let feeds := onesOf 512 d.feed
  let used := d.points
  d.q < 64 && d.kind < 4 && 4 ≤ d.depthLog && d.depthLog ≤ 16 && 6 ≤ d.esizeLog && d.esizeLog ≤ 16 &&
  d.ring % 2 ^ (d.depthLog + d.esizeLog) == 0 && ((m.img.queues.take i).all fun e => e.q != d.q) && feeds.all cs.contains &&
  (!d.input || (1 ≤ d.w && d.w ≤ 64 && m.img.queues.any fun e => e.q == d.outq && e.kind == 3)) &&
  (d.kind != 0 || feeds.length == 1) && (d.kind < 2 || cs.contains d.writer) &&
  (!d.cordKind || (!used.isEmpty && d.cpoints.take used.length == used && (used.zip (used.drop 1)).all (fun p => p.1 < p.2) &&
    used.all fun p => p < m.img.cpf))

/-- A QUE word meets R206. -/
def queWordOk (m : Parsed) (c : Nat) (w : BitVec 128) : Bool :=
  if wClass w != 6 then true
  else match m.img.queues.find? fun d => d.q == wQ w with
    | none => false
    | some d =>
      match wOpc w with
      | 1 => d.cordKind && d.feed.testBit c && d.points.headD 0 ≤ wOffset w
      | 2 => d.input && d.feed.testBit c
      | _ =>
        2 ≤ d.kind && d.writer == c && (d.kind == 3 || d.w + 1 ≤ wDdl w) &&
        (wOne w || m.img.queues.any fun l => l.q == wLq w && l.input && l.feed.testBit c)

/-! ### Rotations (check 13) -/

/-- Indices of the descriptors that a word names. -/
def wordDescs (w : BitVec 128) : List Nat :=
  match wClass w, wOpc w with
  | 1, 2 => [wbits w 8 0]
  | 1, _ => [wbits w 26 18, wbits w 17 9] ++ (if wDrains w then [wbits w 8 0] else [])
  | 2, o => (vecUses o (wbits w 71 64)).map fun u => wbits w (35 - 9 * u.1) (27 - 9 * u.1)
  | 3, _ => [wbits w 68 60, wbits w 59 51]
  | 4, 2 => [wbits w 59 51, wbits w 50 42, wbits w 41 33]
  | 4, 3 => (List.range 6).map fun k => wbits w (71 - 9 * k) (63 - 9 * k)
  | 4, 1 => [wbits w 59 51, wbits w 50 42, wbits w 41 33] ++ (if w.getLsbD 23 then [wbits w 32 24] else [])
  | 4, _ => [wbits w 59 51, wbits w 50 42, wbits w 41 33, wbits w 32 24]
  | 5, 1 => []
  | 5, _ => [wChkSrc w]
  | 6, 1 => []
  | 6, _ => [wQDesc w]
  | _, _ => []

/-- Two addresses agree, or lie each within its own core's SRAM or turf slice. -/
def likeDa (c d a b : Nat) : Bool := a == b || ((ownEnd c a).isSome && (ownEnd d b).isSome)

/-- Two descriptors of two cores agree except for addresses within each core's own memory (R208). -/
def likeDesc (s : State) (c d i : Nat) : Bool :=
  match s.look (readDesc c i), s.look (readDesc d i) with
  | some x, some y =>
    { x with base := 0, scaleBase := 0 } == { y with base := 0, scaleBase := 0 } && likeDa c d x.base y.base &&
      likeDa c d x.scaleBase y.scaleBase
  | _, _ => false

/-- Cores c and d have streams that R208 calls identical. DEDUCED: log entry 76. -/
def likeStreams (s : State) (m : Parsed) (c d : Nat) : Bool :=
  let get (n : Nat) := (m.img.streams.zip m.words).find? fun x => x.1.core == n
  match get c, get d with
  | some x, some y =>
    x.2 == y.2 && x.1.loopDfl == y.1.loopDfl && x.1.loopIdx == y.1.loopIdx && x.2.all (fun w => wRnd w != 2) &&
      (x.2.flatMap wordDescs).all fun i => s.likeDesc c d i
  | none, none => true
  | _, _ => false

/-- A rotation entry meets R207 or R208; the state holds the image as loaded. -/
def rotOk (s : State) (m : Parsed) (cs : List Nat) (r : RotEnt) : Bool :=
  if r.kind = 0 then
    r.mask != 0 && r.mask < 16 && 1 ≤ r.count && ((List.range r.count).all fun i => cs.contains (r.first + i)) && r.gfirst.all (· == 0)
  else
    let gs := r.gfirst.take r.mask
    let all := gs.flatMap fun g => (List.range r.count).map (g + ·)
    r.kind == 1 && 2 ≤ r.mask && r.mask ≤ 16 && 1 ≤ r.count && r.first == 0 && (r.gfirst.drop r.mask).all (· == 0xFFFF) &&
      all.all cs.contains && all.eraseDups.length == all.length &&
      gs.all fun g => (List.range r.count).all fun i => s.likeStreams m (gs.headD 0 + i) (g + i)

/-! ### CONFIG (check 14) -/

/-- A value fits the fields of a register that CONFIG may name (R205). -/
def confValOk (c off : Nat) (v : Word) : Bool :=
  let only (m : Word) : Bool := v &&& ~~~m == 0
  let base := fld v 47 0
  if off = R.pgwGeom then only 0xFF13 && fld v 15 12 ≤ 9 && fld v 1 0 != 3
  else if off = R.pgwCtxBase then only (fldMask 47 0) && inTurf c base 0x2_0000
  else if off = R.pgwPftBase then base % 0x1_0000 == 0 && inTurf c base 0x24_0000
  else if off = R.pgwRamBase then
    only (fldMask 54 32 ||| fldMask 22 0) && fld v 54 32 % 0x1000 == 0 && fld v 22 0 % 0x1_0000 == 0 && fld v 54 32 < sramLen &&
      fld v 22 0 + 0x6_0000 ≤ sramLen
  else if off = R.pgwCstatBase then
    only (fldMask 47 0) && (decide (base + 0x1_0000 ≤ turfBase) || decide (aliasBase ≤ base ∧ base + 0x1_0000 ≤ 0x0180_0000_0000))
  else R.pgwPool 0 ≤ off && off ≤ R.pgwPool 9 && off % 8 == 0 && only (fldMask 47 32)

/-- A CONFIG entry may be written as the walker stands now (R205). -/
def confOk (s : State) (cs : List Nat) (e : ConfEnt) : Bool :=
  cs.contains e.core && confValOk e.core e.off e.val &&
  (!(e.off == R.pgwGeom || e.off == R.pgwCtxBase || e.off == R.pgwPftBase) || s.tablesIdle e.core)

/-! ### Addresses (check 15) -/

/-- Every byte of a range lies in SRAM or turf of the partition's cores or in the claims (R205). -/
def destOk (m : Parsed) (cs : List Nat) (da n : Nat) : Bool :=
  (pieces da n).all fun p =>
    match coreOfDa p.1 with
    | some c => cs.contains c && (ownEnd c p.1).isSome
    | none => pieceClaimed m.img p.1

/-! ### The checks in their order -/

/-- The owner key of the record in flash. -/
def ownerKey (s : State) : Option (List Byte) := if s.sec.owner = [] || s.sec.ownerErr then none else some ((s.sec.owner.drop 0x10).take 57)

/-- Check 4 (R440). -/
def signCheck (s : State) (m : Parsed) : Chk Unit :=
  let bad (st : Nat) : ImgFail := ⟨st, 4, 0, 0, 0⟩
  let good := Ed448.verify (blockKey m.block) (ascii "KRY-SCHED") m.img.digest (blockSig m.block)
  if s.sec.ownerErr then .error (bad Sts.badSignature)
  else match s.ownerKey, m.signed with
    | none, false => .ok ()
    | none, true => must good (bad Sts.badSignature)
    | some _, false => .error (bad Sts.unsigned)
    | some k, true => must (good && blockKey m.block == k) (bad Sts.badSignature)

/-- The image may be loaded into slot p: the checks 2 to 15 of R209 on the bytes of its file. DEDUCED: log entry 75. -/
def validate (s : State) (p : Nat) (f : List Byte) : Chk Parsed := do
  let m ← parseImage f
  let i := m.img
  must (imageDigest m.raw == i.digest) ⟨Sts.badDigest, 3, 0, 0, 0⟩
  s.signCheck m
  needAll (List.range 8) (fun _ q => q == p || match (s.slot q).img with
      | some j => j.dieMask &&& i.dieMask == 0 && !i.claims.any fun a => j.claims.any fun b => claimsMeet a b
      | none => true)
    (fun _ _ => ⟨Sts.partitionBusy, 5, secMap, 0, 0⟩)
  let dies := onesOf 32 i.dieMask
  let cs := s.partCores i
  needAll dies (fun _ d => s.dieUp d && !s.fenced d) (fun _ d => ⟨Sts.dieUnavailable, 6, secMap, 0, d⟩)
  needAll cs (fun _ c => s.coreState c == 1) (fun _ c => ⟨Sts.dieUnavailable, 6, secMap, c, 0⟩)
  must (!s.badMargin i && !s.badMap i && m.ncores == cs.length) ⟨Sts.imageStale, 7, secMap, 0, 0⟩
  must (i.period == fld s.bcn.period 10 0 && i.cpf != 0 && i.cpf == cpfOf i.margin i.period) ⟨Sts.periodMismatch, 8, secClass, 0, 0⟩
  let ws := allWords m
  let t := s.placeImage m
  ws.forM fun w => do
    must (!wordError i.cpf w.2.2.2 && (wClass w.2.2.2 != 1 || t.engWordOk w.1 w.2.2.2)) ⟨Sts.wordInvalid, 9, secStreams, w.1, w.2.1⟩
    must (wClass w.2.2.2 != 3 || wOpc w.2.2.2 != 3 || (i.routeTo (wbits w.2.2.2 22 13)).isSome)
      ⟨Sts.routeInvalid, 9, secStreams, w.1, w.2.1⟩
  ws.forM fun w => must (t.wordDescOk i.queues w.1 w.2.2.1 w.2.2.2) ⟨Sts.descInvalid, 10, secStreams, w.1, w.2.1⟩
  let cred := i.streams.zip i.credits
  needAll cred (fun k x => x.2.1 ≤ 256 && x.2.2 ≤ 128 &&
      ((cred.take (k + 1)).filter fun y => dieOf y.1.core == dieOf x.1.core).foldl (fun n y => n + y.2.1 + y.2.2) 0 ≤ 4096)
    (fun k x => ⟨Sts.creditInvalid, 11, secCredits, x.1.core, k⟩)
  needAll i.queues (queueOk m cs) (fun k _ => ⟨Sts.queueInvalid, 12, secQueues, 0, k⟩)
  ws.forM fun w => must (queWordOk m w.1 w.2.2.2) ⟨Sts.queueInvalid, 12, secStreams, w.1, w.2.1⟩
  needAll i.rots (fun _ r => t.rotOk m cs r) (fun k _ => ⟨Sts.rotationInvalid, 13, secRotations, 0, k⟩)
  needAll m.config (fun _ e => s.confOk cs e) (fun k e => ⟨Sts.configRefused, 14, secConfig, e.core, k⟩)
  needAll i.streams (fun _ e => cs.contains e.core && e.loadDa % 64 == 0 && e.loadDa < turfOf e.core + turfLen &&
      inTurf e.core e.loadDa (16 * e.nwords) && e.descOff % 0x4000 == 0 && e.descOff ≤ 0x5FC000)
    (fun k e => ⟨Sts.badAddress, 15, secStreams, e.core, k⟩)
  needAll m.data (fun _ e => destOk m cs e.da e.len) (fun k _ => ⟨Sts.badAddress, 15, secData, 0, k⟩)
  needAll i.queues (fun _ d => inClaims i d.ring (d.depth * d.esize)) (fun k _ => ⟨Sts.badAddress, 15, secQueues, 0, k⟩)
  return m

end State

end Sys2Proof.Machine
end

