-- ==== Sys2Proof/Machine/Orders.lean ====
section
/-!
DEFINITION. Commands that act on one object, in the order of their acceptance (R263, R359): loads, unloads, staging, starts, stops
and queue bindings, each from the moment its turn has come.
-/

namespace Sys2Proof.Machine

/-- The note of a command that is accepted and whose turn has not come. Every other note is smaller. -/
abbrev held : Nat := 2 ^ 64

/-- Commands of which the Keeper runs one at a time (R263). -/
def exclusive (op : Nat) : Bool := op == Op.schedLoad || op == Op.schedUnload || op == Op.memStage

/-- The slot that a command waits for its turn on; 8 for none. -/
def turnSlot (c : Cmd) : Nat := if c.opcode == Op.memStage then 8 else arg c.args 0 1

/-- Command `b`, accepted before `c`, keeps `c` from beginning (R263, R359). -/
def holdsBack (b c : Cmd) : Bool :=
  (exclusive b.opcode && exclusive c.opcode) ||
  (turnSlot b == turnSlot c && turnSlot c != 8 &&
    (b.note == held || b.opcode == Op.schedLoad || b.opcode == Op.schedUnload))

/-- Opcodes that wait for their turn. -/
def takesTurns (op : Nat) : Bool :=
  exclusive op || op == Op.runStart || op == Op.runStop || op == Op.queueBind || op == Op.queueUnbind

/-- The first command that waits and that nothing before it keeps. -/
def firstReady : List Cmd → List Cmd → Option Cmd
  | _, [] => none
  | pre, c :: l =>
    if c.note == held && !pre.any (fun b => takesTurns b.opcode && holdsBack b c) then some c else firstReady (pre ++ [c]) l

namespace State

/-! ### Loads and unloads -/

/-- Slot p is EMPTY: every register of it reads as at reset, and its queues and bindings are gone (R211, R216). -/
def emptySlot (s : State) (p : Nat) : State := { s with slots := s.slots.set p {} }

/-- A load fails a check of R209. -/
def failLoad (s : State) (c : Cmd) (f : ImgFail) : State :=
  s.complete c f.status f.order (leBytes 2 f.sec ++ leBytes 2 f.core ++ zeros 4 ++ leBytes 8 f.idx)

/-- `SCHED_LOAD` begins: the checks of R209 in their order; where all pass the load goes on until `LOAD_COMPLETE`.
The owner key is that of the command's acceptance (R444). -/
def beginLoad (s : State) (c : Cmd) : State :=
  let p := arg c.args 0 1; let da := arg c.args 8 8; let n := arg c.args 16 8
  if s.slotActive p then s.failLoad c ⟨Sts.runActive, 1, 0, 0, 0⟩
  else if n < 0x60 then s.failLoad c ⟨Sts.badFormat, 2, 0, 0, 0⟩
  else match s.readDa Who.host da 0x60 with
    | (.error e, t) => t.answer c (t.errStatus e)
    | (.ok h, t) =>
      if n != leAt h 0x10 8 + (if leAt h 0x0C 4 == 1 then 256 else 0) then t.failLoad c ⟨Sts.badFormat, 2, 0, 0, 0⟩
      else match t.readDa Who.host da n with
        | (.error e, u) => u.answer c (u.errStatus e)
        | (.ok b, u) =>
          match { u with sec := { u.sec with owner := c.own.1, ownerErr := c.own.2 } }.validate p b with
          | .error f => u.failLoad c f
          | .ok _ =>
            let v := u.noteCmd c 1
            { v with kpr := { v.kpr with loading := b } }

/-- `SCHED_UNLOAD` (R211). -/
def beginUnload (s : State) (c : Cmd) : State :=
  let p := arg c.args 0 1
  if s.slotActive p then s.answer c Sts.runActive else (s.emptySlot p).answer c Sts.ok

/-! ### Runs -/

/-- A die of the partition of slot p holds a turf end that a staging in progress writes (R264). -/
def stagesInto (s : State) (p : Nat) : Bool :=
  s.kpr.stage.any fun e => match coreOfDa e.dst with
    | some c => decide (turfBase ≤ e.dst ∧ e.dst < sramBase) && s.slotHasDie p (dieOf c)
    | none => false

/-- An ageing measurement in progress is abandoned: a run start has been accepted (R422). DEDUCED: log entry 61. -/
def abandonMeasure (s : State) : State :=
  let t := { s with thm := { s.thm with measuring := none } }
  t.completeWhere (fun c => c.opcode == Op.ageMeasure) Sts.runActive 0 []

/-- Why a run start at s with seed and end RFN is refused (R217, R264, R340); `OK` where it is not. DEDUCED: log entry 71. -/
def startStatus (s : State) (p sFn acc : Nat) : Nat :=
  let d := (sFn + 2 ^ 48 - s.fn.toNat) % 2 ^ 48
  if !s.counting then Sts.notCounting
  else if d ≤ 1 || 2 ^ 47 ≤ d then Sts.tooLate
  else if 2 ^ 32 < (sFn + 2 ^ 48 - acc) % 2 ^ 48 then Sts.tooEarly
  else if s.slotState p != 1 then Sts.slotState
  else if s.thm.pendCls.isSome then Sts.marginPending
  else match (s.slot p).img with
    | none => Sts.slotState
    | some i =>
      if bitAt (s.slot p).sts 8 then Sts.imageStale
      else if i.period != s.period then Sts.periodMismatch
      else if ((s.partCores i).any fun c => s.coreState c != 1) || s.stagesInto p then Sts.coreState
      else if i.queues.any fun d => (s.que p d.q).hostRing && (s.que p d.q).hostAddr.isNone then Sts.queueUnbound
      else if (List.range 24).any fun j => i.clUsed.testBit j && s.lnkState j != lnkUp then Sts.linkDown
      else Sts.ok

/-- `RUN_START` (R216, R217): LOADED to STARTING; the command stays open until the run is RUNNING or the start is cancelled. -/
def beginStart (s : State) (c : Cmd) : State :=
  let p := arg c.args 0 1; let sFn := arg c.args 8 8
  let st := s.startStatus p sFn (fld c.acc 47 0)
  if st != Sts.ok then s.answer c st
  else
    let dflt := match (s.slot p).img with
      | some i => i.seed
      | none => 0
    let seed := if (arg c.args 1 1).testBit 0 then BitVec.ofNat 64 (arg c.args 16 8) else dflt
    (s.updSlot p fun y => { y with
      sts := setFld y.sts 1 0 2, start := BitVec.ofNat 64 sFn, seed := seed, endRfn := arg c.args 24 8, prepared := false
      halt := none, mute := none, ending := none }).abandonMeasure

/-- `RUN_STOP` (R216, R218, R219): a start is cancelled; a run halts at the end of the target flash, or of the current one.
DEDUCED: log entry 72. -/
def beginStop (s : State) (c : Cmd) : State :=
  let p := arg c.args 0 1; let target := (arg c.args 1 1).testBit 0
  if s.slotState p == 2 then (s.cancelStart p 1).complete c Sts.ok 0 (leBytes 8 0)
  else if s.slotState p != 3 then s.answer c Sts.slotState
  else
    let now := s.curRfn p
    let e := if target then arg c.args 8 8 else now
    let last := (s.slot p).endRfn
    if target && e ≤ now then s.answer c Sts.tooLate
    else if last != 0 && last ≤ e then s.answer c Sts.slotState
    else s.haltAt p e 2

/-! ### Queue bindings -/

/-- `QUEUE_BIND` (R364). In mode 0 `AVAIL` follows the tail (R222); to a host ring the entries from the head on are pushed.
DEDUCED: log entry 71. -/
def beginBind (s : State) (c : Cmd) : State :=
  let p := arg c.args 0 1; let q := arg c.args 1 1
  if s.slotState p != 1 then s.answer c Sts.slotState
  else match s.queDecl? p q with
    | none => s.answer c Sts.queueInvalid
    | some d =>
      let ring := arg c.args 3 1 == 1
      (s.updQue p q fun x => { x with
        vector := arg c.args 2 1, hostRing := ring, hostAddr := if ring then some (arg c.args 8 8) else none
        pushed := fld x.head 31 0, avail := if ring || !d.input then x.avail else x.tail }).answer c Sts.ok

/-- `QUEUE_UNBIND` (R364): the host address goes, the mode stays. -/
def beginUnbind (s : State) (c : Cmd) : State :=
  let p := arg c.args 0 1; let q := arg c.args 1 1
  match s.queDecl? p q with
  | none => s.answer c Sts.slotState
  | some _ => (s.updQue p q fun x => { x with hostAddr := none }).answer c Sts.ok

/-! ### Staging -/

/-- `n` bytes from `da` lie wholly within one core's turf slice (R262). -/
def inOneTurf (da n : Nat) : Bool :=
  decide (turfBase ≤ da ∧ da + n ≤ sramBase) && (da - turfBase) / turfLen == (da + n - 1 - turfBase) / turfLen

/-- `n` bytes from `da` lie wholly within the hashed HBM range or the alias (R262). -/
def inHbm (da n : Nat) : Bool := decide (da + n ≤ turfBase) || decide (aliasBase ≤ da ∧ da + n ≤ 0x0180_0000_0000)

/-- The turf end of a staging entry. -/
def turfEnd (e : StageEnt) : Nat := if inOneTurf e.src e.len then e.src else e.dst

/-- The HBM end of a staging entry. -/
def hbmEnd (e : StageEnt) : Nat := if inOneTurf e.src e.len then e.dst else e.src

/-- A staging entry meets R262; `gone` are the dies that were fenced when the command was accepted. DEDUCED: log entry 73. -/
def stageOk (s : State) (gone : BitVec 32) (e : StageEnt) : Bool :=
  e.len != 0 && e.len % 64 == 0 &&
  ((inOneTurf e.src e.len && inHbm e.dst e.len) || (inHbm e.src e.len && inOneTurf e.dst e.len)) &&
  match coreOfDa (turfEnd e) with
  | some c => s.presented c && !gone.getLsbD (dieOf c)
  | none => false

/-- A staging entry needs a part whose buoy is low: the die of its turf end, which may be fenced since, or a stack of its HBM end (R359,
R376). DEDUCED: log entry 73. -/
def stageDown (s : State) (e : StageEnt) : Bool :=
  s.buoyLow (turfEnd e) || (List.range (e.len / 64)).any fun u => s.buoyLow (hbmEnd e + 64 * u)

/-- The turf end of an entry lies in a partition whose slot is STARTING or RUNNING. -/
def stageBusy (s : State) (e : StageEnt) : Bool :=
  match coreOfDa (turfEnd e) with
  | some c => match s.slotOf c with
    | some p => s.slotActive p
    | none => false
  | none => false

/-- A staging list as it lies in memory: its entries, and whether every reserved byte is zero (R262). -/
def parseStage (b : List Byte) : List StageEnt × Bool :=
  ((chunks 32 b).map fun e => { src := leAt e 0 8, dst := leAt e 8 8, len := leAt e 16 8, hit := false },
   (chunks 32 b).all fun e => zeroAt e 24 8)

/-- `MEM_STAGE` begins: every entry is checked before data moves (R262, R359, R376). DEDUCED: log entry 73. -/
def beginStage (s : State) (c : Cmd) : State :=
  match s.readDa Who.host (arg c.args 0 8) (32 * arg c.args 8 4) with
  | (.error e, t) => t.answer c (t.errStatus e)
  | (.ok b, t) =>
    let (es, clean) := parseStage b
    if !clean || !es.all (t.stageOk c.gone) then t.answer c Sts.badAddress
    else if es.any t.stageDown then t.answer c Sts.dieUnavailable
    else if es.any t.stageBusy then t.answer c Sts.runActive
    else (t.setIod 0 R.memStageSts (BitVec.ofNat 64 (2 ^ 63))).noteCmd c 1 |> fun u => { u with kpr := { u.kpr with stage := es } }

/-! ### Turns -/

/-- A command whose turn has come begins. -/
def begin_ (s : State) (c : Cmd) : State :=
  if c.opcode == Op.schedLoad then s.beginLoad c
  else if c.opcode == Op.schedUnload then s.beginUnload c
  else if c.opcode == Op.memStage then s.beginStage c
  else if c.opcode == Op.runStart then s.beginStart c
  else if c.opcode == Op.runStop then s.beginStop c
  else if c.opcode == Op.queueBind then s.beginBind c
  else s.beginUnbind c

/-- Commands whose turn has come begin, in order, at most `n` of them. -/
def turns : Nat → State → State
  | 0, s => s
  | n + 1, s =>
    match firstReady [] s.kpr.accepted with
    | none => s
    | some c => turns n ((s.noteCmd c 0).begin_ { c with note := 0 })

/-- Every command whose turn has come begins (R263, R359). -/
def pump (s : State) : State := turns s.kpr.accepted.length s

/-- A command takes its place among those that act on the same object. -/
def order (s : State) (c : Cmd) : State := (s.noteCmd c held).pump

end State

end Sys2Proof.Machine
end

