-- ==== Sys2Proof/Machine/Heat.lean ====
section
/-!
DEFINITION. Heat as every family sees it: sensors and governing readings (R395-R399), damper demands (R402-R404, R407, R413, R415),
THERMAL log entries (R431), the pins and duty that follow from them (R408, R469, R478), and the bands (R241).
-/

namespace Sys2Proof.Machine

/-- Number of a sensor, in the order of the sensor record (R395, R430). -/
def snsKey : Sensor → Nat
  | .logic d i => 10 * d.val + i.val
  | .turf d up => 10 * d.val + 8 + up.toNat
  | .iod i k => 320 + 2 * i.val + k.val
  | .stack k => 328 + k.val
  | .module i => 336 + i.val

/-- Kind, unit and index of sensor number k in records and entries (R430). -/
def snsWhere (k : Nat) : Nat × Nat × Nat :=
  if k < 320 then (if k % 10 < 8 then (0, k / 10, k % 10) else (1, k / 10, k % 10 - 8))
  else if k < 328 then (2, (k - 320) / 2, (k - 320) % 2)
  else if k < 336 then (3, k - 328, 0)
  else (4, 0, k - 336)

/-- Coolant states (R413). -/
abbrev coolNormal : Nat := 0
abbrev coolLow : Nat := 1
abbrev coolStarved : Nat := 2
abbrev coolLost : Nat := 3

/-- A temperature in 1/16 °C as a 16-bit field, and in °C as an 8-bit one. -/
def temp16 (t : Int) : Nat := unsigned 16 t
def temp8 (t : Int) : Nat := unsigned 8 (t / 16)

namespace State

/-! ### Sensors -/

/-- Sensor number k. -/
def sns (s : State) (k : Nat) : SnsX := s.thm.sns.get {} k

/-- Sensor record changed. -/
def updSns (s : State) (k : Nat) (f : SnsX → SnsX) : State :=
  { s with thm := { s.thm with sns := s.thm.sns.set k (f (s.sns k)) } }

/-- Value of a sensor: what replaces it while it is suspect (R397). DEDUCED: log entry 59. -/
def snsVal (s : State) (k : Nat) : Int := if (s.sns k).suspect then (s.sns k).repl else (s.sns k).val

/-- The higher of the sensors of quadrant q of die d that are not suspect (R398). -/
def quadOwn (s : State) (d q : Nat) : Option Int :=
  (([2 * q, 2 * q + 1].filter fun i => !(s.sns (10 * d + i)).suspect).map fun i => s.snsVal (10 * d + i)).foldl
    (fun m v => some (match m with
      | none => v
      | some w => max w v)) none

/-- Governing reading of quadrant q of die d as it forms now: with both sensors suspect, the hottest other quadrant plus the model's
offset (R398). -/
def quadGov (s : State) (d q : Nat) : Int :=
  match s.quadOwn d q with
  | some v => v
  | none =>
    let others := ([0, 1, 2, 3].filter (· != q)).map fun r => (s.quadOwn d r).getD (s.snsVal (10 * d + 2 * r))
    others.foldl max (others.headD 0) + Config.siteOffset s.free (10 * d + 2 * q)

/-- Quadrant of a local core (R395). -/
def quadOf (l : Nat) : Nat := 2 * (l / 4 / 2) + l % 4 / 2

/-- Governing reading of local core l of die d as it forms now; the spare physical core takes the hottest quadrant (R398). -/
def formCore (s : State) (d l : Nat) : Int :=
  if s.bearer d l = some 16 then ([1, 2, 3].map (s.quadGov d)).foldl max (s.quadGov d 0)
  else s.quadGov d (quadOf l) + max (-64) (min 64 (Config.coreOffset s.free (coreAt d l)))

/-- Governing reading of local core l of die d. -/
def coreGov (s : State) (d l : Nat) : Int := (s.thmDie d).core.get 0 l

/-- The hottest core of a die, the lowest local number among equals, with its reading (R398, R402). -/
def hotCore (s : State) (d : Nat) : Nat × Int :=
  ((List.range 16).drop 1).foldl (fun m l => if m.2 < s.coreGov d l then (l, s.coreGov d l) else m) (0, s.coreGov d 0)

/-- Refresh margin of a turf die in °C (R424). -/
def turfMargin (s : State) (d : Nat) (up : Bool) : Nat :=
  if up then fld (s.die d R.thmTurf) 47 40 else fld (s.die d R.thmTurf) 39 32

/-- Governing reading of a turf die (R398). -/
def turfGov (s : State) (d : Nat) (up : Bool) : Int := s.snsVal (10 * d + 8 + up.toNat) + 16 * s.turfMargin d up

/-- All eight logic sensors of a die are suspect (R399). DEDUCED: log entry 58. -/
def allSuspect (s : State) (d : Nat) : Bool := (List.range 8).all fun i => (s.sns (10 * d + i)).suspect

/-! ### Demands -/

/-- Coolant state. -/
def coolState (s : State) : Nat := fld (s.iod 0 R.thmFlow) 18 16

/-- Division demanded of die d: 0 none, 1 D2, 2 D4 (R399, R402-R404, R413, R415). -/
def dieDemand (s : State) (d : Nat) : Nat :=
  let x := s.thmDie d
  if x.d4core || x.d4turf || s.allSuspect d || coolStarved ≤ s.coolState then 2
  else if s.coolState = coolLow || s.thm.d2req != 0 then 1 else 0

/-- Skip level that the hottest core's reading demands (R402); until its release below 100 °C it stays at that of 100 °C (R415).
DEDUCED: log entry 102. -/
def hotSkip (t : Int) : Nat := min 24 (3 * max 1 ((t / 16).toNat - 99))

/-- Thermal class of the run on die d, from its acceptance on (R404, R407). -/
def runClass (s : State) (d : Nat) : Option Nat :=
  match s.slotOfDie d with
  | none => none
  | some p => if s.slotActive p then (s.slot p).img.map (·.thermal) else none

/-- Skip that the forecast demands of die d: at most the thermal class of a run there (R407). -/
def fcastSkip (s : State) (d : Nat) : Nat := min (s.thmDie d).fcast ((s.runClass d).getD 24)

/-- Skip level that local core l of die d targets (R402, R404, R407): under a division, that beside it. DEDUCED: log entry 102. -/
def coreTarget (s : State) (d l : Nat) : Nat :=
  match s.dieDemand d with
  | 2 => 24
  | 1 => 16
  | _ => max (if (s.thmDie d).react && l = (s.hotCore d).1 then hotSkip (s.hotCore d).2 else 0) (s.fcastSkip d)

/-- Division a die stands at: 0 skip, 1 D2, 2 D4. -/
def dieMode (s : State) (d : Nat) : Nat := fld (s.die d R.thmSts) 1 0

/-! ### What follows for the pins -/

/-- Duty of `COOL_REQ` in % (R408, R469). -/
def duty (s : State) : Nat :=
  if s.kprState != 2 then 100
  else
    let dies := List.range 32
    let hot := (dies.map fun d => max (s.turfGov d false) (s.turfGov d true)).foldl max 0
    let base := if hot ≤ 1120 then 20 else min 100 (20 + (hot - 1120).toNat / 4)
    let full := s.coolState != coolNormal || dies.any fun d => (s.thmDie d).fcastOn
    max (if full then 100 else base) (fld (s.iod 0 R.thmFlow) 39 32)

/-- `SMB_ALERT_L` is low (R478). -/
def alert (s : State) : Bool :=
  s.powered && (s.coolState != coolNormal || ((List.range 32).any fun d => s.dieMode d != 0) || s.kprState == 3 ||
    (s.lateKeeper && s.kprState != 2))

/-- `COOL_REQ`, its register field and `SMB_ALERT_L` as they stand now. -/
def refreshPins (s : State) : State :=
  let t := { s with pins := { s.pins with coolReq := if s.powered then s.duty else 100, smbAlert := s.alert } }
  if s.powered then t.updIod 0 R.thmFlow fun w => setFld w 31 24 s.duty else t

/-- The outcome of work that bears on heat, the coolant or the Keeper's state. -/
def heatDone (s t : State) : Host.Outcome State Fault Refusal := s.done t.refreshPins

/-- A THERMAL entry and its interrupt (R431). -/
def thermal (s : State) (kind ukind unit idx : Nat) (reading : Int) : State :=
  (s.logEv 0x61 0xFF ([BitVec.ofNat 8 kind, BitVec.ofNat 8 ukind, BitVec.ofNat 8 unit, BitVec.ofNat 8 idx] ++
    leBytes 2 (temp16 reading) ++ leBytes 2 (fld (s.iod 0 R.thmFlow) 15 0) ++ [BitVec.ofNat 8 s.coolState])).raise intThermal

/-- A THERMAL entry about sensor number k. -/
def thermalSns (s : State) (kind k : Nat) : State :=
  s.thermal kind (snsWhere k).1 (snsWhere k).2.1 (snsWhere k).2.2 (s.snsVal k)

/-- The coolant state changes (R413): logged, counted, the conditions held so far forgotten. -/
def setCool (s : State) (v : Nat) : State :=
  let t := s.updIod 0 R.thmFlow fun w => setFld w 18 16 v
  let t := { t with thm := { t.thm with coolUs := [] } }
  t.thermal 4 4 0 0 (s.snsVal 336)

/-! ### Bands -/

/-- Band of a turf die (R241). -/
def turfBand (s : State) (d : Nat) (up : Bool) : Nat := if up then fld (s.die d R.turfSts) 3 2 else fld (s.die d R.turfSts) 1 0

/-- The band of a turf die changes (R241, R319): logged, the slices refresh at the higher band of the two, and where that changes
it is counted and the ports below take new presets at the next mark. -/
def setTurfBand (s : State) (d : Nat) (up : Bool) (v : Nat) : State :=
  let t := s.updDie d R.turfSts fun w => if up then setFld w 3 2 v else setFld w 1 0 v
  let t := t.updThmDie d fun x => if up then { x with upUs := 0 } else { x with loUs := 0 }
  let t := t.logEv 0x60 0xFF [BitVec.ofNat 8 d, BitVec.ofNat 8 v]
  let old := fld (s.die d R.turfSts) 5 4
  let new := max (t.turfBand d false) (t.turfBand d true)
  if old = new then t
  else
    let t := t.updDie d R.turfSts fun w => setFld w 5 4 new
    let t := t.updDie d R.turfBandCnt fun w => if old < new then incFld w 63 32 1 else incFld w 31 0 1
    t.updThmDie d fun x => { x with presetPend := true }

/-- A turf die's governing reading against the thresholds of its band (R241). DEDUCED: log entry 68. -/
def bandChange (s : State) (d : Nat) (up : Bool) : State :=
  let b := s.turfBand d up; let t := s.turfGov d up
  let us := if up then (s.thmDie d).upUs else (s.thmDie d).loUs
  if !s.powered then s
  else if b < 2 && 1520 < t then s.setTurfBand d up 2
  else if b < 1 && 1360 < t then s.setTurfBand d up 1
  else if 0 < b && 10000 ≤ us then s.setTurfBand d up (b - 1)
  else s

end State

end Sys2Proof.Machine
end

