-- ==== Sys2Proof/Machine/Life.lean ====
section
/-!
DEFINITION. The lifetime record (R429): what an update adds to it, and its bytes.
-/

namespace Sys2Proof.Machine

namespace State

/-- Lifetime record changed. -/
def updLife (s : State) (f : LifeX → LifeX) : State := { s with thm := { s.thm with life := f s.thm.life } }

/-- Correctable and uncorrectable errors that the counters of compute die i (i below 32) or stack i - 32 show (R429). -/
def errCounts (s : State) (i : Nat) : Nat × Nat :=
  let w := if i < 32 then s.die i R.turfEccCnt else s.iod ((i - 32) / 2) (R.eccHCnt ((i - 32) % 2))
  (fld w 31 0, fld w 63 32)

/-- Errors added since the last update; a counter that has been cleared counts from 0. -/
def errAdded (seen now : Nat) : Nat := if seen ≤ now then now - seen else now

/-- The lifetime record is updated, `secs` seconds and `kJ` of input energy after the last update (R429). DEDUCED: log entry 62. -/
def lifeUpdate (s : State) (secs kJ : Nat) : State :=
  s.updLife fun l =>
    let dies := List.range 32
    let high (k : Nat) (t : Int) (m : Tbl Int) : Tbl Int := m.set k (max (m.get 0 k) t)
    let errs (l : LifeX) (i : Nat) : LifeX :=
      let n := s.errCounts i
      { l with
        ce := l.ce.upd 0 i (· + errAdded (l.ceSeen.get 0 i) n.1), ceSeen := l.ceSeen.set i n.1
        ue := l.ue.upd 0 i (· + errAdded (l.ueSeen.get 0 i) n.2), ueSeen := l.ueSeen.set i n.2 }
    let l := (List.range 40).foldl errs l
    { l with
      secs := l.secs + secs, kJ := l.kJ + kJ
      lowSecs := l.lowSecs + (if s.coolState = coolLow then secs else 0)
      starvedSecs := l.starvedSecs + (if s.coolState = coolStarved then secs else 0)
      band := dies.foldl (fun b d => b.upd 0 (3 * d + fld (s.die d R.turfSts) 5 4) (· + secs)) l.band
      high := (List.range 8).foldl (fun m k => high (64 + k) (s.sns (328 + k)).high m)
        (dies.foldl (fun m d =>
          high (32 + d) (max (s.sns (10 * d + 8)).high (s.sns (10 * d + 9)).high) (high d (s.thmDie d).high m)) l.high)
      voff := dies.foldl (fun m d => m.set d (BitVec.ofNat 64 (fld (s.die d R.pwrVoff) 7 0))) l.voff
      everSus := l.everSus ++ (List.range 320).filter fun k => (s.sns k).everSuspect && !l.everSus.contains k }

/-- An eye height of chip-link port j measured, in % of manufacture: the lowest stays (R425, R429). DEDUCED: log entry 62. -/
def noteEye (s : State) (j h : Nat) : State :=
  s.updLife fun l =>
    let low := match l.eye.find? j with
      | some o => min o h
      | none => h
    { l with eye := l.eye.set j low }

/-- Entry of die d in the lifetime record. -/
def lifeDie (s : State) (d : Nat) : List Byte :=
  let l := s.thm.life
  let sus := (List.range 10).filter fun i => l.everSus.contains (10 * d + i)
  let ro := l.ro.get [] d
  leBytes 4 (l.band.get 0 (3 * d) / 3600) ++ leBytes 4 (l.band.get 0 (3 * d + 1) / 3600) ++
  leBytes 4 (l.band.get 0 (3 * d + 2) / 3600) ++
  leBytes 2 (temp16 (l.high.get 0 d)) ++ leBytes 2 (temp16 (l.high.get 0 (32 + d))) ++
  leBytes 1 (l.voff.get 0 d).toNat ++ zeros 1 ++
  leBytes 2 (l.can.get (0, 0) d).1 ++ leBytes 2 (l.can.get (0, 0) d).2 ++
  leBytes 2 (sus.foldl (fun m i => m + 2 ^ i) 0) ++
  ro.flatMap (leBytes 4) ++ zeros (32 - 4 * ro.length) ++ zeros 8

/-- The 4,096 bytes of the lifetime record (R429). DEDUCED: log entry 62. -/
def lifeBytes (s : State) : List Byte :=
  let l := s.thm.life
  ascii "KRYLIFE1" ++ leBytes 4 (l.secs / 3600) ++ leBytes 4 l.coldOns ++ leBytes 8 l.kJ ++
  leBytes 2 l.trips ++ leBytes 2 l.lastTrip ++ leBytes 1 l.cls ++ zeros 3 ++
  leBytes 2 (l.lowSecs / 3600) ++ leBytes 2 (l.starvedSecs / 3600) ++ leBytes 4 l.lost ++
  leBytes 4 l.toB ++ leBytes 4 l.toC ++ zeros 16 ++
  (List.range 32).flatMap s.lifeDie ++
  (List.range 8).flatMap (fun k =>
    leBytes 8 (l.ce.get 0 (32 + k)) ++ leBytes 4 (l.ue.get 0 (32 + k)) ++ leBytes 2 (temp16 (l.high.get 0 (64 + k))) ++ zeros 2) ++
  (List.range 24).flatMap (fun j => leBytes 2 (l.eye.get 0 j) ++ leBytes 2 (l.exh.get 0 j)) ++
  (List.range 32).flatMap (fun d => leBytes 8 (l.ce.get 0 d) ++ leBytes 8 (l.ue.get 0 d)) ++ zeros 1248

end State

end Sys2Proof.Machine
end

