-- ==== Sys2Proof/Machine/Thermal.lean ====
section
/-!
DEFINITION. Sampling and its consequences (R396-R403, R414-R416, R430): `SENSOR_SAMPLE`, `SUSPECT_CLEAR`, `TRIP_RECORD`, `THM_READ`,
`THM_COOL_MIN`.
-/

namespace Sys2Proof.Machine

/-- Sensors from which the thermal model estimates sensor k (R397): for a logic diode those of its quadrant and of adjacent quadrants,
the turf dies above and the cold-plate points; for a turf die the other turf die and the cold-plate points; for any other sensor
those of its own unit and the cold-plate points. DEDUCED: log entry 58. -/
def snsNear (k : Nat) : List Nat :=
  let near :=
    if k < 320 then
      let d := k / 10 * 10; let i := k % 10
      if i < 8 then
        let q := i / 2
        ([q, q ^^^ 1, q ^^^ 2].flatMap fun r => [d + 2 * r, d + 2 * r + 1]) ++ [d + 8, d + 9]
      else [d + 8, d + 9]
    else if k < 328 then [k, k ^^^ 1]
    else if k < 336 then []
    else if k < 340 then [336, 337]
    else [340, 341]
  (near ++ [338, 339]).filter (· != k)

/-- Thresholds of the limit table for sensor k, in 1/16 °C, rising (R415). -/
def limitsOf (k : Nat) : List Int :=
  if k < 320 then (if k % 10 < 8 then [1600, 1728, 1888] else [1360, 1520, 1680, 1760])
  else if k < 328 then [1680, 1840]
  else if k < 336 then [1600, 1680]
  else if k < 340 then []
  else [1840, 2000]

/-- Trip threshold of sensor k, and its row of the limit table (R415, R429). -/
def tripOf (k : Nat) : Option (Int × Nat) :=
  if k < 320 then (if k % 10 < 8 then some (1888, 3) else some (1760, 6))
  else if k < 328 then some (1840, 8)
  else if k < 336 then some (1680, 10)
  else if k < 340 then none
  else some (2000, 12)

/-- Sampling rate for a reading: 0 1 kHz, 1 10 kHz, 2 50 kHz (R396). -/
def rateOf (k : Nat) (t : Int) : Nat :=
  match (limitsOf k).find? fun x => t < x with
  | none => 0
  | some x => if x - t ≤ 48 then 2 else if x - t ≤ 160 then 1 else 0

/-- The newest entries of a list of values, each with the µs it stood for, that reach back `n` µs. -/
def lastUs {α : Type} (n : Nat) : List (Nat × α) → List (Nat × α)
  | [] => []
  | e :: l => if n = 0 then [] else (min n e.1, e.2) :: lastUs (n - e.1) l

/-- Four 16-bit fields, the first lowest. -/
def pack4 (l : List Int) : Word := BitVec.ofNat 64 (l.foldr (fun t m => m * 65536 + temp16 t) 0)

namespace State

/-! ### Governing readings -/

/-- `SUSPECT`, `TURF_SUSPECT` and `RATE` of die d. -/
def showSuspect (s : State) (d : Nat) : State :=
  let bits_ (o n : Nat) : Nat := (List.range n).foldl (fun m i => if (s.sns (10 * d + o + i)).suspect then m + 2 ^ i else m) 0
  let rate := (List.range 10).foldl (fun m i => max m (rateOf (10 * d + i) (s.sns (10 * d + i)).val)) 0
  s.updDie d R.thmSts fun w => setFld (setFld (setFld w 23 16 (bits_ 0 8)) 25 24 (bits_ 8 2)) 29 28 rate

/-- `HOT_CORE` and `HOT_N` of die d. -/
def showHot (s : State) (d : Nat) : State :=
  let h := (s.hotCore d).1
  s.updDie d R.thmSts fun w => setFld (setFld w 7 4 h) 12 8 ((s.thmDie d).skip.get 0 h)

/-- The readings of the logic of die d as they now stand: quadrants, cores, the limits of a core (R398, R402, R415). `us` passes where
the first sensor was sampled. -/
def siteLogic (s : State) (d us : Nat) : State :=
  let t := (s.setDie d R.thmSns0 (pack4 ([0, 1, 2, 3].map fun i => s.snsVal (10 * d + i)))).setDie d R.thmSns1
    (pack4 ([4, 5, 6, 7].map fun i => s.snsVal (10 * d + i)))
  let t := t.setDie d R.thmQuad (pack4 ([0, 1, 2, 3].map (s.quadGov d)))
  let t := t.updThmDie d fun x => { x with core := (List.range 16).map fun l => ((l : Nat), s.formCore d l) }
  let hot := (t.hotCore d).2
  let t := t.updThmDie d fun x => { x with
    high := max x.high hot
    d4core := x.d4core || decide (1728 ≤ hot)
    coreUs := if hot ≤ 1664 then x.coreUs + us else 0
    react := x.react || decide (1600 ≤ hot)
    reactUs := if hot ≤ 1520 then x.reactUs + us else 0
    past := if us = 0 then x.past else lastUs 100000 ((us, x.core) :: x.past) }
  let t := if 1600 ≤ hot then t.updDie d R.thmSts fun w => setBit w 30 true else t
  (t.showHot d).showSuspect d

/-- The readings of the turf dies of die d (R241, R398, R403). -/
def siteTurf (s : State) (d us : Nat) : State :=
  let lo := s.turfGov d false; let up := s.turfGov d true
  let t := s.updDie d R.thmTurf fun w => setFld (setFld w 15 0 (temp16 lo)) 31 16 (temp16 up)
  let t := t.updDie d R.turfSts fun w => setFld (setFld w 23 16 (temp8 lo)) 31 24 (temp8 up)
  let cool (b : Nat) (g : Int) : Bool := decide (g ≤ if b = 2 then 1472 else 1312)
  let t := t.updThmDie d fun x => { x with
    d4turf := x.d4turf || decide (1680 < lo) || decide (1680 < up)
    turfUs := if lo ≤ 1632 ∧ up ≤ 1632 then x.turfUs + us else 0 }
  t.showSuspect d |>.updThmDie d fun x => { x with
    loUs := if cool (t.turfBand d false) lo then x.loUs else 0
    upUs := if cool (t.turfBand d true) up then x.upUs else 0 }

/-- D2 is demanded of every die by unit b where `hot` holds, and its release counts while `cold` does (R415). -/
def demandD2 (s : State) (b us : Nat) (hot cold : Bool) : State :=
  { s with thm := { s.thm with
    d2req := if hot then orBit s.thm.d2req b else s.thm.d2req
    d2us := s.thm.d2us.set b (if cold then s.thm.d2us.get 0 b + us else 0) } }

/-- The readings of I/O die i. -/
def siteIod (s : State) (i us : Nat) : State :=
  let a := s.snsVal (320 + 2 * i); let b := s.snsVal (321 + 2 * i)
  let sus := (s.sns (320 + 2 * i)).suspect.toNat + 2 * (s.sns (321 + 2 * i)).suspect.toNat
  let t := s.setIod i R.thmIod (BitVec.ofNat 64 (sus * 2 ^ 32 + temp16 b * 2 ^ 16 + temp16 a))
  t.demandD2 i us (decide (1680 ≤ max a b)) (decide (max a b ≤ 1600))

/-- The reading of stack k: its refresh follows what the stack itself reports (R248). -/
def siteStack (s : State) (k us : Nat) : State :=
  let v := s.snsVal (328 + k); let own := (s.sns (328 + k)).val
  let rate := if 1520 < own then 2 else if 1360 < own then 1 else 0
  let t := s.updIod (k / 2) (R.hbmSts + k % 2 * 0x10000) fun w => setFld (setFld w 23 16 (temp8 own)) 3 2 rate
  t.demandD2 (4 + k) us (decide (1600 ≤ v)) (decide (v ≤ 1520))

/-- The readings of the module's own inputs. -/
def siteModule (s : State) (i us : Nat) : State :=
  let t := s.setIod 0 R.thmCool (pack4 ([336, 337, 338, 339].map s.snsVal))
  let t := t.setIod 0 R.thmRdiode (pack4 ([340, 341].map s.snsVal))
  if i < 4 then t
  else
    let v := s.snsVal (336 + i)
    t.demandD2 (8 + i) us (decide (1840 ≤ v)) (decide (v ≤ 1760))

/-- The readings of the site of sensor k, `us` after that sensor's previous sample. -/
def site (s : State) (k us : Nat) : State :=
  if k < 320 then
    let d := k / 10
    if k % 10 < 8 then s.siteLogic d (if k % 10 = 0 then us else 0)
    else
      let t := s.updThmDie d fun x => if k % 10 = 8 then { x with loUs := x.loUs + us } else { x with upUs := x.upUs + us }
      t.siteTurf d (if k % 10 = 8 then us else 0)
  else if k < 328 then s.siteIod ((k - 320) / 2) (if k % 2 = 0 then us else 0)
  else if k < 336 then s.siteStack (k - 328) us
  else s.siteModule (k - 336) us

/-! ### A sample -/

/-- The estimate of a sensor and the checks against it (R397). The Keeper makes them; `near` is the hottest neighbour. -/
def crossCheck (s : State) (k : Nat) (t : Int) (us : Nat) (x : SnsX) : SnsX :=
  let est := Config.estimate s.free k
  let depart := if 192 < (t - est).natAbs then x.depart + 1 else 0
  let ntc := decide (336 ≤ k ∧ k < 340) && (decide (t < -320) || decide (2080 < t))
  let sus := x.suspect || decide (3 ≤ depart) || ntc
  { x with
    est := est, depart := depart, suspect := sus, everSuspect := x.everSuspect || sus
    nearUs := if x.suspect && (t - est).natAbs ≤ 64 then x.nearUs + us else 0 }

/-- Value that replaces a suspect sensor: the hottest neighbour and the model's offset (R397). -/
def replacement (s : State) (k : Nat) : Int :=
  let vs := (snsNear k).map s.snsVal
  vs.foldl max (vs.headD 0) + Config.siteOffset s.free k

/-- Module input power, W. -/
def inputW (s : State) : Nat := fld (s.iod 0 R.thmSupply) 31 16

/-- A sudden loss of coolant (R414): `COOL_FAULT_L` is driven low and the coolant state is LOST. -/
def suddenLoss (s : State) : State :=
  if s.coolState = coolLost then s
  else
    let t := { s with pins := { s.pins with coolFault := true } }
    let t := t.updIod 0 R.thmFlow fun w => setBit w 40 true
    ((t.updLife fun l => { l with lost := l.lost + 1 }).setCool coolLost).lifeUpdate 0 0

/-- A trip is declared (R416): latched, and the core clocks stop. DEDUCED: log entry 59. -/
def declareTrip (s : State) (k row : Nat) : State :=
  { s with thm := { s.thm with trip := true, tripRow := row }, pins := { s.pins with thermTrip := true } }.thermalSns 5 k

/-- The sample is taken up: cross-check, replacement, the count of R414, the highest value (R429), what R412 and R413 average and time.
DEDUCED: log entry 59. -/
def takeSample (s : State) (k : Nat) (t : Int) (us : Nat) : State :=
  let x := s.sns k
  let checked := s.kprState == 2
  let y := if checked then s.crossCheck k t us x else x
  let y := { y with repl := if y.suspect then s.replacement k else y.repl }
  let fast := x.seen && !y.suspect && (decide (k < 320) && decide (k % 10 < 8) || k == 338 || k == 339) &&
    decide ((t - x.val) * 1000 > 64 * us)
  let gov := if y.suspect then y.repl else t
  s.updSns k fun _ => { y with
    val := t, seen := true
    rise := if fast then y.rise + 1 else 0
    riseW := (s.inputW :: y.riseW).take 3
    calmUs := if x.seen && decide ((t - x.val) * 1000 > 8 * us) then 0 else x.calmUs + us
    past := if k = 336 ∨ k = 337 then lastUs 100000 ((us, gov) :: x.past) else x.past
    high := max y.high gov }

/-- What the comparator of sensor k holds against its trip threshold: its site's governing reading, for a logic diode that of the hottest
core of its quadrant; while the Keeper is not RUNNING the raw reading (R398, R415, R416). DEDUCED: log entry 59. -/
def tripReading (s : State) (k : Nat) : Int :=
  if s.kprState != 2 then (s.sns k).val
  else if k < 320 then
    let d := k / 10
    if k % 10 < 8 then
      (((List.range 16).filter fun l => quadOf l == k % 10 / 2).map (s.coreGov d)).foldl max (s.quadGov d (k % 10 / 2))
    else s.turfGov d (k % 10 == 9)
  else s.snsVal k

/-- Samples in a row at which sensor k has reached its trip threshold (R416). -/
def countTrip (s : State) (k : Nat) : State :=
  match tripOf k with
  | none => s
  | some (lim, _) => s.updSns k fun x => { x with trip := if lim ≤ s.tripReading k then x.trip + 1 else 0 }

/-- A sensor is sampled (R396): `t` in 1/16 °C, `us` after its previous sample. -/
def sample (s : State) (k : Nat) (t : Int) (us : Nat) : State :=
  if !s.powered then s
  else
    let was := (s.sns k).suspect; let d := k / 10
    let all := decide (k < 320) && s.allSuspect d
    let u := ((s.takeSample k t us).site k us).countTrip k
    let u := u.bumpFree
    let x := u.sns k
    let u := if x.suspect && !was then u.thermalSns 2 k else u
    let u := if decide (k < 320) && u.allSuspect d && !all then u.thermal 8 0 d 0 (u.snsVal (10 * d)) else u
    let u := if 3 ≤ x.rise && 10 * u.inputW ≤ 11 * x.riseW.getD 2 0 then u.suddenLoss else u
    match tripOf k with
    | some (_, row) => if 2 ≤ x.trip && !u.thm.trip then u.declareTrip k row else u
    | none => u

/-- A suspect mark clears after 10 s within 4 °C of the estimate (R397). -/
def suspectClear (s : State) (k : Nat) : State :=
  let x := s.sns k
  if s.powered && x.suspect && decide (10000000 ≤ x.nearUs) then
    ((s.updSns k fun y => { y with suspect := false, depart := 0, nearUs := 0 }).site k 0).bumpFree.thermalSns 3 k
  else s

/-- 20 ms after a trip the Keeper writes its cause into the lifetime record (R416, R429). -/
def tripRecord (s : State) : State :=
  if s.powered && s.thm.trip && !s.thm.tripWritten && s.kprState == 2 then
    let t := { s with thm := { s.thm with tripWritten := true } }
    (t.updLife fun l => { l with trips := l.trips + 1, lastTrip := s.thm.tripRow }).lifeUpdate 0 0
  else s

/-! ### The sensor record -/

/-- Entry of sensor k (R430). -/
def snsEntry (s : State) (k : Nat) : List Byte :=
  let w := snsWhere k; let x := s.sns k
  let gov := match w.1 with
    | 1 => s.turfGov w.2.1 (w.2.2 == 1)
    | _ => s.snsVal k
  [BitVec.ofNat 8 w.1, BitVec.ofNat 8 w.2.1, BitVec.ofNat 8 w.2.2, BitVec.ofNat 8 (if x.suspect then 3 else 0)] ++
    leBytes 2 (temp16 gov) ++ leBytes 2 (temp16 x.est)

/-- The 2,752 bytes of the sensor record (R430). -/
def snsRecord (s : State) : List Byte :=
  leBytes 4 342 ++ zeros 4 ++ leBytes 8 s.fnWord.toNat ++ (List.range 342).flatMap s.snsEntry

/-- A record written to a command's buffer, whose length must not be below the record's. -/
def giveRecord (s : State) (c : Cmd) (record : List Byte) : State :=
  if arg c.args 8 4 < record.length then s.answer c Sts.badArg
  else
    let (st, t) := s.bufWrite (arg c.args 0 8) record
    t.answer c st

end State

/-- `SENSOR_SAMPLE` (R396). -/
def execSensorSample (x : Sensor) (t : Int) (us : Nat) (s : State) : Host.Outcome State Fault Refusal :=
  s.heatDone (s.sample (snsKey x) t us)

/-- `SUSPECT_CLEAR` (R397). -/
def execSuspectClear (x : Sensor) (s : State) : Host.Outcome State Fault Refusal := s.heatDone (s.suspectClear (snsKey x))

/-- `TRIP_RECORD` (R416). -/
def execTripRecord (s : State) : Host.Outcome State Fault Refusal := s.done s.tripRecord

/-- `THM_READ` (R430). -/
def execThmRead (m : Mbox) (s : State) : Host.Outcome State Fault Refusal :=
  s.done (s.serve Op.thmRead 16 [(0, 12)] m fun t c => t.giveRecord c t.snsRecord)

/-- `THM_COOL_MIN` (R408). -/
def execThmCoolMin (m : Mbox) (s : State) : Host.Outcome State Fault Refusal :=
  s.heatDone (s.serve Op.thmCoolMin 8 [(0, 1)] m fun t c =>
    if 100 < arg c.args 0 1 then t.answer c Sts.badArg
    else (t.updIod 0 R.thmFlow fun w => setFld w 39 32 (arg c.args 0 1)).answer c Sts.ok)

end Sys2Proof.Machine
end

