-- ==== Sys2Proof/Machine/Ageing.lean ====
section
/-!
DEFINITION. Ageing and margins (R421-R429): `IDLE_MEASUREMENT`, `MEASUREMENT_COMPLETE`, `REPLICA_READ`, `MARGIN_CHANGE`,
`LIFETIME_UPDATE`, `AGE_READ`, `AGE_MEASURE`.
-/

namespace Sys2Proof.Machine

/-- Voltage offset for a required offset in mV, in units of 5 mV (R423). -/
def offsetFor (req : Nat) : Nat := min 12 (cdiv (req + 10) 5)

/-- Required offset of a die at a margin class, of those at A, B and C. -/
def reqAt (reqs : List Nat) (cls : Nat) : Nat := reqs.getD cls 0

/-- Turf refresh margin in °C for a canary count (R424). -/
def canaryMargin (f : Nat) : Nat := if f = 0 then 0 else if f < 16 then 3 else if f < 256 then 6 else 10

/-- The required offsets of a measured die. -/
def measReqs (m : DieMeas) : List Nat := [m.reqA, m.reqB, m.reqC]

/-- Every measured die meets the bound of R426 at a class. -/
def fitsClass (ms : List DieMeas) (cls : Nat) : Bool := ms.all fun m => decide (reqAt (measReqs m) cls + 10 ≤ 50)

/-- The margin class after a measurement taken at class `cls` (R426): it never rises. -/
def planClass (ms : List DieMeas) (cls : Nat) : Nat :=
  if fitsClass ms cls then cls
  else (([0, 1, 2].filter fun c => decide (cls < c)).find? (fitsClass ms)).getD 2

/-- The measured dies to be fenced for margin: even class C is beyond 60 mV (R426). -/
def overMargin (ms : List DieMeas) (cls : Nat) : List Nat :=
  if planClass ms cls = 2 then (ms.filter fun m => decide (60 < m.reqC + 10)).map fun m => m.die.val else []

/-- The last 8 of a list with one more. -/
def last8 (l : List Nat) (n : Nat) : List Nat := (l ++ [n]).drop (l.length + 1 - 8)

namespace State

/-! ### A full measurement -/

/-- The voltage offset of die d for the margin class in force (R423). -/
def setOffset (s : State) (d : Nat) : State :=
  let r := reqAt (s.thmDie d).req s.thm.cls
  s.setDie d R.pwrVoff (BitVec.ofNat 64 (min 255 (cdiv r 5) * 256 + offsetFor r))

/-- The voltage offset of die d raised to that of the class in force; between measurements none is lowered (R423).
DEDUCED: log entry 61. -/
def raiseOffset (s : State) (d : Nat) : State :=
  let o := fld (s.die d R.pwrVoff) 7 0
  (s.setOffset d).updDie d R.pwrVoff fun w => setFld w 7 0 (max o (fld w 7 0))

/-- A turf die's canary count is high: an entry (R424, R431). -/
def canaryLog (s : State) (d up f : Nat) : State := if 256 ≤ f then s.thermal 9 1 d up (s.turfGov d (up == 1)) else s

/-- What a measurement of kind `kind` found on one die (R421-R424). -/
def measureDie (s : State) (kind : Nat) (m : DieMeas) : State :=
  let d := m.die.val
  let t := s.setDie d R.ageRo (BitVec.ofNat 64 (m.roMax.toNat * 2 ^ 32 + m.roMed.toNat))
  let t := t.setDie d R.ageCpr (BitVec.ofNat 64 (m.cprCore.val * 2 ^ 16 + m.cprPs.toNat))
  let t := t.setDie d R.ageCanary (BitVec.ofNat 64 (min m.canUp 65535 * 2 ^ 16 + min m.canLo 65535))
  let t := t.setDie d R.ageLast (BitVec.ofNat 64 (kind * 2 ^ 32 + t.thm.life.secs / 3600 % 2 ^ 32))
  let t := t.updThmDie d fun x => { x with req := (measReqs m) }
  let t := t.updDie d R.thmTurf fun w => setFld (setFld w 39 32 (canaryMargin m.canLo)) 47 40 (canaryMargin m.canUp)
  let t := t.updLife fun l => { l with
    ro := l.ro.set d (last8 (l.ro.get [] d) m.roMed.toNat), can := l.can.set d (min m.canLo 65535, min m.canUp 65535) }
  ((t.setOffset d).siteTurf d 0 |>.canaryLog d 0 m.canLo).canaryLog d 1 m.canUp

/-- Eye heights measured. -/
def noteEyes (s : State) (eyes : List (ClPort × Nat)) : State := forEach eyes s fun t e => t.noteEye e.1.val e.2

/-- A die is fenced for margin (R426, R427, R431). -/
def fenceMargin (s : State) (d : Nat) : State := if s.fenced d then s else (s.loseDie d).thermal 7 0 d 0 (s.hotCore d).2

/-- A new margin class is in force: offsets, cycles per flash, the lifetime record (R423, R426, R428). The lowering from A to C makes
both lowerings of the record. DEDUCED: log entry 61. -/
def setClass (s : State) (c : Nat) : State :=
  let old := s.thm.cls
  let t := { s with thm := { s.thm with cls := c, pendCls := none } }
  let hour (l : LifeX) : Nat := l.secs / 3600
  let t := t.updLife fun l => { l with
    cls := c
    toB := if old = 0 ∧ 1 ≤ c then hour l else l.toB, toC := if old < 2 ∧ c = 2 then hour l else l.toC }
  (t.aside fun t => forEach (List.range 32) t fun t d => t.raiseOffset d).refreshCpf

/-- A class change comes into force: the lock buoy falls and rises again, and a period that the class does not allow takes the Beacon out of
ARMED or COUNTING (R35, R375, R428). DESIGN CHOICE: log entry 110. -/
def changeClass (s : State) (c : Nat) : State :=
  let lock := bitAt s.host.buoy0 2
  let t := (s.aside fun u => u.buoy0 2 false).setClass c
  let t := if 2 ≤ t.bcnState && !t.periodFits then
      let u := (t.bcnFlag 10).setBcnState 1
      u.clearArm.aside fun u => u.armDone Sts.bcnState
    else t
  if lock then t.aside fun u => u.buoy0 2 true else t

/-- The margin plan of a full measurement (R423-R426): registers, refresh margins, presets, the class. At a cold power-on the class takes
effect at once (R428); otherwise a lower class is pending, and every image is stale (R212, R214). DEDUCED: log entry 61. -/
def marginPlan (s : State) (kind : Nat) (ms : List DieMeas) (eyes : List (ClPort × Nat)) : State :=
  let cls := s.thm.pendCls.getD s.thm.cls
  let next := planClass ms cls
  let t := s.aside fun t => (forEach ms t fun t m => t.measureDie kind m).noteEyes eyes
  let t := { t with thm := { t.thm with plan := t.thm.plan + 1, lastMeas := some t.thm.life.secs, measuring := none } }
  let t :=
    if next = cls then t
    else if kind = 1 then (t.changeClass next).aside fun u => (forEach ms u fun u m => u.setOffset m.die.val).lifeUpdate 0 0
    else t.aside fun t => (({ t with thm := { t.thm with pendCls := some next } }).logEv 0x62 0xFF
      [BitVec.ofNat 8 t.thm.cls, BitVec.ofNat 8 next, 1]).markStale 1
  t.aside fun t => forEach (overMargin ms cls) t fun t d => t.fenceMargin d

/-! ### Measurements that run -/

/-- A measurement has run within the last hour (R422). -/
def measuredLately (s : State) : Bool :=
  match s.thm.lastMeas with
  | some n => decide (s.thm.life.secs < n + 3600)
  | none => false

/-- No slot has been STARTING or RUNNING for 1 s (R422). DEDUCED: log entry 61. -/
def idleLong (s : State) : Bool := !s.anyActive && decide (1000 ≤ s.kpr.idleMs)

/-- An idle window opens (R422). -/
def idleMeasure (s : State) : State :=
  if s.powered && s.kpr.coldDone && s.kpr.reset.isNone && s.kprState == 2 && s.idleLong && s.thm.measuring.isNone &&
      !s.measuredLately then
    { s with thm := { s.thm with measuring := some 2 } }
  else s

/-- A measurement in progress ends (R422, R423, R426). -/
def measureDone (s : State) (ms : List DieMeas) (eyes : List (ClPort × Nat)) : State :=
  match s.thm.measuring with
  | none => s
  | some k =>
    let t := s.marginPlan k ms eyes
    t.aside fun t => t.completeWhere (fun c => c.opcode == Op.ageMeasure) Sts.ok 0 [BitVec.ofNat 8 (t.thm.pendCls.getD t.thm.cls)]

/-- A replica is read: below its floor its die's offset rises by 5 mV; at 60 mV the die is fenced (R423, R427). -/
def replicaRead (s : State) (d p ps : Nat) (below : Bool) : State :=
  if !s.powered || s.fenced d then s
  else
    let w := s.die d R.ageCpr
    let t := if w = 0 ∨ fld w 20 16 = p ∨ signed 16 ps < signed 16 (fld w 15 0) then
        s.setDie d R.ageCpr (BitVec.ofNat 64 (p * 2 ^ 16 + ps))
      else s
    if !below then t
    else
      let o := fld (s.die d R.pwrVoff) 7 0
      if 12 ≤ o then t.fenceMargin d else t.updDie d R.pwrVoff fun v => setFld v 7 0 (o + 1)

/-- A pending class change is applied: logged, every image stale (R428). -/
def applyClass (s : State) (c : Nat) : State :=
  let old := s.thm.cls
  (s.changeClass c).aside fun u =>
    ((u.lifeUpdate 0 0).logEv 0x62 0xFF [BitVec.ofNat 8 old, BitVec.ofNat 8 c, 0]).markStale 1

/-- A pending class change is applied once no slot is STARTING or RUNNING (R214, R428). -/
def marginChange (s : State) : State :=
  match s.thm.pendCls with
  | some c => if s.powered && s.kprState == 2 && !s.anyActive then s.applyClass c else s
  | none => s

end State

/-- `IDLE_MEASUREMENT` (R422). -/
def execIdleMeasurement (s : State) : Host.Outcome State Fault Refusal := s.done s.idleMeasure

/-- `MEASUREMENT_COMPLETE` (R423). -/
def execMeasurementComplete (ms : List DieMeas) (eyes : List (ClPort × Nat)) (s : State) : Host.Outcome State Fault Refusal :=
  s.bcnDone (s.measureDone ms eyes).refreshPins

/-- `REPLICA_READ` (R423). -/
def execReplicaRead (die : Die) (p : Fin 17) (ps : BitVec 16) (below : Bool) (s : State) : Host.Outcome State Fault Refusal :=
  s.heatDone (s.replicaRead die.val p.val ps.toNat below)

/-- `MARGIN_CHANGE` (R428). -/
def execMarginChange (s : State) : Host.Outcome State Fault Refusal := s.bcnDone s.marginChange

/-- `LIFETIME_UPDATE` (R429). -/
def execLifetimeUpdate (x : LifeTick) (s : State) : Host.Outcome State Fault Refusal :=
  s.done (if s.powered && s.kprState == 2 then s.lifeUpdate x.secs x.kJ else s)

/-- `AGE_READ` (R429). -/
def execAgeRead (m : Mbox) (s : State) : Host.Outcome State Fault Refusal :=
  s.done (s.serve Op.ageRead 16 [(0, 12)] m fun t c => t.giveRecord c t.lifeBytes)

/-- `AGE_MEASURE` (R422), refused with `RUN_ACTIVE` until 1 s after the last run. It completes when its measurement does.
DEDUCED: log entry 61. -/
def execAgeMeasure (m : Mbox) (s : State) : Host.Outcome State Fault Refusal :=
  s.done (s.serve Op.ageMeasure 0 [] m fun t c =>
    if !t.idleLong then t.answer c Sts.runActive
    else if t.measuredLately || t.thm.measuring.isSome then t.answer c Sts.rateLimited
    else { t with thm := { t.thm with measuring := some 3 } })

end Sys2Proof.Machine
end

