-- ==== Sys2Proof/Machine/Power.lean ====
section
/-!
DEFINITION. What outlives the loss of power: fuses, flash, straps, the host's memory (R370, R429, R432-R443).
-/

namespace Sys2Proof.Machine

namespace State

/-- What of identity and lifecycle lies in fuses and flash. -/
def keepFlash (x : SecX) : SecX :=
  { life := x.life, returns := x.returns, secret := x.secret, floor := x.floor, owner := x.owner, ownerTag := x.ownerTag
    flash := x.flash, flashBusy := x.flashBusy, certs := x.certs }

/-- Every register and memory at its reset value; fuses, flash, the module's build and the host's memory as they were (R370). -/
def powerOff (s : State) : State :=
  { pending := s.pending, free := s.free, out := s.out, iodC := s.iodC, rom := s.rom, hostMem := s.hostMem
    map := { fuseOut := s.map.fuseOut, fuseSpare := s.map.fuseSpare }
    sec := keepFlash s.sec
    thm := { life := s.thm.life } }

end State

end Sys2Proof.Machine
end

