-- ==== Sys2Proof/Machine/Fabric.lean ====
section
/-!
DEFINITION. Die-to-die ports (R316-R324) and die faults (R336-R339): `D2D_FLIT`, `D2D_NAK`, `PORT_DEGRADED`, `D2D_TRAINING_DONE`,
`D2D_TRAINING_TIMEOUT`, `IDLE_PORT`, `DIE_FAULT`.
-/

namespace Sys2Proof.Machine

/-- Reset codes of R387. -/
abbrev rstCold : Nat := 1
abbrev rstPcie : Nat := 2
abbrev rstWarm : Nat := 3
abbrev rstCompute : Nat := 4
abbrev rstPart : Nat := 5

/-- Parameters of a die-to-die CRC (R317). -/
def d2dCrc : CrcP := { w := 16, poly := 0x8BB7, init := 0xFFFF, refin := false, refout := false, finv := false }

/-- The CRC of a data flit with a sequence number (R317). -/
def flitCrc (sq : Nat) (data : List Byte) (ctl : BitVec 16) : Nat :=
  crcOf d2dCrc (leBytes 2 sq ++ data ++ leBytes 2 ctl.toNat)

/-- Bad data lanes of group g, given the bad positions of a port (R313): the spare sits at place 16 of the group. -/
def badLanes (bad : List Nat) (g : Nat) : Nat :=
  (List.range 33).countP fun k => k != 16 && bad.contains (33 * g + k)

/-- The spare of group g is bad. -/
def badSpare (bad : List Nat) (g : Nat) : Bool := bad.contains (33 * g + 16)

/-- A group is whole, or its one bad lane can be replaced (R321). DEDUCED: log entry 47. -/
def groupOk (bad : List Nat) (g : Nat) : Bool := badLanes bad g + (badSpare bad g).toNat ≤ 1

/-- The width that training finds: 0 full, 1 half on groups 0-7, 2 half on groups 8-15, `none` where neither half can be repaired
(R321). DEDUCED: log entry 47. -/
def trainedWidth (bad : List Nat) : Option Nat :=
  let lo := (List.range 8).all (groupOk bad); let hi := (List.range 8).all fun g => groupOk bad (8 + g)
  if lo && hi then some 0 else if lo then some 1 else if hi then some 2 else none

/-- The groups that a width uses. -/
def widthGroups (w : Nat) : List Nat :=
  if w = 1 then List.range 8 else if w = 2 then (List.range 8).map (8 + ·) else List.range 16

/-- `BAD_GRP` of `D2D_PORTp_LANE`: the groups that training could not repair (R321). -/
def badGroups (bad : List Nat) : Word :=
  BitVec.ofNat 64 ((List.range 16).foldl (fun m g => if groupOk bad g then m else m + 2 ^ g) 0 * 2 ^ 32)

/-- Contents of `D2D_PORTp_LANE` after training (R321). -/
def laneWord (bad : List Nat) (w : Nat) : Word :=
  let used := (widthGroups w).foldl (fun m g => if badLanes bad g = 1 then m + 2 ^ g else m) 0
  badGroups bad ||| BitVec.ofNat 64 used

/-- Fields of a flit's control word (R316): its type, 0 idle, 1 data, 2 ACK, 3 NAK, and its sequence number. -/
def ctlType (ctl : BitVec 16) : Nat := bits ctl.toNat 15 12
def ctlSeq (ctl : BitVec 16) : Nat := bits ctl.toNat 11 0

/-- The flits of a replay buffer from the flit named on (R318, R328). -/
def replayFrom (buf : List (Nat × List Byte)) (sq : Nat) : List (Nat × List Byte) := buf.dropWhile fun f => f.1 != sq

namespace State

/-- A port end carries flits, and whether these may be data flits: a DEGRADED port carries only idle and link-management flits
(R323). -/
def portLive (s : State) (e : PortAt) : Bool := s.powered && (s.portState e == portUp || s.portState e == portDegraded)
def portData (s : State) (e : PortAt) : Bool := s.powered && s.portState e == portUp

/-- Retries are exhausted at an end: the flag, and the connection goes DOWN at once (R318, R320). -/
def exhaust (s : State) (e : PortAt) : State :=
  let t := s.updPort e prSts fun w => setBit w 0 true
  match e.conn with
  | some c => t.downConn c
  | none => t

/-- End `o` sends data flits for the first time: each takes the next number, and the replay buffer holds the last 64 (R317, R318).
DEDUCED: log entry 46. -/
def flitsSent (s : State) (o : PortAt) (sent : List (List Byte)) : State :=
  forEach sent s fun t data => t.updLink o fun x => { x with
    txSeq := (x.txSeq + 1) % 4096, replay := (x.replay ++ [((x.txSeq : Nat), data)]).drop (x.replay.length + 1 - 64) }

/-- A data flit has been taken at end `e`, which expects the next one: no NAK stands, and the sender sends it no more (R317, R318).
DEDUCED: log entry 46. -/
def flitTaken (s : State) (e : PortAt) : State :=
  let sq := (s.link e).rxSeq
  let t := s.updLink e fun x => { x with rxSeq := (sq + 1) % 4096, fails := 0, nak := none }
  match e.other with
  | some o => t.updLink o fun x => { x with
      naks := if x.nakSeq = sq then 0 else x.naks, resent := x.resent.filter fun f => f.1 != sq }
  | none => t

/-- The end across sends the flit that end `e` expects next again, on account of a NAK (R318). DEDUCED: log entry 46. -/
def resending (s : State) (e : PortAt) : Bool :=
  match e.other with
  | some o => (s.link o).resent.head?.any fun f => f.1 == (s.link e).rxSeq
  | none => false

/-- A data flit arrives at end `e`. One that fails its check is answered by a NAK with the expected number, and every later flit is
discarded until the retransmission, of which the next failing flit is another failed copy; the ninth failed copy exhausts the
retries (R317, R318). DEDUCED: log entry 46. -/
def dataFlit (s : State) (e : PortAt) (data : List Byte) (ctl crc : BitVec 16) : State :=
  let x := s.link e
  if flitCrc x.rxSeq data ctl = crc.toNat then s.flitTaken e
  else if x.fails != 0 && (!s.resending e || (List.range 63).any fun k => flitCrc ((x.rxSeq + 1 + k) % 4096) data ctl == crc.toNat) then s
  else
    let t := s.updLink e fun y => { y with fails := y.fails + 1, nak := some y.rxSeq }
    let t := match e.other with
      | some o => t.updLink o fun y => { y with resent := [] }
      | none => t
    if 9 ≤ x.fails + 1 then t.exhaust e else t

/-- A NAK for flit sq arrives at end `e`, which sends its buffer from that flit on again; `win` counts the retries of the last ms. At
most 8 retries are made for one flit (R318, R322). One that names no flit of the buffer does nothing. DEDUCED: log entry 46. -/
def d2dNak (s : State) (e : PortAt) (sq win : Nat) : State :=
  if !s.portLive e then s
  else
    let x := s.link e
    let again := replayFrom x.replay sq
    let n := if x.nakSeq = sq then x.naks + 1 else 1
    let t := s.updLink e fun y => { y with nakSeq := sq, naks := n, resent := again }
    if again = [] then s
    else if 9 ≤ n then t.exhaust e
    else (t.updPort e prRty fun w => incFld w 47 0 1).updPort e prWin fun w => maxFld (setFld w 15 0 win) 47 32 win

/-- A flit arrives at end `e`: by its type data, a NAK, or an idle or ACK flit, which change nothing here (R316, R323). `sent` are the
data flits that the end across has sent for the first time since the last flit that came from it, this one with them, and `win` counts
the retries of the last ms for a NAK. DEDUCED: log entry 46. -/
def d2dFlit (s : State) (e : PortAt) (data : List Byte) (ctl crc : BitVec 16) (sent : List (List Byte)) (win : Nat) : State :=
  let t := match e.other with
    | some o => if s.portData e then s.flitsSent o sent else s
    | none => s
  match ctlType ctl with
  | 1 => if t.portData e then t.dataFlit e data ctl crc else t
  | 3 => if flitCrc (t.link e).rxSeq data ctl = crc.toNat then t.d2dNak e (ctlSeq ctl) win else t
  | _ => t

/-- More than 64 retries have fallen within 1 ms at an end of the connection (R322). -/
def retriedOut (s : State) (c : Nat) : Bool := (connEnds c).any fun e => decide (64 < fld (s.port e prWin) 47 32)

/-- A connection is marked DEGRADED (R322, R323). -/
def portDegrade (s : State) (e : PortAt) : State :=
  match e.conn with
  | some c =>
    if s.powered && s.portState e == portUp && s.retriedOut c then
      ({ s with map := { s.map with degMark := c :: s.map.degMark } }).degradeConn c
    else s
  | none => s

/-- Rate of a trained connection: 20 GT/s between compute dies and to IOD-C, 16 GT/s to IOD-B (R315, R316).
DEDUCED: log entry 47. -/
def connRate (s : State) (c : Nat) : Bool := c < 52 || s.iodC

/-- A reset of the fabric domain is in progress (R309, R387, R393). -/
def fabricReset (s : State) : Bool :=
  match s.kpr.reset with
  | some r => r.code != rstPart
  | none => false

/-- Connection c ends at a die whose straps failed, which takes no part in the fabric (R311). -/
def connDead (s : State) (c : Nat) : Bool := (connEnds c).any fun e => !e.iod && s.map.strapBad.getLsbD e.n

/-- A port trains: one in TRAINING, or, while a reset of the fabric domain is in progress, one in RESET, whose domain has been released for
it (R320, R393). DEDUCED: log entry 45. -/
def trains (s : State) (e : PortAt) (c : Nat) : Bool :=
  s.powered && (s.portState e == portTraining || (s.fabricReset && s.portState e == portReset && !s.connDead c))

/-- Training of a port ends (R315, R320, R321, R323): both ends adopt one result. -/
def trainingDone (s : State) (e : PortAt) (bad : List Nat) : State :=
  match e.conn with
  | none => s
  | some c =>
    if !s.trains e c then s
    else match trainedWidth bad with
      | none => (forEach (connEnds c) s fun t x => t.updPort x prLane fun _ => badGroups bad).downConn c
      | some w =>
        let v := if s.map.degMark.contains c then portDegraded else portUp
        let t := forEach (connEnds c) s fun t x =>
          let t := t.updPort x prSts fun r => setBit (setFld (setFld r 7 5 v) 4 3 w) 2 (s.connRate c)
          let t := (t.updPort x prRty fun _ => 0).updPort x prWin fun _ => 0
          let t := (t.updPort x prLane fun _ => laneWord bad w).updLink x fun _ => {}
          t.setPreset x (t.stackBand (connEnd c).1)
        (t.forgetFail c).mapChange

/-- Training of a port has not ended within 2 ms (R320). DEDUCED: log entry 45. -/
def trainingTimeout (s : State) (e : PortAt) : State :=
  match e.conn with
  | some c => if s.trains e c then s.downConn c else s
  | none => s

/-- A port reports that it is idle (R336); while its fabric domain is under reset none does (R393). -/
def idlePort (s : State) (e : PortAt) : State :=
  if s.portLive e && !s.fabricReset && !e.iod then s.updDie e.n R.d2dDieSts fun w => setBit w (4 + e.p) true else s

/-- The Keeper acts on an idle report: with another port still sending, the connection is DOWN; otherwise the die across it is lost
(R336, R339). -/
def dieFault (s : State) (e : PortAt) (alive : Bool) : State :=
  if !s.portLive e || s.fabricReset then s
  else match e.conn, e.other with
    | some c, some o =>
      if alive then s.aside fun s => s.downConn c
      else if !o.iod then s.aside fun s => s.loseDie o.n
      else if o.n = 0 then s.powerOff
      else s.aside fun s => s.loseIod o.n
    | _, _ => s

end State

/-- `D2D_FLIT` (R317). -/
def execD2dFlit (port : D2dPort) (data : List Byte) (ctl crc : BitVec 16) (sent : List (List Byte)) (win : BitVec 16) (s : State) :
    Host.Outcome State Fault Refusal :=
  s.done (s.d2dFlit (portAt port) data ctl crc sent win.toNat)

/-- `D2D_NAK` (R318). -/
def execD2dNak (port : D2dPort) (sq : BitVec 12) (win : BitVec 16) (s : State) : Host.Outcome State Fault Refusal :=
  s.done (s.d2dNak (portAt port) sq.toNat win.toNat)

/-- `PORT_DEGRADED` (R322). -/
def execPortDegraded (port : D2dPort) (s : State) : Host.Outcome State Fault Refusal := s.done (s.portDegrade (portAt port))

/-- `D2D_TRAINING_DONE` (R321). -/
def execD2dTrainingDone (port : D2dPort) (bad : List Nat) (s : State) : Host.Outcome State Fault Refusal :=
  s.done (s.trainingDone (portAt port) bad)

/-- `D2D_TRAINING_TIMEOUT` (R320). -/
def execD2dTrainingTimeout (port : D2dPort) (s : State) : Host.Outcome State Fault Refusal :=
  s.done (s.trainingTimeout (portAt port))

/-- `IDLE_PORT` (R336). -/
def execIdlePort (port : D2dPort) (s : State) : Host.Outcome State Fault Refusal := s.done (s.idlePort (portAt port))

/-- `DIE_FAULT` (R336). -/
def execDieFault (port : D2dPort) (alive : Bool) (s : State) : Host.Outcome State Fault Refusal :=
  s.wideDone (s.dieFault (portAt port) alive)

end Sys2Proof.Machine
end

