-- ==== Sys2Proof/Machine/ChipLink.lean ====
section
/-!
DEFINITION. Chip-link ports (R325-R330): `PARTNER_SIGNAL_PRESENT`, `CHIP_LINK_TRAINED`, `CHIP_LINK_TRAINING_TIMEOUT`,
`PADDING_CONFIRMED`, `CL_FLIT`, `CL_NAK`, `PARTNER_SIGNAL_LOST`, `LNK_TARGET`, `LNK_RETRAIN`.
-/

namespace Sys2Proof.Machine

namespace State

/-- Chip-link port j begins to train where its partner is there and its I/O die not fenced (R14, R330). DEDUCED: log entry 50. -/
def trainLink (s : State) (j : Nat) : State :=
  (s.setLnkState j (if (s.clx j).signal && !s.map.iodFenced.getLsbD (j / 6) then lnkTraining else lnkDown)).updCl j fun x => { signal := x.signal, padded := x.padded }

/-- Chip-link port j is DOWN, sees its partner, and may begin to train: its I/O die is not fenced, and the Beacon has locked (R14, R330,
R372). DEDUCED: log entry 50. -/
def mayTrain (s : State) (j : Nat) : Bool :=
  (s.clx j).signal && s.bcn.locked && s.lnkState j == lnkDown && !s.map.iodFenced.getLsbD (j / 6)

/-- Chip links that may begin to train do (R330, R372, R387). -/
def trainLinks (s : State) : State := forEach (List.range 24) s fun t j => if t.mayTrain j then t.trainLink j else t

/-- The signal of the partner appears (R330). Training waits for the margin plan of a cold sequence (R372). -/
def signalPresent (s : State) (j : Nat) : State :=
  if !s.powered then s
  else
    let t := s.updCl j fun x => { x with signal := true }
    if s.kpr.coldDone && t.mayTrain j then t.trainLink j else t

/-- The Beacon locks, and chip links that wait for it begin to train (R34, R35, R372), but for those that a reset in progress trains at its
end (R387). DEDUCED: log entry 50. -/
def beaconLock (s : State) : State :=
  let later := match s.kpr.reset with
    | some r => r.code == rstPcie || r.code == rstWarm
    | none => false
  let t := s.clkLock
  if s.powered && !s.thm.trip && s.kpr.coldDone && !later then t.aside trainLinks else t

/-- Training with a partner that is there has measured the raw latency and the eye (R20, R327, R330, R372, R425).
DEDUCED: log entry 62. -/
def linkTrained (s : State) (j raw : Nat) (peerLocked : Bool) (eye : Nat) : State :=
  if !s.powered || s.lnkState j != lnkTraining || !(s.clx j).signal then s
  else
    let t := (s.updLnk j 8 fun w => setFld w 47 32 raw).noteEye j eye
    if 250 < raw then t.failLink j
    else if (s.bcnState == 1 || s.bcnState == 3) && peerLocked then
      (t.setLnkState j lnkPadding).updCl j fun x => { x with target := fld (s.lnk j 8) 6 0 }
    else t

/-- Training has not ended within 150 ms (R330). -/
def linkTimeout (s : State) (j : Nat) : State :=
  if s.powered && s.lnkState j == lnkTraining then s.failLink j else s

/-- Both ends have confirmed the padding: the port is UP (R330, R386). -/
def paddingConfirmed (s : State) (j : Nat) (peer : Word) (peerPort : Nat) : State :=
  if !s.powered || s.lnkState j != lnkPadding || !(s.clx j).signal then s
  else
    let t := s.setLnkState j lnkUp
    let t := (t.updLnk j 0 fun w => setFld w 20 16 peerPort).updLnk j 0x10 fun _ => peer
    let t := t.updLnk j 0x18 fun _ => 0
    let t := t.updCl j fun x => { signal := x.signal, target := x.target, padded := x.target }
    (t.forgetFail (200 + j)).mapChange.retrainDone j

/-- A compute reset is in progress (R335). -/
def computeReset (s : State) : Bool :=
  match s.kpr.reset with
  | some r => r.code == 4
  | none => false

/-- The device IDs of the images that were loaded when a compute reset began, which it is still reached by (R335, R388).
DEDUCED: log entry 50. -/
def resetIds (s : State) : List Nat :=
  match s.kpr.reset with
  | some r => r.devIds
  | none => []

/-- A flit that is no data flit leaves through port j, with its trailer and CRC; it takes no sequence number of its own (R326).
DEDUCED: log entry 46. -/
def noteFlit (s : State) (j ty ack : Nat) (content : List Byte) : State :=
  s.updCl j fun x => { x with flits := x.flits ++ [content ++ flitTrailer ty x.txSeq ack content] }

/-- Such a flit of this port, whose content the manual gives no layout: its 256 bytes are free. DESIGN CHOICE: log entry 49.
DEDUCED: log entry 46. -/
def sendNote (s : State) (j ty ack : Nat) : State :=
  (s.noteFlit j ty ack ((List.range 256).map (Config.linkByte s.free))).bumpFree

/-- A NAK names the flit that port j expects (R328). -/
def sendNak (s : State) (j : Nat) : State :=
  (s.updCl j fun x => { x with nak := some x.rxSeq }).sendNote j 3 (s.clx j).rxSeq

/-- A remote acknowledgement leaves through port j, in a flit of its type, which acknowledges the last flit taken (R326, R329). -/
def sendAck (s : State) (j : Nat) (st : ReqStatus) : State :=
  (s.updCl j fun x => { x with acks := x.acks ++ [st] }).sendNote j 5 ((s.clx j).rxSeq + 4095)

/-- The status that a remote acknowledgement gives for a failed write (R329). -/
def ackOf : AccErr → ReqStatus
  | .ue _ _ _ => .uncorrectable
  | .addr _ | .frame _ => .addressError
  | .targetReset _ => .targetReset

/-- A packet taken from port j: for this device it is written, its event counted after the last byte, and acknowledged; for another it
goes on by its run's routes, or is discarded; in a compute reset one for this device is answered with `TARGET_RESET`, and every other
discarded (R155, R329, R335).
DESIGN CHOICE: log entry 49. DEDUCED: log entry 50. -/
def deliver (s : State) (j : Nat) (data : List Byte) (k : ClPkt) : State :=
  if s.computeReset then
    if s.resetIds.contains k.dev.toNat then s.sendAck j .targetReset else s.discardPacket k.slot.val k.dev.toNat j
  else match (s.slot k.slot.val).img with
  | none => s.discardPacket k.slot.val k.dev.toNat j
  | some i =>
    if i.devId = k.dev.toNat then
      match s.writeDa ⟨1, 0xFFFF⟩ k.da.toNat (data.take k.len) with
      | (some e, t) => t.sendAck j (ackOf e)
      | (none, t) =>
        (match coreOfDa k.da.toNat with
          | some c => t.incEv c k.rev.toNat
          | none => t).sendAck j .ok
    else match i.routeTo k.dev.toNat with
      | none => s.discardPacket k.slot.val k.dev.toNat j
      | some q => if s.lnkState q == lnkUp then s.sendFlit q data else s

/-- A remote acknowledgement taken from port j: for this device it acts by `REMOTE_ACK`; for another it goes on by its run's routes, or
is discarded (R329, R335). DESIGN CHOICE: log entry 49. DEDUCED: log entry 50. -/
def relayAck (s : State) (j : Nat) (data : List Byte) (k : ClPkt) : State :=
  if s.computeReset then s.discardPacket k.slot.val k.dev.toNat j
  else match (s.slot k.slot.val).img with
  | none => s.discardPacket k.slot.val k.dev.toNat j
  | some i =>
    if i.devId = k.dev.toNat then s
    else match i.routeTo k.dev.toNat with
      | none => s.discardPacket k.slot.val k.dev.toNat j
      | some q => if s.lnkState q == lnkUp then s.noteFlit q 5 ((s.clx q).rxSeq + 4095) data else s

/-- The replays of port j are exhausted: flagged, entered in the lifetime record, the port FAILED (R328, R429).
DEDUCED: log entry 50. -/
def linkExhaust (s : State) (j : Nat) : State :=
  let t := s.updLnk j 0 fun w => setBit w 3 true
  let l := t.thm.life
  ({ t with thm := { t.thm with life := { l with exh := l.exh.upd 0 j (· + 1) } } }).failLink j

/-- A flit has failed on port j: a NAK is sent. Where it is a copy of the data flit now expected, as its trailer reads, the failure
counts, and the fifth one exhausts the replays (R328). DEDUCED: log entry 46. -/
def linkFail (s : State) (j : Nat) (trailer : BitVec 64) : State :=
  let x := s.clx j
  let n := x.fails + (decide (fld trailer 27 24 = 1 ∧ fld trailer 11 0 = x.rxSeq)).toNat
  let t := (s.updCl j fun x => { x with fails := n }).sendNak j
  if x.fails < n ∧ 5 ≤ n then t.linkExhaust j else t

/-- A NAK for flit sq arrives on port j, which sends its buffer from that flit on again: at most 4 replays are made for one flit, and
none for one that was never sent (R328). DEDUCED: log entry 46. -/
def clNak (s : State) (j sq : Nat) : State :=
  if !s.powered || s.lnkState j != lnkUp then s
  else
    let x := s.clx j
    let n := if x.nakSeq = sq then x.naks + 1 else 1
    let t := s.updCl j fun y => { y with nakSeq := sq, naks := n, resent := replayFrom y.replay sq }
    if (replayFrom x.replay sq).isEmpty then s
    else if 5 ≤ n then t.linkExhaust j
    else t.updLnk j 0x18 fun w => incFld w 47 0 1

/-- The partner acknowledges the flits up to number a: none of them is sent again, and the NAKs of one of them are forgotten
(R326, R328). DEDUCED: log entry 46. -/
def clAcked (s : State) (j a : Nat) : State :=
  s.updCl j fun x => { x with
    naks := if (a + 4096 - x.nakSeq) % 4096 < 2048 then 0 else x.naks
    resent := x.resent.filter fun f => 2048 ≤ (a + 4096 - f.1) % 4096 }

/-- A flit arrives on port j: `trailer` holds sequence number, acknowledgement, type and reserved bits in its low 4 bytes and the CRC
in its high 4; `corr` and `uncorr` are the FEC's codewords; `pkt` is what a data flit carries, or whom a remote acknowledgement is for
(R326, R328, R329). Each type but a NAK acknowledges what its trailer says; a data flit taken is answered by an ACK; a management flit
carries nothing more that the model holds. DEDUCED: log entry 46. DEDUCED: log entry 50. -/
def clFlit (s : State) (j : Nat) (data : List Byte) (trailer : BitVec 64) (corr uncorr : Nat) (pkt : Option ClPkt) : State :=
  if !s.powered || (s.lnkState j != lnkUp && s.lnkState j != lnkPadding) then s
  else
    let t := s.updLnk j 0x20 fun w => incFld (incFld w 63 32 uncorr) 31 0 corr
    if s.lnkState j != lnkUp then t
    else if uncorr != 0 || crcOf clCrc (data ++ leBytes 4 trailer.toNat) != fld trailer 63 32 then t.linkFail j trailer
    else match fld trailer 27 24 with
      | 1 =>
        let t := t.clAcked j (fld trailer 23 12)
        if fld trailer 11 0 != (s.clx j).rxSeq then t
        else
          let t := (t.updCl j fun x => { x with rxSeq := (x.rxSeq + 1) % 4096, fails := 0, nak := none }).sendNote j 2 (fld trailer 11 0)
          match pkt with
          | some k => t.deliver j data k
          | none => t
      | 0 | 2 | 4 => t.clAcked j (fld trailer 23 12)
      | 3 => t.clNak j (fld trailer 23 12)
      | 5 =>
        let t := t.clAcked j (fld trailer 23 12)
        match pkt with
        | some k => t.relayAck j data k
        | none => t
      | _ => t

/-- The signal of the partner is lost (R330). -/
def signalLost (s : State) (j : Nat) : State :=
  if !s.powered then s
  else
    let t := s.updCl j fun x => { x with signal := false }
    if s.lnkState j == lnkUp || s.lnkState j == lnkPadding then t.dropLink j
    else if s.lnkState j == lnkFailed then t.setLnkState j lnkDown
    else t

end State

/-- `BCN_CLK_LOCK` (R34, R35, R372). -/
def execBcnClkLock (s : State) : Host.Outcome State Fault Refusal := s.bcnDone s.beaconLock

/-- `PARTNER_SIGNAL_PRESENT` (R330). -/
def execPartnerSignalPresent (cl : ClPort) (s : State) : Host.Outcome State Fault Refusal := s.done (s.signalPresent cl.val)

/-- `CHIP_LINK_TRAINED` (R327). -/
def execChipLinkTrained (cl : ClPort) (raw : BitVec 16) (peerLocked : Bool) (eye : Fin 101) (s : State) :
    Host.Outcome State Fault Refusal :=
  s.done (s.linkTrained cl.val raw.toNat peerLocked eye.val)

/-- `CHIP_LINK_TRAINING_TIMEOUT` (R330). -/
def execChipLinkTrainingTimeout (cl : ClPort) (s : State) : Host.Outcome State Fault Refusal := s.done (s.linkTimeout cl.val)

/-- `PADDING_CONFIRMED` (R330). -/
def execPaddingConfirmed (cl : ClPort) (peer : BitVec 64) (peerPort : Fin 24) (s : State) : Host.Outcome State Fault Refusal :=
  s.done (s.paddingConfirmed cl.val peer peerPort.val)

/-- `CL_FLIT` (R326). -/
def execClFlit (cl : ClPort) (data : List Byte) (trailer : BitVec 64) (corr uncorr : Nat) (pkt : Option ClPkt) (s : State) :
    Host.Outcome State Fault Refusal :=
  s.done (s.clFlit cl.val data trailer corr uncorr pkt)

/-- `CL_NAK` (R328). -/
def execClNak (cl : ClPort) (sq : BitVec 12) (s : State) : Host.Outcome State Fault Refusal := s.done (s.clNak cl.val sq.toNat)

/-- `PARTNER_SIGNAL_LOST` (R330). -/
def execPartnerSignalLost (cl : ClPort) (s : State) : Host.Outcome State Fault Refusal := s.done (s.signalLost cl.val)

/-- `LNK_TARGET` (R327). -/
def execLnkTarget (m : Mbox) (s : State) : Host.Outcome State Fault Refusal :=
  s.done (s.serve Op.lnkTarget 8 [(0, 2)] m fun t c =>
    let j := arg c.args 0 1; let v := arg c.args 1 1
    if 24 ≤ j || v < 40 || 120 < v then t.answer c Sts.badArg
    else (t.updLnk j 8 fun w => setFld w 6 0 v).answer c Sts.ok)

/-- `LNK_RETRAIN` (R330). It completes when the port is UP or FAILED; the ports of a lost I/O die are gone (R14, R339).
DEDUCED: log entry 50. -/
def execLnkRetrain (m : Mbox) (s : State) : Host.Outcome State Fault Refusal :=
  s.done (s.serve Op.lnkRetrain 8 [(0, 1)] m fun t c =>
    let j := arg c.args 0 1
    if 24 ≤ j then t.answer c Sts.badArg
    else if t.map.iodFenced.getLsbD (j / 6) then t.answer c Sts.dieUnavailable
    else if (List.range 8).any fun p => t.slotActive p && t.usesLink p j then t.answer c Sts.runActive
    else t.trainLink j)

end Sys2Proof.Machine
end

