-- ==== Sys2Proof/Machine/Coolant.lean ====
section
/-!
DEFINITION. The coolant (R411-R413): `FLOW_ESTIMATE`, `COOLANT_STATE_CHANGE`.
-/

namespace Sys2Proof.Machine

/-- Flow in units of 10 mL/min for an input power in W and a rise of num/den in 1/16 °C (R412); no rise gives the field's maximum. -/
def flowOf (w : Nat) (num : Int) (den : Nat) : Nat := if num ≤ 0 then 65535 else min 65535 (96000 * w * den / (4020 * num.toNat))

namespace State

/-- The flow estimate. -/
def flow (s : State) : Nat := fld (s.iod 0 R.thmFlow) 15 0

/-- Both coolant NTCs are good. -/
def ntcsGood (s : State) : Bool := !(s.sns 336).suspect && !(s.sns 337).suspect

/-- The condition of a coolant transition holds now (R413): 0 NORMAL to LOW_FLOW, 1 back, 2 LOW_FLOW to STARVED, 3 back. -/
def coolHolds (s : State) (k : Nat) : Bool :=
  let inlet := s.snsVal 336
  let near (i : Nat) : Bool := decide ((s.snsVal i - inlet).natAbs ≤ 48)
  match k with
  | 0 => decide (s.flow < 570) || decide (640 < inlet) || !s.ntcsGood
  | 1 => decide (630 ≤ s.flow) && decide (inlet ≤ 608) && s.ntcsGood
  | 2 => decide (s.flow < 380) || decide (720 < inlet)
  | _ => (if bitAt (s.iod 0 R.thmFlow) 19 then near 338 && near 339 else decide (420 ≤ s.flow)) && decide (inlet ≤ 688)

/-- Sum of the µs of the last 100 ms of a coolant NTC and of its values, each times its µs; before the first sample its present value
(R412). -/
def ntcSum (s : State) (k : Nat) : Nat × Int :=
  let past := (s.sns k).past
  let us := past.foldl (fun n e => n + e.1) 0
  if us = 0 then (1, s.snsVal k) else (us, past.foldl (fun n e => n + e.1 * e.2) 0)

/-- Mean rise from inlet to outlet over 100 ms, as a fraction, in 1/16 °C (R412). -/
def coolRise (s : State) : Int × Nat :=
  let a := s.ntcSum 336; let b := s.ntcSum 337
  (b.2 * a.1 - a.2 * b.1, a.1 * b.1)

/-- The flow estimate of one ms at an input power in W (R412); the ms without an active run are counted (R422). -/
def flowEstimate (s : State) (w : Nat) : State :=
  if !s.powered || s.kprState != 2 then s
  else
    let t := s.updIod 0 R.thmSupply fun x => setFld x 31 16 w
    let t := if w < 500 then t.updIod 0 R.thmFlow fun x => setBit x 19 true
      else t.updIod 0 R.thmFlow fun x => setFld (setBit x 19 false) 15 0 (flowOf w s.coolRise.1 s.coolRise.2)
    { t with
      kpr := { t.kpr with idleMs := if t.anyActive then 0 else t.kpr.idleMs + 1 }
      thm := { t.thm with
      coolUs := (List.range 4).map fun k => ((k : Nat), if t.coolHolds k then t.thm.coolUs.get 0 k + 1000 else 0) } }

/-- No sensor has risen faster than 0.5 °C per ms for 100 ms (R413). -/
def calm (s : State) : Bool := s.thm.sns.all fun e => decide (100000 ≤ e.2.calmUs)

/-- The coolant state changes where the condition of a transition has held for its time (R413). -/
def coolChange (s : State) : State :=
  let for_ (k us : Nat) : Bool := decide (us ≤ s.thm.coolUs.get 0 k)
  let to_ (v : Nat) : State := (s.setCool v).lifeUpdate 0 0
  if !s.powered || s.kprState != 2 then s
  else match s.coolState with
    | 0 => if for_ 0 1000000 then to_ coolLow else s
    | 1 => if for_ 2 1000000 then to_ coolStarved else if for_ 1 10000000 then to_ coolNormal else s
    | 2 => if for_ 3 10000000 then to_ coolLow else s
    | _ =>
      if s.calm && for_ 3 10000000 then
        let t := to_ coolStarved
        { t with pins := { t.pins with coolFault := false } }
      else s

end State

/-- `FLOW_ESTIMATE` (R412). -/
def execFlowEstimate (w : BitVec 16) (s : State) : Host.Outcome State Fault Refusal := s.heatDone (s.flowEstimate w.toNat)

/-- `COOLANT_STATE_CHANGE` (R413). -/
def execCoolantStateChange (s : State) : Host.Outcome State Fault Refusal := s.heatDone s.coolChange

end Sys2Proof.Machine
end

