-- ==== Sys2Proof/Machine/Damper.lean ====
section
/-!
DEFINITION. The damper (R400-R407): `DAMPER_WINDOW`, `DAMPER_RELEASE`, `HEAT_FORECAST`.
-/

namespace Sys2Proof.Machine

/-- One step from level a towards level b (R401). -/
def stepTo (a b : Nat) : Nat := if a < b then a + 1 else if b < a then a - 1 else a

/-- Core cycles of one ms at a margin class (R31). -/
def msCycles (cls : Nat) : Nat := if cls = 0 then 2250000 else if cls = 1 then 2100000 else 1950000

namespace State

/-- The cycles of the window that ends, at a division, counted as whole ms; the last window of a flash may be shorter (R400).
DESIGN CHOICE: log entry 60. -/
def countDivision (s : State) (d mode : Nat) : State :=
  let x := s.thmDie d
  let n := x.divCyc + (if s.thm.win = 0 then s.thm.winTail else 32)
  let ms := msCycles s.thm.cls
  if n < ms then s.updThmDie d fun y => { y with divCyc := n }
  else
    let t := s.updThmDie d fun y => { y with divCyc := n - ms }
    t.updDie d R.thmDivCnt fun w => if mode = 1 then incFld w 31 0 1 else incFld w 63 32 1

/-- A die enters or leaves a division: logged (R401, R431). -/
def setMode (s : State) (d v : Nat) : State :=
  let t := s.updDie d R.thmSts fun w => if v = 2 then setBit (setFld w 1 0 v) 31 true else setFld w 1 0 v
  let t := t.updThmDie d fun x => { x with divCyc := 0 }
  t.thermal 1 5 d v (s.hotCore d).2

/-- `HOT_N` follows the level of the hottest core. -/
def showHotSkip (s : State) (d : Nat) : State :=
  s.updDie d R.thmSts fun w => setFld w 12 8 ((s.thmDie d).skip.get 0 (s.hotCore d).1)

/-- One window of the damper on die d (R401, R404). -/
def dampDie (s : State) (d : Nat) : State :=
  let want := s.dieDemand d; let mode := s.dieMode d; let x := s.thmDie d
  let allAt (n : Nat) : Bool := (List.range 16).all fun l => x.skip.get 0 l == n
  let t :=
    if mode != 0 then (if want = mode then s.countDivision d mode else s.setMode d 0)
    else if want != 0 && allAt (8 * (want + 1)) then s.setMode d want
    else s.updThmDie d fun y => { y with
      skip := (List.range 16).map fun l => ((l : Nat), stepTo (x.skip.get 0 l) (s.coreTarget d l)) }
  t.showHotSkip d

/-- The window that ends stood at each running core's present level; the windows of a flash are kept (R400, R405). -/
def noteWindow (s : State) : State :=
  if s.thm.win = 0 then s
  else forEach ((List.range 8).filter fun p => s.slotState p == 3 || (s.slot p).prepared) s fun t p =>
    forEach (t.slotCores p) t fun t c => t.updCx c fun x => { x with levels := s.levelNow c :: x.levels }

/-- A window of the damper begins on every die (R400, R401). -/
def damperWindow (s : State) : State :=
  if !s.powered then s
  else
    let t := forEach (List.range 32) s.noteWindow fun t d => if t.fenced d then t else t.dampDie d
    { t with thm := { t.thm with win := t.thm.win + 1 } }

/-- Demands whose release condition has held for 10 ms end (R402, R403, R415). DEDUCED: log entry 102. -/
def damperRelease (s : State) (d : Nat) : State :=
  if !s.powered then s
  else
    let t := s.updThmDie d fun x => { x with
      d4core := x.d4core && decide (x.coreUs < 10000), d4turf := x.d4turf && decide (x.turfUs < 10000)
      react := x.react && decide (x.reactUs < 10000) }
    let still := (onesOf 14 s.thm.d2req).filter fun b => decide (s.thm.d2us.get 0 b < 10000)
    { t with thm := { t.thm with d2req := still.foldl orBit 0 } }

/-- A die's turf reading for a log entry: the higher. -/
def turfHot (s : State) (d : Nat) : Int := max (s.turfGov d false) (s.turfGov d true)

/-- Entry i of a heat plan: after its last window the plan repeats from `LOOP_WIN` (R407, the HEAT section of R203). -/
def planAt (i : Image) (k : Nat) : List Nat :=
  let n := i.heat.length
  if k < n then i.heat.getD k [] else if i.loopWin < n then i.heat.getD (i.loopWin + (k - n) % (n - i.loopWin)) [] else []

/-- Planned powers of die d over the flashes of the next ms, window by window, in 0.125 W (R407). -/
def plannedPower (s : State) (p d : Nat) : List Nat :=
  match (s.slot p).img with
  | none => []
  | some i =>
    let lo := s.curRfn p / 2 ^ i.winLog; let hi := (s.curRfn p + 100000 / max 1 (fld s.bcn.period 10 0)) / 2 ^ i.winLog
    (List.range (hi + 1 - lo)).map fun k => (planAt i (lo + k)).getD d 0

/-- A predicted reading crosses 85 °C or 95 °C. -/
def crosses (now then_ : Int) : Bool := [1360, 1520].any fun x => decide (now ≤ x ∧ x < then_)

/-- The forecast of one ms for die d at a measured power in 0.125 W (R407). DESIGN CHOICE: log entry 60. -/
def heatForecast (s : State) (d power : Nat) : State :=
  if !s.powered || s.kprState != 2 then s
  else
    let x := s.thmDie d
    let run := match s.slotOfDie d with
      | some p => if s.slotState p == 3 then some p else none
      | none => none
    let plan := match run with
      | some p => s.plannedPower p d
      | none => []
    let above := run.isSome && decide (6 * plan.headD 0 < 5 * power)
    let aboveMs := if above then x.overMs + 1 else 0
    let used := if 10 ≤ aboveMs then plan.map fun _ => power else plan
    let lo := s.turfGov d false; let up := s.turfGov d true
    let next := Config.forecast d used power [s.snsVal 338, s.snsVal 339, lo, up]
    let t := s.bumpFree.updThmDie d fun y => { y with overMs := aboveMs }
    let t := if crosses lo next.1 || crosses up next.2 then
        let n := match s.runClass d with
          | some n => n
          | none => min 24 (Config.idleHold s.free d)
        let t := t.updThmDie d fun y => { y with fcastOn := true, fcast := n, fcastMs := 0 }
        if x.fcastOn then t else t.thermal 6 5 d (s.dieMode d) (s.turfHot d)
      else if 10 ≤ x.fcastMs + 1 then t.updThmDie d fun y => { y with fcastOn := false, fcast := 0, fcastMs := 0 }
      else t.updThmDie d fun y => { y with fcastMs := y.fcastMs + 1 }
    if aboveMs = 10 then t.thermal 9 5 d (s.dieMode d) (s.turfHot d) else t

end State

/-- `DAMPER_WINDOW` (R401): a trip has stopped the core clocks, and with them the damper. -/
def execDamperWindow (s : State) : Host.Outcome State Fault Refusal := s.heatDone (if s.thm.trip then s else s.damperWindow)

/-- `DAMPER_RELEASE` (R402). -/
def execDamperRelease (die : Die) (s : State) : Host.Outcome State Fault Refusal := s.heatDone (s.damperRelease die.val)

/-- `HEAT_FORECAST` (R407). -/
def execHeatForecast (die : Die) (power : BitVec 16) (s : State) : Host.Outcome State Fault Refusal :=
  s.heatDone (s.heatForecast die.val power.toNat)

end Sys2Proof.Machine
end

