-- ==== Sys2Proof/Machine/Schedule.lean ====
section
/-!
DEFINITION. The schedule family: `SCHED_LOAD`, `SCHED_UNLOAD`, `SCHED_INFO`, the end of a load, and a change of the map record
(R209-R213).
-/

namespace Sys2Proof.Machine

namespace State

/-- A lifecycle state in which nothing may be loaded, run or changed (R448). -/
def retired (s : State) : Bool := s.sec.life == 3

/-- `SCHED_LOAD` accepted. -/
def schedLoad (s : State) (c : Cmd) : State :=
  if 8 ≤ arg c.args 0 1 then s.answer c Sts.badArg
  else if s.retired then s.answer c Sts.lifecycleState else s.order { c with own := (s.sec.owner, s.sec.ownerErr) }

/-- `SCHED_UNLOAD` accepted. -/
def schedUnload (s : State) (c : Cmd) : State := if 8 ≤ arg c.args 0 1 then s.answer c Sts.badArg else s.order c

/-- `SCHED_INFO` (R364). -/
def schedInfo (s : State) (c : Cmd) : State :=
  let p := arg c.args 0 1
  if 8 ≤ p then s.answer c Sts.badArg
  else
    let digest := match (s.slot p).img with
      | some i => i.digest.take 24
      | none => zeros 24
    s.complete c Sts.ok 0
      ([BitVec.ofNat 8 (s.slotState p), BitVec.ofNat 8 (fld (s.slot p).sts 10 9)] ++ zeros 6 ++ digest)

/-- A validated image has been copied (R210, R211). -/
def loadComplete (s : State) (p : Nat) : State :=
  match s.kpr.accepted.find? fun c => c.opcode == Op.schedLoad && c.note == 1 && arg c.args 0 1 == p with
  | none => s
  | some c =>
    let t := { s with kpr := { s.kpr with loading := [] } }
    match parseImage s.kpr.loading with
    | .error f => (t.failLoad c f).pump
    | .ok m =>
      if m.img.margin != s.thm.cls || s.badMap m.img then
        (((t.emptySlot p).placePart m).answer c Sts.imageStale).pump
      else
        let u := (t.emptySlot p).placeImage m
        let x : SlotX := { img := some m.img, signed := m.signed, signer := if m.signed then keyHash (blockKey m.block) else [], sts := 1 }
        (({ u with slots := u.slots.set p x }.markStale 1).answer c Sts.ok).pump

end State

/-- `SCHED_LOAD` (R209, R448). -/
def execSchedLoad (m : Mbox) (s : State) : Host.Outcome State Fault Refusal :=
  s.done (s.serve Op.schedLoad 24 [(0, 1), (8, 16)] m State.schedLoad)

/-- `SCHED_UNLOAD` (R211). -/
def execSchedUnload (m : Mbox) (s : State) : Host.Outcome State Fault Refusal :=
  s.done (s.serve Op.schedUnload 8 [(0, 1)] m State.schedUnload)

/-- `SCHED_INFO` (R364). -/
def execSchedInfo (m : Mbox) (s : State) : Host.Outcome State Fault Refusal :=
  s.done (s.serve Op.schedInfo 8 [(0, 1)] m State.schedInfo)

/-- `LOAD_COMPLETE` (R210, R211). -/
def execLoadComplete (slot : Slot) (s : State) : Host.Outcome State Fault Refusal := s.done (s.loadComplete slot.val)

/-- `MAP_RECORD_CHANGE` (R212, R386). -/
def execMapRecordChange (s : State) : Host.Outcome State Fault Refusal := s.done s.mapChange

end Sys2Proof.Machine
end

