-- ==== Sys2Proof/Machine/QueueHost.lean ====
section
/-!
DEFINITION. The host's side of the queues: doorbells (R222, R347), and the copies from and to rings in host memory (R222, R351).
-/

namespace Sys2Proof.Machine

namespace State

/-- The host can reach the device: its link is in L0 (R375). -/
def hostReach (s : State) : Bool := s.powered && s.host.l0

/-- A write to a queue doorbell (R222, R347). A queue that the slot's image does not declare has no index to move.
DEDUCED: log entry 70. -/
def queueDoorbell (s : State) (p q v : Nat) : State :=
  match s.queDecl? p q with
  | none => s
  | some d => if d.input then s.tailWrite p q v d else s.headWrite p q v

/-- A write to `KPR_Qq_TAIL`, which is writable for the input kinds (R222). DEDUCED: log entry 70. -/
def queueTail (s : State) (p q v : Nat) : State :=
  match s.queDecl? p q with
  | none => s
  | some d => if d.input then s.tailWrite p q v d else s

/-- The device may read and write host memory (R343). -/
def busReach (s : State) : Bool := s.hostReach && s.mayMaster

/-- The host bus address of index i of a bound ring, which has the depth and the entry size of the queue's own. -/
def hostEntry (d : QueueDecl) (a i : Nat) : Nat := a + i % d.depth * d.esize

/-- The copy of the next entry of a fetch-mode queue into its HBM ring completes (R222). -/
def fetchCopy (s : State) (p q : Nat) : State :=
  let x := s.que p q
  match s.queDecl? p q, x.hostAddr with
  | some d, some a =>
    let i := fld x.avail 31 0
    if d.input && x.hostRing && s.busReach && i != fld x.tail 31 0 then
      match s.writeDa Who.host (d.entryDa i) (s.hostRead (hostEntry d a i) d.esize) with
      | (some _, t) => t
      | (none, t) => t.updQue p q fun y => { y with avail := setFld y.avail 31 0 (idxAdd i 1) }
    else s
  | _, _ => s

/-- The entries of an output queue published and not yet pushed lie in the bound host ring (R343, R351). -/
def pushDone (s : State) (p q : Nat) : State :=
  let x := s.que p q
  match s.queDecl? p q, x.hostAddr with
  | some d, some a =>
    let n := ahead (fld x.tail 31 0) x.pushed
    if d.kind == 3 && x.hostRing && s.busReach && n != 0 then
      let t := forEach ((List.range n).map (idxAdd x.pushed)) s fun t i =>
        match t.readDa Who.host (d.entryDa i) d.esize with
        | (.ok b, u) => u.hostWrite (hostEntry d a i) b
        | (.error _, u) => u
      let t := t.updQue p q fun y => { y with pushed := fld x.tail 31 0 }
      if x.vector = 0 then t else t.sendMsix x.vector
    else s
  | _, _ => s

end State

/-- `HOST_QDB` (R347); in D3hot the write is dropped (R342). PRESUMED: log entry 104. -/
def execHostQdb (slot : Slot) (q : QNum) (v : BitVec 64) (s : State) : Host.Outcome State Fault Refusal :=
  s.done (if s.hostReach && !s.host.d3 then s.queueDoorbell slot.val q.val (fld v 31 0) else s)

/-- `KPR_Q_TAIL` (R222). -/
def execKprQTail (slot : Slot) (q : QNum) (v : BitVec 64) (s : State) : Host.Outcome State Fault Refusal :=
  s.done (s.queueTail slot.val q.val (fld v 31 0))

/-- `FETCH_COPY_COMPLETE` (R222). -/
def execFetchCopyComplete (slot : Slot) (q : QNum) (s : State) : Host.Outcome State Fault Refusal :=
  s.done (s.fetchCopy slot.val q.val)

/-- `PUSH_TO_HOST_RING_COMPLETE` (R351). -/
def execPushToHostRingComplete (slot : Slot) (q : QNum) (s : State) : Host.Outcome State Fault Refusal :=
  s.done (s.pushDone slot.val q.val)

end Sys2Proof.Machine
end

