-- ==== Sys2Proof/Machine/Staging.lean ====
section
/-!
DEFINITION. The memory commands of the Keeper: staging (R262-R265) and atomic operations (R254).
-/

namespace Sys2Proof.Machine

namespace State

/-- `MEM_STAGE` accepted: its arguments, the lifecycle state, then its turn. DEDUCED: log entry 73. -/
def memStage (s : State) (c : Cmd) : State :=
  let da := arg c.args 0 8; let n := arg c.args 8 4
  if n = 0 || 65536 < n then s.answer c Sts.badArg
  else if turfBase < da + 32 * n then s.answer c Sts.badAddress
  else if s.retired then s.answer c Sts.lifecycleState else s.order { c with gone := s.map.fenced }

/-- How a staging stopped: status, entry, DA (R265). -/
abbrev StageStop := Nat × Nat × Nat

/-- The 64-byte units of an entry copied, from the lowest address upward, at most `n` of them from unit k. The data of an entry
whose HBM end a run wrote to is not defined (R264). -/
def copyUnits (e : StageEnt) (i : Nat) : Nat → Nat → State → Option StageStop × State
  | 0, _, s => (none, s)
  | n + 1, k, s =>
    match s.readDa Who.host (e.src + 64 * k) 64 with
    | (.error x, t) => (some (t.errStatus x, i, errDa x), t)
    | (.ok b, t) =>
      let b := if e.hit then (List.range 64).map fun j => Config.stageData t.free (64 * k + j) else b
      match t.writeDa Who.host (e.dst + 64 * k) b with
      | (some x, u) => (some (u.errStatus x, i, errDa x), u)
      | (none, u) => copyUnits e i n (k + 1) u

/-- The entries copied in list order; a die that has been fenced stops the copy before its entry (R265). -/
def copyEntries : Nat → List StageEnt → State → Option StageStop × State
  | _, [], s => (none, s)
  | i, e :: es, s =>
    let gone := match coreOfDa (turfEnd e) with
      | some c => s.fenced (dieOf c)
      | none => false
    if gone then (some (Sts.dieUnavailable, i, 0), s)
    else
      match copyUnits e i (e.len / 64) 0 s with
      | (some x, t) => (some x, t)
      | (none, t) => copyEntries (i + 1) es (if e.hit then t.bumpFree else t)

/-- No staging is in progress. -/
def clearStage (s : State) : State := (s.setIod 0 R.memStageSts 0) |> fun t => { t with kpr := { t.kpr with stage := [] } }

/-- The staging in progress ends (R263, R265). -/
def stageComplete (s : State) : State :=
  match s.kpr.accepted.find? fun c => c.opcode == Op.memStage && c.note == 1 with
  | none => s
  | some c =>
    match copyEntries 0 s.kpr.stage s with
    | (none, t) => (t.clearStage.answer c Sts.ok).pump
    | (some (st, i, da), t) => (t.clearStage.complete c st 0 (leBytes 4 i ++ zeros 4 ++ leBytes 8 da)).pump

/-- Entries of a list that hold the first `n` bytes of it. DESIGN CHOICE: log entry 67. -/
def cutEntries : Nat → List StageEnt → List StageEnt
  | _, [] => []
  | n, e :: l => if n = 0 then [] else { e with len := min e.len n } :: cutEntries (n - e.len) l

/-- A staging is given up, part of it copied (R261). -/
def stageAbandon (s : State) : State :=
  (copyEntries 0 (cutEntries (Config.copied s.free / 64 * 64) s.kpr.stage) s.bumpFree).2.clearStage

/-- ADD, SWAP or CMPSWAP of `n` bytes (R252, R254). -/
def atomFn (op n x cmp prior : Nat) : Nat :=
  match op with
  | 0 => (prior + x) % 2 ^ (8 * n)
  | 1 => x % 2 ^ (8 * n)
  | _ => if prior = cmp % 2 ^ (8 * n) then x % 2 ^ (8 * n) else prior

/-- `MEM_ATOMIC` (R254, R376). DEDUCED: log entry 66. -/
def memAtomic (s : State) (c : Cmd) : State :=
  let op := arg c.args 0 1; let n := arg c.args 1 1; let da := arg c.args 8 8
  if 3 ≤ op || (n != 4 && n != 8) || da % n != 0 || turfBase ≤ da then s.answer c Sts.badArg
  else match s.atomicDa Who.host da n (atomFn op n (arg c.args 16 8) (arg c.args 24 8)) with
    | (.ok prior, t) => t.complete c Sts.ok 0 (leBytes 8 prior)
    | (.error e, t) => t.answer c (t.errStatus e)

end State

/-- `MEM_STAGE` (R262). -/
def execMemStage (m : Mbox) (s : State) : Host.Outcome State Fault Refusal :=
  s.done (s.serve Op.memStage 16 [(0, 12)] m State.memStage)

/-- `STAGE_COMPLETE` (R265). -/
def execStageComplete (s : State) : Host.Outcome State Fault Refusal := s.done s.stageComplete

/-- `MEM_ATOMIC` (R254). -/
def execMemAtomic (m : Mbox) (s : State) : Host.Outcome State Fault Refusal :=
  s.done (s.serve Op.memAtomic 32 [(0, 2), (8, 24)] m State.memAtomic)

end Sys2Proof.Machine
end

