-- ==== Sys2Proof/Machine/HostAccess.lean ====
section
/-!
DEFINITION. The host port (R342-R354, R375): BAR2 accesses, AtomicOps, BAR4, ring doorbells, timeouts, the state of the host link.
-/

namespace Sys2Proof.Machine

namespace State

/-- A BAR access error (R354): the first is held in `HOST_ERR`, later ones go to the event log, as consequent where `low` numbers the
entry of the lower cause (R332). -/
def hostErrorOf (s : State) (low : Option Nat) (cause bar addr : Nat) : State :=
  if bitAt s.host.err 63 then
    s.logFull 0x73 0xFF low.isSome (low.getD 0) ([BitVec.ofNat 8 cause, BitVec.ofNat 8 bar] ++ zeros 6 ++ leBytes 8 (addr % 2 ^ 48))
  else { s with host := { s.host with err := BitVec.ofNat 64 (2 ^ 63 + cause * 2 ^ 56 + bar * 2 ^ 52 + addr % 2 ^ 48) } }

/-- Cause code of `HOST_ERR` for a failed access. DEDUCED: log entry 66. -/
def errHost : AccErr → Nat
  | .ue _ _ _ => 2
  | .addr _ => 1
  | .targetReset _ => 3
  | .frame _ => 1

/-- A BAR access error with no lower cause. -/
def hostError (s : State) (cause bar addr : Nat) : State := s.hostErrorOf none cause bar addr

/-- The parts that a host access to a device address crosses, as `failSeq` numbers them: the I/O die of a stack, or the compute die of a
core and the connections of its route to IOD0, reversed (R307). DEDUCED: log entry 34. -/
def hostParts (s : State) (a : Nat) : List Nat :=
  match s.locate a with
  | some (.hbm off) => [132 + unitStack (off / 256) / 2]
  | _ => match coreOfDa a with
    | some d => (100 + dieOf d) :: routeConns (routeIod d 0)
    | none => []

/-- A BAR2 access has not completed in 200 µs (R261, R354): where the loss of a part that it crosses has been reported, its log entry is a
consequent one (R332). -/
def hostTimedOut (s : State) (da : Nat) : State := s.hostErrorOf (s.lowerCause (s.hostParts da)) 4 2 da

/-- Device address of a BAR2 offset (R352, R353). -/
def bar2Da (s : State) (off : Nat) : Nat := fld s.host.win 4 0 * 2 ^ 36 + off

/-- A host BAR2 read (R352, R354). -/
def bar2Read (s : State) (off n : Nat) : State :=
  match s.readDa Who.host (s.bar2Da off) n with
  | (.ok b, t) => t.emit (.data b)
  | (.error e, t) => (t.hostError (errHost e) 2 (errDa e)).emit .completerAbort

/-- The words of which a write of `n` bytes from `da` writes a part (R352). -/
def partWords (da n : Nat) : List Nat :=
  let a := da / 8 * 8; let b := (da + n) / 8 * 8
  let first := if da % 8 = 0 ∧ da + 8 ≤ da + n then [] else [a]
  let last := if (da + n) % 8 = 0 then [] else [b]
  (first ++ last).eraseDups

/-- The word of key a can be read, as its read-modify-write would read it, through the slice and not the gather path (R255, R352).
DEDUCED: log entry 64. -/
def partCheck (s : State) (a : Nat) : Except AccErr (List Byte) × State :=
  match s.locate a with
  | none => (.error (.addr a), s)
  | some (.hbm off) =>
    let (c, filled, t) := s.lineFor Who.host (off / 256)
    t.readLine Who.host (off / 256) c filled (off % 256 / 8)
  | some (.sram k d) => s.readSlice Who.host d k k true false
  | some (.turf k d) => s.readSlice Who.host d k k false false

/-- Every place that a write reaches answers, and every word of which it writes a part can be read (R352, R354): what the reads of a
write that is dropped find is noted; of one that follows, it makes them itself. DEDUCED: log entry 64. -/
def hostWriteCheck (s : State) (da n : Nat) : Except AccErr Unit × State :=
  let reach := (pieces da n).findSome? fun p =>
    match s.locate p.1 with
    | none => some (AccErr.addr p.1)
    | some l => if s.answers l then none else some (.targetReset p.1)
  match reach with
  | some e => (.error e, s)
  | none =>
    match readAll (fun t a => t.partCheck a) s (partWords da n) with
    | (.ok _, _) => (.ok (), s)
    | (.error e, t) => (.error e, t)

/-- A host BAR2 write (R352, R354): performed whole, or dropped. -/
def bar2Write (s : State) (off : Nat) (bs : List Byte) : State :=
  let da := s.bar2Da off
  match s.hostWriteCheck da bs.length with
  | (.error e, t) => (t.hostError (errHost e) 2 (errDa e)).emit .dropped
  | (.ok _, t) => (t.writeDa Who.host da bs).2

/-- Bytes of an AtomicOp. -/
def atomBytes : AtomW → Nat
  | .w32 => 4 | .w64 => 8 | .w128 => 16

/-- A PCIe AtomicOp (R252-R254, R342, R354): 0 FetchAdd, 1 Swap, 2 CAS. DEDUCED: log entry 66. -/
def atomicOp (s : State) (op off : Nat) (w : AtomW) (x cmp : Nat) : State :=
  let da := s.bar2Da off; let n := atomBytes w
  if w = .w128 || turfBase ≤ da || da % n != 0 then (s.hostError 7 2 da).emit .completerAbort
  else match s.atomicDa Who.host da n (atomFn op n x cmp) with
    | (.ok prior, t) => t.emit (.data (leBytes n prior))
    | (.error e, t) => (t.hostError (errHost e) 2 (errDa e)).emit .completerAbort

/-- A host write to the command rings of BAR4 (R355). -/
def bar4Write (s : State) (off : Nat) (bs : List Byte) : State :=
  let slots := (List.range ((off + bs.length - 1) / 64 + 1 - off / 64)).map (off / 64 + ·)
  { s with host := { s.host with
    bar4 := Memory.sets s.host.bar4 off bs
    fresh := if bs.isEmpty then s.host.fresh else s.host.fresh ++ slots.filter fun k => !s.host.fresh.contains k } }

/-- A host read of BAR4 (R345, R355). -/
def bar4Read (s : State) (off n : Nat) : State := s.emit (.data (Memory.gets s.host.bar4 off n))

/-- A command that the Keeper takes and whose access it abandons: it has no other effect (R261, R363). DEDUCED: log entry 69. -/
def commandTimeout (s : State) (op : Nat) (m : Mbox) : State :=
  match commands.find? fun e => e.1 == op with
  | none => s
  | some e => s.serve op e.2.1 e.2.2 m fun t c => t.answer c Sts.timeout

/-- A command of the Keeper whose access is abandoned completes with `TIMEOUT`; part of what a load or a staging copies has been
written (R261). DEDUCED: log entry 69. -/
def keeperTimeout (s : State) (ring : Nat) (tag : BitVec 16) : State :=
  match s.kpr.accepted.find? fun c => c.ring == ring && c.tag == tag && c.note == 1 && exclusive c.opcode with
  | none => s
  | some c =>
    if c.opcode == Op.memStage then (s.stageAbandon.answer c Sts.timeout).pump
    else
      let t := { s with kpr := { s.kpr with loading := [] } }
      match parseImage s.kpr.loading with
      | .ok m => (((t.emptySlot (arg c.args 0 1)).placePart m).answer c Sts.timeout).pump
      | .error _ => ((t.emptySlot (arg c.args 0 1)).answer c Sts.timeout).pump

/-- An access not complete after 200 µs is abandoned (R261, R354): of a write the first words may have been written. -/
def accessTimeout (s : State) : HostAcc → State
  | .read off _ => if s.hostReach then (s.hostTimedOut (s.bar2Da off.toNat)).emit .completerAbort else s
  | .write off data done =>
    if s.hostReach then
      let da := s.bar2Da off.toNat
      let n := if done = 0 then 0 else (da / 8 + done) * 8 - da
      ((s.writeDa Who.host da (data.take n)).2.hostTimedOut da).emit .dropped
    else s
  | .atomic off => if s.hostReach then (s.hostTimedOut (s.bar2Da off.toNat)).emit .completerAbort else s
  | .keeper r tag => s.keeperTimeout r.val tag
  | .command op m => s.commandTimeout op.toNat m

/-- A write to `HOST_DBr` (R347). DEDUCED: log entry 70. -/
def ringDoorbell (s : State) (r v : Nat) : State :=
  let old := (s.host.prod.get 0 r).toNat
  if 2 ^ 31 ≤ ahead v old || 256 < ahead v (s.crReg r 3).toNat then s.hostError 6 0 (0x10000 + 8 * r)
  else
    { s with host := { s.host with prod := s.host.prod.set r (BitVec.ofNat 32 v) } }.sweepRings

/-- What happens on the host port happens only while its link is in L0. DESIGN CHOICE: log entry 2. -/
def onHost (s : State) (f : State → State) : Host.Outcome State Fault Refusal := s.done (if s.hostReach then f s else s)

/-- A non-posted memory request; in D3hot it completes with Unsupported Request (R342). PRESUMED: log entry 104. -/
def onRead (s : State) (f : State → State) : Host.Outcome State Fault Refusal :=
  s.onHost fun t => if t.host.d3 then t.emit .unsupported else f t

/-- A posted memory request; in D3hot it is dropped (R342). PRESUMED: log entry 104. -/
def onWrite (s : State) (f : State → State) : Host.Outcome State Fault Refusal :=
  s.onHost fun t => if t.host.d3 then t.emit .dropped else f t

end State

/-- `BAR2_WRITE` (R352), of BAR2 or of BAR4 (R345). -/
def execBar2Write (b : MemBar) (off : BitVec 36) (data : List Byte) (s : State) : Host.Outcome State Fault Refusal :=
  s.onWrite fun t => match b with
    | .bar2 => t.bar2Write off.toNat data
    | .bar4 => t.bar4Write off.toNat data

/-- `FETCHADD` (R254). -/
def execFetchAdd (off : BitVec 36) (w : AtomW) (x : BitVec 64) (s : State) : Host.Outcome State Fault Refusal :=
  s.onRead fun t => t.atomicOp 0 off.toNat w x.toNat 0

/-- `SWAP` (R254). -/
def execSwap (off : BitVec 36) (w : AtomW) (x : BitVec 64) (s : State) : Host.Outcome State Fault Refusal :=
  s.onRead fun t => t.atomicOp 1 off.toNat w x.toNat 0

/-- `CAS` (R254). -/
def execCas (off : BitVec 36) (w : AtomW) (x : BitVec 64) (cmp : BitVec 64) (s : State) : Host.Outcome State Fault Refusal :=
  s.onRead fun t => t.atomicOp 2 off.toNat w x.toNat cmp.toNat

/-- `ACCESS_TIMEOUT` (R261). -/
def execAccessTimeout (a : HostAcc) (s : State) : Host.Outcome State Fault Refusal := s.done (s.accessTimeout a)

/-- `HOST_DB` (R347). -/
def execHostDb (ring : Ring) (v : BitVec 64) (s : State) : Host.Outcome State Fault Refusal :=
  s.onWrite fun t => t.ringDoorbell ring.val (fld v 31 0)

/-- `HOST_LINK_REACHES_L0` (R375): the port has left reset, the link has trained. -/
def execHostLinkReachesL0 (s : State) : Host.Outcome State Fault Refusal :=
  s.done (if s.powered && s.host.portUp then ({ s with host := { s.host with l0 := true } }).buoy0 0 true else s)

/-- `HOST_LINK_LEAVES_L0` (R375). -/
def execHostLinkLeavesL0 (s : State) : Host.Outcome State Fault Refusal :=
  s.done (({ s with host := { s.host with l0 := false } }).buoy0 0 false)

/-- `BUS_MASTER_ENABLE_CHANGE` (R342, R343): Bus Master Enable and the power state, as the host's configuration writes leave them. -/
def execBusMasterEnableChange (v d3 : Bool) (s : State) : Host.Outcome State Fault Refusal :=
  s.onHost fun t => { t with host := { t.host with busMaster := v, d3 := d3 } }

end Sys2Proof.Machine
end

