-- ==== Sys2Proof/Machine/Identity.lean ====
section
/-!
DEFINITION. Identity and the start of the Keeper (R432-R434, R438, R439, R443, R361): keys, the owner record, firmware images, the
ROM start, the start of the firmware.
-/

namespace Sys2Proof.Machine

/-- Why a firmware image is not accepted: `CAUSE` of `HOST_KPR_STS` (R361, R439). -/
abbrev noImage : Nat := 1
abbrev badForm : Nat := 2
abbrev badSign : Nat := 3

/-- A firmware header that is well formed (R438). -/
def fwHead (b : List Byte) : Bool :=
  128 ≤ b.length && b.take 8 == ascii "KRYKEEPR" && leAt b 0x0B 1 ≤ 1 && leAt b 0x0C 4 ≤ 32 && leAt b 0x10 8 % 64 == 0 &&
    128 ≤ leAt b 0x10 8 && leAt b 0x10 8 ≤ 0x80_0000 && b.length == leAt b 0x10 8 + 256 && zeroAt b 0x18 8 && zeroAt b 0x60 32

/-- The measurement that a firmware header states. -/
def fwDigestOf (b : List Byte) : List Byte := (b.drop 0x20).take 64

/-- Security version of an image. -/
def fwSvn (b : List Byte) : Nat := leAt b 0x0C 4

/-- The conditions of R439 on an image with its block; the fault where one fails. -/
def fwFault (floor : Nat) (b : List Byte) : Option Nat :=
  let l := leAt b 0x10 8
  let block := b.drop l
  if !fwHead b || !blockForm 1 block then some badForm
  else if shake256 64 (overlay (b.take l) 0x20 (zeros 64)) != fwDigestOf b then some badForm
  else if keyHash (blockKey block) != Config.fwKeyHash ||
      !Ed448.verify (blockKey block) (ascii "KRY-FW") (fwDigestOf b) (blockSig block) || fwSvn b < floor then some badSign
  else none

namespace State

/-! ### Keys (R433, R434) -/

/-- The 32 bytes of the device secret S. -/
def secretBytes (s : State) : List Byte := leBytes 32 s.sec.secret.toNat

/-- The identity private key. DEDUCED: log entry 77. -/
def idPriv (s : State) : List Byte := shake256 57 (ascii "KRY-IDK" ++ s.secretBytes)

/-- The identity public key. DEDUCED: log entry 77. -/
def idKey (s : State) : List Byte := Ed448.publicKey s.idPriv

/-- The identity number. DEDUCED: log entry 77. -/
def idNumber (s : State) : Nat := leNat (shake256 8 s.idKey)

/-- The alias private key that the ROM hands to the firmware. DEDUCED: log entry 77. -/
def aliasPriv (s : State) : List Byte :=
  shake256 57 (ascii "KRY-ALIAS" ++ s.secretBytes ++ s.sec.fwDigest ++ leBytes 4 s.sec.svn)

/-- The tag of an owner-key record (R443). -/
def ownerTagOf (s : State) (r : List Byte) : List Byte := shake256 32 (ascii "KRY-OWNTAG" ++ s.secretBytes ++ r)

/-- `IOD_REV` (R3). -/
def iodRev (s : State) : Nat := if s.iodC then 0x0C else 0x0B

/-! ### Starts -/

/-- The ROM starts from its reset vector (R432, R433, R443, R451): the scope closes, a nonce is drawn, the owner record is checked,
no firmware runs. DEDUCED: log entry 84. -/
def romStart (s : State) : State :=
  { s.bumpFree with
    sec := { s.sec with
      scope := 0, unlocked := false, nonce := Config.bootNonce s.free, fwDigest := [], svn := 0
      ownerErr := s.sec.ownerErr || s.sec.owner != [] && s.sec.ownerTag != s.ownerTagOf s.sec.owner }
    host := { s.host with kfw := 0 } }

/-- What the ROM finds of the image that it starts: in the firmware slot, or, where the Keeper restarts, of the image that it ran before, which a
new one in the slot does not replace (R361, R362): the image, or why none runs, with a free cause where its writing was interrupted
(R361, R362). DEDUCED: log entry 82. -/
def flashFault (s : State) : Option Nat :=
  if s.kprState == 4 then fwFault s.sec.floor s.sec.running
  else if s.sec.flashBusy then some (1 + Config.halfWritten s.free % 3)
  else if s.sec.flash = [] then some noImage
  else fwFault s.sec.floor s.sec.flash

/-- An accepted image runs (R350, R361, R439): the floor rises where the image asks for it, `KFW_` fields and `SVN` are set, the
heartbeat starts at 0, and the mailbox opens unless a reset is in progress. -/
def startFirmware (s : State) (b : List Byte) : State :=
  let lift := (leAt b 0x0B 1).testBit 0 && (s.sec.life == 1 || s.sec.life == 2)
  let t := { s with
    sec := { s.sec with
      running := b, fwDigest := fwDigestOf b, svn := fwSvn b, floor := if lift then max s.sec.floor (fwSvn b) else s.sec.floor }
    host := { s.host with kfw := BitVec.ofNat 24 (leAt b 8 1 * 65536 + leAt b 9 1 * 256 + leAt b 10 1), hb := 0 } }
  let t := t.setKprState 2
  if t.kpr.reset.isNone then t.buoy0 1 true else t

/-- The ROM enters RECOVERY (R361, R375). -/
def enterRecovery (s : State) (cause : Nat) : State :=
  let t := { s with host := { s.host with kprSts := setFld s.host.kprSts 15 8 cause } }
  (t.setKprState 3).buoy0 1 false

end State

end Sys2Proof.Machine
end

