-- ==== Sys2Proof/Machine/KeeperInfo.lean ====
section
/-!
DEFINITION. The Keeper's commands about the device, register grants and logs (R364, R368, R384): `INFO_VERSION`, `INFO_DEVICE`,
`INFO_MAP`, `REG_GRANT`, `LOG_BIND`, `LOG_ECC_READ`, `LOG_ECC_CLEAR`.
-/

namespace Sys2Proof.Machine

/-- A 64 KiB block of R238 that may be granted lies at a register-space offset: of cores, compute dies, I/O dies (R364). -/
def grantBlock (off : Nat) : Bool :=
  let o := off % 0x100_0000
  off < 0x200_0000 || (0x1000_0000 ≤ off && off < 0x1200_0000 && off % 0x10_0000 < 0x5_0000) ||
  (0x2000_0000 ≤ off && off < 0x2400_0000 && o < 0x9_0000 && (o != 0x5_0000 || 0x2200_0000 ≤ off))

/-- A block that no grant may touch lies there: Beacon, run control, Keeper, security (R364). DEDUCED: log entry 90. -/
def guardedBlock (off : Nat) : Bool :=
  off == 0x2080_0000 || off == 0x2081_0000 || (0x2090_0000 ≤ off && off ≤ 0x20A0_0000)

/-- The blocks of a range. DEDUCED: log entry 90. -/
def blocksOf (off n : Nat) : List Nat := (List.range (n / 0x1_0000)).map fun i => off + i * 0x1_0000

namespace State

/-! ### Device -/

/-- `INFO_VERSION`. -/
def infoVersion (s : State) (c : Cmd) : State :=
  let k := s.host.kfw.toNat
  s.complete c Sts.ok 0 [BitVec.ofNat 8 (k / 65536), BitVec.ofNat 8 (k / 256), BitVec.ofNat 8 k, s.rom]

/-- `INFO_DEVICE`. -/
def infoDevice (s : State) (c : Cmd) : State :=
  s.complete c Sts.ok 0
    ([BitVec.ofNat 8 s.iodRev, BitVec.ofNat 8 (s.logDepth (.stack 0)), BitVec.ofNat 8 s.thm.cls,
      BitVec.ofNat 8 (s.thm.pendCls.getD 0xFF), BitVec.ofNat 8 s.sec.life, BitVec.ofNat 8 s.degraded.toNat] ++
      leBytes 2 s.coresUp ++ leBytes 8 s.idNumber)

/-- `INFO_MAP` answered: the map record to the buffer, its hash. -/
def giveMap (s : State) (c : Cmd) : State :=
  if arg c.args 8 4 < 1280 then s.answer c Sts.badArg
  else
    let (st, t) := s.bufWrite (arg c.args 0 8) s.kpr.mapRec
    if st != Sts.ok then t.answer c st else t.complete c Sts.ok 0 s.mapHash

/-- `INFO_MAP`: before the cold sequence is complete it waits (R373). -/
def infoMap (s : State) (c : Cmd) : State := if s.kpr.coldDone then s.giveMap c else s

/-- The cold sequence is complete: every `INFO_MAP` that waits is answered (R373). -/
def mapWaiters (s : State) : State :=
  forEach (s.kpr.accepted.filter fun c => c.opcode == Op.infoMap) s giveMap

/-! ### Grants -/

/-- `REG_GRANT`. Revoking takes every part of a grant within the range away; one that would leave more than 16 grants is refused. DEDUCED: log entry 90. -/
def regGrant (s : State) (c : Cmd) : State :=
  let a := arg c.args 0 8; let n := arg c.args 8 4; let on := arg c.args 12 1
  let off := a - regBase
  if 1 < on || n = 0 || n % 0x1_0000 != 0 || a % 0x1_0000 != 0 || a < regBase || aliasBase < a + n then s.answer c Sts.badArg
  else if on = 0 then
    let cut (g : Nat × Nat) : List (Nat × Nat) :=
      [(g.1, min (g.1 + g.2) off - g.1), (max g.1 (off + n), g.1 + g.2 - max g.1 (off + n))].filter fun x => x.2 != 0
    let left := s.kpr.grants.flatMap fun (g : Nat × Nat) => if g.1 + g.2 ≤ off ∨ off + n ≤ g.1 then [g] else cut g
    if 16 < left.length then s.answer c Sts.notPermitted else ({ s with kpr := { s.kpr with grants := left } }).answer c Sts.ok
  else if !(blocksOf off n).all (fun b => grantBlock b || guardedBlock b) then s.answer c Sts.badArg
  else if (blocksOf off n).any guardedBlock || 16 ≤ s.kpr.grants.length then s.answer c Sts.notPermitted
  else ({ s with kpr := { s.kpr with grants := s.kpr.grants ++ [(off, n)] } }).answer c Sts.ok

/-- A register-space offset lies within a grant (R349). -/
def granted (s : State) (off : Nat) : Bool := s.kpr.grants.any fun g => decide (g.1 ≤ off ∧ off + 8 ≤ g.1 + g.2)

/-! ### Logs -/

/-- `LOG_BIND` (R368). -/
def logBindTo (s : State) (c : Cmd) : State :=
  let a := arg c.args 0 8; let n := arg c.args 8 1
  if a = 0 then ({ s with kpr := { s.kpr with logBind := none } }).answer c Sts.ok
  else if a % 4096 != 0 || n < 8 || 16 < n then s.answer c Sts.badArg
  else ({ s with kpr := { s.kpr with logBind := some (a, n) } }).answer c Sts.ok

/-- The log that a command names by kind and number. -/
def logNamed (c : Cmd) : Option LogId :=
  let n := arg c.args 1 1
  match arg c.args 0 1 with
  | 0 => if n < 32 then some (.die n) else none
  | 1 => if n < 8 then some (.stack n) else none
  | _ => none

/-- `LOG_ECC_READ`: the pairs of every entry to the buffer. -/
def logEccRead (s : State) (c : Cmd) : State :=
  match logNamed c with
  | none => s.answer c Sts.badArg
  | some l =>
    let es := List.range (s.logDepth l)
    let (st, t) := s.bufWrite (arg c.args 8 8)
      (es.flatMap fun j => leBytes 8 (s.logAddr l j).toNat ++ leBytes 8 (s.logInfo l j).toNat)
    if st != Sts.ok then t.answer c st
    else t.complete c Sts.ok 0 [BitVec.ofNat 8 (es.countP fun j => bitAt (s.logInfo l j) 63)]

/-- `LOG_ECC_CLEAR`: the entries of the mask become invalid. -/
def logEccClear (s : State) (c : Cmd) : State :=
  match logNamed c with
  | none => s.answer c Sts.badArg
  | some l =>
    let t := forEach (List.range (s.logDepth l)) s fun t j =>
      if (arg c.args 8 4).testBit j then t.clearEntry l j
      else t
    t.answer c Sts.ok

end State

/-- `INFO_VERSION` (R364). -/
def execInfoVersion (m : Mbox) (s : State) : Host.Outcome State Fault Refusal :=
  s.done (s.serve Op.infoVersion 0 [] m State.infoVersion)

/-- `INFO_DEVICE` (R364). -/
def execInfoDevice (m : Mbox) (s : State) : Host.Outcome State Fault Refusal :=
  s.done (s.serve Op.infoDevice 0 [] m State.infoDevice)

/-- `INFO_MAP` (R373, R384). -/
def execInfoMap (m : Mbox) (s : State) : Host.Outcome State Fault Refusal :=
  s.done (s.serve Op.infoMap 16 [(0, 12)] m State.infoMap)

/-- `REG_GRANT` (R364). -/
def execRegGrant (m : Mbox) (s : State) : Host.Outcome State Fault Refusal :=
  s.done (s.serve Op.regGrant 16 [(0, 13)] m State.regGrant)

/-- `LOG_BIND` (R368). -/
def execLogBind (m : Mbox) (s : State) : Host.Outcome State Fault Refusal :=
  s.done (s.serve Op.logBind 16 [(0, 9)] m State.logBindTo)

/-- `LOG_ECC_READ` (R364). -/
def execLogEccRead (m : Mbox) (s : State) : Host.Outcome State Fault Refusal :=
  s.done (s.serve Op.logEccRead 16 [(0, 2), (8, 8)] m State.logEccRead)

/-- `LOG_ECC_CLEAR` (R364). -/
def execLogEccClear (m : Mbox) (s : State) : Host.Outcome State Fault Refusal :=
  s.done (s.serve Op.logEccClear 16 [(0, 2), (8, 4)] m State.logEccClear)

end Sys2Proof.Machine
end

