-- ==== Sys2Proof/Machine/RunControl.lean ====
section
/-!
DEFINITION. The run-control family: the Beacon commands (R27, R35), starts and stops of runs (R217, R219), queue bindings, and the
clearing of a trap (R144).
-/

namespace Sys2Proof.Machine

namespace State

/-- `BCN_SET_PERIOD` (R27). -/
def bcnSetPeriod (s : State) (c : Cmd) : State :=
  let n := arg c.args 0 2
  if n < 25 || 1600 < n then s.answer c Sts.badArg
  else if 2 ≤ s.bcnState then s.answer c Sts.bcnState
  else ((s.updBcn fun b => { b with period := setFld b.period 10 0 n }).refreshCpf).answer c Sts.ok

/-- `BCN_ARM` (R32, R35, R36): open until the arming mark or until the Beacon leaves ARMED without one. DEDUCED: log entry 14. -/
def bcnArm (s : State) (c : Cmd) : State :=
  if 2 ^ 48 ≤ arg c.args 0 8 then s.answer c Sts.badArg
  else if s.anyActive then s.answer c Sts.runActive
  else if s.bcnState == 0 || s.bcnState == 2 then s.answer c Sts.bcnState
  else if !s.periodFits then s.answer c Sts.periodMismatch
  else s.armWith (BitVec.ofNat 48 (arg c.args 0 8))

/-- `BCN_DISARM` (R35). -/
def bcnDisarm (s : State) (c : Cmd) : State :=
  if s.bcnState != 2 then s.answer c Sts.bcnState else s.disarm.answer c Sts.ok

/-- `RUN_START` accepted. -/
def runStart (s : State) (c : Cmd) : State :=
  if 8 ≤ arg c.args 0 1 || 2 ≤ arg c.args 1 1 || 2 ^ 48 ≤ arg c.args 8 8 || 2 ^ 48 ≤ arg c.args 24 8 then s.answer c Sts.badArg
  else if s.retired then s.answer c Sts.lifecycleState else s.order c

/-- `RUN_STOP` accepted. DEDUCED: log entry 72. -/
def runStop (s : State) (c : Cmd) : State :=
  if 8 ≤ arg c.args 0 1 || 2 ≤ arg c.args 1 1 || 2 ^ 48 ≤ arg c.args 8 8 then s.answer c Sts.badArg else s.order c

/-- `QUEUE_BIND` accepted. DEDUCED: log entry 71. -/
def queueBind (s : State) (c : Cmd) : State :=
  let v := arg c.args 2 1
  if 8 ≤ arg c.args 0 1 || 64 ≤ arg c.args 1 1 || (v != 0 && v < 128) || 2 ≤ arg c.args 3 1 then s.answer c Sts.badArg
  else s.order c

/-- `QUEUE_UNBIND` accepted. -/
def queueUnbind (s : State) (c : Cmd) : State :=
  if 8 ≤ arg c.args 0 1 || 64 ≤ arg c.args 1 1 then s.answer c Sts.badArg else s.order c

/-- `CORE_TRAP_CLEAR` (R144). -/
def coreTrapClear (s : State) (c : Cmd) : State :=
  let n := arg c.args 0 2
  if 512 ≤ n || !s.presented n then s.answer c Sts.badArg
  else if !s.dieUp (dieOf n) then s.answer c Sts.dieUnavailable
  else if !s.trapClears n then s.answer c Sts.coreState else (s.clearTrap n).answer c Sts.ok

end State

/-- `BCN_SET_PERIOD` (R27). -/
def execBcnSetPeriod (m : Mbox) (s : State) : Host.Outcome State Fault Refusal :=
  s.bcnDone (s.serve Op.bcnSetPeriod 8 [(0, 2)] m State.bcnSetPeriod)

/-- `BCN_ARM` (R35). -/
def execBcnArm (m : Mbox) (s : State) : Host.Outcome State Fault Refusal :=
  s.bcnDone (s.serve Op.bcnArm 8 [(0, 8)] m State.bcnArm)

/-- `BCN_DISARM` (R35). -/
def execBcnDisarm (m : Mbox) (s : State) : Host.Outcome State Fault Refusal :=
  s.bcnDone (s.serve Op.bcnDisarm 0 [] m State.bcnDisarm)

/-- `RUN_START` (R217). -/
def execRunStart (m : Mbox) (s : State) : Host.Outcome State Fault Refusal :=
  s.done (s.serve Op.runStart 32 [(0, 2), (8, 24)] m State.runStart)

/-- `RUN_STOP` (R219). -/
def execRunStop (m : Mbox) (s : State) : Host.Outcome State Fault Refusal :=
  s.done (s.serve Op.runStop 16 [(0, 2), (8, 8)] m State.runStop)

/-- `QUEUE_BIND` (R364). -/
def execQueueBind (m : Mbox) (s : State) : Host.Outcome State Fault Refusal :=
  s.done (s.serve Op.queueBind 16 [(0, 4), (8, 8)] m State.queueBind)

/-- `QUEUE_UNBIND` (R364). -/
def execQueueUnbind (m : Mbox) (s : State) : Host.Outcome State Fault Refusal :=
  s.done (s.serve Op.queueUnbind 8 [(0, 2)] m State.queueUnbind)

/-- `CORE_TRAP_CLEAR` (R144). -/
def execCoreTrapClear (m : Mbox) (s : State) : Host.Outcome State Fault Refusal :=
  s.done (s.serve Op.coreTrapClear 8 [(0, 2)] m State.coreTrapClear)

end Sys2Proof.Machine
end

