-- ==== Sys2Proof/Machine/RegFile.lean ====
section
/-!
DEFINITION. Every register by its address: what a read returns, and `REGISTER_WRITE`, the write of a field by its access type (R8-R10,
R238, R239, R346-R354).
-/

namespace Sys2Proof.Machine

/-- Where a register lies: a block of R238 and the offset within it. -/
inductive RegAt where
  | core (c off : Nat)
  | die (d off : Nat)
  | iod (i off : Nat)
  | bcn (off : Nat)
  | run (p off : Nat)
  | kpr (off : Nat)
  | sec (off : Nat)
  deriving DecidableEq, Repr

/-- The block that an offset of the register space lies in; `none` where none does (R238). DEDUCED: log entry 89. -/
def regAt (o : Nat) : Option RegAt :=
  if o < 0x200_0000 then some (.core (o / 0x1_0000) (o % 0x1_0000))
  else if 0x1000_0000 ≤ o ∧ o < 0x1200_0000 then
    if o % 0x10_0000 < 0x5_0000 then some (.die ((o - 0x1000_0000) / 0x10_0000) (o % 0x10_0000)) else none
  else if 0x2000_0000 ≤ o ∧ o < 0x2400_0000 then
    let i := (o - 0x2000_0000) / 0x100_0000; let r := o % 0x100_0000
    if r < 0x9_0000 then (if i < 2 ∧ 0x5_0000 ≤ r ∧ r < 0x6_0000 then none else some (.iod i r))
    else if i != 0 then none
    else if 0x80_0000 ≤ r ∧ r < 0x81_0000 then some (.bcn (r - 0x80_0000))
    else if 0x81_0000 ≤ r ∧ r < 0x81_8000 then some (.run ((r - 0x81_0000) / 0x1000) (r % 0x1000))
    else if 0x90_0000 ≤ r ∧ r < 0xA0_0000 then some (.kpr (r - 0x90_0000))
    else if 0xA0_0000 ≤ r ∧ r < 0xA1_0000 then some (.sec (r - 0xA0_0000))
    else none
  else none

namespace State

/-! ### Reads -/

/-- Free entries of a unit's queue (R140). -/
def credit (s : State) (c : Nat) (u : CoreUnit) : Nat := CoreUnit.depth u - ((s.cxOf c).queued u).length

/-- `SEQ_CRED`. -/
def seqCredWord (s : State) (c : Nat) : Word :=
  BitVec.ofNat 64 (s.credit c (.eng 0) + s.credit c (.eng 1) * 2 ^ 6 + s.credit c (.eng 2) * 2 ^ 12 + s.credit c (.eng 3) * 2 ^ 18 +
    s.credit c .vec * 2 ^ 24 + s.credit c (.str 0) * 2 ^ 30 + s.credit c .pgw * 2 ^ 36 + s.credit c .chk * 2 ^ 42 +
    s.credit c .que * 2 ^ 48)

/-- `SEQ_POS`: RFN and op index of the next word; behind the last word, those of the last. -/
def seqPosWord (s : State) (c : Nat) : Word :=
  let x := s.cxOf c
  let next : Option (Nat × Nat) :=
    match (s.slotOf c).bind fun p => s.streamEnt? p c with
    | none => none
    | some e => match streamNext e x.pos x.rfn.toNat with
      | none => none
      | some (n, base, dfl) => match (s.readDa (Who.fetch c) (s.wordDa c n) 16).1 with
        | .error _ => none
        | .ok b =>
          let r := wordRfn base dfl (BitVec.ofNat 128 (leNat b))
          some (r, if r = x.rfn.toNat then x.op else 0)
  let p := next.getD (x.rfn.toNat, x.op - 1)
  BitVec.ofNat 64 (p.1 * 65536 + p.2 % 65536)

/-- A core register as it reads. DEDUCED: log entry 89. DEDUCED: log entry 91. -/
def readCore (s : State) (c off : Nat) : Word :=
  if off = R.seqCred then s.seqCredWord c
  else if off = R.seqPos then s.seqPosWord c
  else if off = R.strTag then setFld (s.core c off) 8 0 (s.tagsOf c false)
  else s.core c off

/-- Every unit of core c that can be banked is (R161). -/
def allBanked (s : State) (c : Nat) : Bool :=
  ((List.range 4).all fun e => s.engState c e == engBanked) && s.vecState c == unitBanked && s.pgwState c == unitBanked

/-- `PWR_BANK`: physical cores with every unit banked; a spare that bears no core stays banked (R17, R418). -/
def bankedWord (s : State) (d : Nat) : Word :=
  BitVec.ofNat 64 ((List.range 17).foldl (fun m p =>
    let on := match (List.range 16).find? fun l => s.bearer d l == some p with
      | some l => s.allBanked (coreAt d l)
      | none => p = 16
    if on then m + 2 ^ p else m) 0)

/-- Dirty lines in slice i of the shared cache. -/
def dirtyLines (s : State) (i : Nat) : Nat := s.cache.countP fun e => e.2.dirty && unitIod e.1 == i

/-- `THM_MARGIN`. -/
def marginWord (s : State) : Word :=
  BitVec.ofNat 64 (s.thm.cls + (match s.thm.pendCls with
    | some n => n * 16 + 4
    | none => 0))

/-- A register that meters outside the block feed: its fields are free values (R420). -/
def metered (s : State) (o : Nat) : Word × State := (Config.measured s.free o, s.bumpFree)

/-- A register of compute die d as it reads. DESIGN CHOICE: log entry 63. DEDUCED: log entry 89. DEDUCED: log entry 91. -/
def readDie (s : State) (d off : Nat) : Word × State :=
  if off = R.pwrDie then
    let (w, t) := s.metered (0x1000_0000 + d * 0x10_0000 + off)
    (w &&& fldMask 47 0, t)
  else if off = R.pwrEnergy then
    let (w, t) := s.metered (0x1000_0000 + d * 0x10_0000 + off)
    (w &&& fldMask 47 0, t)
  else if off = R.pwrBank then (s.bankedWord d, s)
  else (s.die d off, s)

/-- `MEM_STAGE_STS`: where the staging in progress is (R263). DESIGN CHOICE: log entry 67. -/
def stageWord (s : State) : Word :=
  let w := s.iod 0 R.memStageSts
  match s.kpr.stage with
  | [] => w
  | e :: es =>
    let at_ := Config.stageAt s.free
    let k := at_.1 % (es.length + 1)
    w ||| BitVec.ofNat 64 (k * 2 ^ 32 + at_.2 % (((e :: es).getD k e).len / 64))

/-- A register of I/O die i as it reads. DESIGN CHOICE: log entry 63. -/
def readIod (s : State) (i off : Nat) : Word × State :=
  if off = R.memCacheSts then (BitVec.ofNat 64 (s.dirtyLines i), s)
  else if off = R.eccInfo then (BitVec.ofNat 64 (if s.iodC then 32 else 16), s)
  else if off = R.iodD2dRev then (BitVec.ofNat 64 s.iodRev, s)
  else if i = 0 ∧ off = R.memStageSts then (s.stageWord, if s.kpr.stage.isEmpty then s else s.bumpFree)
  else if i = 0 ∧ off = R.thmMargin then (s.marginWord, s)
  else if i = 0 ∧ off = R.thmSupply then
    let (w, t) := s.metered (0x2000_0000 + off)
    (setFld (s.iod 0 off) 15 0 (fld w 15 0), t)
  else (s.iod i off, s)

/-- A Beacon register. -/
def readBcn (s : State) (off : Nat) : Word :=
  match off with
  | 0x00 => s.bcn.ctrl
  | 0x08 => s.bcn.period
  | 0x10 => s.bcn.sts
  | 0x18 => s.bcn.fn
  | 0x20 => s.bcn.armFn
  | 0x28 => s.bcn.occCnt
  | 0x30 => s.bcn.lastOcc
  | 0x38 => s.bcn.strayCnt
  | 0x40 => s.bcn.cpf
  | _ => 0

/-- A register of slot p's run-control block. -/
def readRun (s : State) (p off : Nat) : Word :=
  let y := s.slot p
  match off with
  | 0x00 => setBit y.sts 11 (y.img.isSome && s.thm.pendCls.isSome)
  | 0x08 => y.start
  | 0x10 => y.endR
  | 0x18 => y.seed
  | 0x20 => y.tag
  | _ =>
    if off < 0x800 then 0
    else
      let x := s.que p ((off - 0x800) / 0x20)
      match off % 0x20 with
      | 0x00 => x.head
      | 0x08 => x.tail
      | 0x10 => x.avail
      | 0x18 => x.sts
      | _ => 0

/-- `KPR_MAP_STS` (R383): 0 until the cold sequence is complete. -/
def mapStsWord (s : State) : Word :=
  if !s.kpr.coldDone then 0
  else BitVec.ofNat 64 (s.degraded.toNat * 2 ^ 63 + s.map.iodFenced.toNat * 2 ^ 56 + s.map.hbmOut.toNat * 2 ^ 48 +
    s.coresUp * 2 ^ 32 + s.map.fenced.toNat)

/-- A register of the Keeper block. -/
def readKpr (s : State) (off : Nat) : Word :=
  match off with
  | 0x1_0000 => s.kpr.rstLast
  | 0x1_0008 => s.kpr.rstCnt
  | 0x1_0010 => s.mapStsWord
  | 0x1_0018 => s.kpr.katSts
  | _ => 0

/-- A register of the security block. -/
def readSec (s : State) (off : Nat) : Word :=
  match off with
  | 0x00 => BitVec.ofNat 64 (s.sec.returns * 256 + s.sec.ownerErr.toNat * 32 + s.ownerKey.isSome.toNat * 16 + s.sec.life)
  | 0x08 => BitVec.ofNat 64 s.idNumber
  | 0x10 => BitVec.ofNat 64 (s.sec.floor * 2 ^ 32 + (if s.kprState = 2 then s.sec.svn else 0))
  | 0x18 => BitVec.ofNat 64 (s.sec.unlocks * 2 ^ 32 + s.sec.scope)
  | 0x20 => s.sec.nonce.extractLsb' 0 64
  | 0x28 => s.sec.nonce.extractLsb' 64 64
  | 0x30 => s.sec.nonce.extractLsb' 128 64
  | 0x38 => s.sec.nonce.extractLsb' 192 64
  | _ => 0

/-- The register at an offset of the register space as it reads: unpopulated addresses are address errors, a core whose die's buoy is
low returns `TARGET_RESET` (R236, R376). -/
def readReg (s : State) (o : Nat) : Except AccErr Word × State :=
  match regAt o with
  | none => (.error (.addr (regBase + o)), s)
  | some (.core c off) =>
    if !s.presented c then (.error (.addr (regBase + o)), s)
    else if !s.dieUp (dieOf c) then (.error (.targetReset (regBase + o)), s)
    else (.ok (s.readCore c off), s)
  | some (.die d off) => (.ok (s.readDie d off).1, (s.readDie d off).2)
  | some (.iod i off) => (.ok (s.readIod i off).1, (s.readIod i off).2)
  | some (.bcn off) => (.ok (s.readBcn off), s)
  | some (.run p off) => (.ok (s.readRun p off), s)
  | some (.kpr off) => (.ok (s.readKpr off), s)
  | some (.sec off) => (.ok (s.readSec off), s)

/-- `HOST_ID`. -/
def hostIdWord (s : State) : Word :=
  BitVec.ofNat 64 (0x7100 * 2 ^ 48 + s.iodRev * 2 ^ 40 + s.rom.toNat * 2 ^ 32 + s.host.kfw.toNat * 2 ^ 8)

/-! ### Reads of BAR0 -/

/-- A host register (R346). -/
def hostWord (s : State) (off : Nat) : Word :=
  match off with
  | 0x00 => s.hostIdWord
  | 0x08 => s.host.buoy0
  | 0x10 => s.host.buoy1
  | 0x18 => s.host.kprSts
  | 0x20 => s.host.hb
  | 0x28 => s.host.intSts
  | 0x30 => s.host.intMask
  | 0x38 => s.host.win
  | 0x40 => s.host.rwin
  | 0x48 => s.host.err
  | 0x50 => s.host.log
  | _ => if off < 0x100 ∨ 0x900 ≤ off then 0 else s.crReg ((off - 0x100) / 0x20) (off % 0x20 / 8)

/-- A queue doorbell as it reads: the tail of an input kind, the head of an output kind (R347). DEDUCED: log entry 70. -/
def queueIndex (s : State) (p q : Nat) : Word :=
  match s.queDecl? p q with
  | none => 0
  | some d => BitVec.ofNat 64 (if d.input then fld (s.que p q).tail 31 0 else fld (s.que p q).head 31 0)

/-- The aligned word of BAR0 at an offset outside the register window; what is not listed reads as zero (R346).
DESIGN CHOICE: log entry 103. -/
def bar0Word (s : State) (off : Nat) : Word :=
  if off < 0x1_0000 then s.hostWord off
  else if off < 0x1_0200 then Config.ringDoorbell s.free ((off - 0x1_0000) / 8)
  else if 0x2_0000 ≤ off ∧ off < 0x2_1000 then s.queueIndex ((off - 0x2_0000) / 0x200) ((off - 0x2_0000) % 0x200 / 8)
  else if 0x3_0000 ≤ off ∧ off < 0x3_1000 then
    (s.msixEntry ((off - 0x3_0000) / 16)).extractLsb' ((off - 0x3_0000) % 16 * 8) 64
  else if 0x3_1000 ≤ off ∧ off < 0x3_1020 then s.host.pba.extractLsb' ((off - 0x3_1000) * 8) 64
  else 0

/-- A host read through the register window (R349, R354). DEDUCED: log entry 90. -/
def windowRead (s : State) (o n : Nat) : State :=
  let off := fld s.host.rwin 10 0 * 0x200_0000 + o
  if o % 8 != 0 || n != 8 then (s.hostError 7 0 (regBase + off)).emit .completerAbort
  else match s.readReg off with
    | (.ok v, t) => t.emit (.data (leBytes 8 v.toNat))
    | (.error e, t) => (t.hostError (errHost e) 0 (regBase + off)).emit .completerAbort

/-- A host read of n bytes of BAR0 (R346, R347, R349). DESIGN CHOICE: log entry 103. -/
def bar0Read (s : State) (off n : Nat) : State :=
  if 0x200_0000 ≤ off then s.windowRead (off - 0x200_0000) n
  else
    let a := off / 8
    let b := (List.range ((off + n + 7) / 8 - a)).flatMap fun k => leBytes 8 (s.bar0Word (8 * (a + k))).toNat
    (s.emit (.data ((b.drop (off % 8)).take n))).bumpFree

/-! ### Writes in register space -/

/-- A Beacon register written (R27, R35). DESIGN CHOICE: log entry 110. -/
def writeBcn (s : State) (off : Nat) (v : Word) : State :=
  match off with
  | 0x00 =>
    let t := if bitAt v 1 then s.disarm else s
    if bitAt v 0 && t.mayArm then t.armWith (t.bcn.armFn.truncate 48) else t
  | 0x08 =>
    let n := fld v 10 0
    if n < 25 || 1600 < n || 2 ≤ s.bcnState then s
    else (s.updBcn fun b => { b with period := setFld b.period 10 0 n }).refreshCpf
  | 0x10 => s.updBcn fun b => { b with sts := regAfter b.sts v 0 (fldMask 12 8) 0 }
  | 0x20 => if s.bcnState == 2 then s else s.updBcn fun b => { b with armFn := v &&& fldMask 47 0 }
  | _ => s

/-- A register of slot p's run-control block written: the tail of an input queue, queue flags (R222). -/
def writeRun (s : State) (p off : Nat) (v : Word) : State :=
  if off < 0x800 then s
  else
    let q := (off - 0x800) / 0x20
    match off % 0x20, s.queDecl? p q with
    | 0x08, some _ => s.queueTail p q (fld v 31 0)
    | 0x18, some _ => s.updQue p q fun x => { x with sts := regAfter x.sts v 0 0xF 0 }
    | _, _ => s

/-- The log entry whose INFO register lies at an offset from the first. -/
def infoEntry (first off n : Nat) : Option Nat :=
  if first ≤ off ∧ off < first + 16 * n ∧ (off - first) % 16 = 0 then some ((off - first) / 16) else none

/-- A register of compute die d written. -/
def writeDie (s : State) (d off : Nat) (v : Word) : State :=
  match infoEntry (R.turfLogInfo 0) off 16 with
  | some j => if bitAt v 63 then s.clearEntry (.die d) j else s
  | none =>
    if off = R.turfEccSts then s.updDie d off fun w => regAfter w v 0 0x3 0
    else if off = R.turfScrbRate then if fld v 31 0 = 0 then s else s.updDie d off fun w => regAfter w v (fldMask 31 0) 0 0
    else if off = R.d2dDieSts then s.updDie d off fun w => regAfter w v 0 (fldMask 7 4) 0
    else if (List.range 4).any fun p => off == R.d2dPortSts p then s.updDie d off fun w => regAfter w v 0 1 0
    else if off = R.thmSts then s.updDie d off fun w => regAfter w v 0 (fldMask 31 30) 0
    else s

/-- A register of I/O die i written. -/
def writeIod (s : State) (i off : Nat) (v : Word) : State :=
  match infoEntry (R.eccHLogInfo 0 0) off 32, infoEntry (R.eccHLogInfo 1 0) off 32 with
  | some j, _ => if bitAt v 63 then s.clearEntry (.stack (2 * i)) j else s
  | none, some j => if bitAt v 63 then s.clearEntry (.stack (2 * i + 1)) j else s
  | none, none =>
    if off = R.eccSts then s.updIod i off fun w => regAfter w v 0 0xF 0
    else if off = R.scrubHRate 0 ∨ off = R.scrubHRate 1 then
      if fld v 31 0 = 0 then s else s.updIod i off fun w => regAfter w v (fldMask 31 0) 0 0
    else if off = R.nbuSts then s.updIod i off fun w => regAfter w v 0 0x10000 0
    else if (List.range 6).any fun j => off == R.lnkPortSts j then s.updIod i off fun w => regAfter w v 0 8 0
    else if (List.range 6).any fun j => off == R.lnkPortPad j then
      if 40 ≤ fld v 6 0 ∧ fld v 6 0 ≤ 120 then s.updIod i off fun w => regAfter w v (fldMask 6 0) 0 0 else s
    else if (List.range 4).any fun f => off == R.iodD2dPortSts f then s.updIod i off fun w => regAfter w v 0 1 0
    else if i = 0 ∧ off = R.thmFlow then s.updIod i off fun w => regAfter w v 0 (fldMask 40 40) 0
    else s

/-- The register at an offset of the register space written, by the access types of its fields; `none` where the address is not
populated or its core in reset. The Keeper and security blocks hold nothing to write. -/
def writeReg (s : State) (o : Nat) (v : Word) : Option AccErr × State :=
  match regAt o with
  | none => (some (.addr (regBase + o)), s)
  | some (.core c off) =>
    if !s.presented c then (some (.addr (regBase + o)), s)
    else if !s.dieUp (dieOf c) then (some (.targetReset (regBase + o)), s)
    else (none, s.aside fun s => s.writeCore c off v)
  | some (.die d off) => (none, s.aside fun s => s.writeDie d off v)
  | some (.iod i off) => (none, s.aside fun s => s.writeIod i off v)
  | some (.bcn off) => (none, s.writeBcn off v)
  | some (.run p off) => (none, s.aside fun s => s.writeRun p off v)
  | some (.kpr _) => (none, s)
  | some (.sec _) => (none, s)

/-! ### Writes to BAR0 -/

/-- Interrupt masks written: a cause that is unmasked while set sends its vector (R351). -/
def writeMask (s : State) (v : Word) : State :=
  let t := { s with host := { s.host with intMask := v &&& 0x1FF } }
  forEach (List.range 9) t fun t b =>
    if bitAt s.host.intMask b && !bitAt v b && bitAt s.host.intSts b then t.sendMsix (64 + b) else t

/-- A host register written. -/
def writeHost (s : State) (off : Nat) (v : Word) : State :=
  let h := s.host
  match off with
  | 0x28 => { s with host := { h with intSts := regAfter h.intSts v 0 0x1FF 0 } }
  | 0x30 => s.writeMask v
  | 0x38 => if 23 < fld v 4 0 || fld v 4 0 = 15 then s else { s with host := { h with win := v &&& 0x1F } }
  | 0x40 => { s with host := { h with rwin := v &&& 0x7FF } }
  | 0x48 => { s with host := { h with err := regAfter h.err v 0 (fldMask 63 63) 0 } }
  | 0x50 => { s with host := { h with log := regAfter h.log v (fldMask 63 32) 0 0 } }
  | _ =>
    if off < 0x100 ∨ 0x900 ≤ off then s
    else
      let r := (off - 0x100) / 0x20
      match off % 0x20 with
      | 0x00 => if s.ringIdle r then (s.setCr r 0 (v &&& (fldMask 63 14 ||| 1))).sweepRings else s
      | 0x08 => (s.setCr r 1 (v &&& fldMask 31 0)).sweepRings
      | _ => s

/-- Half of an MSI-X table entry written: a message that waits is sent once its entry is unmasked (R351). -/
def writeMsix (s : State) (off : Nat) (v : Word) : State :=
  let e := off / 16
  let old := s.msixEntry e
  let new : BitVec 128 :=
    if off % 16 = 0 then old.extractLsb' 64 64 ++ v else v ++ old.extractLsb' 0 64
  let t := { s with host := { s.host with msix := s.host.msix.set e new } }
  if !new.getLsbD 96 && s.host.pba.getLsbD e then
    ({ t with host := { t.host with pba := t.host.pba &&& ~~~ ((1 : BitVec 256) <<< e) } }).sendMsix e
  else t

/-- A write of n bytes through the register window (R349, R354). DEDUCED: log entry 90. -/
def windowWrite (s : State) (o n : Nat) (v : Word) : State :=
  let off := fld s.host.rwin 10 0 * 0x200_0000 + o
  if o % 8 != 0 || n != 8 then (s.hostError 7 0 (regBase + off)).emit .dropped
  else if !s.granted off then (s.hostError 5 0 (regBase + off)).emit .dropped
  else match s.writeReg off v with
    | (none, t) => t
    | (some e, t) => (t.hostError (errHost e) 0 (regBase + off)).emit .dropped

/-- What a write of n bytes at BAR0 offset `off`, within one aligned word, writes to that word: the bytes not written are those that
the word holds, and zero where writing ones clears. DESIGN CHOICE: log entry 103. -/
def bar0Merge (s : State) (off n : Nat) (v : Word) : Word :=
  let a := off / 8 * 8
  let m := fldMask (8 * (off % 8 + n) - 1) (8 * (off % 8))
  let old : Word := if a = 0x28 ∨ a = 0x48 then 0
    else if 0x1_0000 ≤ a ∧ a < 0x1_0200 then (s.host.prod.get 0 ((a - 0x1_0000) / 8)).setWidth 64
    else s.bar0Word a
  if n = 8 then v else (old &&& ~~~ m) ||| ((v <<< (8 * (off % 8))) &&& m)

/-- A write of n bytes to BAR0 (R346); what is not listed ignores it. -/
def bar0Write (s : State) (off n : Nat) (v : Word) : State :=
  if 0x200_0000 ≤ off then (if off < 0x400_0000 then s.windowWrite (off - 0x200_0000) n v else s)
  else if n = 0 ∨ 8 < off % 8 + n then s
  else
    let v := s.bar0Merge off n v
    let off := off / 8 * 8
    if off < 0x1_0000 then s.aside fun s => s.writeHost off v
    else if off < 0x1_0200 then s.ringDoorbell ((off - 0x1_0000) / 8) (fld v 31 0)
    else if 0x2_0000 ≤ off ∧ off < 0x2_1000 then
      s.aside fun s => s.queueDoorbell ((off - 0x2_0000) / 0x200) ((off - 0x2_0000) % 0x200 / 8) (fld v 31 0)
    else if 0x3_0000 ≤ off ∧ off < 0x3_1000 then s.aside fun s => s.writeMsix (off - 0x3_0000) v
    else s

/-- A write by the Keeper, at an address of the register space, or by the host, at an offset of BAR0. -/
def registerWrite (s : State) (a : RegAgent) (addr : Nat) (v : Word) : State :=
  match a with
  | .host n => if s.hostReach && !s.host.d3 then s.bar0Write addr n v else s
  | .keeper =>
    if s.powered && s.kprState == 2 && regBase ≤ addr && addr < aliasBase && addr % 8 == 0 then (s.writeReg (addr - regBase) v).2
    else s

end State

/-- `BAR2_READ` (R352), of BAR2, or of BAR0 or BAR4 (R345, R346, R349). -/
def execBar2Read (b : HostBar) (off : BitVec 36) (n : Nat) (s : State) : Host.Outcome State Fault Refusal :=
  s.onRead fun t => match b with
    | .bar0 => t.bar0Read off.toNat n
    | .bar2 => t.bar2Read off.toNat n
    | .bar4 => t.bar4Read off.toNat n

/-- `REGISTER_WRITE` (R8, R10, R349). -/
def execRegisterWrite (a : RegAgent) (addr : BitVec 48) (v : BitVec 64) (s : State) : Host.Outcome State Fault Refusal :=
  s.bcnDone (s.registerWrite a addr.toNat v)

end Sys2Proof.Machine
end

