-- ==== Sys2Proof/Machine/Debug.lean ====
section
/-!
DEFINITION. The management port and the JTAG port (R450, R451, R476-R479): `DEBUG_READ`, `DEBUG_WRITE`, `BOUNDARY_SCAN`,
`SMBUS_BLOCK_READ`, `ALERT_RESPONSE`, `KEEPER_NOT_RUNNING_ALERT`.
-/

namespace Sys2Proof.Machine

/-- The SMBus Packet Error Code of a message: CRC-8 by x^8 + x^2 + x + 1. PRESUMED: log entry 95. -/
def pec (b : List Byte) : Byte :=
  b.foldl (fun r x => (List.range 8).foldl (fun (r : Byte) _ => if r.msb then (r <<< 1) ^^^ 7 else r <<< 1) (r ^^^ x)) 0

namespace State

/-! ### JTAG -/

/-- A scope bit is open; in MANUFACTURE every instruction is (R450, R451). DEDUCED: log entry 80. -/
def jtagOpen (s : State) (b : Nat) : Bool := s.powered && (s.sec.life == 0 || s.sec.scope.testBit b)

/-- A debug read of the aligned 64-bit word at an address of memory or register space (R451). DEDUCED: log entry 92. -/
def debugRead (s : State) (a : Nat) : State :=
  if !s.jtagOpen 1 then s
  else if a % 8 != 0 then s.emit .debugError
  else if regBase ≤ a ∧ a < aliasBase then
    match s.readReg (a - regBase) with
    | (.ok v, t) => t.emit (.debug v)
    | (.error _, t) => t.emit .debugError
  else match s.readDa Who.host a 8 with
    | (.ok b, t) => t.emit (.debug (BitVec.ofNat 64 (leNat b)))
    | (.error _, t) => t.emit .debugError

/-- A debug write of an aligned 64-bit word (R451). DEDUCED: log entry 92. -/
def debugWrite (s : State) (a : Nat) (v : Word) : State :=
  if !s.jtagOpen 2 then s
  else if a % 8 != 0 then s.emit .debugError
  else if regBase ≤ a ∧ a < aliasBase then
    match s.writeReg (a - regBase) v with
    | (none, t) => t
    | (some _, t) => t.emit .debugError
  else s.aside fun s => match s.writeDa Who.host a (leBytes 8 v.toNat) with
    | (none, t) => t
    | (some _, t) => t.emit .debugError

/-- The IDCODE of the TAP (R479). -/
def idcode (s : State) : Nat := (if s.iodC then 0xC else 0xB) * 2 ^ 28 + 0x7100 * 2 ^ 12 + Config.manufacturer.toNat * 2 + 1

/-- `COOL_REQ` is released: always at a duty of 100 %, never at 0; between them, as the moment of its period has it (R469).
DESIGN CHOICE: log entry 93. -/
def coolHigh (s : State) : Bool :=
  s.pins.coolReq == 100 || (s.pins.coolReq != 0 && Config.coolHigh s.pins.coolReq s.free)

/-- Levels of the single-ended signal contacts of connector A, as the module's functions have them, `true` for high: `PERST_L`, `SLIP_L`,
`THERMTRIP_L`, `COOL_FAULT_L`, `COOL_REQ`, `SMB_ALERT_L`, `SMB_ADDR0`, `SMB_ADDR1`, `PRSNT_L`, and `SMB_CLK` and `SMB_DAT`, whose levels
between two messages are the bus's (R452, R465-R471, R478). DESIGN CHOICE: log entry 93. -/
def contacts (s : State) : List (Option Bool) :=
  [s.host.perstHigh, !s.pins.slip, !s.pins.thermTrip, !s.pins.coolFault, s.coolHigh, !s.pins.smbAlert,
    s.straps.getLsbD 0, s.straps.getLsbD 1, false].map some ++ [none, none]

/-- Cells of the boundary-scan register (R479). -/
def scanCells : Nat := 11 + Config.scanMore

/-- Cells for n contacts, each one of those left. DESIGN CHOICE: log entry 93. -/
def scanPlaces : Nat → List Nat → List Nat
  | 0, _ => []
  | n + 1, left =>
    let c := left.getD (Config.scanPick n % left.length) 0
    c :: scanPlaces n (left.erase c)

/-- The cell of contact k, a cell of its own. DESIGN CHOICE: log entry 93. -/
def scanCell (k : Nat) : Nat := (scanPlaces 11 (List.range scanCells)).getD k 0

/-- Bit i of a scanned value set to b. -/
def putCell (v : Nat) (i : Nat) (b : Bool) : Nat := if v.testBit i == b then v else if b then v + 2 ^ i else v - 2 ^ i

/-- What the boundary-scan register captures: at the cell of each contact its level; the other cells are free (R479).
DESIGN CHOICE: log entry 93. -/
def captured (s : State) : Nat :=
  (s.contacts.zipIdx.foldl (fun v x => match x.1 with
    | some b => putCell v (scanCell x.2) b
    | none => v) (Config.scanned s.free)) % 2 ^ scanCells

/-- What an instruction acts as: one that is not open acts as BYPASS, and so do the scan instructions while a slot is STARTING or
RUNNING (R450, R451). DESIGN CHOICE: log entry 93. -/
def scanActs (s : State) (i : BScan) : BScan :=
  match i with
  | .samplePreload _ | .extest _ | .intest _ => if s.jtagOpen 0 && !s.anyActive then i else .bypass
  | _ => i

/-- Levels at those contacts: while EXTEST acts, the data scanned in drives the outputs among them (R451, R479). DESIGN CHOICE: log entry 93. -/
def driven (s : State) : List (Option Bool) :=
  s.contacts.zipIdx.map fun x =>
    match s.pins.scan.map s.scanActs with
    | some (.extest v) => if (1 ≤ x.2 ∧ x.2 ≤ 5) ∨ x.2 = 10 then some (v.testBit (scanCell x.2)) else x.1
    | _ => x.1

/-- EXTEST acts (R451). -/
def extesting (s : State) : Bool :=
  match s.pins.scan.map s.scanActs with
  | some (.extest _) => true
  | _ => false

/-- A JTAG instruction, what it shifts out, and `TRST_L`, which resets the TAP (R450, R451, R479). The instruction register holds what was
given; it acts as `scanActs` says for as long as it is there. Where EXTEST begins or ends to act, the contacts take new levels.
DESIGN CHOICE: log entry 93. -/
def boundaryScan (s : State) (i : BScan) : State :=
  if !s.powered then s
  else
    let t := if i = .reset then { s with pins := { s.pins with scan := none } }
      else
        let t := { s with pins := { s.pins with scan := some i } }
        match s.scanActs i with
        | .idcode => t.emit (.tdo 32 s.idcode)
        | .samplePreload _ | .extest _ | .intest _ => (t.emit (.tdo scanCells s.captured)).bumpFree
        | _ => t.emit (.tdo 1 0)
    when (s.extesting || t.extesting) (fun t => t.emit (.contacts t.driven)) t

/-! ### Management port -/

/-- The register that a command code selects, as it reads (R477). -/
def smbusReg (s : State) (c : Nat) : Option (Word × State) :=
  match c with
  | 0x01 => some (s.hostIdWord, s)
  | 0x02 => some (s.host.buoy0, s)
  | 0x03 => some (s.host.buoy1, s)
  | 0x04 => some (s.host.kprSts, s)
  | 0x05 => some (s.host.hb, s)
  | 0x06 => some (s.readIod 0 R.thmSupply)
  | 0x07 => some (s.readIod 0 R.thmFlow)
  | 0x08 => some (s.readIod 0 R.thmCool)
  | 0x09 => some (s.readIod 0 R.thmMargin)
  | 0x0A => some (s.readSec 0x08, s)
  | 0x0B => some (s.readSec 0x00, s)
  | 0x0C => some (s.mapStsWord, s)
  | _ => if 0x10 ≤ c ∧ c < 0x30 then some (s.readDie (c - 0x10) R.thmQuad) else none

/-- A block read as it comes back: byte count 8, the register's bytes, the lowest first, and the Packet Error Code over the message: the
address with write, the command code, the address with read, and those bytes (R477). PRESUMED: log entry 95. -/
def smbusBytes (addr c : Nat) (v : Word) : List Byte :=
  let b : List Byte := BitVec.ofNat 8 8 :: leBytes 8 v.toNat
  b ++ [pec ([BitVec.ofNat 8 addr, BitVec.ofNat 8 c, BitVec.ofNat 8 (addr + 1)] ++ b)]

/-- An SMBus block read (R477). PRESUMED: log entry 95. -/
def smbusRead (s : State) (c : Nat) : State :=
  if !s.powered then s
  else match s.smbusReg c with
    | some (v, t) => t.emit (.smbus (smbusBytes ((0x68 + s.straps.toNat) * 2) c v))
    | none => s.emit .smbusNak

/-- The SMBus Alert Response Address is called (R476, R478). -/
def alertResponse (s : State) : State :=
  if !s.powered then s else s.emit (.alertAddr (if s.pins.smbAlert then some (0x68 + s.straps.toNat) else none))

end State

/-- `DEBUG_READ` (R451). -/
def execDebugRead (addr : BitVec 48) (s : State) : Host.Outcome State Fault Refusal := s.done (s.debugRead addr.toNat)

/-- `DEBUG_WRITE` (R451). -/
def execDebugWrite (addr : BitVec 48) (v : BitVec 64) (s : State) : Host.Outcome State Fault Refusal :=
  s.bcnDone (s.debugWrite addr.toNat v)

/-- `BOUNDARY_SCAN` (R451). -/
def execBoundaryScan (i : BScan) (s : State) : Host.Outcome State Fault Refusal := s.done (s.boundaryScan i)

/-- `SMBUS_BLOCK_READ` (R477). -/
def execSmbusBlockRead (code : BitVec 8) (s : State) : Host.Outcome State Fault Refusal := s.done (s.smbusRead code.toNat)

/-- `ALERT_RESPONSE` (R478). -/
def execAlertResponse (s : State) : Host.Outcome State Fault Refusal := s.done s.alertResponse

/-- `KEEPER_NOT_RUNNING_ALERT` (R478): PG + 300 ms have passed. -/
def execKeeperNotRunningAlert (s : State) : Host.Outcome State Fault Refusal :=
  s.heatDone (if s.powered then { s with lateKeeper := true } else s)

end Sys2Proof.Machine
end

