-- ==== Sys2Proof/Machine/Keeper.lean ====
section
/-!
DEFINITION. What the Keeper writes to the host (R350, R356, R358, R366, R368): `COMPLETION_WRITE`, `LOG_DELIVERY`, `HEARTBEAT`.
-/

namespace Sys2Proof.Machine

/-- `PHASE` of index i of a ring of 2^n entries (R356, R366). -/
def phase (n i : Nat) : Byte := BitVec.ofNat 8 ((i / 2 ^ n + 1) % 2)

/-- The bytes of a completion entry at completion index i (R356). -/
def complBytes (d : Compl) (i : Nat) : List Byte :=
  leBytes 2 d.tag.toNat ++ leBytes 2 d.opcode ++ leBytes 2 d.status ++ leBytes 2 d.detail ++ leBytes 8 d.acc.toNat ++
    leBytes 8 d.done.toNat ++ (d.result ++ zeros (32 - d.result.length)) ++ zeros 4 ++ leBytes 2 d.ring ++ [0, phase 8 i]

/-- The bytes of an event log entry at delivery index i of a ring of 2^n entries (R366). -/
def logBytes (e : LogEntry) (n i : Nat) : List Byte :=
  leBytes 4 e.seq ++ leBytes 2 e.type ++ [BitVec.ofNat 8 e.conseq.toNat, BitVec.ofNat 8 e.slot] ++ leBytes 8 e.fn.toNat ++
    leBytes 8 e.rfn.toNat ++ leBytes 4 e.primary ++ [0, 0, 0, phase n i] ++ e.data

namespace State

/-- The completion that is first in order is written to its ring: the entry, then `TAIL`, then the vector unless `NOINT` (R358). While
Bus Master Enable is clear the Keeper holds it (R343). A flash slot is written once the command's completion is (R362).
DEDUCED: log entry 69. DESIGN CHOICE: log entry 81. -/
def writeCompletion (s : State) : State :=
  match s.kpr.done with
  | [] => s
  | d :: rest =>
    if !s.busReach || (s.kprState != 2 && s.kprState != 3) then s
    else
      let i := fld (s.crReg d.ring 2) 31 0
      let t := s.hostWrite (fld (s.crReg d.ring 0) 63 14 * 0x4000 + 64 * (i % 256)) (complBytes d i)
      let t := { t with kpr := { t.kpr with done := rest } }
      let t := t.setCr d.ring 2 (BitVec.ofNat 64 ((i + 1) % 2 ^ 32))
      let t := if d.writes then { t with sec := { t.sec with flashBusy := false } } else t
      let t := if d.noint then t else t.sendMsix d.ring
      t.sweepRings

/-- The oldest event log entry is delivered where the bound ring has room: the entry, then `TAIL`, then `LOG` (R368). -/
def deliverLog (s : State) : State :=
  match s.kpr.log, s.kpr.logBind with
  | e :: rest, some (a, n) =>
    let i := fld s.host.log 31 0
    if !s.busReach || s.kprState != 2 || 2 ^ n ≤ ahead i (fld s.host.log 63 32) then s
    else
      let t := s.hostWrite (a + 64 * (i % 2 ^ n)) (logBytes e n i)
      { t with
        kpr := { t.kpr with log := rest }
        host := { t.host with log := setFld t.host.log 31 0 ((i + 1) % 2 ^ 32) } } |>.raise intLog
  | _, _ => s

/-- The running Keeper counts (R350), and looks at its rings (R357). -/
def heartbeat (s : State) : State :=
  if s.powered && s.kprState == 2 then ({ s with host := { s.host with hb := s.host.hb + 1 } } : State).sweepRings else s

end State

/-- `COMPLETION_WRITE` (R358). -/
def execCompletionWrite (s : State) : Host.Outcome State Fault Refusal := s.secDone s.writeCompletion

/-- `LOG_DELIVERY` (R368). -/
def execLogDelivery (s : State) : Host.Outcome State Fault Refusal := s.done s.deliverLog

/-- `HEARTBEAT` (R350). -/
def execHeartbeat (s : State) : Host.Outcome State Fault Refusal := s.done s.heartbeat

end Sys2Proof.Machine
end

