-- ==== Sys2Proof/Machine/Refresh.lean ====
section
/-!
DEFINITION. Refresh and bands: `TURF_REFRESH`, `HBM_REFRESH`, `BAND_CHANGE` (R241-R243, R248, R279).
-/

namespace Sys2Proof.Machine

/-- Register of stack k on its I/O die, from that of the die's first stack. -/
def stackReg (k off : Nat) : Nat := off + k % 2 * 0x10000

namespace State

/-- Refreshes that a flash's slack is compiled to absorb on one slice or bank (R243). -/
def compiledRefreshes (s : State) : Nat := cdiv (10 * s.period) 3900

/-- One more refresh of the current flash at place k: how many it makes, and the count kept (R243). -/
def countRefresh (s : State) (k : Nat) : Nat × State :=
  let f := s.fn.toNat
  let e := s.thm.refs.get (f, 0) k
  let n := if e.1 = f then e.2 + 1 else 1
  (n, { s with thm := { s.thm with refs := s.thm.refs.set k (f, n) } })

/-- The bank that the next refresh of the slices of die d takes, and the first of its 16 rows (R242). -/
def turfRefreshAt (s : State) (d : Nat) : Nat × Nat := (s.thm.turfPos.get 0 d % 32, s.thm.turfPos.get 0 d / 32 * 16)

/-- Every slice controller of die d issues one per-bank refresh; bit p of `blocked` says that slice p's holds up a deadline
operation (R242, R243). -/
def turfRefresh (s : State) (d : Nat) (blocked : BitVec 17) : State :=
  if !s.powered || s.fenced d then s
  else
    let (n, t) := s.countRefresh d
    let t := t.updDie d R.turfRefCnt fun w => incFld w 47 0 17
    let t := { t with thm := { t.thm with turfPos := t.thm.turfPos.set d ((t.thm.turfPos.get 0 d + 1) % 16384) } }
    if s.compiledRefreshes < n && s.anyRunning then
      t.updDie d R.turfXrefCnt fun w => incFld w 47 0 (popCount 17 blocked.toNat)
    else t

/-- An accepted near-bank command has an operation on bank g that has not run. -/
def bankBusy (s : State) (g : Nat) : Bool :=
  (s.nb (g / 2048)).cmds.any fun c => c.words.any fun w => wbits w 112 100 == g

/-- One bank of stack k is refreshed; `blocked` says that this holds up a deadline operation, `late` that it fell due inside a
near-bank operation and by how many ns it came late (R243, R248, R279). -/
def hbmRefresh (s : State) (k bank : Nat) (blocked : Bool) (late : Option Nat) : State :=
  if !s.powered || s.map.hbmOut.getLsbD k then s
  else
    let g := k * 1024 + bank
    let (n, t) := s.countRefresh (64 + g)
    let t := t.updIod (k / 2) (stackReg k R.hbmRefCnt) fun w => incFld w 47 0 1
    let t := if blocked && s.compiledRefreshes < n && s.anyRunning then
        t.updIod (k / 2) (stackReg k R.hbmXrefCnt) fun w => incFld w 47 0 1
      else t
    match late with
    | some ns =>
      if s.bankBusy g then t.updIod (k / 2) R.nbuRinsCnt fun w => maxFld (incFld w 47 0 1) 63 56 ns else t
    | none => t

end State

/-- `TURF_REFRESH` (R242). -/
def execTurfRefresh (die : Die) (blocked : BitVec 17) (s : State) : Host.Outcome State Fault Refusal :=
  s.done (s.turfRefresh die.val blocked)

/-- `HBM_REFRESH` (R248). -/
def execHbmRefresh (stk : Stk) (bank : Fin 1024) (blocked : Bool) (late : Option (Fin 41)) (s : State) :
    Host.Outcome State Fault Refusal :=
  s.done (s.hbmRefresh stk.val bank.val blocked (late.map (·.val)))

/-- `BAND_CHANGE` (R241). -/
def execBandChange (die : Die) (upper : Bool) (s : State) : Host.Outcome State Fault Refusal :=
  s.heatDone (s.bandChange die.val upper)

end Sys2Proof.Machine
end

