-- ==== Sys2Proof/Machine/Scrub.lean ====
section
/-!
DEFINITION. Scrubbing: `TURF_SCRUB`, `HBM_SCRUB`, `SRAM_SCRUB` (R285, R292, R295-R300).
-/

namespace Sys2Proof.Machine

/-- A region that `NBU_REGION` names: first bank, banks, first row, rows. -/
structure NbBox where
  b0 : Nat
  nb : Nat
  r0 : Nat
  nr : Nat
  deriving DecidableEq, Repr

/-- The region that an entry holds; without rows where it is invalid. -/
def nbBoxOf (v : Word) : NbBox :=
  if bitAt v 63 then ⟨fld v 55 43, fld v 42 32 + 1, fld v 31 16, fld v 15 0 + 1⟩ else ⟨0, 0, 0, 0⟩

namespace State

/-- One word read by a scrubber: a correctable error is corrected in place and logged with the scrub flag, an uncorrectable one
recorded (R296). `a` is its key, `addr` what a log records. -/
def scrubWord (s : State) (l : LogId) (src spare : Bool) (mem a addr : Nat) : State :=
  let y := s.syn.get 0 (a / 8)
  let x := checkWord (s.rawWord a) y
  if x.ue then s.noteUe l src spare mem Who.scrub addr y
  else if x.ce then (s.writeWord a x.data).noteCe l src spare true addr y
  else s

/-- A group of eight words. -/
def scrubGroup (s : State) (l : LogId) (src spare : Bool) (mem a addr : Nat) : State :=
  forEach (List.range 8) s fun t j => t.scrubWord l src spare mem (a + 8 * j) (addr + 8 * j)

/-- The logical core that physical core p of die d bears. -/
def borneBy (s : State) (d p : Nat) : Option Nat := (List.range 16).find? fun l => s.bearer d l == some p

/-- The sweep of a turf or HBM scrubber moves on: a sweep that ends is counted, with its duration (R297, R298). -/
def sweepOn (w : Word) (next : Option Nat) : Word :=
  match next with
  | some p => setFld w 31 0 p
  | none => setFld (incFld w 63 32 1) 31 0 0

/-- Position after slice p and word group g of a turf sweep (R297). -/
def turfNext (p g : Nat) : Option Nat :=
  if g + 1 < 2 ^ 23 then some (p * 2 ^ 27 + g + 1) else if p < 16 then some ((p + 1) * 2 ^ 27) else none

/-- The turf scrubber of die d makes its next access; `secs` is the duration of a sweep that ends with it (R296-R299). A physical
core out of service has a slice that no address reaches. -/
def turfScrub (s : State) (d : Nat) (secs : BitVec 32) : State :=
  if !s.powered || !s.dieUp d then s
  else
    let w := s.die d R.turfScrbSts
    let p := fld w 31 27; let g := fld w 22 0
    let t := match s.borneBy d p with
      | some l => s.scrubGroup (.die d) false false 1 (turfOf (coreAt d l) + 64 * g) (turfOf (coreAt d l) + 64 * g)
      | none => if p = 16 then s.scrubGroup (.die d) false true 1 (spareTurf d + 64 * g) (64 * g) else s
    let t := t.setDie d R.turfScrbSts (sweepOn w (turfNext p g))
    if (turfNext p g).isNone then t.setDie d R.turfScrbLast (BitVec.ofNat 64 secs.toNat) else t

/-- A claim lies on stack k; the hashed range spreads over every stack (R245). -/
def claimOnStack (k : Nat) (c : Nat × Nat) : Bool :=
  c.2 != 0 && (c.1 < turfBase || (c.1 < aliasBase + (k + 1) * 2 ^ 36 && aliasBase + k * 2 ^ 36 < c.1 + c.2))

/-- The rows of a region that lie on stack k; without rows where there are none. -/
def nbClip (k : Nat) (b : NbBox) : NbBox :=
  let lo := max b.b0 (1024 * k); let hi := min (b.b0 + b.nb) (1024 * (k + 1))
  if lo < hi ∧ 0 < b.nr then ⟨lo, hi - lo, b.r0, b.nr⟩ else ⟨0, 0, 0, 0⟩

/-- A change from one region to another adds or removes rows of stack k, which its wipe covers (R274). -/
def nbChanges (old new : NbBox) (k : Nat) : Bool := nbClip k old != nbClip k new

/-- A wipe in progress covers part of stack k: the claims of a partition reset, a region change that adds or removes rows of it (R274,
R299). -/
def stackWiping (s : State) (k : Nat) : Bool :=
  (match s.kpr.reset with
    | some r => r.claims.any (claimOnStack k)
    | none => false) ||
  (s.nb (k / 2)).region.any fun r =>
    nbChanges (nbBoxOf (s.iod (k / 2) (R.nbuReg r.entry))) (nbBoxOf r.value) k

/-- The first row of stack k from row number r on that the scrubber does not skip; rows are numbered over the stack, bank by bank
(R273, R297). -/
def nextProtected (s : State) (k : Nat) : Nat → Nat → Option Nat
  | 0, _ => none
  | n + 1, r =>
    if 2 ^ 26 ≤ r then none
    else if s.unprotected (k * 2 ^ 36 + r * 1024) then nextProtected s k n (r + 1) else some r

/-- The word group that the scrubber of stack k reads next, and whether a sweep ended on the way to it. -/
def hbmGroup (s : State) (k : Nat) : Option (Nat × Bool) :=
  let g := fld (s.iod (k / 2) (R.scrubHSts (k % 2))) 29 0
  let at_ (g0 r : Nat) : Nat := if r = g0 / 16 then g0 else r * 16
  match s.nextProtected k (2 ^ 26) (g / 16) with
  | some r => some (at_ g r, false)
  | none => (s.nextProtected k (2 ^ 26) 0).map fun r => (r * 16, true)

/-- The scrubber of stack k makes its next access (R284, R285, R296-R299). -/
def hbmScrub (s : State) (k : Nat) (secs : BitVec 32) : State :=
  if !s.powered || !s.stackUp k || s.stackWiping k then s
  else
    match s.hbmGroup k with
    | none => s
    | some (g, ended) =>
      let a := aliasBase + k * 2 ^ 36 + 64 * g
      let t := if s.poison.contains (k * 2 ^ 28 + g / 4) then s.noteUe (.stack k) false false 8 Who.scrub a 0
        else s.scrubGroup (.stack k) false false 2 a a
      let reg := R.scrubHSts (k % 2)
      let t := if ended then t.updIod (k / 2) reg fun w => sweepOn w none else t
      let last := g + 1 == 2 ^ 30
      let t := t.updIod (k / 2) reg fun w => sweepOn w (if last then none else some (g + 1))
      if ended || last then t.setIod (k / 2) (R.scrubHLast (k % 2)) (BitVec.ofNat 64 secs.toNat) else t

/-- The next line of a physical core's SRAM is scrubbed (R300). -/
def sramScrubLine (s : State) (d p : Nat) : State :=
  if !s.powered || !s.dieUp d then s
  else
    let n := s.sramScrub.get 0 (17 * d + p)
    let t := match s.borneBy d p with
      | some l => s.scrubGroup (.die d) true false 0 (sramOf (coreAt d l) + 64 * n) (sramOf (coreAt d l) + 64 * n)
      | none => if p = 16 then s.scrubGroup (.die d) true true 0 (spareSram d + 64 * n) (64 * n) else s
    { t with sramScrub := t.sramScrub.set (17 * d + p) ((n + 1) % 98304) }

/-- The sweeps of die d start again from the beginning: its memories have been wiped (R299). -/
def restartDieSweeps (s : State) (d : Nat) : State :=
  let t := s.setDie d R.turfScrbSts 0
  { t with sramScrub := t.sramScrub.drop fun k => k / 17 == d }

/-- The sweep of stack k starts again from the beginning (R299). -/
def restartStackSweep (s : State) (k : Nat) : State := s.setIod (k / 2) (R.scrubHSts (k % 2)) 0

end State

/-- `TURF_SCRUB` (R298): like every scrubber it counts core cycles, which a trip stops (R416). -/
def execTurfScrub (die : Die) (secs : BitVec 32) (s : State) : Host.Outcome State Fault Refusal :=
  s.clockDone (s.turfScrub die.val secs)

/-- `HBM_SCRUB` (R298, R416). -/
def execHbmScrub (stk : Stk) (secs : BitVec 32) (s : State) : Host.Outcome State Fault Refusal :=
  s.clockDone (s.hbmScrub stk.val secs)

/-- `SRAM_SCRUB` (R300, R416). -/
def execSramScrub (die : Die) (p : Fin 17) (s : State) : Host.Outcome State Fault Refusal :=
  s.clockDone (s.sramScrubLine die.val p.val)

end Sys2Proof.Machine
end

