-- ==== Sys2Proof/Machine/NearBank.lean ====
section
/-!
DEFINITION. The near-bank units of H4 to H7 (R266-R286): the checks on their commands, the bank operations, fences, and changes of the
region table.
-/

namespace Sys2Proof.Machine

/-! ### Bank-operation words -/

/-- Formats of a bank operation by `FMT` (R268). -/
def nbFmt : Nat → Fmt
  | 0 => .bf16
  | 1 => .fp16
  | 2 => .int8
  | _ => .int32

/-- A bank-operation word meets R268 and R269; `act` says that a table is named. -/
def nbWordOk (act : Bool) (w : BitVec 128) : Bool :=
  let n := w.toNat; let op := bits n 127 120
  1 ≤ op && op ≤ 4 && bits n 116 113 != 0 && 4096 ≤ bits n 112 100 && bits n 99 64 == 0 && bits n 15 0 == 0 &&
  (op != 4 || (bits n 119 118 ≤ 1 && bits n 31 16 == 0 && act))

/-- The I/O die whose stacks hold the bank of a word. -/
def nbIodOf (w : BitVec 128) : Nat := bits w.toNat 112 100 / 2048

/-- The exact result of one element, and whether it is a NaN that no operand is (R62, R269, R270). -/
def nbExact (op : Nat) (a b d : Num) : Num × Bool :=
  let (e, xs) := match op with
    | 1 => (a.add b, [a, b])
    | 2 => (a.mul b, [a, b])
    | _ => ((a.mul b).add d, [a, b, d])
  (e, e.isNan && !xs.any Num.isNan)

/-- One element of a bank operation from the codes of A, B and D: the code of the result and what is counted (R269, R270). -/
def nbElem (op : Nat) (f : Fmt) (mode : Rnd) (table : List (BitVec 32)) (a b d : Nat) : Nat × Tally :=
  if op = 4 then
    let (v, t) := (act32 table (f.decode a)).run {}
    let r := f.round mode 0 v
    (r.code, tallyAdd t (tallyOf r false))
  else
    let (e, nan) := nbExact op (f.decode a) (f.decode b) (f.decode d)
    let r := f.round mode 0 e
    (r.code, tallyOf r nan)

/-- The bytes and counts of a bank operation over whole rows (R269). -/
def nbRow (w : BitVec 128) (table : List (BitVec 32)) (a b d : List Byte) : List Byte × Tally :=
  let n := w.toNat; let f := nbFmt (bits n 119 118); let es := f.width / 8
  let mode : Rnd := if n.testBit 117 then .zero else .nearest
  let out := (List.range (1024 / es)).map fun i =>
    nbElem (bits n 127 120) f mode table (leAt a (i * es) es) (leAt b (i * es) es) (leAt d (i * es) es)
  (out.flatMap fun r => leBytes es r.1, tallySum (out.map Prod.snd))

namespace State

/-! ### Bank operations -/

/-- The first command of I/O die i with an operation on bank g that has not run, with that operation (R276). -/
def nbNext (s : State) (g : Nat) : Option (NbCmd × BitVec 128) :=
  match (s.nb (g / 2048)).cmds.find? fun c => c.words.any fun w => bits w.toNat 112 100 == g with
  | none => none
  | some c => (c.words.find? fun w => bits w.toNat 112 100 == g).map fun w => (c, w)

/-- A unit of a destination row written by a near-bank unit: data without check bits; a raw command poisons a unit of a protected row
(R273, R284). DEDUCED: log entry 55. -/
def nbWrite (s : State) (u : Nat) (bs : List Byte) (raw : Bool) : State :=
  let t := forEach ((chunks 8 bs).zipIdx) s fun t p => t.writeRaw (aliasBase + u * 256 + p.2 * 8) p.1
  if raw && !s.unprotected (u * 256) then
    let t := { t with poison := if t.poison.contains u then t.poison else u :: t.poison }
    t.updIod (unitIod u) R.nbuPoisonCnt fun v => incFld v 47 0 1
  else t

/-- One bank operation runs (R268-R271, R276); what it writes is no other command's result any longer.
DESIGN CHOICE: log entry 56. -/
def nbRun (s : State) (c : NbCmd) (w : BitVec 128) : State :=
  let i := nbIodOf w
  let row (r : Nat) : List Byte := Memory.gets s.mem (aliasBase + r * 1024) 1024
  let g := bits w.toNat 112 100 * 2 ^ 16
  let (bs, tl) := nbRow w c.table (row (g + bits w.toNat 47 32)) (row (g + bits w.toNat 31 16)) (row (nbDest w))
  let out := if c.hit then s.nbuFree 1024 else bs
  let t := forEach (nbUnits w) (when c.hit bumpFree s) fun t u => t.nbWrite u ((out.drop (u % 4 * 256)).take 256) c.raw
  let t := t.updIod i R.nbuOpsCnt fun v => incFld v 47 0 1
  let t := (t.updIod i R.nbuFltCnt fun v => incFld (incFld v 63 32 tl.sat) 31 0 tl.nan).updIod i R.nbuOvfCnt fun v =>
    incFld (incFld v 63 32 tl.inf) 31 0 tl.isat
  let t := if c.raw then t.updIod i R.nbuSts fun v => setBit v 16 true else t
  t.updNb i fun n => { n with cmds := n.cmds.map fun x =>
    let kept := x.own.filter fun u => !(nbUnits w).contains u
    if x.ring = c.ring ∧ x.idx = c.idx then { x with words := x.words.erase w, ran := x.ran ++ [w], own := kept ++ nbUnits w }
    else { x with own := kept } }

/-- The next operation of bank g runs, where it has the given code and no fence holds its command. -/
def nbStep (s : State) (g op : Nat) : State :=
  match s.nbNext g with
  | some (c, w) => if bits w.toNat 127 120 = op ∧ !s.nbHeld (g / 2048) c then s.nbRun c w else s
  | none => s

/-! ### Accepting a command -/

/-- Counts of open commands and fences in `NBU_STS`. -/
def nbShow (s : State) (i : Nat) : State :=
  s.updIod i R.nbuSts fun v => setFld (setFld v 3 0 (s.nb i).cmds.length) 11 8 (s.nb i).fences.length

/-- A refusal under R275 is recorded on the I/O die named by the first word's bank; where that names none, on those that the free value
gives. DESIGN CHOICE: log entry 53. -/
def nbReject (s : State) (first : Option (BitVec 128)) (cause word : Nat) : State :=
  let (dies, t) : List Nat × State := match first.map nbIodOf with
    | some i => if 2 ≤ i then ([i], s) else
        ((onesOf 2 (Config.refusedOn s.free).toNat).map (2 + ·), s.bumpFree)
    | none => ((onesOf 2 (Config.refusedOn s.free).toNat).map (2 + ·), s.bumpFree)
  forEach dies t fun t i =>
    (t.updIod i R.nbuCmdCnt fun v => incFld v 63 32 1).setIod i R.nbuLastRej
      (BitVec.ofNat 64 (2 ^ 63 + cause * 2 ^ 48 + word))

/-- A refusal: recorded, and answered with the index of the word. -/
def nbRefuse (s : State) (c : Cmd) (first : Option (BitVec 128)) (cause status word : Nat) : State :=
  (s.nbReject first cause word).complete c status word []

/-- The table read: 194 FP32 values (R271). DEDUCED: log entry 52. -/
def nbTable (bs : List Byte) : List (BitVec 32) := (List.range 194).map fun k => BitVec.ofNat 32 (leAt bs (4 * k) 4)

/-- Checks 4 to 6, the buoys of the stacks named (R376), and acceptance (R275). DEDUCED: log entry 52. -/
def nbAccept (s : State) (c : Cmd) (raw : Bool) (ws : List (BitVec 128)) (named : Bool) (table : List (BitVec 32)) : State :=
  let i := (ws.head?.map nbIodOf).getD 0
  let open_ (r : Nat) : Bool := s.unprotected (r * 1024) && !s.wiping (r * 1024)
  match ws.findIdx? fun w => !nbWordOk named w || nbIodOf w != i with
  | some k => s.nbRefuse c ws.head? 4 Sts.nbuInvalid k
  | none =>
    if ws.any fun w => !s.stackUp (bits w.toNat 112 100 / 1024) then s.answer c Sts.dieUnavailable else
    match (if raw then none else ws.findIdx? fun w => !(nbRows w).all open_) with
    | some k => s.nbRefuse c ws.head? 5 Sts.nbuProtected k
    | none =>
      if 8 ≤ (s.nb i).cmds.length then s.nbRefuse c ws.head? 6 Sts.nbuBusy 0
      else
        let x : NbCmd :=
          { ring := c.ring, idx := c.idx, words := ws, ran := [], table := table, raw := raw, hit := false, ord := (s.nb i).ord }
        let t := (s.updNb i fun n => { n with cmds := n.cmds ++ [x], ord := n.ord + 1 }).nbShow i
        let t := t.updIod i R.nbuCmdCnt fun v => incFld v 31 0 1
        if t.nbHeld i x then t else t.nbFlush x

/-- Index of the sequence word that could not be read, of a sequence at a hashed address (R275). -/
def nbErrWord (da : Nat) : AccErr → Nat
  | .ue a _ _ => ((aliasAt (a - aliasBase)).hashed - da) / 16
  | _ => 0

/-- `NBU_RUN` and `NBU_RAW_RUN`: the checks of R275 in their order; the table is read once, here (R271). DEDUCED: log entry 52. -/
def nbBegin (s : State) (c : Cmd) (raw : Bool) : State :=
  let da := arg c.args 0 8; let n := arg c.args 8 2; let td := arg c.args 16 8
  let hashed (a len : Nat) : Bool := a % 16 == 0 && decide (a + len ≤ turfBase)
  if raw && s.sec.life != 1 then s.nbRefuse c none 1 Sts.lifecycleState 0
  else if s.sec.life = 3 then s.answer c Sts.lifecycleState
  else if n = 0 || 4096 < n || !hashed da (16 * n) || (td != 0 && !hashed td 776) then s.nbRefuse c none 2 Sts.badAddress 0
  else match s.readDa Who.host da (16 * n) with
    | (.error e, t) => t.nbRefuse c none 3 (t.errStatus e) (nbErrWord da e)
    | (.ok b, t) =>
      let ws := (chunks 16 b).map fun x => BitVec.ofNat 128 (leNat x)
      if td = 0 then t.nbAccept c raw ws false []
      else match t.readDa Who.host td 776 with
        | (.error e, u) => u.nbRefuse c ws.head? 3 (u.errStatus e) 0
        | (.ok tb, u) => u.nbAccept c raw ws true (nbTable tb)

/-- A command of I/O die i whose operations have all completed completes (R276). -/
def nbComplete (s : State) (i : Nat) : State :=
  match (s.nb i).cmds.find? fun c => c.words.isEmpty with
  | none => s
  | some c =>
    ((s.updNb i fun n => { n with cmds := n.cmds.filter fun x => !(x.ring == c.ring && x.idx == c.idx) }).nbShow i).completeWhere
      (fun k => k.ring == c.ring && k.idx == c.idx) Sts.ok 0 []

/-! ### Fences -/

/-- `NBU_FENCE` (R282). A range over stacks of both I/O dies is held by both; an empty one completes at once.
DEDUCED: log entry 54. -/
def nbFenceBegin (s : State) (c : Cmd) : State :=
  let da := arg c.args 0 8; let n := arg c.args 8 8
  let lo := aliasBase + 4 * 2 ^ 36
  if da % 1024 != 0 || n % 1024 != 0 || da < lo || aliasBase + 8 * 2 ^ 36 < da + n then s.answer c Sts.badAddress
  else if n = 0 then s.answer c Sts.ok
  else
    let off := da - aliasBase
    let dies := [2, 3].filter fun i => decide (off < (i + 1) * 2 ^ 37 ∧ i * 2 ^ 37 < off + n)
    if [4, 5, 6, 7].any fun k => decide (off < (k + 1) * 2 ^ 36 ∧ k * 2 ^ 36 < off + n) && !s.stackUp k then s.answer c Sts.dieUnavailable
    else if dies.any fun i => 8 ≤ (s.nb i).fences.length then s.answer c Sts.nbuBusy
    else forEach dies s fun t i =>
      let f : NbFence := { ring := c.ring, idx := c.idx, base := off, len := n, ord := (t.nb i).ord }
      (t.updNb i fun x => { x with fences := x.fences ++ [f], ord := x.ord + 1 }).nbShow i

/-- Every command that a fence waits for has completed, on both I/O dies (R282). DEDUCED: log entry 54. -/
def nbFenceFree (s : State) (f : NbFence) : Bool :=
  [2, 3].all fun i => match (s.nb i).fences.find? fun x => x.ring == f.ring && x.idx == f.idx with
    | none => true
    | some x => !(s.nb i).cmds.any fun c => decide (c.ord < x.ord) && c.inRange x.base x.len

/-- Every cache line with a byte of a range goes; a dirty one is counted (R282). -/
def nbDiscard (s : State) (base len : Nat) : State :=
  let inside (u : Nat) : Bool := decide (base ≤ u * 256 ∧ u * 256 < base + len)
  let t := forEach (s.cache.filter fun e => inside e.1 && e.2.dirty) s fun t e =>
    t.updIod (unitIod e.1) R.nbuDiscCnt fun v => incFld v 47 0 1
  { t with cache := t.cache.drop inside }

/-- The first fence of I/O die i that waits for no command completes; commands that it held start (R277, R282). -/
def nbFenceDone (s : State) (i : Nat) : State :=
  match (s.nb i).fences.find? s.nbFenceFree with
  | none => s
  | some f =>
    let t := s.nbDiscard f.base f.len
    let t := forEach [2, 3] t fun t j =>
      (t.updNb j fun n => { n with fences := n.fences.filter fun x => !(x.ring == f.ring && x.idx == f.idx) }).nbShow j
    let t := forEach [2, 3] t fun t j =>
      forEach ((s.nb j).cmds.filter fun c => s.nbHeld j c && !t.nbHeld j c) t fun t c => t.nbFlush c
    t.completeWhere (fun k => k.ring == f.ring && k.idx == f.idx) Sts.ok 0 []

/-! ### The region table -/

/-- The entry that holds a region. -/
def nbBoxWord (b : NbBox) : Word :=
  BitVec.ofNat 64 (2 ^ 63 + b.b0 * 2 ^ 43 + (b.nb - 1) * 2 ^ 32 + b.r0 * 2 ^ 16 + (b.nr - 1))

/-- Two regions share a row. -/
def nbMeet (a b : NbBox) : Bool :=
  decide (a.b0 < b.b0 + b.nb ∧ b.b0 < a.b0 + a.nb ∧ a.r0 < b.r0 + b.nr ∧ b.r0 < a.r0 + a.nr)

/-- A row, numbered over all of HBM, lies in a region. -/
def nbIn (b : NbBox) (row : Nat) : Bool :=
  decide (b.b0 ≤ row / 2 ^ 16 ∧ row / 2 ^ 16 < b.b0 + b.nb ∧ b.r0 ≤ row % 2 ^ 16 ∧ row % 2 ^ 16 < b.r0 + b.nr)

/-- A DA range reaches a row of a region: in the alias, by each bank's rows, which are contiguous; a range of the hashed space
covers some byte of a row where one of the row's units lies in it. -/
def nbReaches (r : Nat × Nat) (has : Nat → Bool) (b : NbBox) : Bool :=
  (List.range b.nb).any fun k => (List.range b.nr).any fun j =>
    let row := (b.b0 + k) * 2 ^ 16 + b.r0 + j
    has row && (List.range 4).any fun u =>
      let off := row * 1024 + u * 256
      let a := if r.1 < turfBase then (aliasAt off).hashed else aliasBase + off
      decide (a < r.1 + r.2 ∧ r.1 < a + 256)

/-- A change from region `old` to region `new` begins on I/O die i: refused in the order of R274, else its wipe starts.
DEDUCED: log entry 55. -/
def nbRegionBegin (s : State) (c : Cmd) : State :=
  let i := arg c.args 0 1; let k := arg c.args 1 1; let set := arg c.args 2 1 == 1
  let old := nbBoxOf (s.iod i (R.nbuReg k))
  let new : NbBox := if set then ⟨arg c.args 4 2, arg c.args 6 2 + 1, arg c.args 8 2, arg c.args 10 2 + 1⟩ else ⟨0, 0, 0, 0⟩
  let changes (row : Nat) : Bool := nbIn old row != nbIn new row
  let claims := (List.range 8).filter s.slotActive |>.flatMap fun p => match (s.slot p).img with
    | some g => g.claims
    | none => []
  let other (j : Nat) : Bool := j != k && nbMeet new (nbBoxOf (s.iod i (R.nbuReg j)))
  if (s.nb i).cmds.any fun x => x.rows.any changes then s.answer c Sts.nbuBusy
  else if claims.any fun r => nbReaches r changes old || nbReaches r changes new then s.answer c Sts.runActive
  else if set && (new.b0 < 2048 * i || 2048 * (i + 1) < new.b0 + new.nb || 65536 < new.r0 + new.nr || (List.range 16).any other)
    then s.answer c Sts.badAddress
  else
    let stks := [2 * i, 2 * i + 1].filter (nbChanges old new)
    if !stks.all s.stackUp then s.answer c Sts.dieUnavailable
    else
      let t := forEach stks s fun t q => t.flushLog (.stack q)
      t.updNb i fun n => { n with
        region := n.region ++ [{ ring := c.ring, idx := c.idx, entry := k, value := if set then nbBoxWord new else 0 }] }

/-- A region command waits while another change of the I/O die is in progress (R359). DEDUCED: log entry 54. -/
def nbRegionOrder (s : State) (c : Cmd) : State :=
  let i := arg c.args 0 1
  if s.sec.life = 3 then s.answer c Sts.lifecycleState
  else if i < 2 || 3 < i || 15 < arg c.args 1 1 || 1 < arg c.args 2 1 then s.answer c Sts.badArg
  else if (s.nb i).region.isEmpty then s.nbRegionBegin c else s.noteCmd c 1

/-- The region commands that wait for I/O die i begin, until one is in progress. -/
def nbRegionTurns (s : State) (i : Nat) : State :=
  forEach (s.kpr.accepted.filter fun c => c.opcode == Op.nbuRegion && c.note == 1 && arg c.args 0 1 == i) s fun t c =>
    if (t.nb i).region.isEmpty then (t.noteCmd c 0).nbRegionBegin { c with note := 0 } else t

/-- The wipe of a region change ends: the changed rows hold zero, and the entry takes its new value (R274).
DEDUCED: log entry 55. -/
def nbRegionDone (s : State) (i : Nat) : State :=
  match (s.nb i).region with
  | [] => s
  | r :: rest =>
    let old := nbBoxOf (s.iod i (R.nbuReg r.entry)); let new := nbBoxOf r.value
    let t := s.wipeHbm fun off => nbIn old (off / 1024) != nbIn new (off / 1024)
    let t := (t.setIod i (R.nbuReg r.entry) r.value).updNb i fun n => { n with region := rest }
    let t := forEach ([2 * i, 2 * i + 1].filter (nbChanges old new)) t restartStackSweep
    (t.completeWhere (fun k => k.ring == r.ring && k.idx == r.idx) Sts.ok 0 []).nbRegionTurns i

end State

/-- The number of an I/O die with near-bank units. -/
def nbIodNum : NbIod → Nat
  | .iod2 => 2
  | .iod3 => 3

/-- `NBU_RUN` (R275). -/
def execNbuRun (m : Mbox) (s : State) : Host.Outcome State Fault Refusal :=
  s.done (s.serve Op.nbuRun 24 [(0, 10), (16, 8)] m fun t c => t.nbBegin c false)

/-- `NBU_RAW_RUN` (R275). -/
def execNbuRawRun (m : Mbox) (s : State) : Host.Outcome State Fault Refusal :=
  s.done (s.serve Op.nbuRawRun 24 [(0, 10), (16, 8)] m fun t c => t.nbBegin c true)

/-- `NBU_FENCE` (R282). -/
def execNbuFence (m : Mbox) (s : State) : Host.Outcome State Fault Refusal :=
  s.done (s.serve Op.nbuFence 16 [(0, 16)] m fun t c => t.nbFenceBegin c)

/-- `NBU_REGION` (R274). -/
def execNbuRegion (m : Mbox) (s : State) : Host.Outcome State Fault Refusal :=
  s.done (s.serve Op.nbuRegion 16 [(0, 3), (4, 8)] m fun t c => t.nbRegionOrder c)

/-- `NBU_ADD` (R269). -/
def execNbuAdd (g : BitVec 13) (s : State) : Host.Outcome State Fault Refusal := s.done (s.nbStep g.toNat 1)

/-- `NBU_MUL` (R269). -/
def execNbuMul (g : BitVec 13) (s : State) : Host.Outcome State Fault Refusal := s.done (s.nbStep g.toNat 2)

/-- `NBU_FMA` (R269). -/
def execNbuFma (g : BitVec 13) (s : State) : Host.Outcome State Fault Refusal := s.done (s.nbStep g.toNat 3)

/-- `NBU_ACT` (R269). -/
def execNbuAct (g : BitVec 13) (s : State) : Host.Outcome State Fault Refusal := s.done (s.nbStep g.toNat 4)

/-- `NBU_COMMAND_COMPLETE` (R276). -/
def execNbuCommandComplete (io : NbIod) (s : State) : Host.Outcome State Fault Refusal := s.done (s.nbComplete (nbIodNum io))

/-- `FENCE_COMPLETE` (R282). -/
def execFenceComplete (io : NbIod) (s : State) : Host.Outcome State Fault Refusal := s.done (s.nbFenceDone (nbIodNum io))

/-- `REGION_WIPE_COMPLETE` (R274). -/
def execRegionWipeComplete (io : NbIod) (s : State) : Host.Outcome State Fault Refusal := s.done (s.nbRegionDone (nbIodNum io))

end Sys2Proof.Machine
end

