-- ==== Sys2Proof/Machine/Pace.lean ====
section
/-!
DEFINITION. The mark beside the runs: no flash ends before every word of it that can issue has issued (R58, R136).
-/

namespace Sys2Proof.Machine

namespace State

/-- The word that core c fetches next is of flash n or before, and nothing keeps the sequencer from it (R135, R208, R232).
DEDUCED: log entry 126. -/
def fetchOpen (s : State) (p c n : Nat) : Bool :=
  let x := s.cxOf c
  match s.streamEnt? p c with
  | none => false
  | some e =>
    match streamNext e x.pos x.rfn.toNat with
    | none => false
    | some (k, base, dfl) =>
      let w := BitVec.ofNat 128 (s.peek (s.wordDa c k) 16)
      let r := wordRfn base dfl w
      x.ctl.isNone && s.tagReady c 0 && decide (r ≤ n) && !s.rotPending p c r && s.hasCredit c (unitsOf w (s.shiftOf p c))

/-- The word at the head of the queue of the unit `u`, of class `cls`, has every condition of R136. DEDUCED: log entry 126. -/
def headReady (s : State) (p c off : Nat) (u : CoreUnit) (cls : Nat) : Bool :=
  match ((s.cxOf c).unit u).queue.head? with
  | none => false
  | some q =>
    let es := if cls = 1 ∨ wAttn q.word then enginesOf (wEmask q.word) q.shift else []
    wClass q.word == cls && s.due p c off q && es.all (fun e => s.engFree c off q (Fin.ofNat 4 e)) &&
      (match u with
        | .eng _ => true
        | .pgw => s.unitFree c q .pgw && (wOpc q.word == 2 || s.unitFree c q .vec) && s.tagReady c 2 &&
            (bitAt (s.core c R.pgwSts) 11 || (s.cxOf c).commits.all fun k => decide (q.rfn.toNat < k.b.toNat))
        | .que => s.unitFree c q .que && (wOpc q.word == 1 || s.tagReady c 8)
        | u => s.unitFree c q u)

/-- At offset `off` core c of a running slot p can dispatch or issue a word of the current flash or before (R135, R136).
DESIGN CHOICE: log entry 3. DEDUCED: log entry 126. -/
def issuable (s : State) (p c off : Nat) : Bool :=
  let t := s.settleRamps c off
  s.coreState c == 2 && !s.removed c off &&
    (s.fetchOpen p c (s.curRfn p) ||
      (match (s.cxOf c).ctl with
        | some q => s.due p c off q
        | none => false) ||
      [(CoreUnit.vec, 2), (.pgw, 4), (.chk, 5), (.que, 6)].any (fun (u, cls) => t.headReady p c off u cls) ||
      (List.range 4).any (fun e => t.headReady p c off (.eng (Fin.ofNat 4 e)) 1) ||
      (List.range 8).any fun ch => ((s.cxOf c).strRun.find? ch).isNone &&
        match s.strHead c ch with
        | some q => s.due p c off q
        | none => false)

/-- A core of a run that goes on can issue a word at one of the last 32 cycles of the current flash. DESIGN CHOICE: log entry 3.
DEDUCED: log entry 126. -/
def workLeft (s : State) : Bool :=
  (List.range 8).any fun p =>
    s.slotState p == 3 && (s.slot p).ending.isNone && !s.muted p (s.curRfn p) &&
      (s.slotCores p).any fun c => (List.range 32).any fun k => s.issuable p c (s.flashLen p - 1 - k)

/-- The mark would end a flash while a word of it that can issue has not issued, and no overrun breaks the run's timing. Every word issues
at the first cycle that it can (R136) and so in the flash of its RFN (R58): such a mark cannot come about. DEDUCED: log entry 126. -/
def markEarly (s : State) (edges : Nat) : Bool :=
  s.bcnState == 3 && (s.bcn.phase + edges) % s.period == 0 && !s.thm.trip && s.lateCores.isEmpty && s.workLeft

end State

/-- `MARK` (R26, R58). -/
def execMark (edges : Nat) (s : State) : Host.Outcome State Fault Refusal :=
  if s.markEarly edges then .next s else s.bcnDone (s.mark edges)

end Sys2Proof.Machine
end

