-- ==== Sys2Proof/Machine/Pages.lean ====
section
/-!
DEFINITION. Page-list edits (R194-R199): records, their two passes, their application by the walker, and the commands PAGE_COMMIT and
PAGE_READ.
-/

namespace Sys2Proof.Machine

/-! ### Edit records (R195) -/

/-- An edit record. -/
structure Edit where
  op  : Nat
  ctx : Nat
  gen : Nat
  a   : Nat
  b   : Nat
  bad : Bool
  deriving DecidableEq, Repr

/-- The record that 32 bytes hold; `bad` says that a reserved bit is set. -/
def parseEdit (bs : List Byte) : Edit :=
  let h := leAt bs 0 8
  { op := bits h 63 56, ctx := bits h 55 44, gen := bits h 43 28, a := leAt bs 8 8, b := leAt bs 16 8
    bad := bits h 27 0 != 0 || leAt bs 24 8 != 0 }

/-- Work of a commit: an error is a status of R196, or of a failed access with the cause and address that halt the walker. -/
abbrev EditAcc := ExceptT (Nat × Option (Nat × Nat)) (StateM State)

/-- An access of the walker for a commit. -/
def edAcc (x : Acc α) : EditAcc α := ExceptT.mk fun s =>
  match runAcc x s with
  | (.ok a, t) => (.ok a, t)
  | (.error e, t) => (.error (t.errStatus e, some (errCause e, errDa e)), t)

/-- The record fails with a status. -/
def failEdit (status : Nat) : EditAcc α := throw (status, none)

/-- A condition of R195. -/
def need (c : Bool) (status : Nat) : EditAcc Unit := if c then pure () else failEdit status

/-! ### Reference counts (R170, R198) -/

/-- One more list holds frame f. -/
def refUp (c f : Nat) : EditAcc Unit := do
  let x ← edAcc (rdFrame c f)
  need (x.ref < 65535) Sts.refOverflow
  edAcc (wrFrame c f { x with ref := x.ref + 1 })

/-- One list fewer holds frame f; at 0 it is PINNED until RFN `free`. The answer is the release RFN set, 0 if none. -/
def refDown (c free f : Nat) : EditAcc Nat := do
  let x ← edAcc (rdFrame c f)
  if x.ref ≤ 1 then
    edAcc (wrFrame c f { x with ref := 0, st := 3, free := free })
    return free
  else
    edAcc (wrFrame c f { x with ref := x.ref - 1 })
    return 0

/-- Frames of a list leave it: the largest release RFN set. -/
def dropFrames (c free : Nat) (fs : List Nat) : EditAcc Nat := fs.foldlM (fun m f => do return max m (← refDown c free f)) 0

/-- What a record gives its commit: the largest release RFN, and the frames taken. -/
abbrev EditOut := Nat × List Nat

/-- The pages of a context's list, in order. -/
def ctxPages (c : Nat) (x : Ctx) : EditAcc (List Page) := edAcc (rdList c x.list x.npages)

/-- SET (R168, R195). DEDUCED: log entry 44. -/
def editSet (c free : Nat) (e : Edit) (x : Ctx) : EditAcc EditOut := do
  need (x.st != 1) Sts.ctxState
  let list := bits e.a 47 0; let np := bits e.b 63 51; let cap := bits e.b 50 38; let z := bits e.b 37 34
  need (list % 8 == 0 && ownPart c list (list + 8 * cap) == some false) Sts.badAddress
  need (1 ≤ cap && cap ≤ 4096 && np ≤ cap && z ≤ 9) Sts.listInvalid
  let ps ← edAcc (rdList c list np)
  let fs := ps.map (·.frame)
  need (fs.eraseDups.length == fs.length) Sts.listInvalid
  ps.forM fun p => do
    let f ← edAcc (rdFrame c p.frame)
    need (f.st == 2 && p.pos + slotsOf f.sz ≤ 2 ^ 24) Sts.listInvalid
  let old := (← ctxPages c x).map (·.frame)
  (fs.filter fun f => !old.contains f).forM (refUp c)
  let m ← dropFrames c free (old.filter fun f => !fs.contains f)
  edAcc (wrCtx c e.ctx { x with
    gen := x.gen + 1, list := list, npages := np, cap := cap, grow := z, st := if x.st = 2 then 2 else 1 })
  return (m, [])

/-- FREE (R195). -/
def editFree (c free : Nat) (e : Edit) (x : Ctx) : EditAcc EditOut := do
  let m ← dropFrames c free ((← ctxPages c x).map (·.frame))
  edAcc (wrCtx c e.ctx { x with gen := x.gen + 1, npages := 0, st := 0 })
  return (m, [])

/-- TRUNC of `n` tokens from the end of a list given last page first: the pages that stay, last first, and the frames dropped. -/
def truncPages (c : Nat) : Nat → List (Page × Frame) → EditAcc (List (Page × Frame) × List Nat)
  | n, [] => do need (n == 0) Sts.listInvalid; return ([], [])
  | n, (p, f) :: ps => do
    if n = 0 then return ((p, f) :: ps, [])
    if f.fill ≤ n then
      let (r, d) ← truncPages c (n - f.fill) ps
      return (r, p.frame :: d)
    need (f.ref == 1) Sts.sharedFrame
    edAcc (wrFrame c p.frame { f with fill := f.fill - n })
    return ((p, f) :: ps, [])

/-- TRUNC (R195). DEDUCED: log entry 44. -/
def editTrunc (c free : Nat) (e : Edit) (x : Ctx) : EditAcc EditOut := do
  need (x.st == 2) Sts.ctxState
  let ps ← (← ctxPages c x).mapM fun p => do return (p, ← edAcc (rdFrame c p.frame))
  let (stay, gone) ← truncPages c (bits e.a 23 0) ps.reverse
  let m ← dropFrames c free gone
  edAcc (wrCtx c e.ctx { x with gen := x.gen + 1, npages := stay.length })
  return (m, [])

/-- A frame of class z at `da` lies in the core's turf slice or in HBM (R195). -/
def framePlace (c : Nat) (g : Geom) (z da : Nat) : Bool :=
  let hi := da + frameLen g z
  da % 64 == 0 && (ownPart c da hi == some false || decide (hi ≤ turfBase) || decide (aliasBase ≤ da ∧ hi ≤ 0x0180_0000_0000))

/-- FRAME_ADD (R195). -/
def editAdd (c : Nat) (e : Edit) : EditAcc EditOut := do
  let s ← get
  let g := s.geom c
  let n0 := bits e.b 63 48; let k := bits e.b 47 32 + 1; let z := bits e.b 3 0
  need (z ≤ 9) Sts.badArg
  (List.range k).forM fun i => do
    let da := bits e.a 47 0 + i * frameLen g z
    need (n0 + i < s.frames c) Sts.frameState
    let f ← edAcc (rdFrame c (n0 + i))
    need (f.st == 0) Sts.frameState
    need (framePlace c g z da) Sts.badAddress
    edAcc (wrFrame c (n0 + i) { addr := da / 64, sz := z, st := 1, ref := 0, fill := 0, free := 0 })
    edAcc (poolPush c z (n0 + i))
  return (0, [])

/-- FRAME_TAKE (R195). -/
def editTake (c : Nat) (e : Edit) : EditAcc EditOut := do
  let s ← get
  let k := bits e.b 47 32 + 1; let z := bits e.b 3 0
  need (z ≤ 9) Sts.badArg
  need (k ≤ s.poolCnt c z) Sts.poolShort
  let fs ← (List.range k).mapM fun _ => do
    let n ← edAcc (poolPop c z)
    let f ← edAcc (rdFrame c n)
    edAcc (wrFrame c n { f with st := 0 })
    return n
  return (0, fs)

/-- SET_WM (R195, R199). -/
def editWm (c : Nat) (e : Edit) : EditAcc EditOut := do
  let z := bits e.b 3 0
  need (z ≤ 9) Sts.badArg
  modify fun s =>
    let t := s.updCore c (R.pgwPool z) fun w => setFld w 47 32 (bits e.b 31 16)
    t.setPoolCnt c z (t.poolCnt c z)
  return (0, [])

/-- One record applied; frames it releases are PINNED until `free` (R195, R198). -/
def applyEdit (c free : Nat) (e : Edit) : EditAcc EditOut := do
  need (!e.bad && 1 ≤ e.op && e.op ≤ 8) Sts.badArg
  if e.op = 6 then editAdd c e
  else if e.op = 7 then editTake c e
  else if e.op = 8 then editWm c e
  else
    let x ← edAcc (rdCtx c e.ctx)
    need (e.op == 3 || e.op == 4 || e.gen == x.gen) Sts.genMismatch
    match e.op with
    | 1 => editSet c free e x
    | 2 => editFree c free e x
    | 3 => need (x.st == 1) Sts.ctxState; edAcc (wrCtx c e.ctx { x with st := 2 }); return (0, [])
    | 4 => need (x.st == 2) Sts.ctxState; edAcc (wrCtx c e.ctx { x with st := 1 }); return (0, [])
    | _ => editTrunc c free e x

/-- The records of a commit in order: the outcome, or the first failing record's number and error. -/
def applyEdits (c free : Nat) : Nat → List Edit → State → Except (Nat × Nat × Option (Nat × Nat)) EditOut × State
  | _, [], s => (.ok (0, []), s)
  | i, e :: es, s =>
    match (applyEdit c free e).run s with
    | (.error x, t) => (.error (i, x.1, x.2), t)
    | (.ok (m, fs), t) =>
      match applyEdits c free (i + 1) es t with
      | (.error x, u) => (.error x, u)
      | (.ok (k, gs), u) => (.ok (max m k, fs ++ gs), u)

namespace State

/-- RFN until which frames released at b stay PINNED: that of a running ATTN or SCORES word if later (R198). -/
def releaseRfn (s : State) (c b : Nat) : Nat :=
  match (s.cxOf c).pgw.run with
  | some q => if wAttn q.word then max b (q.rfn.toNat + wSpan q.word) else b
  | none => b

/-- A commit completes for the command that holds its ring and index (R358). -/
def closeCommit (s : State) (k : Commit) (status detail : Nat) (result : List Byte) : State :=
  match s.kpr.accepted.find? fun c => c.ring == k.ring && c.idx == k.idx with
  | some c => s.complete c status detail result
  | none => s

/-- The walker applies a commit whole or not at all (R196). A failed access halts it (R176). DEDUCED: log entry 43. -/
def applyCommit (s : State) (c : Nat) (k : Commit) (norun : Bool) : State :=
  let b := k.b.toNat
  match applyEdits c (s.releaseRfn c b) 0 (k.recs.map parseEdit) s with
  | (.error (i, status, halt), _) =>
    let t := match halt with
      | some h => s.walkerHalt c h.1 h.2
      | none => s
    t.closeCommit k status i []
  | (.ok (m, fs), t) =>
    let t := t.setCore c R.pgwEdit (BitVec.ofNat 64 (k.recs.length % 256 * 2 ^ 56 + norun.toNat * 2 ^ 48 + b))
    let t := t.logEv 0x31 (t.logSlot c)
      (leBytes 2 c ++ [BitVec.ofNat 8 k.recs.length] ++ zeros 5 ++ leBytes 8 b ++ leBytes 8 m)
    let (st, t) := if fs.isEmpty || k.resBuf == 0 then (Sts.ok, t)
      else t.bufWrite k.resBuf.toNat (fs.flatMap fun f => leBytes 2 f)
    t.closeCommit k st 0 (leBytes 8 b ++ leBytes 8 m ++ leBytes 2 fs.length)

/-- A walker word of core c with an RFN below b is still to be issued (R197). -/
def walkerOpen (s : State) (p c b : Nat) : Bool :=
  let ahead := match s.streamEnt? p c with
    | none => []
    | some e => if s.coreState c = 2 then s.aheadFrom c (b - 1) e (2 * e.nwords) (s.cxOf c).pos (s.cxOf c).rfn.toNat else []
  ((s.cxOf c).pgw.queue ++ ahead).any fun q => wClass q.word == 4 && decide (q.rfn.toNat < b)

/-- The next commit of core c may be applied: its RFN is reached, the walker has issued every earlier word and is not halted; or no
run is active (R177, R194, R197). A trip has stopped the walker (R416). DEDUCED: log entry 43. DEDUCED: log entry 115. -/
def mayApply (s : State) (c : Nat) (k : Commit) : Bool :=
  !s.thm.trip && match s.slotOf c with
  | none => true
  | some p =>
    s.slotState p != 3 ||
    (k.b.toNat ≤ s.curRfn p && !bitAt (s.core c R.pgwSts) 11 && !s.walkerOpen p c k.b.toNat)

/-- The waiting commit of core c with the smallest effective RFN, the first accepted among equals. -/
def nextCommit (s : State) (c : Nat) : Option Commit :=
  (sortBy (fun (a b : Commit) => a.b.toNat ≤ b.b.toNat) (s.cxOf c).commits).head?

/-- The next commit of core c is applied (R197). DEDUCED: log entry 43. -/
def commitApply (s : State) (c : Nat) : State :=
  match s.nextCommit c with
  | none => s
  | some k =>
    if !s.mayApply c k then s
    else if !s.tagReady c 2 then s.stallTag c 2
    else s.holdTag c 2 fun s =>
      (s.updCx c fun x => { x with commits := x.commits.erase k }).applyCommit c k (!s.coreRunning c)

/-- A core that a command names: below 512, presented, and its die up. DEDUCED: log entry 44. -/
def coreStatus (s : State) (c : Nat) : Nat :=
  if 512 ≤ c then Sts.badArg
  else if !s.dieUp (dieOf c) then Sts.dieUnavailable
  else if !s.presented c then Sts.badArg else Sts.ok

/-- PAGE_COMMIT accepted (R194). DEDUCED: log entry 43. DESIGN CHOICE: log entry 121. -/
def pageCommit (s : State) (m : Cmd) : State :=
  let c := arg m.args 0 2; let n := arg m.args 2 1; let fl := arg m.args 3 1; let target := fl.testBit 0
  if s.sec.life = 3 then s.answer m Sts.lifecycleState
  else if s.coreStatus c ≠ Sts.ok then s.answer m (s.coreStatus c)
  else if n = 0 || 64 < n || 2 ≤ fl || 2 ^ 48 ≤ arg m.args 8 8 || (arg m.args 24 8) % 64 != 0 then s.answer m Sts.badArg
  else
    let run := s.coreRunning c
    let now := (s.coreRfn c).toNat
    let b := if target then arg m.args 8 8 else if run then now + 1 else 0
    if run && target && b ≤ now + 1 then s.answer m Sts.tooLate
    else
      match s.bufRead (arg m.args 16 8) (32 * n) with
      | (.error st, t) => t.answer m st
      | (.ok bs, t) =>
        let k : Commit :=
          { b := BitVec.ofNat 48 b, recs := chunks 32 bs, resBuf := BitVec.ofNat 64 (arg m.args 24 8), ring := m.ring, idx := m.idx }
        if run || t.thm.trip then t.updCx c fun x => { x with commits := x.commits ++ [k] }
        else t.applyCommit c k true

/-- PAGE_READ (R166). -/
def pageRead (s : State) (m : Cmd) : State :=
  let c := arg m.args 0 2; let x := arg m.args 2 2
  if s.coreStatus c ≠ Sts.ok then s.answer m (s.coreStatus c)
  else if 4096 ≤ x then s.answer m Sts.badArg
  else match s.readDa Who.host (s.ctxDa c x) 32 with
    | (.ok b, t) => t.complete m Sts.ok 0 b
    | (.error e, t) => t.answer m (t.errStatus e)

end State

/-- `COMMIT_APPLY` (R197). -/
def execCommitApply (core : Core) (s : State) : Host.Outcome State Fault Refusal := s.clockDone (s.commitApply core.val)

/-- `PAGE_COMMIT` (R194). -/
def execPageCommit (m : Mbox) (s : State) : Host.Outcome State Fault Refusal :=
  s.done (s.serve Op.pageCommit 32 [(0, 4), (8, 24)] m State.pageCommit)

/-- `PAGE_READ` (R364). -/
def execPageRead (m : Mbox) (s : State) : Host.Outcome State Fault Refusal :=
  s.done (s.serve Op.pageRead 8 [(0, 4)] m State.pageRead)

end Sys2Proof.Machine
end

