-- ==== Sys2Proof/Machine/Resets.lean ====
section
/-!
DEFINITION. Bring-up and reset (ch. 13): `COLD_POWER_ON`, `POWER_LOSS`, `INPUT_CURRENT_LIMIT`, `PERST_FALL`, `PERST_RISE`,
`FIRMWARE_AUTHENTICATED`, `KEEPER_RESTART`, `RESET_WARM`, `RESET_COMPUTE`, `RESET_PARTITION`, `RESET_COMPLETE`.
-/

namespace Sys2Proof.Machine

/-- Place of a reset's counter in `KPR_RST_CNT`. -/
def rstField (code : Nat) : Nat := 16 * (5 - code)

/-! ### What the tests of a die say -/

/-- The position that straps state, as a die number. -/
def strapPos (v : BitVec 8) : Nat := bits v.toNat 5 4 * 8 + v.toNat % 8

/-- Straps are consistent: ROT = 1 exactly for dy 2 and 3, MIR = 1 exactly for odd dx (R311). -/
def strapFits (v : BitVec 8) : Bool := decide (2 ≤ bits v.toNat 5 4) == v.getLsbD 6 && v.getLsbD 0 == v.getLsbD 7

/-- The straps that die d reads. DEDUCED: log entry 51. -/
def strapOf (l : List (Die × BitVec 8)) (d : Nat) : BitVec 8 :=
  match l.find? fun x => x.1.val == d with
  | some x => x.2 &&& 0xF7
  | none => BitVec.ofNat 8 ((dieDflt d R.d2dStrap).toNat % 256)

/-- Die d is fenced for its straps (R311). -/
def strapErr (l : List (Die × BitVec 8)) (d : Nat) : Bool :=
  !strapFits (strapOf l d) || (List.range 32).any fun e => e != d && strapPos (strapOf l e) == strapPos (strapOf l d)

/-- The single column that holds every difference (R126). DEDUCED: log entry 85. -/
def oneColumn (bad : List (Fin 32 × Fin 32)) : Option Nat :=
  match bad with
  | [] => none
  | x :: _ => if bad.all fun y => y.2 == x.2 then some x.2.val else none

/-- The single row whose differences run from one column to every column rightward (R126). DEDUCED: log entry 85. -/
def oneRow (bad : List (Fin 32 × Fin 32)) : Option Nat :=
  match bad with
  | [] => none
  | x :: _ =>
    let first := bad.foldl (fun m y => min m y.2.val) 31
    if bad.all (fun y => y.1 == x.1) && (List.range 32).all fun c => c < first || bad.any fun y => y.2.val == c then some x.1.val
    else none

namespace State

/-! ### Scope -/

/-- The compute dies of a mask. -/
def diesIn (m : BitVec 32) : List Nat := (List.range 32).filter fun d => m.getLsbD d

/-- An end of a staging entry lies in the scope of a partition reset (R265, R394). -/
def stageTouches (r : RstProg) (e : StageEnt) : Bool :=
  let far := hbmEnd e
  (match coreOfDa (turfEnd e) with
    | some c => r.dies.getLsbD (dieOf c)
    | none => false) ||
  r.claims.any fun k => k.2 != 0 &&
    if decide (k.1 < turfBase) == decide (far < turfBase) then decide (k.1 < far + e.len ∧ far < k.1 + k.2)
    else (List.range e.len).any fun i => rangeHas k (if far < turfBase then (hashAt (far + i)).alias_ else far + i - aliasBase)

/-- The entries of a staging that has been taken and waits for its turn, as its list reads (R262). DEDUCED: log entry 87. -/
def stageList (s : State) (c : Cmd) : List StageEnt :=
  match (s.readDa Who.host (arg c.args 0 8) (32 * arg c.args 8 4)).1 with
  | .ok b => (parseStage b).1
  | .error _ => []

/-- The destinations of an abandoned staging hold undefined contents (R394). DESIGN CHOICE: log entry 67. DEDUCED: log entry 87. -/
def stageUndefined (s : State) : State :=
  forEach s.kpr.stage s fun t e =>
    (forEach (List.range (e.len / 64)) t fun t k =>
      (t.writeDa Who.host (e.dst + 64 * k) ((List.range 64).map fun j => Config.stageData t.free (64 * k + j))).2).bumpFree

/-! ### The start of a reset -/

/-- Near-bank work that a partition reset ends: every command with an operation on a stack of its claims, every fence whose range lies on
one, and on an I/O die with such a stack the changes of its region table, whose entries become invalid (R272, R286, R394).
DEDUCED: log entry 87. -/
def abortNb (s : State) (r : RstProg) : State :=
  let hit (k : Nat) : Bool := r.claims.any (claimOnStack k)
  let die (i : Nat) : Bool := hit (2 * i) || hit (2 * i + 1)
  let t := s.dropNb (fun c => (c.words ++ c.ran).any fun w => hit (wbits w 112 100 / 1024))
    (fun f => [4, 5, 6, 7].any fun k => hit k && decide (f.base < (k + 1) * 2 ^ 36 ∧ k * 2 ^ 36 < f.base + f.len)) die
    (fun c => c.opcode == Op.nbuRegion && c.note == 1 && die (arg c.args 0 1)) Sts.abortedByReset
  forEach ([2, 3].filter die) t fun t i => forEach (List.range 16) t fun t k => t.setIod i (R.nbuReg k) 0

/-- Commands that a reset ends complete before anything else (R359, R390, R392, R394). DEDUCED: log entry 87. -/
def abortCmds (s : State) (r : RstProg) (slot : Nat) : State :=
  let other (c : Cmd) : Bool := !r.cmd.any fun m => sameCmd m c
  if r.code = rstPcie then { s.clearStage with kpr := { s.clearStage.kpr with accepted := [], done := [], loading := [] } }
  else if r.code = rstPart then
    let t := if s.kpr.stage.any (stageTouches r) then
        (s.stageUndefined.clearStage).completeWhere (fun c => c.opcode == Op.memStage && c.note == 1) Sts.abortedByReset 0 []
      else s
    let wait (c : Cmd) : Bool := c.opcode == Op.memStage && c.note == held && (s.stageList c).any (stageTouches r)
    let t := if s.kpr.accepted.any wait then t.completeWhere wait Sts.abortedByReset 0 [] else t
    let load := t.kpr.accepted.any fun c => c.opcode == Op.schedLoad && c.note == 1 && turnSlot c == slot
    let t := if load then { t with kpr := { t.kpr with loading := [] } } else t
    let t := t.completeWhere (fun c => other c && takesTurns c.opcode && turnSlot c == slot && turnSlot c != 8) Sts.abortedByReset 0 []
    forEach (diesIn r.dies) (t.abortNb r) fun t d => t.dropCommits d Sts.abortedByReset
  else
    let t := (s.completeWhere (fun c => other c && !(r.code == rstCompute && (c.opcode == Op.bcnArm || c.opcode == Op.lnkRetrain)))
      Sts.abortedByReset 0 []).clearStage
    { t with kpr := { t.kpr with loading := [] } }

/-- The buoys in scope fall (R375, R388). -/
def fallBuoys (s : State) (r : RstProg) : State :=
  let t := forEach (diesIn r.dies) (s.buoy0 1 false) fun t d => t.buoy0 (16 + d) false
  if r.code = rstPart then t
  else
    let t := forEach (List.range 8) t fun t k => t.buoy0 (8 + k) false
    if r.code = rstCompute then t
    else
      let t := forEach (List.range 24) (t.buoy0 2 false) fun t j => t.buoy1 j false
      if r.code = rstPcie then t.buoy0 0 false else t

/-- The error logs in scope are copied out, the memories wiped, and their sweeps start again (R299, R302, R305). -/
def wipeScope (s : State) (r : RstProg) : State :=
  let stks := (List.range 8).filter fun k => r.code != rstPart || r.claims.any (claimOnStack k)
  let t := forEach (diesIn r.dies) s fun t d => t.flushLog (.die d)
  let t := forEach stks t fun t k => t.flushLog (.stack k)
  let t := if r.code = rstPart then
      (forEach (diesIn r.dies) t fun t d => t.wipeDie d).wipeHbm fun off => r.claims.any fun c => rangeHas c off
    else { t with mem := [], syn := [], poison := [], cache := [], sramScrub := [] }
  let t := forEach (diesIn r.dies) t restartDieSweeps
  forEach stks t restartStackSweep

/-- Registers of compute dies in scope go to their reset values (R9), but for what readings and the margin plan hold, straps and, in a
partition reset, the error counters and the fabric domain (R305, R309, R389). DEDUCED: log entry 59.
DEDUCED: log entry 86. -/
def keepsDieReg (part : Bool) (off : Nat) : Bool :=
  off == R.turfSts || off == R.d2dStrap || (0x20000 ≤ off && off < 0x30000 && off != R.thmDivCnt) || 0x40000 ≤ off ||
    (part && (off == R.turfEccCnt || (0x10000 ≤ off && off < 0x20000)))

/-- Registers of I/O dies that a reset of wider scope keeps: stack temperatures, heat; in a compute reset the chip links (R335).
DEDUCED: log entry 86. -/
def keepsIodReg (code off : Nat) : Bool :=
  off == R.hbmSts || off == R.hbmSts + 0x10000 || (0x70000 ≤ off && off < 0x80000) ||
    (code == rstCompute && 0x60000 ≤ off && off < 0x70000)

/-- The registers of dies in scope cleared; `FENCED` shows the dies that are, and the duty of `THM_COOL_MIN` and `FAULT_STS` go (R9).
DEDUCED: log entry 86. -/
def clearDies (s : State) (r : RstProg) : State :=
  let part := r.code == rstPart
  let gone (o : Nat) : Bool := r.dies.getLsbD (o / 0x100000) && !keepsDieReg part (o % 0x100000)
  let t := { s with dieR := s.dieR.drop fun k => gone (k - 0x10000000) }
  let t := forEach (diesIn r.dies) t fun t d => (t.updDie d R.thmSts fun w => w &&& ~~~ fldMask 31 30).clearCores d
  if part then t
  else
    let t := forEach (diesIn t.map.fenced) t fun t d => t.setDie d R.d2dDieSts 1
    let t := t.updIod 0 R.thmFlow fun w => setFld (setBit w 40 false) 39 32 0
    { t with iodR := t.iodR.drop fun k => !keepsIodReg r.code ((k - 0x20000000) % 0x1000000) }

/-- The fabric domain is released at a cold power-on: every port with a partner trains, but those of a die whose straps failed (R309, R311,
R320). DEDUCED: log entry 45. -/
def trainFabric (s : State) : State :=
  forEach (List.range 68) { s with d2d := [] } fun t c => t.setConn c (if t.connDead c then portReset else portTraining)

/-- The fabric domain is reset: both ends of every connection are held in RESET (R393). DEDUCED: log entry 45. -/
def resetFabric (s : State) : State := forEach (List.range 68) { s with d2d := [] } fun t c => t.setConn c portReset

/-- What the Keeper and the host port keep of their state, by reset (R360, R392). DEDUCED: log entry 86. -/
def clearHost (s : State) (code : Nat) : State :=
  if code = rstPcie then
    { s with
      host := { buoy0 := s.host.buoy0, buoy1 := s.host.buoy1, kprSts := s.host.kprSts &&& fldMask 31 16, bar4 := s.host.bar4, fresh := s.host.fresh }
      kpr := { s.kpr with logBind := none, grants := [] } }
  else if code = rstWarm then { s with kpr := { s.kpr with grants := [] } }
  else s

/-- The Beacon logic and chip links go to their reset values in a warm or PCIe reset (R387, R389). -/
def clearBeacon (s : State) (code : Nat) : State :=
  if code = rstPcie ∨ code = rstWarm then
    { s with bcn := {}, pins := { s.pins with slip := false }
             cl := s.cl.map fun (x : Nat × ClX) => (x.1, ({ signal := x.2.signal, padded := x.2.padded } : ClX)) }
  else s

/-- A start that a reset cancels is logged (R216); its cause is free. DESIGN CHOICE: log entry 105. -/
def logCancel (s : State) (p : Nat) : State :=
  if s.slotState p == 2 then (s.logEv 0x12 p [Config.cancelCause s.free]).bumpFree else s

/-- A reset begins (T0): code, slot of a partition reset, and the command that asks for it (R387-R394). DEDUCED: log entry 83.
DEDUCED: log entry 87. -/
def beginReset (s : State) (code slot : Nat) (cmd : Option Cmd) : State :=
  let img := if code = rstPart then (s.slot slot).img else none
  let r : RstProg :=
    { code := code, cmd := cmd, again := false
      dies := if code = rstPart then BitVec.ofNat 32 (img.elim 0 (·.dieMask)) else BitVec.allOnes 32
      claims := img.elim [] (·.claims)
      retest := if code = rstPart then 0 else s.map.fenced
      devIds := (List.range 8).filterMap fun p => (s.slot p).img.map (·.devId) }
  let t := s.aside fun s =>
    let t := s.abortCmds r slot
    let t := { t with kpr := { t.kpr with
      rstLast := BitVec.ofNat 64 (code * 2 ^ 60 + 2 ^ 59)
      rstCnt := incFld t.kpr.rstCnt (rstField code + 15) (rstField code) 1
      katSts := setFld t.kpr.katSts 31 0 r.retest.toNat } }
    let t := (t.logEv 0x70 (if code = rstPart then slot else 0xFF) [BitVec.ofNat 8 code]).fallBuoys r
    let t := forEach (if code = rstPart then [slot] else List.range 8) t fun t p => (t.logCancel p).emptySlot p
    (t.wipeScope r).clearDies r
  let t := if code = rstPart then t
    else
      let u := { t with nbu := [], thm := { t.thm with measuring := none } }
      let u := (u.clearBeacon code).aside fun u => (u.clearHost code).resetFabric
      match u.thm.pendCls with
      | some c => u.applyClass c
      | none => u
  { t with kpr := { t.kpr with reset := some r } }

/-! ### Tests and bring-up of a die -/

/-- Differences of one engine in all three operations of the test. DEDUCED: log entry 83. -/
def katBad (x : DieTest) (p e : Nat) : List KatDiff := x.kat.filter fun k => k.core.val == p && k.eng.val == e

/-- A physical core goes into the soft map (R380). -/
def softOut (s : State) (d p : Nat) : State :=
  { s with map := { s.map with softOut := s.map.softOut.upd 0 d (· ||| ((1 : BitVec 17) <<< p)) } }

/-- What the known-answer test of engine e of physical core p leads to (R126, R379): a soft spare, or the core out of service.
DEDUCED: log entry 85. -/
def katEngine (s : State) (x : DieTest) (p e : Nat) : State :=
  let ds := katBad x p e
  let bad := ds.flatMap (·.bad)
  if bad.isEmpty then s
  else
    let d := x.die.val; let k := (17 * d + p) * 4 + e
    let have_ := s.map.fuseSpare.get 0 k ||| s.map.softSpare.get 0 k
    let faulty := ds.any (·.spareBad)
    let put (w : Word) : State := { s with map := { s.map with softSpare := s.map.softSpare.set k (s.map.softSpare.get 0 k ||| w) } }
    match oneColumn bad, oneRow bad with
    | some c, _ => if bitAt have_ 6 || faulty then s.softOut d p else put (BitVec.ofNat 64 (0xC0 + c))
    | none, some r => if bitAt have_ 14 || faulty then s.softOut d p else put (BitVec.ofNat 64 ((0xC0 + r) * 256))
    | none, none => s.softOut d p

/-- The tests of one die (R126, R372, R379, R380): bad cores go out of service; a die that is late is fenced.
DEDUCED: log entry 85. -/
def testDie (s : State) (x : DieTest) : State :=
  let d := x.die.val
  let t := forEach (onesOf 17 x.bist.toNat) s fun t p => t.softOut d p
  let t := forEach (List.range 17) t fun t p => forEach (List.range 4) t fun t e => t.katEngine x p e
  if x.onTime || t.fenced d then t else t.loseDie d

/-- `SOFT` of `KPR_KAT_STS`: dies with a soft-mapped core or a soft spare. -/
def softDies (s : State) : Nat :=
  (List.range 32).foldl (fun m d =>
    let soft := (s.map.softOut.get 0 d &&& ~~~ s.map.fuseOut.get 0 d) != 0 ||
      (List.range 68).any fun k => s.map.softSpare.get 0 (68 * d + k) != 0
    if soft then m + 2 ^ d else m) 0

/-- A presented core comes up (R119, R125, R144, R372): spare selections, engines, walker, the core itself. -/
def bringCore (s : State) (c : Nat) : State :=
  match s.bearer (dieOf c) (localOf c) with
  | none => s
  | some p =>
    let t := forEach (List.range 4) s fun t e =>
      let k := (17 * dieOf c + p) * 4 + e
      (t.updEng c e R.engSpare fun _ => s.map.fuseSpare.get 0 k ||| s.map.softSpare.get 0 k).setEngEn c e true
    (t.setWalkEn c true).setCoreEn c

/-- A compute die comes up: its presented cores are READY and its buoy rises, unless it is fenced (R375). DEDUCED: log entry 85. -/
def bringDie (s : State) (d : Nat) : State :=
  if s.fenced d then s else (forEach (s.presentedOn d) s bringCore).buoy0 (16 + d) true

/-- Ports that have not trained by now are DOWN; those of a fenced die are held in RESET (R320, R336). DEDUCED: log entry 45. -/
def settleFabric (s : State) : State :=
  forEach (List.range 68) s fun t c =>
    if (connEnds c).any fun e => if e.iod then t.map.iodFenced.getLsbD e.n else t.fenced e.n then t.setConn c portReset
    else if t.connState c == portTraining || t.connState c == portReset then t.downConn c
    else t

/-- A stack whose fill or wipe is complete shows `FILL_STS` and raises its buoy (R301, R375). DEDUCED: log entry 84. -/
def raiseStacks (s : State) : State :=
  forEach (List.range 8) s fun t k =>
    if t.map.hbmOut.getLsbD k || t.map.iodFenced.getLsbD (k / 2) then t
    else (t.updIod (k / 2) (R.hbmSts + k % 2 * 0x10000) fun w => setBit w 0 true).buoy0 (8 + k) true

/-- The record of the reset that completes: `DONE` and `DUR`. -/
def rstDone (s : State) (us : BitVec 32) : State :=
  { s with kpr := { s.kpr with
    rstLast := setFld (setBit s.kpr.rstLast 58 true) 31 0 us.toNat
    katSts := setFld s.kpr.katSts 63 32 s.softDies } }

/-- The cold sequence completes (R372, R373): margin plan, tests, fills, cores, the map record. -/
def coldComplete (s : State) (b : Bring) (us : BitVec 32) (tests : List DieTest) : State :=
  (s.marginPlan 1 b.meas []).aside fun t =>
  let t := (forEach (b.tests ++ tests) t testDie).settleFabric
  let t := { t with kpr := { t.kpr with katSts := setFld t.kpr.katSts 31 0 (2 ^ 32 - 1), rstLast := setFld t.kpr.rstLast 63 60 rstCold } }
  let t := (forEach (List.range 32) t bringDie).rstDone us
  let t := { t with map := { t.map with spare := (List.range 32).foldl (fun m d => m.set d (t.spareFor d)) [] } }
  let t := { t with kpr := { t.kpr with bring := none, coldDone := true, mapRec := t.mapNow } }
  t.trainLinks.mapWaiters

/-- The fenced dies that a reset retests leave the fence (R338, R378), but for those whose straps hold them in reset (R311). A fenced I/O
die leaves it where one of its ports has trained again (R338, R339). DEDUCED: log entry 51. -/
def unfence (s : State) (r : RstProg) : State :=
  let back := r.retest &&& ~~~ s.map.strapBad
  let t := forEach (diesIn back) { s with map := { s.map with fenced := s.map.fenced &&& ~~~ back } } fun t d =>
    t.updDie d R.d2dDieSts fun w => setBit w 0 false
  forEach [1, 2, 3] t fun t i =>
    if (iodConns i).any fun c => t.connState c == portUp || t.connState c == portDegraded then
      { t with map := { t.map with iodFenced := t.map.iodFenced &&& ~~~ ((1 : BitVec 4) <<< i) } }
    else t

/-- A reset completes (R360, R378, R386-R389). DEDUCED: log entry 82. DEDUCED: log entry 83. -/
def resetDone (s : State) (r : RstProg) (us : BitVec 32) (tests : List DieTest) : State :=
  s.aside fun s =>
  let t := if r.code = rstPart then s
    else
      let t := forEach (tests.filter fun x => r.retest.getLsbD x.die.val) (s.unfence r) testDie
      t.settleFabric.raiseStacks
  let t := (forEach (diesIn r.dies) t bringDie).rstDone us
  let t := ({ t with kpr := { t.kpr with reset := none } }).buoy0 1 true
  let t := if r.code = rstPcie ∨ r.code = rstWarm then t.trainLinks else t
  let t := if r.code = rstPart then t else t.mapChange
  let t := match r.cmd with
    | some c => t.complete c Sts.ok 0 (if c.opcode == Op.secLifecycle then [] else leBytes 8 us.toNat)
    | none => t
  t.pump.sweepRings

/-- The reset or the cold sequence in progress completes after `us` µs, with what the tests found. A warm reset that a Keeper restart has
begun in the cold sequence completes with it (R361). In RECOVERY the wipe ends and the stacks come up, and nothing else completes
(R375). DEDUCED: log entry 82. DEDUCED: log entry 84. -/
def resetComplete (s : State) (us : BitVec 32) (tests : List DieTest) : State :=
  if s.powered && s.kprState == 3 && s.kpr.reset.isSome then s.aside raiseStacks
  else if !s.powered || s.kprState != 2 then s
  else match s.kpr.reset, s.kpr.bring with
    | some r, some b =>
      if r.again then s
      else
        let t := s.coldComplete b us tests
        { t with kpr := { t.kpr with rstLast := s.kpr.rstLast } }.resetDone r us []
    | some r, none => if r.again then s else s.resetDone r us tests
    | none, some b => s.coldComplete b us tests
    | none, none => s

/-! ### Power, `PERST_L` and the Keeper -/

/-- Straps of a die read at power-on; one whose straps fail is fenced and held in reset (R311). -/
def readStraps (s : State) (b : Bring) (d : Nat) : State :=
  let v := strapOf b.dieStraps d
  let t := s.setDie d R.d2dStrap (BitVec.ofNat 64 v.toNat)
  if !strapErr b.dieStraps d then t
  else
    let t := (t.updDie d R.d2dStrap fun w => setBit w 8 true).logEv 0x57 0xFF [BitVec.ofNat 8 (strapPos v)]
    ({ t with map := { t.map with strapBad := t.map.strapBad ||| ((1 : BitVec 32) <<< d) } }).markFenced d

/-- PG: a cold power-on begins (R370-R374, R433): straps, ROM start, the Keeper authenticates its image, ports train, parts that do not
finish by their bounds are out. DEDUCED: log entry 87. -/
def coldPowerOn (s : State) (b : Bring) : State :=
  if s.powered then s
  else
    let t := { s.powerOff with
      powered := true, straps := b.straps
      host := { perstHigh := b.perstHigh, portUp := b.perstHigh }
      kpr := { bring := some b }
      map := { s.powerOff.map with hbmOut := ~~~ b.stkOk } }
    let t := t.aside fun t =>
      let t := (t.updLife fun l => { l with coldOns := l.coldOns + 1 }).logEv 0x70 0xFF [1]
      let t := { t with thm := { t.thm with cls := t.thm.life.cls } }
      let t := (forEach (if b.dieStraps.isEmpty then [] else List.range 32) t fun t d => t.readStraps b d).trainFabric
      forEach [1, 2, 3] t fun t i => if b.iodOk.getLsbD i then t else t.loseIod i
    if b.iodOk.getLsbD 0 then t.romStart.setKprState 1 else t

/-- `PERST_L` has fallen (R371, R391, R471). DEDUCED: log entry 87. -/
def perstFall (s : State) : State :=
  let t := { s with host := { s.host with perstHigh := false } }
  if !s.powered || !s.host.portUp then t
  else if s.kpr.coldDone then ((t.beginReset rstPcie 0 none).romStart).setKprState 1
  else ({ t with host := { t.host with portUp := false, l0 := false, busMaster := false, d3 := false } }).buoy0 0 false

/-- `PERST_L` has risen: the host port leaves reset (R371). -/
def perstRise (s : State) : State :=
  { s with host := { s.host with perstHigh := true, portUp := s.host.portUp || s.powered } }

/-- The lockstep cores disagree (R361, R391): the ROM starts again; a warm reset begins, at once or, where a reset is in progress, once
the Keeper has been authenticated. A write of the firmware slot goes on (R394). DESIGN CHOICE: log entry 81. DEDUCED: log entry 82. -/
def keeperRestart (s : State) : State :=
  if !s.powered || s.kprState != 2 then s
  else
    let t := { s with
      host := { s.host with kprSts := incFld s.host.kprSts 31 16 1 }, sec := { s.sec with flashBusy := s.sec.flashBusy && !s.kpr.done.any (·.writes) } }
    let t := ((t.setKprState 4).buoy0 1 false).romStart
    match t.kpr.reset with
    | some r => { t with kpr := { t.kpr with reset := some { r with again := true } } }
    | none => t.beginReset rstWarm 0 none

/-- The ROM has read the image from flash and authenticated it, or not (R301, R361). DEDUCED: log entry 82.
DEDUCED: log entry 84. -/
def firmwareDone (s : State) : State :=
  let st := s.kprState
  if !s.powered || (st != 1 && st != 4) then s
  else
    let t := if s.kpr.bring.isSome then s.aside raiseStacks else s
    match s.flashFault with
    | some cause => ((if st == 1 && s.sec.flashBusy then t.bumpFree else t).enterRecovery cause).sweepRings
    | none =>
      let u := (t.startFirmware (if st == 1 then s.sec.flash else s.sec.running)).sweepRings
      if st == 1 then u
      else
        let u := u.logEv 0x71 0xFF []
        match u.kpr.reset with
        | some r => if r.again then u.beginReset rstWarm 0 none else u
        | none => u

/-! ### Commands -/

/-- `RESET_PARTITION` (R364): the slot must hold an image. DEDUCED: log entry 88. -/
def resetPart (s : State) (c : Cmd) : State :=
  let p := arg c.args 0 1
  if 8 ≤ p then s.answer c Sts.badArg
  else if (s.slot p).img.isNone then s.answer c Sts.slotState
  else s.beginReset rstPart p (some c)

/-- A reset command is taken only once the cold sequence is complete. DEDUCED: log entry 82. -/
def whenCold (s : State) (t : State) : State := if s.kpr.coldDone then t else s

end State

/-- `RESET_WARM` (R387). -/
def execResetWarm (m : Mbox) (s : State) : Host.Outcome State Fault Refusal :=
  s.bcnDone (s.whenCold (s.serve Op.resetWarm 0 [] m fun t c => t.beginReset rstWarm 0 (some c))).refreshPins

/-- `RESET_COMPUTE` (R387). -/
def execResetCompute (m : Mbox) (s : State) : Host.Outcome State Fault Refusal :=
  s.bcnDone (s.whenCold (s.serve Op.resetCompute 0 [] m fun t c => t.beginReset rstCompute 0 (some c))).refreshPins

/-- `RESET_PARTITION` (R387). -/
def execResetPartition (m : Mbox) (s : State) : Host.Outcome State Fault Refusal :=
  s.bcnDone (s.whenCold (s.serve Op.resetPartition 8 [(0, 1)] m State.resetPart)).refreshPins

/-- `RESET_COMPLETE` (R372, R388). -/
def execResetComplete (us : BitVec 32) (tests : List DieTest) (s : State) : Host.Outcome State Fault Refusal :=
  s.bcnDone (s.resetComplete us tests).refreshPins

/-- `COLD_POWER_ON` (R372). -/
def execColdPowerOn (b : Bring) (s : State) : Host.Outcome State Fault Refusal := s.wideDone (s.coldPowerOn b).refreshPins

/-- `POWER_LOSS` (R370). -/
def execPowerLoss (s : State) : Host.Outcome State Fault Refusal := s.wideDone s.powerOff.refreshPins

/-- `INPUT_CURRENT_LIMIT` (R458): the module disconnects its input, which ends the powered state. -/
def execInputCurrentLimit (s : State) : Host.Outcome State Fault Refusal := s.wideDone s.powerOff.refreshPins

/-- `PERST_FALL` (R371). -/
def execPerstFall (s : State) : Host.Outcome State Fault Refusal := s.wideDone s.perstFall.refreshPins

/-- `PERST_RISE` (R371). -/
def execPerstRise (s : State) : Host.Outcome State Fault Refusal := s.done s.perstRise

/-- `KEEPER_RESTART` (R361). -/
def execKeeperRestart (s : State) : Host.Outcome State Fault Refusal := s.wideDone s.keeperRestart.refreshPins

/-- `FIRMWARE_AUTHENTICATED` (R361). -/
def execFirmwareAuthenticated (s : State) : Host.Outcome State Fault Refusal := s.wideDone s.firmwareDone.refreshPins

end Sys2Proof.Machine
end

