-- ==== Sys2Proof/Machine/Security.lean ====
section
/-!
DEFINITION. Identity, attestation, lifecycle and firmware (ch. 15, R361, R362): `SEC_ATTEST`, `SEC_CERT`, `SEC_OWNER_KEY`,
`SEC_LIFECYCLE`, `SEC_DEBUG_UNLOCK`, `FW_UPDATE`, `FW_RECOVER`.
-/

namespace Sys2Proof.Machine

/-- A signature block of a kind over a message verifies (R437). -/
def blockVerifies (ctx : String) (m block : List Byte) : Bool := Ed448.verify (blockKey block) (ascii ctx) m (blockSig block)

/-- An owner-key record that is well formed (R441). -/
def ownerForm (r : List Byte) : Bool :=
  r.take 8 == ascii "KRYOWNER" && (leAt r 0xC 1 == 1 || (leAt r 0xC 1 == 2 && zeroAt r 0x10 57)) && zeroAt r 0xD 3 && zeroAt r 0x49 7 &&
    zeroAt r 0x58 8

/-- Status of a firmware fault (R439). -/
def fwStatus (f : Nat) : Nat := if f = badSign then Sts.badSignature else Sts.badFormat

/-- The longest firmware file: 8 MiB and its block (R438). -/
abbrev fwMax : Nat := 0x80_0100

namespace State

/-! ### Attestation -/

/-- The 128 bytes of slot p in the report. -/
def attestSlot (s : State) (p : Nat) : List Byte :=
  let y := s.slot p
  let digest := match y.img with
    | some i => i.digest
    | none => zeros 64
  [BitVec.ofNat 8 (s.slotState p), BitVec.ofNat 8 (y.signed.toNat + (bitAt y.sts 8).toNat * 2)] ++ zeros 6 ++ digest ++
    (if y.signed then y.signer else zeros 32) ++ zeros 24

/-- Bytes 0x000-0x4FF of the report (R445). -/
def attestBody (s : State) (nonce : List Byte) : List Byte :=
  let flags := s.ownerKey.isSome.toNat + s.sec.ownerErr.toNat * 2 + s.degraded.toNat * 4 + s.sec.unlocked.toNat * 8
  let k := s.host.kfw.toNat
  ascii "KRYATTST" ++ leBytes 2 1 ++ leBytes 2 1408 ++
  [BitVec.ofNat 8 s.sec.life, BitVec.ofNat 8 (s.thm.cls + s.thm.pendCls.isSome.toNat * 128), BitVec.ofNat 8 s.iodRev,
    BitVec.ofNat 8 flags] ++
  leBytes 8 s.idNumber ++ leBytes 8 s.fnWord.toNat ++ nonce ++ s.sec.fwDigest ++ leBytes 4 s.sec.svn ++ leBytes 4 s.sec.floor ++
  [BitVec.ofNat 8 (k / 65536), BitVec.ofNat 8 (k / 256), BitVec.ofNat 8 k, s.rom] ++ zeros 4 ++ s.mapHash ++
  (match s.ownerKey with
    | some o => keyHash o
    | none => zeros 32) ++
  leBytes 32 s.sec.nonce.toNat ++ zeros 16 ++ (List.range 8).flatMap s.attestSlot

/-- The report (R445). -/
def attestation (s : State) (nonce : List Byte) : List Byte :=
  let b := s.attestBody nonce
  b ++ Ed448.sign s.aliasPriv (ascii "KRY-ATTEST") (shake256 64 b) ++ zeros 14

/-- `SEC_ATTEST`. -/
def secAttest (s : State) (c : Cmd) : State :=
  if arg c.args 40 4 < 1408 then s.answer c Sts.badArg
  else
    let (st, t) := s.bufWrite (arg c.args 32 8) (s.attestation (leBytes 32 (arg c.args 0 32)))
    if st != Sts.ok then t.answer c st else t.complete c Sts.ok 0 (leBytes 4 1408)

/-- A DER value: tag, length in the definite form, contents (RFC 5280's encoding; contents below 64 KiB). PRESUMED: log entry 109. -/
def der (tag : Nat) (b : List Byte) : List Byte :=
  let n := b.length
  let len := if n < 128 then [n] else if n < 256 then [0x81, n] else [0x82, n / 256, n % 256]
  (tag :: len).map (BitVec.ofNat 8) ++ b

/-- Algorithm identifier of Ed448, object 1.3.101.113 with no parameters (RFC 8410). PRESUMED: log entry 109. -/
def derEd448 : List Byte := der 0x30 (der 0x06 [0x2B, 0x65, 0x71])

/-- A bit string of whole bytes. PRESUMED: log entry 109. -/
def derBits (b : List Byte) : List Byte := der 0x03 (0 :: b)

/-- The part of certificate k that is signed (R435): X.509 v3 with an Ed448 key; `own` is the contents of its Koryen extension, where it
has one. The certificates are 0 alias, 1 device identity, 2 product CA; 3 is the root, which is not on the device.
PRESUMED: log entry 109. DESIGN CHOICE: log entry 78. -/
def certBody (k : Nat) (key own : List Byte) : List Byte :=
  let part (f n : Nat) : List Byte := (Config.certPart f k key).take n
  let name (j : Nat) : List Byte := der 0x30 ((Config.certPart 0 j []).take 256)
  let ext := if own.isEmpty then [] else der 0x30 (der 0x06 (part 5 32) ++ der 0x04 own)
  der 0x30 (der 0xA0 (der 0x02 [2]) ++ der 0x02 (part 1 20) ++ derEd448 ++ name (k + 1) ++ der 0x30 (part 2 64) ++ name k ++
    der 0x30 (derEd448 ++ derBits key) ++ der 0xA3 (der 0x30 (ext ++ part 3 512)))

/-- A certificate: what is signed, the algorithm, the signature (R435). PRESUMED: log entry 109. -/
def certOf (body sig : List Byte) : List Byte := der 0x30 (body ++ derEd448 ++ derBits sig)

/-- The alias certificate (R433, R435): it carries the alias public key, and in its Koryen extension the firmware measurement and the
security version; the identity key signs it, with no context. DESIGN CHOICE: log entry 78. -/
def aliasCert (s : State) : List Byte :=
  let body := certBody 0 (Ed448.publicKey s.aliasPriv) (s.sec.fwDigest ++ leBytes 4 s.sec.svn)
  certOf body (Ed448.sign s.idPriv [] body)

/-- The certificates of manufacture (R435): the device identity certificate, of the identity key, and the product CA certificate.
DESIGN CHOICE: log entry 78. -/
def madeCerts (s : State) : List (List Byte) :=
  let bytes (k n : Nat) : List Byte := (List.range n).map (Config.madeByte k)
  [certOf (certBody 1 s.idKey []) (bytes 1 114), certOf (certBody 2 (bytes 0 57) []) (bytes 2 114)]

/-- The certificate chain, leaf first (R435). DESIGN CHOICE: log entry 78. -/
def certChain (s : State) : List Byte :=
  let cs := s.aliasCert :: (if s.sec.certs.isEmpty then s.madeCerts else s.sec.certs)
  leBytes 4 cs.length ++ cs.flatMap fun x => leBytes 4 x.length ++ x

/-- `SEC_CERT` (R435): a shorter buffer learns the length needed. -/
def secCert (s : State) (c : Cmd) : State :=
  let ch := s.certChain
  if arg c.args 8 4 < ch.length then s.complete c Sts.badArg 0 (leBytes 4 ch.length)
  else
    let (st, t) := s.bufWrite (arg c.args 0 8) ch
    if st != Sts.ok then t.answer c st else t.complete c Sts.ok 0 (leBytes 4 ch.length)

/-! ### The owner key -/

/-- Sequence number of the installed record, 0 where there is none that is valid. DEDUCED: log entry 79. -/
def ownerSeq (s : State) : Nat := if s.ownerKey.isSome then leAt s.sec.owner 8 4 else 0

/-- The owner record is erased (R443, R446). -/
def eraseOwner (s : State) : State := { s with sec := { s.sec with owner := [], ownerTag := [] } }

/-- The status with which a well-formed owner-key record with its block is answered (R442). DEDUCED: log entry 79. -/
def ownerStatus (s : State) (r block : List Byte) : Nat :=
  let op := leAt r 0xC 1
  if leAt r 0x50 8 != s.idNumber || leAt r 8 4 ≤ s.ownerSeq then Sts.badArg
  else
    let signedBy (k : List Byte) : Nat :=
      if blockKey block == k && blockVerifies "KRY-OWNER" (shake256 64 r) block then Sts.ok else Sts.badSignature
    match s.ownerKey with
    | some k => signedBy k
    | none =>
      if op = 2 then Sts.badArg else if s.sec.life = 2 then Sts.lifecycleState else signedBy ((r.drop 0x10).take 57)

/-- `SEC_OWNER_KEY` (R442-R444). DEDUCED: log entry 79. -/
def secOwnerKey (s : State) (c : Cmd) : State :=
  if s.sec.life = 0 || s.retired then s.answer c Sts.lifecycleState
  else if arg c.args 8 4 != 352 then s.answer c Sts.badArg
  else match s.bufRead (arg c.args 0 8) 352 with
    | (.error e, t) => t.answer c e
    | (.ok b, t) =>
      let r := b.take 96; let block := b.drop 96
      if !ownerForm r || !blockForm 3 block then t.answer c Sts.badArg
      else
        let st := t.ownerStatus r block
        if st != Sts.ok then t.answer c st
        else if leAt r 0xC 1 = 2 then t.eraseOwner.answer c Sts.ok
        else ({ t with sec := { t.sec with owner := r, ownerTag := t.ownerTagOf r, ownerErr := false } }).answer c Sts.ok

/-! ### Tokens -/

/-- A token with its block, of a purpose, signed by the key that `signer` accepts; its `ARG` (R437, R449). -/
def tokenArg (s : State) (b : List Byte) (purpose : Nat) (signer : List Byte → Bool) : Option Nat :=
  let r := b.take 64; let block := b.drop 64
  if r.take 8 == ascii "KRYTOKEN" && leAt r 8 1 == purpose && zeroAt r 0xA 6 && leAt r 0x10 8 == s.idNumber && zeroAt r 0x18 8 &&
      leAt r 0x20 32 == s.sec.nonce.toNat && blockForm 4 block && signer (blockKey block) &&
      blockVerifies "KRY-TOKEN" (shake256 64 r) block then some (leAt r 9 1)
  else none

/-- The Koryen service key. -/
def isService (k : List Byte) : Bool := keyHash k == Config.serviceKeyHash

/-- The owner key where one is valid, the service key otherwise. -/
def isOwner (s : State) (k : List Byte) : Bool :=
  match s.ownerKey with
  | some o => k == o
  | none => isService k

/-- A token buffer read: its 320 bytes, or the status of the command. DEDUCED: log entry 80. -/
def readToken (s : State) (buf : Nat) : Except Nat (List Byte) × State :=
  if buf = 0 then (.error Sts.badToken, s) else s.bufRead buf 320

/-- The transition from the present lifecycle state to `to_` exists (R446). -/
def lifeStep (s : State) (to_ : Nat) : Bool :=
  match s.sec.life, to_ with
  | 0, 1 => true
  | 1, 2 => true
  | 2, 1 => decide (s.sec.returns < 4)
  | 0, 3 => true
  | 1, 3 => true
  | 2, 3 => true
  | _, _ => false

/-- The transition takes place (R446, R447): fuses, the owner record, the log, the warm reset. -/
def lifeMove (s : State) (c : Cmd) (to_ : Nat) : State :=
  let old := s.sec.life
  let back := old = 2 ∧ to_ = 1
  let t := { s with sec := { s.sec with life := to_, returns := if back then s.sec.returns + 1 else s.sec.returns } }
  let t := if back ∨ to_ = 3 then t.eraseOwner else t
  let t := if back then { t with sec := { t.sec with ownerErr := false } } else t
  (t.logEv 0x72 0xFF [BitVec.ofNat 8 old, BitVec.ofNat 8 to_]).beginReset rstWarm 0 (some c)

/-- `SEC_LIFECYCLE` (R446, R447). DEDUCED: log entry 80. -/
def secLifecycle (s : State) (c : Cmd) : State :=
  let to_ := arg c.args 0 1
  if 3 < to_ then s.answer c Sts.badArg
  else if s.anyActive then s.answer c Sts.runActive
  else if !s.lifeStep to_ then s.answer c Sts.lifecycleState
  else if s.sec.life = 1 ∧ to_ = 2 then s.lifeMove c to_
  else match s.readToken (arg c.args 8 8) with
    | (.error e, t) => t.answer c e
    | (.ok b, t) =>
      if t.tokenArg b 1 (if to_ = 3 then t.isOwner else isService) = some to_ then t.lifeMove c to_ else t.answer c Sts.badToken

/-- `SEC_DEBUG_UNLOCK` (R450, R451). DEDUCED: log entry 80. -/
def secDebugUnlock (s : State) (c : Cmd) : State :=
  match s.readToken (arg c.args 0 8) with
  | (.error e, t) => t.answer c e
  | (.ok b, t) =>
    match t.tokenArg b 2 (if t.sec.life = 2 then t.isOwner else isService) with
    | none => t.answer c Sts.badToken
    | some n =>
      if 8 ≤ n || t.sec.life = 0 then t.answer c Sts.badToken
      else
        let l := BitVec.ofNat 8 t.sec.life
        let t := { t with sec := { t.sec with
          scope := t.sec.scope ||| n, unlocked := true, unlocks := min (t.sec.unlocks + 1) (2 ^ 32 - 1) } }
        (t.logEv 0x72 0xFF [l, l, BitVec.ofNat 8 n]).answer c Sts.ok

/-! ### Firmware -/

/-- The completion formed last is one whose writing ends the write of the firmware slot (R362). DESIGN CHOICE: log entry 81. -/
def writesSlot (s : State) : State :=
  { s with kpr := { s.kpr with
    done := s.kpr.done.dropLast ++ s.kpr.done.getLast?.toList.map fun d => { d with writes := true } } }

/-- `FW_UPDATE` (R362, R439, R448): the image is authenticated before the slot is erased. DEDUCED: log entry 80.
DESIGN CHOICE: log entry 81. -/
def fwUpdate (s : State) (c : Cmd) : State :=
  let n := arg c.args 8 4
  if s.retired then s.answer c Sts.lifecycleState
  else if fwMax < n then s.answer c Sts.badFormat
  else match s.bufRead (arg c.args 0 8) n with
    | (.error e, t) => t.answer c e
    | (.ok b, t) => match fwFault t.sec.floor b with
      | some f => t.answer c (fwStatus f)
      | none => (({ t with sec := { t.sec with flash := b, flashBusy := true } }).answer c Sts.ok).writesSlot

/-- `FW_RECOVER` (R361, R439): the image runs, and goes to flash where `PERSIST` is set. Outside RECOVERY it is not served.
DEDUCED: log entry 80. -/
def fwRecover (s : State) (c : Cmd) : State :=
  let n := arg c.args 8 4
  if s.kprState != 3 then s.answer c Sts.badOpcode
  else if 2 ≤ arg c.args 12 1 then s.answer c Sts.badArg
  else if fwMax < n then s.answer c Sts.badFormat
  else if !s.mayMaster then s.answer c Sts.timeout
  else
    let b := s.hostRead (arg c.args 0 8) n
    match fwFault s.sec.floor b with
    | some f => s.answer c (fwStatus f)
    | none =>
      if arg c.args 12 1 = 1 then
        ((({ s with sec := { s.sec with flash := b, flashBusy := true } }).startFirmware b).answer c Sts.ok).writesSlot
      else (s.startFirmware b).answer c Sts.ok

end State

/-- `SEC_ATTEST` (R445). -/
def execSecAttest (m : Mbox) (s : State) : Host.Outcome State Fault Refusal :=
  s.done (s.serve Op.secAttest 48 [(0, 44)] m State.secAttest)

/-- `SEC_CERT` (R435). -/
def execSecCert (m : Mbox) (s : State) : Host.Outcome State Fault Refusal :=
  s.done (s.serve Op.secCert 16 [(0, 12)] m State.secCert)

/-- `SEC_OWNER_KEY` (R442). -/
def execSecOwnerKey (m : Mbox) (s : State) : Host.Outcome State Fault Refusal :=
  s.secDone (s.serve Op.secOwnerKey 16 [(0, 12)] m State.secOwnerKey)

/-- `SEC_LIFECYCLE` (R447). -/
def execSecLifecycle (m : Mbox) (s : State) : Host.Outcome State Fault Refusal :=
  s.wideDone (s.whenCold (s.serve Op.secLifecycle 16 [(0, 1), (8, 8)] m State.secLifecycle)).refreshPins

/-- `SEC_DEBUG_UNLOCK` (R450). -/
def execSecDebugUnlock (m : Mbox) (s : State) : Host.Outcome State Fault Refusal :=
  s.secDone (s.serve Op.secDebugUnlock 8 [(0, 8)] m State.secDebugUnlock)

/-- `FW_UPDATE` (R362). -/
def execFwUpdate (m : Mbox) (s : State) : Host.Outcome State Fault Refusal :=
  s.secDone (s.serve Op.fwUpdate 16 [(0, 12)] m State.fwUpdate)

/-- `FW_RECOVER` (R361). -/
def execFwRecover (m : Mbox) (s : State) : Host.Outcome State Fault Refusal :=
  s.secDone (s.serve Op.fwRecover 16 [(0, 13)] m State.fwRecover).refreshPins

end Sys2Proof.Machine
end

