-- ==== Sys2Proof/Machine/Dispatch.lean ====
section
/-!
DEFINITION. The dispatch: one arm per command, each a direct call of that command's meaning.
-/

namespace Sys2Proof.Machine

def exec (i : Instr) (s : State) : Host.Outcome State Fault Refusal :=
  match i with
  | .bcnClkLock => Sys2Proof.Machine.execBcnClkLock s
  | .beaconLoss => Sys2Proof.Machine.execBeaconLoss s
  | .mark edges => Sys2Proof.Machine.execMark edges s
  | .occultation => Sys2Proof.Machine.execOccultation s
  | .beaconStall => Sys2Proof.Machine.execBeaconStall s
  | .arm load => Sys2Proof.Machine.execArm load s
  | .disarm => Sys2Proof.Machine.execDisarm s
  | .slackCharge core off causes place => Sys2Proof.Machine.execSlackCharge core off causes place s
  | .cutOff => Sys2Proof.Machine.execCutOff s
  | .slipRelease => Sys2Proof.Machine.execSlipRelease s
  | .dispatch core off => Sys2Proof.Machine.execDispatch core off s
  | .wordComplete core u off beside => Sys2Proof.Machine.execWordComplete core u off beside s
  | .nop core off => Sys2Proof.Machine.execNop core off s
  | .sync core off => Sys2Proof.Machine.execSync core off s
  | .bank core off => Sys2Proof.Machine.execBank core off s
  | .unbank core off => Sys2Proof.Machine.execUnbank core off s
  | .unitReady core u => Sys2Proof.Machine.execUnitReady core u s
  | .mmul core eng off => Sys2Proof.Machine.execMmul core eng off s
  | .drain core eng off => Sys2Proof.Machine.execDrain core eng off s
  | .rampUp core eng off => Sys2Proof.Machine.execRampUp core eng off s
  | .cordPoint slot q k => Sys2Proof.Machine.execCordPoint slot q k s
  | .vecAdd core off => Sys2Proof.Machine.execVecAdd core off s
  | .vecMul core off => Sys2Proof.Machine.execVecMul core off s
  | .vecFma core off => Sys2Proof.Machine.execVecFma core off s
  | .vecMax core off => Sys2Proof.Machine.execVecMax core off s
  | .vecMin core off => Sys2Proof.Machine.execVecMin core off s
  | .vecCvt core off => Sys2Proof.Machine.execVecCvt core off s
  | .vecQuant core off => Sys2Proof.Machine.execVecQuant core off s
  | .vecDequant core off => Sys2Proof.Machine.execVecDequant core off s
  | .vecExp core off => Sys2Proof.Machine.execVecExp core off s
  | .vecRcp core off => Sys2Proof.Machine.execVecRcp core off s
  | .vecRsqrt core off => Sys2Proof.Machine.execVecRsqrt core off s
  | .vecAct core off => Sys2Proof.Machine.execVecAct core off s
  | .vecRmax core off => Sys2Proof.Machine.execVecRmax core off s
  | .vecRsum core off => Sys2Proof.Machine.execVecRsum core off s
  | .vecSoftmax core off => Sys2Proof.Machine.execVecSoftmax core off s
  | .vecRmsnorm core off => Sys2Proof.Machine.execVecRmsnorm core off s
  | .vecLayernorm core off => Sys2Proof.Machine.execVecLayernorm core off s
  | .vecRope core off => Sys2Proof.Machine.execVecRope core off s
  | .vecSplit2 core off => Sys2Proof.Machine.execVecSplit2 core off s
  | .vecSplit3 core off => Sys2Proof.Machine.execVecSplit3 core off s
  | .vecD7slice core off => Sys2Proof.Machine.execVecD7slice core off s
  | .vecD7finish core off => Sys2Proof.Machine.execVecD7finish core off s
  | .vecIadd48 core off => Sys2Proof.Machine.execVecIadd48 core off s
  | .vecDadd core off => Sys2Proof.Machine.execVecDadd core off s
  | .vecDmul core off => Sys2Proof.Machine.execVecDmul core off s
  | .vecDfma core off => Sys2Proof.Machine.execVecDfma core off s
  | .vecActload core off => Sys2Proof.Machine.execVecActload core off s
  | .strCopy core ch off => Sys2Proof.Machine.execStrCopy core ch off s
  | .strGather core ch off => Sys2Proof.Machine.execStrGather core ch off s
  | .strXsend core ch off => Sys2Proof.Machine.execStrXsend core ch off s
  | .requestComplete core n st => Sys2Proof.Machine.execRequestComplete core n st s
  | .memoryTimeout core r => Sys2Proof.Machine.execMemoryTimeout core r s
  | .chkBegin core off => Sys2Proof.Machine.execChkBegin core off s
  | .chkFeed core off => Sys2Proof.Machine.execChkFeed core off s
  | .chkEnd core off => Sys2Proof.Machine.execChkEnd core off s
  | .chkCmp core off => Sys2Proof.Machine.execChkCmp core off s
  | .sramScrub die p => Sys2Proof.Machine.execSramScrub die p s
  | .cordTake core off => Sys2Proof.Machine.execCordTake core off s
  | .inRead core off => Sys2Proof.Machine.execInRead core off s
  | .outWrite core off => Sys2Proof.Machine.execOutWrite core off s
  | .attn core off => Sys2Proof.Machine.execAttn core off s
  | .append core off => Sys2Proof.Machine.execAppend core off s
  | .merge core off => Sys2Proof.Machine.execMerge core off s
  | .scores core off => Sys2Proof.Machine.execScores core off s
  | .commitApply core => Sys2Proof.Machine.execCommitApply core s
  | .frameRelease core => Sys2Proof.Machine.execFrameRelease core s
  | .loadComplete slot => Sys2Proof.Machine.execLoadComplete slot s
  | .mapRecordChange => Sys2Proof.Machine.execMapRecordChange s
  | .fetchCopyComplete slot q => Sys2Proof.Machine.execFetchCopyComplete slot q s
  | .hostQdb slot q v => Sys2Proof.Machine.execHostQdb slot q v s
  | .kprQTail slot q v => Sys2Proof.Machine.execKprQTail slot q v s
  | .turfRefresh die blocked => Sys2Proof.Machine.execTurfRefresh die blocked s
  | .hbmRefresh stk bank blocked late => Sys2Proof.Machine.execHbmRefresh stk bank blocked late s
  | .bandChange die upper => Sys2Proof.Machine.execBandChange die upper s
  | .turfScrub die secs => Sys2Proof.Machine.execTurfScrub die secs s
  | .hbmScrub stk secs => Sys2Proof.Machine.execHbmScrub stk secs s
  | .bar2Read b off n => Sys2Proof.Machine.execBar2Read b off n s
  | .bar2Write b off data => Sys2Proof.Machine.execBar2Write b off data s
  | .fetchAdd off w x => Sys2Proof.Machine.execFetchAdd off w x s
  | .swap off w x => Sys2Proof.Machine.execSwap off w x s
  | .cas off w x cmp => Sys2Proof.Machine.execCas off w x cmp s
  | .accessTimeout a => Sys2Proof.Machine.execAccessTimeout a s
  | .stageComplete => Sys2Proof.Machine.execStageComplete s
  | .nbuAdd g => Sys2Proof.Machine.execNbuAdd g s
  | .nbuMul g => Sys2Proof.Machine.execNbuMul g s
  | .nbuFma g => Sys2Proof.Machine.execNbuFma g s
  | .nbuAct g => Sys2Proof.Machine.execNbuAct g s
  | .nbuCommandComplete io => Sys2Proof.Machine.execNbuCommandComplete io s
  | .fenceComplete io => Sys2Proof.Machine.execFenceComplete io s
  | .regionWipeComplete io => Sys2Proof.Machine.execRegionWipeComplete io s
  | .d2dFlit port data ctl crc sent win => Sys2Proof.Machine.execD2dFlit port data ctl crc sent win s
  | .d2dNak port sq win => Sys2Proof.Machine.execD2dNak port sq win s
  | .portDegraded port => Sys2Proof.Machine.execPortDegraded port s
  | .d2dTrainingDone port bad => Sys2Proof.Machine.execD2dTrainingDone port bad s
  | .d2dTrainingTimeout port => Sys2Proof.Machine.execD2dTrainingTimeout port s
  | .idlePort port => Sys2Proof.Machine.execIdlePort port s
  | .dieFault port alive => Sys2Proof.Machine.execDieFault port alive s
  | .partnerSignalPresent cl => Sys2Proof.Machine.execPartnerSignalPresent cl s
  | .chipLinkTrained cl raw peerLocked eye => Sys2Proof.Machine.execChipLinkTrained cl raw peerLocked eye s
  | .chipLinkTrainingTimeout cl => Sys2Proof.Machine.execChipLinkTrainingTimeout cl s
  | .paddingConfirmed cl peer peerPort => Sys2Proof.Machine.execPaddingConfirmed cl peer peerPort s
  | .clFlit cl data trailer corr uncorr pkt => Sys2Proof.Machine.execClFlit cl data trailer corr uncorr pkt s
  | .clNak cl sq => Sys2Proof.Machine.execClNak cl sq s
  | .remoteAck core n st => Sys2Proof.Machine.execRemoteAck core n st s
  | .partnerSignalLost cl => Sys2Proof.Machine.execPartnerSignalLost cl s
  | .hostDb ring v => Sys2Proof.Machine.execHostDb ring v s
  | .registerWrite a addr v => Sys2Proof.Machine.execRegisterWrite a addr v s
  | .completionWrite => Sys2Proof.Machine.execCompletionWrite s
  | .logDelivery => Sys2Proof.Machine.execLogDelivery s
  | .heartbeat => Sys2Proof.Machine.execHeartbeat s
  | .keeperRestart => Sys2Proof.Machine.execKeeperRestart s
  | .firmwareAuthenticated => Sys2Proof.Machine.execFirmwareAuthenticated s
  | .infoVersion m => Sys2Proof.Machine.execInfoVersion m s
  | .infoDevice m => Sys2Proof.Machine.execInfoDevice m s
  | .infoMap m => Sys2Proof.Machine.execInfoMap m s
  | .resetWarm m => Sys2Proof.Machine.execResetWarm m s
  | .resetCompute m => Sys2Proof.Machine.execResetCompute m s
  | .resetPartition m => Sys2Proof.Machine.execResetPartition m s
  | .resetComplete us tests => Sys2Proof.Machine.execResetComplete us tests s
  | .schedLoad m => Sys2Proof.Machine.execSchedLoad m s
  | .schedUnload m => Sys2Proof.Machine.execSchedUnload m s
  | .schedInfo m => Sys2Proof.Machine.execSchedInfo m s
  | .bcnSetPeriod m => Sys2Proof.Machine.execBcnSetPeriod m s
  | .bcnArm m => Sys2Proof.Machine.execBcnArm m s
  | .bcnDisarm m => Sys2Proof.Machine.execBcnDisarm m s
  | .runStart m => Sys2Proof.Machine.execRunStart m s
  | .runStop m => Sys2Proof.Machine.execRunStop m s
  | .queueBind m => Sys2Proof.Machine.execQueueBind m s
  | .queueUnbind m => Sys2Proof.Machine.execQueueUnbind m s
  | .coreTrapClear m => Sys2Proof.Machine.execCoreTrapClear m s
  | .pageCommit m => Sys2Proof.Machine.execPageCommit m s
  | .pageRead m => Sys2Proof.Machine.execPageRead m s
  | .memStage m => Sys2Proof.Machine.execMemStage m s
  | .memAtomic m => Sys2Proof.Machine.execMemAtomic m s
  | .regGrant m => Sys2Proof.Machine.execRegGrant m s
  | .nbuRun m => Sys2Proof.Machine.execNbuRun m s
  | .nbuRawRun m => Sys2Proof.Machine.execNbuRawRun m s
  | .nbuFence m => Sys2Proof.Machine.execNbuFence m s
  | .nbuRegion m => Sys2Proof.Machine.execNbuRegion m s
  | .thmRead m => Sys2Proof.Machine.execThmRead m s
  | .thmCoolMin m => Sys2Proof.Machine.execThmCoolMin m s
  | .lnkTarget m => Sys2Proof.Machine.execLnkTarget m s
  | .lnkRetrain m => Sys2Proof.Machine.execLnkRetrain m s
  | .ageRead m => Sys2Proof.Machine.execAgeRead m s
  | .ageMeasure m => Sys2Proof.Machine.execAgeMeasure m s
  | .secAttest m => Sys2Proof.Machine.execSecAttest m s
  | .secCert m => Sys2Proof.Machine.execSecCert m s
  | .secOwnerKey m => Sys2Proof.Machine.execSecOwnerKey m s
  | .secLifecycle m => Sys2Proof.Machine.execSecLifecycle m s
  | .secDebugUnlock m => Sys2Proof.Machine.execSecDebugUnlock m s
  | .fwUpdate m => Sys2Proof.Machine.execFwUpdate m s
  | .fwRecover m => Sys2Proof.Machine.execFwRecover m s
  | .logBind m => Sys2Proof.Machine.execLogBind m s
  | .logEccRead m => Sys2Proof.Machine.execLogEccRead m s
  | .logEccClear m => Sys2Proof.Machine.execLogEccClear m s
  | .engEn core eng => Sys2Proof.Machine.execEngEn core eng s
  | .engBankEn core eng v => Sys2Proof.Machine.execEngBankEn core eng v s
  | .engCntClr core eng => Sys2Proof.Machine.execEngCntClr core eng s
  | .walkEn core => Sys2Proof.Machine.execWalkEn core s
  | .pgwBankEn core v => Sys2Proof.Machine.execPgwBankEn core v s
  | .pgwCntClr core => Sys2Proof.Machine.execPgwCntClr core s
  | .coreEn core => Sys2Proof.Machine.execCoreEn core s
  | .trapClr core => Sys2Proof.Machine.execTrapClr core s
  | .coldPowerOn b => Sys2Proof.Machine.execColdPowerOn b s
  | .powerLoss => Sys2Proof.Machine.execPowerLoss s
  | .inputCurrentLimit => Sys2Proof.Machine.execInputCurrentLimit s
  | .perstFall => Sys2Proof.Machine.execPerstFall s
  | .perstRise => Sys2Proof.Machine.execPerstRise s
  | .sensorSample x temp us => Sys2Proof.Machine.execSensorSample x temp us s
  | .suspectClear x => Sys2Proof.Machine.execSuspectClear x s
  | .tripRecord => Sys2Proof.Machine.execTripRecord s
  | .damperWindow => Sys2Proof.Machine.execDamperWindow s
  | .damperRelease die => Sys2Proof.Machine.execDamperRelease die s
  | .heatForecast die power => Sys2Proof.Machine.execHeatForecast die power s
  | .flowEstimate w => Sys2Proof.Machine.execFlowEstimate w s
  | .coolantStateChange => Sys2Proof.Machine.execCoolantStateChange s
  | .idleBank core => Sys2Proof.Machine.execIdleBank core s
  | .idleMeasurement => Sys2Proof.Machine.execIdleMeasurement s
  | .replicaRead die p ps below => Sys2Proof.Machine.execReplicaRead die p ps below s
  | .marginChange => Sys2Proof.Machine.execMarginChange s
  | .lifetimeUpdate x => Sys2Proof.Machine.execLifetimeUpdate x s
  | .debugRead addr => Sys2Proof.Machine.execDebugRead addr s
  | .debugWrite addr v => Sys2Proof.Machine.execDebugWrite addr v s
  | .smbusBlockRead code => Sys2Proof.Machine.execSmbusBlockRead code s
  | .alertResponse => Sys2Proof.Machine.execAlertResponse s
  | .hostLinkReachesL0 => Sys2Proof.Machine.execHostLinkReachesL0 s
  | .hostLinkLeavesL0 => Sys2Proof.Machine.execHostLinkLeavesL0 s
  | .busMasterEnableChange v d3 => Sys2Proof.Machine.execBusMasterEnableChange v d3 s
  | .pushToHostRingComplete slot q => Sys2Proof.Machine.execPushToHostRingComplete slot q s
  | .measurementComplete ms eyes => Sys2Proof.Machine.execMeasurementComplete ms eyes s
  | .keeperNotRunningAlert => Sys2Proof.Machine.execKeeperNotRunningAlert s
  | .boundaryScan x => Sys2Proof.Machine.execBoundaryScan x s

end Sys2Proof.Machine
end

