-- ==== Sys2Proof/Machine/Step.lean ====
section
/-!
DEFINITION. The step: the command at the front of the queue is taken and run on the rest. On an empty queue the block idles; all
that passes with time alone is the end of a flash that a halted run counts on the local reference (R53).
-/

namespace Sys2Proof.Machine

/-- One step of the block. DESIGN CHOICE: log entry 1. DEDUCED: log entry 11. DESIGN CHOICE: log entry 96. -/
def step (s : State) : Host.Outcome State Fault Refusal :=
  match s.pending with
  | [] => .next s.endHalted
  | c :: cs => exec c { s with pending := cs }

/-- The state with the command that a word spells put at the front of its queue. -/
def State.withFetchWord (s : State) (nbits w : Nat) : State :=
  match decodeTableWord nbits w with
  | none => s
  | some c => { s with pending := c :: s.pending }

end Sys2Proof.Machine
end

