-- ==== Sys2Proof/Safety.lean ====
section
/-!
DEFINITION. What counts as a legal state of the parts that bear on safety, in the terms the claims use: the Beacon block (R27, R35), the
lifecycle and the fuses (R432, R439, R446), the canonical form of the memories; and what a step may do to the fuses.
-/

namespace Sys2Proof.Machine

/-- The Beacon block is legal: `STATE` is one of the four of R35, `PERIOD` within R27, `ARM` is set exactly in ARMED (R35), the logic is
in NO_CLOCK exactly while `BCN_CLK` is not locked (R35), FN and load value have 48 bits, missing marks never pass the 65th, the
64th in COUNTING (R35, R51), and reserved bits read 0. -/
def Bcn.legal (b : Bcn) : Prop :=
  fld b.sts 2 0 ≤ 3 ∧
  25 ≤ fld b.period 10 0 ∧ fld b.period 10 0 ≤ 1600 ∧
  (bitAt b.ctrl 0 = true ↔ fld b.sts 2 0 = 2) ∧
  (b.locked = false ↔ fld b.sts 2 0 = 0) ∧
  b.fn.toNat < 2 ^ 48 ∧ b.armFn.toNat < 2 ^ 48 ∧
  fld b.sts 23 16 ≤ 65 ∧ (fld b.sts 2 0 = 3 → fld b.sts 23 16 ≤ 64) ∧
  b.ctrl.toNat < 2 ∧ b.period.toNat < 2 ^ 11 ∧
  fld b.sts 63 24 = 0 ∧ fld b.sts 15 14 = 0 ∧ fld b.sts 7 3 = 0

/-- Lifecycle and fuses are legal: one of the four states (R446), at most 4 returns, none in MANUFACTURE (R446), a floor of at most 32
(R439), no owner record in MANUFACTURE or RETIRED (R442, R446), a scope of three bits (R451). -/
def SecX.legal (x : SecX) : Prop :=
  x.life ≤ 3 ∧ x.returns ≤ 4 ∧ (x.life = 0 → x.returns = 0) ∧ x.floor ≤ 32 ∧
  (x.life = 0 ∨ x.life = 3 → x.owner = []) ∧ x.scope < 8

/-- A transition of the lifecycle that R446 lists, or none, with the returns used before and after. -/
def SecX.lifeEdge (a b : SecX) : Prop :=
  (b.life = a.life ∧ b.returns = a.returns) ∨
  (a.life = 0 ∧ b.life = 1 ∧ b.returns = a.returns) ∨
  (a.life = 1 ∧ b.life = 2 ∧ b.returns = a.returns) ∨
  (a.life = 2 ∧ b.life = 1 ∧ b.returns = a.returns + 1 ∧ a.returns < 4) ∨
  (a.life < 3 ∧ b.life = 3 ∧ b.returns = a.returns)

/-- What may become of the fuses, the ROM and the build: the secret, the certificates of manufacture, the ROM and the I/O die revision
stay; the floor never falls; the lifecycle moves along R446. -/
def State.fusesKept (s t : State) : Prop :=
  t.sec.secret = s.sec.secret ∧ t.sec.certs = s.sec.certs ∧ t.rom = s.rom ∧ t.iodC = s.iodC ∧
  s.sec.floor ≤ t.sec.floor ∧ SecX.lifeEdge s.sec t.sec

/-- The three byte stores are in canonical form. -/
def State.memoriesWf (s : State) : Bool := Memory.wf s.mem && Memory.wf s.hostMem && Memory.wf s.host.bar4

/-- Event counters of core c after word w of state s has completed: counter `SIG_EV` is one up modulo 2^16, the others stay. -/
def State.signalled (s t : State) (c : Nat) (w : BitVec 128) : Prop :=
  ∀ k, 1 ≤ k → k ≤ 15 → t.evCount c k = if k = wSigEv w then (s.evCount c k + 1) % 2 ^ 16 else s.evCount c k

/-- The stream of core c has a word that has not been dispatched. -/
def State.wordsLeft (s : State) (p c : Nat) : Prop :=
  ∃ e, s.streamEnt? p c = some e ∧ (s.cxOf c).pos < e.nwords

/-- Of the registers of the cores, only those of core c that `p` holds of may differ. -/
def State.coreRegsKept (s t : State) (c : Nat) (p : Nat → Prop) : Prop :=
  ∀ d off, (d ≠ c ∨ ¬ p off) → t.core d off = s.core d off

/-- No register and no record of a core but c differs. -/
def State.othersKept (s t : State) (c : Nat) : Prop :=
  ∀ d, d ≠ c → t.cxOf d = s.cxOf d ∧ ∀ off, t.core d off = s.core d off

/-- A request of kind k of core c goes out at once: a tag is free, and none has been given to it (R232). -/
def State.tagFree (s : State) (c k : Nat) : Prop :=
  s.tagReady c k = true ∧ (s.cxOf c).granted.contains k = false

/-- The flash of the run of slot p that a deadline operation counts in where it completes before that flash has begun (R41, R190). -/
def State.earlyFor (s : State) (p : Nat) (q : QWord) : List Nat :=
  q.due.toList.filter fun d => decide (s.curFlash p < d)

/-- A register that holds event counters. -/
def isEvReg (off : Nat) : Prop := ∃ a, a < 4 ∧ off = R.seqEv a

/-- Core c of the run of slot p, for which no halt waits, has reached the CTRL word q, which is due, and has words left to dispatch. -/
def State.atCtrl (s : State) (p c off : Nat) (q : QWord) (opc : Nat) : Prop :=
  s.thm.trip = false ∧ (s.slot p).ending = none ∧ s.runSlot c = some p ∧ (s.cxOf c).ctl = some q ∧ wOpc q.word = opc ∧ s.due p c off q = true ∧ s.wordsLeft p c

/-- Unit u of core c, in the run of slot p, can issue the word q of a class and opcode that heads its queue. -/
def State.canIssue (s : State) (p c off : Nat) (u : CoreUnit) (q : QWord) (cls opc : Nat) : Prop :=
  s.thm.trip = false ∧ s.runSlot c = some p ∧ ((s.cxOf c).unit u).queue.head? = some q ∧
  wClass q.word = cls ∧ wOpc q.word = opc ∧ s.due p c off q = true ∧ s.unitFree c q u = true

/-! ### The vector engine, as its statements speak of it -/

/-- Core c's own memory answers and holds no word in error. -/
def State.ownClean (s : State) (c : Nat) : Prop :=
  s.presented c = true ∧ s.dieUp (dieOf c) = true ∧ (∀ k, s.syn.get 0 k = 0) ∧ Memory.wf s.mem = true

/-- The codes of row r of plane p of operand k, as they lie in memory. -/
def VecOp.row (o : VecOp) (s : State) (k p r cols : Nat) : List Nat :=
  (List.range cols).map (elemAt (o.f k) (Memory.gets s.mem (rowDa (o.d k) p r) (rowBytes (o.f k) cols)))

/-- The values of row r of operand k, block scales applied. -/
def VecOp.vals (o : VecOp) (s : State) (k r cols : Nat) : List Num :=
  (o.row s k 0 r cols).mapIdx fun j c =>
    if (o.f k).scaled then applyScale (Memory.get s.mem ((o.d k).scaleBase + r * (o.d k).scalePitch + j / 32)).toNat ((o.f k).decode c)
    else (o.f k).decode c

/-- Those values widened into `wide`, a single column spread over its row (R145, R146). -/
def VecOp.args (o : VecOp) (s : State) (wide : Fmt) (k r : Nat) : List Num :=
  (if (vecUses (wOpc o.w) o.imm).contains (k, .column) then List.replicate o.cols ((o.vals s k r 1).headD Num.zero)
   else o.vals s k r o.cols).map (Fmt.roundNum wide .nearest 0)

/-- Memory with a row of codes in format f laid at row r of plane p of a descriptor. -/
def setRow (m : List Host.Cell) (d : Desc) (f : Fmt) (p r : Nat) (codes : List Nat) : List Host.Cell :=
  Memory.sets m (rowDa d p r) (packRow f codes (Memory.get m (rowDa d p r + rowBytes f codes.length - 1)).toNat)

/-- Memory with rows of codes laid at DST. -/
def VecOp.store (o : VecOp) (m : List Host.Cell) (rows : List (List Nat)) : List Host.Cell :=
  rows.zipIdx.foldl (fun m x => setRow m (o.d 3) (o.f 3) 0 x.2 x.1) m

/-- The draws of an operation with n of them in a row, row by row (R80). -/
def VecOp.drawsOf (s : State) (p c : Nat) (q : QWord) (rows n : Nat) : List (List Nat) :=
  chunks n (s.takeDraws p c (rows * n) q).1

/-- Rows of values converted from the computed format `comp` into that of DST by the word's mode (R77, R80). -/
def VecOp.codes (o : VecOp) (s : State) (p c : Nat) (q : QWord) (comp : Fmt) (m : List (List Num)) : List (List Nat) :=
  (m.zip (VecOp.drawsOf s p c q m.length (m.headD []).length)).map fun x =>
    (x.1.zip x.2).map fun e => ((o.f 3).round ((wRound o.w).into comp (o.f 3)) e.2 e.1).code

/-- Rows quantised block by block: scale bytes and codes of each (R71-R73). -/
def VecOp.blocks (o : VecOp) (s : State) (p c : Nat) (q : QWord) (m : List (List Num)) : List (List (Nat × List Nat)) :=
  (m.zip (VecOp.drawsOf s p c q o.rows o.cols)).map fun x =>
    ((chunks 32 x.1).zip (chunks 32 x.2)).map fun b =>
      let y := quantBlock (o.f 0) (o.f 3) (wRound o.w) b.2 b.1
      (y.1, y.2.map (·.code))

/-- Memory with quantised rows and their scale bytes laid at DST. -/
def VecOp.storeBlocks (o : VecOp) (m : List Host.Cell) (rows : List (List (Nat × List Nat))) : List Host.Cell :=
  rows.zipIdx.foldl (fun m x =>
    Memory.sets (setRow m (o.d 3) (o.f 3) 0 x.2
      (x.1.flatMap (·.2) ++ List.replicate (padCols (o.f 3) o.cols - (x.1.flatMap (·.2)).length) 0)) ((o.d 3).scaleBase + x.2 * (o.d 3).scalePitch)
      (x.1.map fun b => BitVec.ofNat 8 b.1)) m

/-- The value of a counted computation. -/
def valueOf (x : CountM α) : α := (x.run {}).1

/-- Core c's vector engine can issue q, whose descriptors o are fit and whose memory is clean. -/
def State.vecReady (s : State) (p c off : Nat) (q : QWord) (opc : Nat) (o : VecOp) : Prop :=
  s.canIssue p c off .vec q 2 opc ∧ s.ownClean c ∧
  runAcc (vecLook c q.word) (s.unitTake c .vec q) = (.ok o, s.unitTake c .vec q) ∧
  o.accepts opc = true ∧ (vecUses opc o.imm).all (o.fits c opc) = true

/-- What a vector operation leaves: its word runs, its queue is one shorter, no other core and no other register but the engine's
status and counts is touched, and beyond cores and memory nothing but the index of the free value. -/
def State.vecRan (s t : State) (c : Nat) (q : QWord) : Prop :=
  (t.cxOf c).vec = { (s.cxOf c).vec with queue := (s.cxOf c).vec.queue.drop 1, run := some q } ∧ t.vecState c = unitActive ∧
  (∀ d, d ≠ c → t.cxOf d = s.cxOf d) ∧
  s.coreRegsKept t c (fun off => off = R.vecSts ∨ off = R.vecFltCnt ∨ off = R.vecOvfCnt) ∧
  t = { s with cx := t.cx, coreR := t.coreR, mem := t.mem, syn := t.syn, free := t.free }

/-! ### The engines, as their statements speak of them -/

/-- The bits that an accumulator slot holds, 0 where none is listed. -/
def State.acbVal (s : State) (c e loc : Nat) : Nat := (Tbl.get 0 loc (s.acb.get [] (engKey c e))).toNat

/-- No slot of engine e's accumulator buffer is in error or left undefined. -/
def State.acbClean (s : State) (c e : Nat) : Prop := (s.engX c e).left = none ∧ ∀ loc, s.acbVal c e loc < 2 ^ 64

/-- `kt` elements of streamed row m of plane i of A from element k0 (R96, R112, R133). -/
def State.rowA (s : State) (o : MmulOp) (i m k0 kt : Nat) : List Elem :=
  match o.conv with
  | none => elemsOf o.fa kt (Memory.gets s.mem (rowDa o.a i m + k0 * o.fa.storeBits / 8) (rowBytes o.fa kt))
      (if o.fa.scaled then Memory.gets s.mem (o.a.scaleBase + m * o.a.scalePitch + k0 / 32) (kt / 32) else [])
  | some v => (List.range (kt / 32)).flatMap fun r =>
      let k := k0 + 32 * r
      match if k < v.k then v.runDa o.fa m (k / v.cin) (k % v.cin) else none with
      | none => List.replicate 32 Elem.pad
      | some a => elemsOf o.fa 32 (Memory.gets s.mem (a + i * o.a.planePitch) (rowBytes o.fa 32))
          (if o.fa.scaled then Memory.gets s.mem (o.a.scaleBase + (a - v.base) * 8 / (32 * o.fa.storeBits)) 1 else [])

/-- Row k of plane j of B, its first `lanes` columns (R96, R124). -/
def State.rowB (s : State) (o : MmulOp) (j k kmax : Nat) : List Elem :=
  let n := wN o.w; let cols := min n o.lanes
  (List.range n).map fun x =>
    if x < cols ∧ k < kmax then
      (elemAt o.fb (Memory.gets s.mem (rowDa o.b j k) (rowBytes o.fb cols)) x,
        if o.fb.scaled then (Memory.get s.mem (o.b.scaleBase + k / 32 * o.b.scalePitch + x)).toNat else 127)
    else Elem.pad

/-- The tiles of gang slot g, pass by pass (R105, R107). -/
def State.mmTiles (s : State) (o : MmulOp) (g : Nat) : List TileData :=
  let kt := classKt (wbits o.w 67 64)
  let kmax := match o.conv with
    | none => wT o.w * kt
    | some v => v.k
  (passesOf o.w).flatMap fun ij => ((List.range (wT o.w)).filter fun t => t % o.gang.length == g).map fun t =>
    { a := (List.range (wM o.w)).map fun m => s.rowA o ij.1 m (t * kt) kt
      b := (List.range kt).map fun k => s.rowB o ij.2 (t * kt + k) kmax }

/-- The sum of each gang slot for output (i, j): the first begins from the accumulator where the word says so (R105, R131). -/
def State.mmSums (s : State) (c : Nat) (o : MmulOp) (i j : Nat) : List Num :=
  let cls := wbits o.w 67 64
  let prior := if o.w.getLsbD 63 then
      some ((classAcc cls).decode (s.acbVal c (o.gang.getD 0 0) (acbLoc (wBank o.w) i j))) else none
  (List.range o.gang.length).map fun g =>
    (accumulate cls (if g = 0 then prior else none) ((s.mmTiles o g).map fun t => t.products o.fa o.fb i j)).1

/-- The bits that a slot stores for a value of a class. -/
def slotBits (cls : Nat) (x : Num) : Nat := acbBits (classAcc cls) ((classAcc cls).round .nearest 0 x).code % 2 ^ 64

/-- Memory after the drain of bank slots with bits `v i j` (R99, R124). -/
def State.drained (s : State) (p c : Nat) (q : QWord) (d : Desc) (f : Fmt) (lanes : Nat) (v : Nat → Nat → Nat) : List Host.Cell :=
  let w := q.word; let n := wN w; let acc := classAcc (wbits w 67 64)
  let rs := (s.takeDraws p c (wM w * n) q).1
  (List.range (wM w)).foldl (fun m i =>
    if min n lanes = 0 then m
    else setRow m d f 0 i (((List.range n).map fun j =>
      (f.round ((wRound w).into acc f) (rs.getD (i * n + j) 0) (acc.decode (v i j))).code).take lanes)) s.mem

/-- Every engine of the gang of q, in the run of slot p, can issue it, ramps that have ended being taken up. -/
def State.gangReady (s : State) (p c off : Nat) (e : Eng) (q : QWord) (opc : Nat) : Prop :=
  let u := s.settleRamps c off
  s.thm.trip = false ∧ u.runSlot c = some p ∧ (u.engX c e.val).u.queue.head? = some q ∧ wClass q.word = 1 ∧ wOpc q.word = opc ∧
  u.due p c off q = true ∧ (enginesOf (wEmask q.word) q.shift).all (fun g => u.engFree c off q (Fin.ofNat 4 g)) = true ∧
  s.ownClean c ∧ (∀ g < 4, s.acbClean c g) ∧ engFields q.word = true

/-- What an ENG word leaves apart from accumulators, cells and memory: only the core's registers and records change. -/
def State.engRan (s t : State) (c : Nat) (q : QWord) : Prop :=
  (∀ g ∈ enginesOf (wEmask q.word) q.shift, (t.engX c g).u.run = some q ∧ (t.engX c g).u.queue = (s.engX c g).u.queue.drop 1 ∧
    t.engState c g = engActive) ∧
  (∀ d, d ≠ c → t.cxOf d = s.cxOf d ∧ ∀ off, t.core d off = s.core d off) ∧
  t = { s with cx := t.cx, coreR := t.coreR, acb := t.acb, stat := t.stat, mem := t.mem, syn := t.syn }

/-! ### Streams, check unit, queue port and walker, as their statements speak of them -/

/-- No request of core c waits for a transfer tag. -/
def State.noWait (s : State) (c : Nat) : Prop := (s.cxOf c).waiting = [] ∧ (s.cxOf c).stalled = []

/-- No core has a request that waits for a transfer tag. -/
def State.noneWait (s : State) : Prop := ∀ c, s.noWait c

/-- HBM answers, with no wipe or near-bank work in progress, holds no word in error, and no line of it is cached. -/
def State.hbmClean (s : State) : Prop :=
  (∀ k < 8, s.stackUp k = true) ∧ s.kpr.reset = none ∧ s.nbu = [] ∧ (∀ k, s.syn.get 0 k = 0) ∧ s.poison = [] ∧ s.cache = [] ∧
  Memory.wf s.mem = true

/-- The `n` bytes that lie from an address on, whichever of cache and store holds them. -/
def State.seen (s : State) (da n : Nat) : List Byte := (List.range n).map fun i => BitVec.ofNat 8 (s.peek (da + i) 1)

/-- The flit in which bytes leave a chip-link port as its data flit number sq: 256 bytes of content, then number, acknowledgement of the
last flit taken, type and CRC (R326). -/
def State.dataFlitOf (s : State) (j sq : Nat) (bs : List Byte) : List Byte :=
  bs ++ zeros (256 - bs.length) ++ flitTrailer 1 sq ((s.clx j).rxSeq + 4095) (bs ++ zeros (256 - bs.length))

/-- The STR word q of an opcode heads channel ch of core c in the run of slot p, and can issue; its descriptors read `src` and `dst`. -/
def State.strReady (s : State) (p c ch off opc : Nat) (q : QWord) (src dst : Desc) : Prop :=
  s.thm.trip = false ∧ s.runSlot c = some p ∧ s.strHead c ch = some q ∧ wOpc q.word = opc ∧ s.due p c off q = true ∧
  (s.cxOf c).strRun.find? ch = none ∧ (s.cxOf c).strRev.find? ch = none ∧
  runAcc (readDesc c (wbits q.word 68 60)) (s.strTake c q) = (.ok src, s.strTake c q) ∧
  runAcc (readDesc c (wbits q.word 59 51)) (s.strTake c q) = (.ok dst, s.strTake c q)

/-- The requests of an STR word. -/
def strReqs (q : QWord) (src dst : Desc) : List Req := reqsOf q.word src dst ((fmtOf src.fmt).getD .fp32)

/-- Unit u takes q: the state that its work starts from, on clean memory of its own. -/
def State.issues (s : State) (p c off : Nat) (u : CoreUnit) (q : QWord) (cls opc : Nat) : Prop :=
  s.canIssue p c off u q cls opc ∧ s.ownClean c

/-- Row r of n FP32 elements of a descriptor, as the walker reads it. -/
def f32Row (m : List Host.Cell) (d : Desc) (r n : Nat) : List Num :=
  (List.range n).map fun j => Fmt.roundNum .fp32 .nearest 0 (Fmt.decode .fp32 (elemAt .fp32 (Memory.gets m (rowDa d 0 r) (4 * n)) j))

/-- Memory with FP32 values written at an address. -/
def setF32 (m : List Host.Cell) (da : Nat) (xs : List Num) : List Host.Cell :=
  Memory.sets m da (xs.flatMap fun x => leBytes 4 (Fmt.round .fp32 .nearest 0 x).code)

/-- Memory after MERGE of `rows` rows: O1, stats 1, O2, stats 2, O, stats are d 0 to d 5 (R187, R192). -/
def mergeMem (m : List Host.Cell) (d : Nat → Desc) (dim rows : Nat) (norm : Bool) : List Host.Cell :=
  (List.range rows).foldl (fun m r =>
    let row (k : Nat) : Acc3 :=
      { m := (f32Row m (d (k + 1)) r 2).getD 0 Num.zero, l := (f32Row m (d (k + 1)) r 2).getD 1 Num.zero, o := f32Row m (d k) r dim }
    let x := valueOf (mergeRow (row 0) (row 2))
    setF32 (setF32 m (rowDa (d 4) 0 r) (if norm then valueOf (normRow x) else x.o)) (rowDa (d 5) 0 r) [x.m, x.l]) m

/-- Memory after a MERGE that a halted walker cannot serve (R177). -/
def blankMem (m : List Host.Cell) (d : Nat → Desc) (dim rows : Nat) : List Host.Cell :=
  (List.range rows).foldl (fun m r =>
    setF32 (setF32 m (rowDa (d 4) 0 r) (List.replicate dim Num.zero)) (rowDa (d 5) 0 r) [.inf true, Num.zero]) m

/-- The engines of a walker word. -/
def walkEngs (q : QWord) : List Nat := if wAttn q.word then enginesOf (wEmask q.word) q.shift else []

/-- The state in which the units of a walker word have taken it. -/
def State.walkTake (s : State) (c off : Nat) (q : QWord) (opc : Nat) : State :=
  let t := (s.settleRamps c off).unitTake c .pgw q
  let t := if opc != 2 then t.unitTake c .vec q else t
  forEach (walkEngs q) t fun t e => t.engTake c off q e

/-- The walker word q of an opcode can issue on all its units, ramps that have ended being taken up, with no frame to release
before it. -/
def State.walkReady (s : State) (p c off : Nat) (q : QWord) (opc : Nat) : Prop :=
  let u := s.settleRamps c off
  s.thm.trip = false ∧ u.runSlot c = some p ∧ (u.cxOf c).pgw.queue.head? = some q ∧ wOpc q.word = opc ∧ u.due p c off q = true ∧
  u.unitFree c q .pgw = true ∧ (opc ≠ 2 → u.unitFree c q .vec = true) ∧
  (walkEngs q).all (fun e => u.engFree c off q (Fin.ofNat 4 e)) = true ∧
  (bitAt (s.core c R.pgwSts) 11 = true ∨ (u.cxOf c).commits.all (fun k => decide (q.rfn.toNat < k.b.toNat)) = true) ∧ s.ownClean c ∧
  u.tagFree c 2 ∧
  (bitAt (s.core c R.pgwSts) 11 = false → walkerRun c (releaseFrames c fun f => decide (f ≤ q.rfn.toNat)) u = u)

/-- Core c's own SRAM or turf slice holds the n bytes from an address. -/
def inOwn (c da n : Nat) : Prop := ∃ b, ownPart c da (da + n) = some b

/-- The entries of the walker's tables as memory holds them (R165, R166, R167). -/
def ctxAt (m : List Host.Cell) (da : Nat) : Ctx := parseCtx (leNat (Memory.gets m da 32))
def frameAt (m : List Host.Cell) (da : Nat) : Frame := parseFrame (leNat (Memory.gets m da 16))
def setCtx (m : List Host.Cell) (da : Nat) (x : Ctx) : List Host.Cell := Memory.sets m da (leBytes 32 x.word)
def setFrame (m : List Host.Cell) (da : Nat) (f : Frame) : List Host.Cell := Memory.sets m da (leBytes 16 f.word)

/-- The first n pages of a list with their frames. -/
def State.pagesAt (s : State) (c list n : Nat) : List (Page × Frame) :=
  (List.range n).map fun i =>
    let p := parsePage (leNat (Memory.gets s.mem (list + 8 * i) 8))
    (p, frameAt s.mem (s.frameDa c p.frame))

/-- The tables that name those pages lie in core c's own memory. -/
def State.pagesOwn (s : State) (c list n : Nat) : Prop :=
  ∀ i < n, inOwn c (list + 8 * i) 8 ∧ inOwn c (s.frameDa c (parsePage (leNat (Memory.gets s.mem (list + 8 * i) 8))).frame) 16

/-- The context that an entry of a list names is n: by its field, or by its lane of the cord that the core has latched (R173). -/
def State.names (s : State) (c : Nat) (l : WList) (e : WEnt) (n : Nat) : Prop :=
  (e.lsrc = false ∧ n = e.ctx) ∨
  (e.lsrc = true ∧ l.cqEn = true ∧ ∃ k y, (s.cxOf c).cords.find? l.cq = some k ∧ k.lanes[e.lane]? = some y ∧ n = y.ctx)

/-- The entry names a lane that no entry fills (R173, R175). -/
def State.unfilled (s : State) (c : Nat) (l : WList) (e : WEnt) : Prop :=
  e.lsrc = true ∧ l.cqEn = true ∧ ∀ k, (s.cxOf c).cords.find? l.cq = some k → k.lanes[e.lane]? = none

/-- The word q latches the entry e: its context n is LIVE, with these pages, all IN_USE, and no case of R175 holds. -/
def State.latches (s : State) (c : Nat) (q : QWord) (l : WList) (e : WEnt) (n : Nat) (x : Ctx) (ps : List (Page × Frame)) : Prop :=
  s.names c l e n ∧ inOwn c (s.ctxDa c n) 32 ∧ x = ctxAt s.mem (s.ctxDa c n) ∧ x.st = 1 ∧ s.pagesOwn c x.list x.npages ∧
  ps = s.pagesAt c x.list x.npages ∧ (∀ p ∈ ps, p.2.st = 2) ∧ e.ntok * wShare q.word ≤ 32 ∧ e.cmax ≠ 0 ∧
  (wAttn q.word = true → (chunksOf ps).length ≤ e.cmax ∧ e.ntok ≤ nextPos ps)

/-- Both vectors of token slot t of a frame lie in core c's own memory. -/
def slotOwn (c : Nat) (g : Geom) (f : Frame) (h t : Nat) : Prop :=
  ∀ k < 2, inOwn c (kvDa g f k h t).1 g.e ∧ inOwn c (kvDa g f k h t).2 g.c

/-- Row r of an operand, widened to FP32 (R180, R185). -/
def walkVals (m : List Host.Cell) (d : Desc) (f : Fmt) (r n : Nat) : List Num :=
  (List.range n).map fun j =>
    let x := f.decode (elemAt f (Memory.gets m (rowDa d 0 r) (rowBytes f n)) j)
    Fmt.roundNum .fp32 .nearest 0 (if f.scaled then applyScale (Memory.get m (d.scaleBase + r * d.scalePitch + j / 32)).toNat x else x)

/-- A stored vector, dequantised (R70). -/
def kvVals (m : List Host.Cell) (g : Geom) (f : Frame) (kind h t : Nat) : List Num :=
  (List.range g.d).map fun j => applyScale (Memory.get m ((kvDa g f kind h t).2 + j / 32)).toNat
    (g.fmt.decode (elemAt g.fmt (Memory.gets m (kvDa g f kind h t).1 g.e) j))

/-- Memory with a vector quantised into a token slot, element codes and block scales (R71-R73, R164, R180). -/
def kvPut (m : List Host.Cell) (g : Geom) (f : Frame) (kind h t : Nat) (src : Fmt) (mode : Rnd) (ds : List Nat)
    (xs : List Num) : List Host.Cell :=
  let bs := ((chunks 32 xs).zip (chunks 32 ds)).map fun x => quantBlock src g.fmt mode x.2 x.1
  Memory.sets (Memory.sets m (kvDa g f kind h t).1 (packRow g.fmt (bs.flatMap fun x => x.2.map (·.code)) 0)) (kvDa g f kind h t).2
    (bs.map fun x => BitVec.ofNat 8 x.1)

/-- Memory after key and value of token i of an entry have been written to slot t of a frame (R180), with the draws of its two rows. -/
def tokenMem (g : Geom) (q : QWord) (o : AppOp) (e : WEnt) (ds : List (List Nat)) (i : Nat) (f : Frame) (t : Nat)
    (m : List Host.Cell) : List Host.Cell :=
  let h := wSlot q.word
  let m1 := kvPut m g f 0 h t o.fk (wRound q.word) (ds.getD (2 * i) []) (walkVals m o.kd o.fk (e.qrow + i) g.d)
  kvPut m1 g f 1 h t o.fv (wRound q.word) (ds.getD (2 * i + 1) []) (walkVals m1 o.vd o.fv (e.qrow + i) g.d)

/-- Memory after the tokens of an entry have been appended to the frame f of its last page: keys and values in the next slots, `FILL`
after each, at the end the entry of context n (R178-R180). -/
def State.appendMem (s : State) (p c : Nat) (q : QWord) (o : AppOp) (e : WEnt) (n : Nat) (m : List Host.Cell) (fda : Nat)
    (f : Frame) (x : Ctx) : List Host.Cell :=
  let ds := VecOp.drawsOf s p c q (2 * e.ntok) (s.geom c).d
  setCtx ((List.range e.ntok).foldl (fun m i =>
    setFrame (tokenMem (s.geom c) q o e ds i f (f.fill + i) m) fda { f with fill := f.fill + i + 1 }) m) (s.ctxDa c n) { x with last := e.ntok }

/-- The token slots of a list of pages, in order. -/
def tokenSlots (ps : List (Page × Frame)) : List (Frame × Nat) := ps.flatMap fun y => (List.range y.2.fill).map fun t => (y.2, t)

/-- Memory after an APPEND without reservation has rewritten slots (R178, R179). -/
def State.rewriteMem (s : State) (p c : Nat) (q : QWord) (o : AppOp) (e : WEnt) (slots : List (Frame × Nat)) :
    List Host.Cell :=
  let ds := VecOp.drawsOf s p c q (2 * slots.length) (s.geom c).d
  slots.zipIdx.foldl (fun m y => tokenMem (s.geom c) q o e ds y.2 y.1.1 y.1.2 m) s.mem

/-- Memory with the filled token slots of one frame copied to another of its class, every head slot's keys and values (R171). -/
def copySlots (g : Geom) (old new : Frame) (m : List Host.Cell) : List Host.Cell :=
  ((List.range g.hs).flatMap fun h => [0, 1].flatMap fun k => (List.range old.fill).map fun t => (h, k, t)).foldl (fun m y =>
    let a := kvDa g old y.2.1 y.1 y.2.2
    let b := kvDa g new y.2.1 y.1 y.2.2
    let m := Memory.sets m b.1 (Memory.gets m a.1 g.e)
    Memory.sets m b.2 (Memory.gets m a.2 g.c)) m

/-- The scaled and masked scores of a chunk, for each of its tokens a row over the queries (R185-R187). -/
def chunkRow (x : CoreX) (m : List Host.Cell) (g : Geom) (q : QWord) (scale : Num) (e : WEnt) (next : Nat)
    (qs : List (List Num)) (k : (Page × Frame) × (Nat × Nat)) : List (List Num) :=
  let ts := (List.range k.2.2).map (k.2.1 + ·)
  let dots := ts.map fun t => qs.map fun v => (dot32 (stageRotated x g.d (k.1.1.pos + t) (kvVals m g k.1.2 0 (wSlot q.word) t)) v).1
  valueOf <| (ts.zip dots).mapM fun y => y.2.zipIdx.mapM fun z =>
    if k.1.1.pos + y.1 + e.ntok ≤ next + z.2 / wGq q.word then mul32c z.1 scale else return .inf true

/-- The queries of an entry, rotated (R183, R185). -/
def rotatedRows (x : CoreX) (m : List Host.Cell) (g : Geom) (q : QWord) (o : AttnOp) (e : WEnt) (next : Nat) :
    List (List Num) :=
  (List.range (e.ntok * wGq q.word)).map fun r =>
    stageRotated x g.d (next - e.ntok + r / wGq q.word) (walkVals m o.qd o.fq (e.qrow + r) g.d)

/-- The rows (m, l, O) of an ATTN entry after all its chunks, in page order (R184, R187). -/
def attnRows (x : CoreX) (m : List Host.Cell) (g : Geom) (q : QWord) (o : AttnOp) (scale : Num) (e : WEnt)
    (ps : List (Page × Frame)) : List Acc3 :=
  let next := nextPos ps
  let qs := rotatedRows x m g q o e next
  (chunksOf ps).foldl (fun rows k =>
    let sc := chunkRow x m g q scale e next qs k
    let w := valueOf <| (List.range rows.length).mapM fun r => do
      let s := colOf sc r
      let mc ← rmax s
      let p ← s.mapM fun y => do
        if isNegInf y then return Num.zero
        return Fmt.roundNum .bf16 .nearest 0 (← exp32 (← sub32c y mc))
      return (mc, ← rsum p, p)
    let vs := (List.range k.2.2).map fun t => (kvVals m g k.1.2 1 (wSlot q.word) (k.2.1 + t)).map (Fmt.roundNum .bf16 .nearest 0)
    let oc := (List.range g.d).map fun j => w.map fun p => (dot32 (colOf vs j) p.2.2).1
    valueOf <| (rows.zip w).zipIdx.mapM fun y => mergeRow y.1.1 { m := y.1.2.1, l := y.1.2.2.1, o := colOf oc y.2 })
    (qs.map fun _ => { m := .inf true, l := Num.zero, o := List.replicate g.d Num.zero })

/-- Memory with the output rows of an ATTN entry laid from row `orow` on, and with STAT their statistics (R182, R187, R191). -/
def State.attnMem (s : State) (p c : Nat) (q : QWord) (o : AttnOp) (e : WEnt) (m : List Host.Cell) (rows : List Acc3) :
    List Host.Cell :=
  let g := s.geom c
  let ys := if wNorm q.word then valueOf (rows.mapM normRow) else rows.map (·.o)
  let ds := VecOp.drawsOf s p c q rows.length g.d
  let m := (ys.zip ds).zipIdx.foldl (fun m y => setRow m o.od o.fo 0 (e.orow + y.2)
    ((y.1.1.zip y.1.2).map fun z => (o.fo.round ((wRound q.word).into .fp32 o.fo) z.2 z.1).code)) m
  if wStat q.word then rows.zipIdx.foldl (fun m y => setF32 m (rowDa o.sd 0 (e.orow + y.2)) [y.1.m, y.1.l]) m else m

/-- The weights that a SCORES entry writes for each of its queries, over all its tokens (R193). -/
def scoreRows (x : CoreX) (m : List Host.Cell) (g : Geom) (q : QWord) (o : AttnOp) (scale : Num) (e : WEnt)
    (ps : List (Page × Frame)) : List (List Num) :=
  let next := nextPos ps
  let qs := rotatedRows x m g q o e next
  let stats := (List.range qs.length).map fun r =>
    let b := Memory.gets m (rowDa o.sd 0 (e.orow + r)) 8
    (Fmt.decode .fp32 (leAt b 0 4), Fmt.decode .fp32 (leAt b 4 4))
  let ws := (chunksOf ps).map fun k => valueOf (weights stats (chunkRow x m g q scale e next qs k))
  (List.range qs.length).map fun r => ws.flatMap fun w => colOf w r

/-- The sums that a SCORES entry of mode 1 writes for each of its queries: one a page, of that page's weights in token order (R193). -/
def scoreSums (x : CoreX) (m : List Host.Cell) (g : Geom) (q : QWord) (o : AttnOp) (scale : Num) (e : WEnt)
    (ps : List (Page × Frame)) : List (List Num) :=
  let next := nextPos ps
  let qs := rotatedRows x m g q o e next
  let stats := (List.range qs.length).map fun r =>
    let b := Memory.gets m (rowDa o.sd 0 (e.orow + r)) 8
    (Fmt.decode .fp32 (leAt b 0 4), Fmt.decode .fp32 (leAt b 4 4))
  (List.range qs.length).map fun r => valueOf <| ps.mapM fun pg =>
    ((pageChunks pg).flatMap fun k => colOf (valueOf (weights stats (chunkRow x m g q scale e next qs (pg, k)))) r).foldlM add32c Num.zero

/-- Memory m as it is after the staging area of core c has been written with values that are not defined. -/
def State.staged (s : State) (c : Nat) (m : List Host.Cell) : Prop :=
  let a := sramOf c + fld (s.core c R.pgwRamBase) 22 0
  Memory.wf m = true ∧ ∀ y, y < a ∨ a + stageLen ≤ y → Memory.get m y = Memory.get s.mem y

/-- Status word k of context n, in HBM that is clean, holds the largest of what it held and `v` where `on` (R200). -/
def State.statusKept (s t : State) (c n k v : Nat) (on : Prop) [Decidable on] : Prop :=
  let da := fld (s.core c R.pgwCstatBase) 47 0 + n * 16 + 8 * k
  let old := leNat (s.seen da 8)
  t.seen da 8 = leBytes 8 (if on then (if signed 64 old < signed 64 v then v else old) else old)

/-- Frames that leave a list one by one: a frame that no other list holds is PINNED until RFN `free` (R170, R198). The largest release RFN. -/
def State.droppedFrames (s : State) (c free : Nat) (fs : List Nat) (m : List Host.Cell) : List Host.Cell × Nat :=
  fs.foldl (fun x f =>
    let y := frameAt x.1 (s.frameDa c f)
    if y.ref ≤ 1 then (setFrame x.1 (s.frameDa c f) { y with ref := 0, st := 3, free := free }, max x.2 free)
    else (setFrame x.1 (s.frameDa c f) { y with ref := y.ref - 1 }, x.2)) (m, 0)

/-- What one edit record of core c that succeeds does to memory: memory after it, the largest release RFN that it sets, and how many frames
it takes, with frames released at `free` (R195, R198, R199). -/
def State.edits (s : State) (c free : Nat) (e : Edit) (m : List Host.Cell) (mx n : Nat) : Prop :=
  let da := s.ctxDa c e.ctx
  let x := ctxAt s.mem da
  let ps := s.pagesAt c x.list x.npages
  let old := ps.map (·.1.frame)
  let known := inOwn c da 32
  let listed := known ∧ e.gen = x.gen ∧ s.pagesOwn c x.list x.npages
  let g := s.geom c
  let z := bits e.b 3 0
  let k := bits e.b 47 32 + 1
  let head := (s.cxOf c).poolHead.get 0 z
  (e.op = 3 ∧ known ∧ x.st = 1 ∧ (m, mx, n) = (setCtx s.mem da { x with st := 2 }, 0, 0)) ∨
  (e.op = 4 ∧ known ∧ x.st = 2 ∧ (m, mx, n) = (setCtx s.mem da { x with st := 1 }, 0, 0)) ∨
  (e.op = 2 ∧ listed ∧
    let d := s.droppedFrames c free old s.mem
    (m, mx, n) = (setCtx d.1 da { x with gen := x.gen + 1, npages := 0, st := 0 }, d.2, 0)) ∨
  (e.op = 1 ∧ listed ∧ x.st ≠ 1 ∧
    let list := bits e.a 47 0; let np := bits e.b 63 51; let cap := bits e.b 50 38; let gr := bits e.b 37 34
    list % 8 = 0 ∧ ownPart c list (list + 8 * cap) = some false ∧ 1 ≤ cap ∧ cap ≤ 4096 ∧ np ≤ cap ∧ gr ≤ 9 ∧ s.pagesOwn c list np ∧
    let qs := s.pagesAt c list np
    let fs := qs.map (·.1.frame)
    fs.Nodup ∧ (∀ y ∈ qs, y.2.st = 2 ∧ y.1.pos + slotsOf y.2.sz ≤ 2 ^ 24 ∧ (y.1.frame ∈ old ∨ y.2.ref < 65535)) ∧
    let up := (fs.filter fun f => !old.contains f).foldl (fun m f =>
      let y := frameAt m (s.frameDa c f)
      setFrame m (s.frameDa c f) { y with ref := y.ref + 1 }) s.mem
    let d := s.droppedFrames c free (old.filter fun f => !fs.contains f) up
    (m, mx, n) = (setCtx d.1 da { x with
      gen := x.gen + 1, list := list, npages := np, cap := cap, grow := gr, st := if x.st = 2 then 2 else 1 }, d.2, 0)) ∨
  (e.op = 5 ∧ listed ∧ x.st = 2 ∧ ∃ p, ps.getLast? = some p ∧
    let w := bits e.a 23 0
    ((0 < w ∧ w < p.2.fill ∧ p.2.ref = 1 ∧
        (m, mx, n) = (setCtx (setFrame s.mem (s.frameDa c p.1.frame) { p.2 with fill := p.2.fill - w }) da { x with gen := x.gen + 1 }, 0, 0)) ∨
      (0 < w ∧ w = p.2.fill ∧
        let d := s.droppedFrames c free [p.1.frame] s.mem
        (m, mx, n) = (setCtx d.1 da { x with gen := x.gen + 1, npages := x.npages - 1 }, d.2, 0)))) ∨
  (e.op = 6 ∧ z ≤ 9 ∧ s.poolCnt c z + k ≤ 65536 ∧
    let n0 := bits e.b 63 48
    let at_ (i : Nat) := bits e.a 47 0 + i * frameLen g z
    let slot (i : Nat) := s.poolDa c z (head + s.poolCnt c z + i)
    (∀ i < k, n0 + i < s.frames c ∧ inOwn c (s.frameDa c (n0 + i)) 16 ∧ inOwn c (slot i) 2 ∧
      (frameAt s.mem (s.frameDa c (n0 + i))).st = 0 ∧ framePlace c g z (at_ i) = true) ∧
    (m, mx, n) = ((List.range k).foldl (fun m i => Memory.sets
      (setFrame m (s.frameDa c (n0 + i)) { addr := at_ i / 64, sz := z, st := 1, ref := 0, fill := 0, free := 0 }) (slot i)
      (leBytes 2 (n0 + i))) s.mem, 0, 0)) ∨
  (e.op = 7 ∧ z ≤ 9 ∧ k ≤ s.poolCnt c z ∧
    let f (i : Nat) := leNat (Memory.gets s.mem (s.poolDa c z (head + i)) 2)
    (∀ i < k, inOwn c (s.poolDa c z (head + i)) 2 ∧ inOwn c (s.frameDa c (f i)) 16) ∧
    (m, mx, n) = ((List.range k).foldl (fun m i => let y := frameAt m (s.frameDa c (f i)); setFrame m (s.frameDa c (f i)) { y with st := 0 })
      s.mem, 0, k)) ∨
  (e.op = 8 ∧ z ≤ 9 ∧ (m, mx, n) = (s.mem, 0, 0))

/-! ### Memory, the host port and the Keeper, as their statements speak of them -/

/-- A scrubber has read the eight words at a: a correctable one holds its corrected data and no error, every other byte and every
other word's state of error is as before (R296). -/
def State.scrubbed (s t : State) (a : Nat) : Prop :=
  (∀ j < 8, let x := checkWord (s.rawWord (a + 8 * j)) (s.syn.get 0 ((a + 8 * j) / 8))
    (x.ue = false → x.ce = true → t.rawWord (a + 8 * j) = x.data ∧ t.syn.get 0 ((a + 8 * j) / 8) = 0) ∧
    (x.ue = true ∨ x.ce = false → t.rawWord (a + 8 * j) = s.rawWord (a + 8 * j) ∧
      t.syn.get 0 ((a + 8 * j) / 8) = s.syn.get 0 ((a + 8 * j) / 8))) ∧
  (∀ y, y < a ∨ a + 64 ≤ y → Memory.get t.mem y = Memory.get s.mem y) ∧
  (∀ k, k < a / 8 ∨ a / 8 + 8 ≤ k → t.syn.get 0 k = s.syn.get 0 k)

/-- A failed host access is recorded: in `HOST_ERR` where that is free, else in the event log (R354). -/
def State.hostErrs (s t : State) (cause bar addr : Nat) : Prop :=
  if bitAt s.host.err 63 then t.host.err = s.host.err ∧ t.kpr.logSeq = s.kpr.logSeq + 1
  else t.host.err = BitVec.ofNat 64 (2 ^ 63 + cause * 2 ^ 56 + bar * 2 ^ 52 + addr % 2 ^ 48) ∧ t.kpr.logSeq = s.kpr.logSeq

/-- Of a host access to `da` that came too late the log entry, where `HOST_ERR` holds an error already, is consequent on the latest loss
reported of a part that the access crosses (R332). -/
def State.lateEntry (s t : State) (da : Nat) : Prop :=
  let low := s.lowerCause (s.hostParts da)
  bitAt s.host.err 63 = true → ∃ e, t.kpr.log.getLast? = some e ∧ e.type = 0x73 ∧ e.conseq = low.isSome ∧ e.primary = low.getD 0

/-- Every cache line holds 256 bytes. -/
def State.linesWhole (s : State) : Bool := s.cache.all fun e => e.2.data.length == 256

/-! ### The mailbox -/

/-- The Keeper, RUNNING, can take ring entry m, and the entry is in order for an opcode: its length, reserved bits and the bytes of
`ARGS` outside the named fields (R357, R361, R363). -/
def State.asked (s : State) (op len : Nat) (used : List (Nat × Nat)) (m : Mbox) : Prop :=
  s.takes op m = true ∧ s.kprState = 2 ∧ m.len.toNat = len ∧ m.rsv = 0 ∧ m.flags.toNat < 4 ∧ argsDirty m.args used = false

/-- The ring entry that is taken next has no command open. -/
def State.freshIdx (s : State) (m : Mbox) : Prop :=
  ∀ d ∈ s.kpr.accepted, ¬ (d.ring = m.ring.val ∧ d.idx = (s.crReg m.ring.val 3).toNat)

/-- `HOST_CMDr_HEAD` of the ring of m has advanced, and the entry lies in its place of BAR4 (R355, R357). -/
def State.headMoved (s t : State) (op : Nat) (m : Mbox) : Prop :=
  t.crReg m.ring.val 3 = BitVec.ofNat 64 (((s.crReg m.ring.val 3).toNat + 1) % 2 ^ 32) ∧
  t.host.bar4 = Memory.sets s.host.bar4 (m.ring.val * 0x4000 + (s.crReg m.ring.val 3).toNat % 256 * 64) (entryBytes op m)

/-- The completion of the command of entry m, taken in s, with status, detail and result (R356, R358). -/
def State.complOf (s t : State) (op : Nat) (m : Mbox) (st det : Nat) (res : List Byte) : Compl :=
  { ring := m.ring.val, tag := m.tag, opcode := op, noint := m.flags.getLsbD 0, status := st, detail := det, acc := s.fnWord,
    done := t.fnWord, result := res }

/-- The command of entry m is taken in s and has completed in t, as the last completion that waits; it is not open. -/
def State.replied (s t : State) (op : Nat) (m : Mbox) (st det : Nat) (res : List Byte) : Prop :=
  s.headMoved t op m ∧ t.kpr.done = s.kpr.done ++ [s.complOf t op m st det res] ∧
  (s.freshIdx m → t.kpr.accepted = s.kpr.accepted)

/-- The state in which the body of a command starts, and the command. -/
def State.begun (s : State) (op : Nat) (m : Mbox) : State := (s.taken op m).2
def State.cmdOf (s : State) (op : Nat) (m : Mbox) : Cmd := (s.taken op m).1

/-- A taken command that only answers changes nothing but the host port's records and the Keeper's. -/
def State.onlyAnswers (s t : State) : Prop := t = { s with host := t.host, kpr := t.kpr }

/-! ### Links -/

/-- A lost part has been reported: the entry that later failures of it name is the next of the log, and the FAULT cause is set (R332,
R351). Parts are numbered: connections, dies from 100 (I/O dies from 132), chip-link ports from 200. -/
def State.faultShown (s t : State) (part : Option Nat) : Prop :=
  (∀ k, part = some k → t.kpr.failSeq.find? k = some s.kpr.logSeq) ∧ bitAt t.host.intSts intFault = true ∧ s.kpr.logSeq < t.kpr.logSeq

/-- The runs that `f` holds of halt no later than the flash after this one and are silent from this flash on; one that is STARTING,
and stays so, with its flash 0 (R337; of a start, log entry 101). -/
def State.runsHalt (s t : State) (f : Nat → Bool) : Prop :=
  let ends (p n k : Nat) : Prop :=
    (∃ m c, (t.slot p).halt = some (m, c) ∧ m.toNat ≤ n) ∧ ∃ m, (t.slot p).mute = some m ∧ m.toNat ≤ k
  ∀ p < 8, f p = true → (s.slotState p = 3 → ends p (s.curRfn p + 1) (s.curRfn p)) ∧
    (s.slotState p = 2 → t.slotState p = 2 → ends p 0 0)

/-- No run is STARTING. -/
def State.noneStarting (s : State) : Prop := ∀ p < 8, s.slotState p ≠ 2

/-- Connection c is DOWN at both ends, reported, and the runs that use it halt (R320, R337). -/
def State.connDown (s t : State) (c : Nat) : Prop :=
  (∀ e ∈ connEnds c, t.portState e = portDown) ∧ s.faultShown t (some c) ∧ s.runsHalt t (fun p => s.usesConn p (· == c))

/-- Chip-link port j has left service for state v: its buoy is low, it names no partner, the loss is reported, and the runs that use it
halt (R330, R337). -/
def State.linkGone (s t : State) (j v : Nat) : Prop :=
  t.lnkState j = v ∧ bitAt t.host.buoy1 j = false ∧ t.lnk j 0x10 = 0 ∧ s.faultShown t (some (200 + j)) ∧ s.runsHalt t (fun p => s.usesLink p j)

/-- Data flits leave a die-to-die end for the first time: each takes the next number, and the replay buffer keeps the last 64 (R317, R318). -/
def numbered (x : D2dX) (sent : List (List Byte)) : D2dX :=
  sent.foldl (fun x data => { x with
    txSeq := (x.txSeq + 1) % 4096, replay := (x.replay ++ [((x.txSeq : Nat), data)]).drop (x.replay.length + 1 - 64) }) x

/-- The state once the data flits that the end across from e has sent to it are numbered. -/
def State.sentTo (s : State) (e : PortAt) (sent : List (List Byte)) : State :=
  match e.other with
  | some o => if s.portData e then forEach sent s fun t d => t.updLink o (numbered · [d]) else s
  | none => s

/-- Port j has sent, after the flits before, one of a type that names number a: 256 bytes of any content, its trailer and CRC (R326). -/
def State.sentFlit (s t : State) (j ty a : Nat) : Prop :=
  ∃ content, content.length = 256 ∧ (t.clx j).flits = (s.clx j).flits ++ [content ++ flitTrailer ty (s.clx j).txSeq a content]

/-- Of the flits that port j sends again, those up to number a are acknowledged (R326). -/
def State.ackedTo (s t : State) (j a : Nat) : Prop :=
  ∀ f, f ∈ (t.clx j).resent ↔ f ∈ (s.clx j).resent ∧ 2048 ≤ (a + 4096 - f.1) % 4096

/-! ### Heat, power and identity, as their statements speak of them -/

/-- Only what the Keeper and the pins show of heat may differ: `COOL_REQ` with its field, `SMB_ALERT_L`. -/
def State.onlyPins (s t : State) : Prop := t = { s with pins := t.pins, iodR := t.iodR } ∧
  ∀ i off, ¬ (i = 0 ∧ off = R.thmFlow) → t.iod i off = s.iod i off

/-- Every register and memory at its reset value, power away, fuses and flash as they were (R370). -/
def State.dark (s t : State) : Prop :=
  t.powered = false ∧ t.bcn = {} ∧ t.coreR = [] ∧ t.cx = [] ∧ t.acb = [] ∧ t.dieR = [] ∧ t.slots = [] ∧ t.mem = [] ∧ t.syn = [] ∧
  t.poison = [] ∧ t.cache = [] ∧ t.host = {} ∧ t.kpr = {} ∧ t.nbu = [] ∧ t.d2d = [] ∧ t.cl = [] ∧ t.thm = { life := s.thm.life } ∧
  t.sec.life = s.sec.life ∧ t.sec.secret = s.sec.secret ∧ t.sec.floor = s.sec.floor ∧ t.sec.owner = s.sec.owner ∧
  t.sec.flash = s.sec.flash ∧ t.sec.certs = s.sec.certs ∧ t.sec.scope = 0 ∧ t.sec.fwDigest = [] ∧ t.hostMem = s.hostMem ∧ t.pending = s.pending

/-- A reset of a code has begun: its record, mailbox and memories closed, every connection held in RESET and no idle report left where
the fabric domain is in scope (R387, R388, R309, R393). -/
def State.resetBegun (t : State) (code : Nat) (cmd : Option Cmd) (dies : BitVec 32) : Prop :=
  (∃ r, t.kpr.reset = some r ∧ r.code = code ∧ r.cmd = cmd ∧ r.dies = dies ∧ r.again = false) ∧
  t.kpr.rstLast = BitVec.ofNat 64 (code * 2 ^ 60 + 2 ^ 59) ∧ t.mboxUp = false ∧
  (∀ d < 32, dies.getLsbD d = true → t.dieUp d = false) ∧ (∀ c < 512, dies.getLsbD (dieOf c) = true → t.coreState c = 0 ∧ t.cxOf c = {}) ∧
  (code ≠ rstPart → (∀ k < 68, ∀ x ∈ connEnds k, t.portState x = portReset) ∧
    ∀ d < 32, t.die d R.d2dDieSts = if t.fenced d then 1 else 0)

/-! ### Commands of the Keeper, as their statements speak of them -/

/-- The command i with entry m is answered at once, and changes nothing else. -/
def State.answered (s : State) (i : Instr) (op : Nat) (m : Mbox) (st det : Nat) (res : List Byte) : Prop :=
  ∃ t, exec i s = .next t ∧ s.replied t op m st det res ∧ s.onlyAnswers t

/-- The command i with entry m stays open, the last of those accepted; what it still needs is noted. -/
def State.opened (s t : State) (op : Nat) (m : Mbox) (note : Nat) : Prop :=
  s.headMoved t op m ∧ t.kpr.accepted = s.kpr.accepted ++ [{ s.cmdOf op m with note := note }]

/-- The command i with entry m writes bytes to the buffer of its argument and completes: with a result where the write succeeded. -/
def State.gives (s : State) (i : Instr) (op : Nat) (m : Mbox) (buf : Nat) (bytes res : List Byte) : Prop :=
  ∀ st u, (s.begun op m).bufWrite buf bytes = (st, u) → ∃ t x, exec i s = .next t ∧ t.mem = u.mem ∧ t.cache = u.cache ∧
    t.hostMem = u.hostMem ∧ s.headMoved t op m ∧ t.kpr.done = u.kpr.done ++ [x] ∧ x.tag = m.tag ∧ x.ring = m.ring.val ∧
    x.opcode = op ∧ x.status = st ∧ x.result = if st = Sts.ok then res else []

/-- The commands of the mailbox with an entry m: opcode, `LEN` and the bytes of `ARGS` that each names (R364). -/
def mailRows (m : Mbox) : List (Instr × Nat × Nat × List (Nat × Nat)) :=
  [(.infoVersion m, Op.infoVersion, 0, []), (.infoDevice m, Op.infoDevice, 0, []), (.infoMap m, Op.infoMap, 16, [(0, 12)]),
    (.resetWarm m, Op.resetWarm, 0, []), (.resetCompute m, Op.resetCompute, 0, []), (.resetPartition m, Op.resetPartition, 8, [(0, 1)]),
    (.schedLoad m, Op.schedLoad, 24, [(0, 1), (8, 16)]), (.schedUnload m, Op.schedUnload, 8, [(0, 1)])] ++
  [(.schedInfo m, Op.schedInfo, 8, [(0, 1)]), (.bcnSetPeriod m, Op.bcnSetPeriod, 8, [(0, 2)]), (.bcnArm m, Op.bcnArm, 8, [(0, 8)]),
    (.bcnDisarm m, Op.bcnDisarm, 0, []), (.runStart m, Op.runStart, 32, [(0, 2), (8, 24)]),
    (.runStop m, Op.runStop, 16, [(0, 2), (8, 8)]), (.queueBind m, Op.queueBind, 16, [(0, 4), (8, 8)]),
    (.queueUnbind m, Op.queueUnbind, 8, [(0, 2)]), (.coreTrapClear m, Op.coreTrapClear, 8, [(0, 2)])] ++
  [(.pageCommit m, Op.pageCommit, 32, [(0, 4), (8, 24)]), (.pageRead m, Op.pageRead, 8, [(0, 4)]),
    (.memStage m, Op.memStage, 16, [(0, 12)]), (.memAtomic m, Op.memAtomic, 32, [(0, 2), (8, 24)]),
    (.regGrant m, Op.regGrant, 16, [(0, 13)]), (.nbuRun m, Op.nbuRun, 24, [(0, 10), (16, 8)]),
    (.nbuRawRun m, Op.nbuRawRun, 24, [(0, 10), (16, 8)]), (.nbuFence m, Op.nbuFence, 16, [(0, 16)]),
    (.nbuRegion m, Op.nbuRegion, 16, [(0, 3), (4, 8)])] ++
  [(.thmRead m, Op.thmRead, 16, [(0, 12)]), (.thmCoolMin m, Op.thmCoolMin, 8, [(0, 1)]), (.lnkTarget m, Op.lnkTarget, 8, [(0, 2)]),
    (.lnkRetrain m, Op.lnkRetrain, 8, [(0, 1)]), (.ageRead m, Op.ageRead, 16, [(0, 12)]), (.ageMeasure m, Op.ageMeasure, 0, []),
    (.secAttest m, Op.secAttest, 48, [(0, 44)]), (.secCert m, Op.secCert, 16, [(0, 12)]),
    (.secOwnerKey m, Op.secOwnerKey, 16, [(0, 12)]), (.secLifecycle m, Op.secLifecycle, 16, [(0, 1), (8, 8)])] ++
  [(.secDebugUnlock m, Op.secDebugUnlock, 8, [(0, 8)]), (.fwUpdate m, Op.fwUpdate, 16, [(0, 12)]),
    (.fwRecover m, Op.fwRecover, 16, [(0, 13)]), (.logBind m, Op.logBind, 16, [(0, 9)]),
    (.logEccRead m, Op.logEccRead, 16, [(0, 2), (8, 8)]), (.logEccClear m, Op.logEccClear, 16, [(0, 2), (8, 4)])]

/-- Only what heat shows on pins, and an answer, may differ. -/
def State.onlyAnswersPins (s t : State) : Prop := ∃ u, s.onlyAnswers u ∧ u.onlyPins t

end Sys2Proof.Machine
end

