-- ==== Sys2Proof/Certificates/Slice0/Obligations.lean ====
section
/-!
DEFINITION. The statements for the provers. Each docstring says what its Lean says; OBLIGATIONS.json names the rules.
-/

open Sys2Proof Sys2Proof.Machine

/-- A step runs the command at the front of the queue on the rest of it. For every command c at the front of the queue of a state,
the step is exec of c on the state with the queue's rest. On an empty queue the block idles but for the end of a run that a halt
left without a mark (log entry 1, the model's choice). -/
def Obligations.StepRunsFrontCommand : Prop :=
  ∀ (c : Instr) (cs : List Instr) (s : State),
    step { s with pending := c :: cs } = exec c { s with pending := cs } ∧
    step { s with pending := [] } = .next ({ s with pending := [] } : State).endHalted

/-- No command stops the block, and none touches the queue. For every command and every state, exec answers a next state, whose
queue of waiting commands is the one it was given (log entries 2 and 8, the model's choice: the manual knows no state in which
the block stops). -/
def Obligations.EveryCommandCompletes : Prop :=
  ∀ (c : Instr) (s : State), ∃ t, exec c s = .next t ∧ t.pending = s.pending

/-- Values of registers and memory after reset. At reset the Beacon logic is in NO_CLOCK with period 100 (1 µs), every other Beacon
register 0, and the interrupt mask has its nine bits set; SEQ_ID shows core, die and local number, ENG_ID core and engine,
ENG_CTRL has KND_EN alone, the scrub rates are 433 and 1,629, and every byte of memory reads 0 (the last by log entry 5, the
model's choice). -/
def Obligations.ResetValues : Prop :=
  State.reset.bcnState = 0 ∧ State.reset.period = 100 ∧ State.reset.bcn.period = 100#64 ∧ State.reset.bcn.ctrl = 0#64 ∧
    State.reset.bcn.sts = 0#64 ∧ State.reset.bcn.fn = 0#64 ∧ State.reset.bcn.armFn = 0#64 ∧ State.reset.bcn.occCnt = 0#64 ∧
    State.reset.bcn.lastOcc = 0#64 ∧ State.reset.bcn.strayCnt = 0#64 ∧ State.reset.bcn.cpf = 0#64 ∧
    State.reset.host.intMask = 0x1FF#64 ∧
    (∀ c, c < 512 → State.reset.core c R.seqId = BitVec.ofNat 64 (c * 2 ^ 16 + dieOf c * 2 ^ 8 + localOf c)) ∧
    (∀ c e, c < 512 → e < 4 → State.reset.eng c e R.engId = BitVec.ofNat 64 (c * 2 ^ 16 + e) ∧
      State.reset.eng c e R.engCtrl = 4#64 ∧ State.reset.eng c e R.engSts = 0#64) ∧
    (∀ d, d < 32 → State.reset.die d R.turfScrbRate = 433#64) ∧
    (∀ i k, i < 4 → k < 2 → State.reset.iod i (R.scrubHRate k) = 1629#64) ∧
    (∀ a, Memory.get State.reset.mem a = 0#8)

/-- The invariants hold at reset. At reset the Beacon block is legal, lifecycle and fuses are legal (their values at reset are log
entry 6, the model's choice), the memories are in canonical form and the cache lines whole. -/
def Obligations.InvariantsHoldAtReset : Prop :=
  Bcn.legal State.reset.bcn ∧ SecX.legal State.reset.sec ∧ State.reset.memoriesWf = true ∧ State.reset.linesWhole = true

/-- The Beacon block stays legal at every step. From every state whose Beacon block is legal, whatever command is at the front of
the queue, the step leaves a legal Beacon block: STATE one of the four of R35, PERIOD between 25 and 1,600, ARM set exactly in
ARMED, NO_CLOCK exactly while BCN_CLK is not locked, FN and load value of 48 bits, at most 65 missing marks (64 in COUNTING),
reserved bits 0. (That ARM is cleared also on Beacon loss and class change is log entry 110, and that the missing marks stay
outside COUNTING 119, the model's choices.) -/
def Obligations.BeaconStaysLegal : Prop :=
  ∀ (s t : State), Bcn.legal s.bcn → step s = .next t → Bcn.legal t.bcn

/-- Lifecycle and fuses stay legal at every step. From every state whose lifecycle record is legal, every step leaves a legal one:
one of the four states, at most four returns, none used in MANUFACTURE, a floor of at most 32, no owner record in MANUFACTURE or
RETIRED, a debug scope of three bits. -/
def Obligations.FusesStayLegal : Prop :=
  ∀ (s t : State), SecX.legal s.sec → step s = .next t → SecX.legal t.sec

/-- No step rewrites the fuses. Whatever the state and the command: the device secret, the certificates of manufacture, the ROM
version and the I/O die revision stay as they are, the fused floor never falls, and the lifecycle either stays or moves along
one of the transitions of R446, with a return used exactly on the way from DEPLOYED back to PROVISIONED. -/
def Obligations.FusesOnlyMoveForward : Prop :=
  ∀ (s t : State), step s = .next t → s.fusesKept t

/-- Work within a core leaves the Beacon, the map, links, heat and identity alone. The commands of a core's vector engine, check
unit, queue port, walker and CTRL words leave the Beacon block, the map, the links, heat, identity, pins, host memory and power
state as they are, and do nothing once a trip has stopped the core clocks. -/
def Obligations.CoreWorkStaysInside : Prop :=
  ∀ (core : Core) (off : Nat) (s t : State) (i : Instr),
    i ∈ [Instr.nop core off, .sync core off, .bank core off, .unbank core off, .vecAdd core off, .vecMul core off, .vecFma core off,
      .vecMax core off, .vecMin core off, .vecCvt core off, .vecQuant core off, .vecDequant core off, .vecExp core off,
      .vecRcp core off, .vecRsqrt core off, .vecAct core off, .vecRmax core off, .vecRsum core off, .vecSoftmax core off,
      .vecRmsnorm core off, .vecLayernorm core off, .vecRope core off, .vecSplit2 core off, .vecSplit3 core off,
      .vecD7slice core off, .vecD7finish core off, .vecIadd48 core off, .vecDadd core off, .vecDmul core off,
      .vecDfma core off, .vecActload core off, .chkBegin core off, .chkFeed core off, .chkEnd core off, .chkCmp core off,
      .cordTake core off, .inRead core off, .outWrite core off, .attn core off, .append core off, .merge core off,
      .scores core off] →
    exec i s = .next t →
    t.bcn = s.bcn ∧ t.map = s.map ∧ t.d2d = s.d2d ∧ t.cl = s.cl ∧ t.thm = s.thm ∧ t.sec = s.sec ∧ t.pins = s.pins ∧
    t.hostMem = s.hostMem ∧ t.powered = s.powered ∧ t.rom = s.rom ∧ t.iodC = s.iodC ∧ (s.thm.trip = true → t = s)

/-- BCN_CLK locking and being lost. On a powered module without a trip, BCN_CLK_LOCK in NO_CLOCK leads to LOCKED, raises the lock
buoy and leaves FN and period; chip links that see a partner and wait for the lock begin to train (log entry 50, the model's
choice). BEACON_LOSS in any other state leads to NO_CLOCK, sets LOSS_STS, clears ARM (log entry 110, the model's choice), lets
the lock buoy fall and leaves FN and period. -/
def Obligations.ClockLockAndLoss : Prop :=
  ∀ s : State,
    (s.powered = true → s.thm.trip = false → s.bcnState = 0 →
      ∃ t, exec .bcnClkLock s = .next t ∧ t.bcnState = 1 ∧ t.bcn.locked = true ∧ bitAt t.host.buoy0 2 = true ∧
        t.bcn.fn = s.bcn.fn ∧ t.bcn.period = s.bcn.period ∧ t.bcn.armFn = s.bcn.armFn ∧
        (s.kpr.coldDone = true → s.kpr.reset = none → ∀ j < 24, (s.clx j).signal = true → s.lnkState j = lnkDown →
          s.map.iodFenced.getLsbD (j / 6) = false → t.lnkState j = lnkTraining)) ∧
    (s.bcnState ≠ 0 →
      ∃ t, exec .beaconLoss s = .next t ∧ t.bcnState = 0 ∧ bitAt t.bcn.sts 8 = true ∧ t.bcn.locked = false ∧
        bitAt t.bcn.ctrl 0 = false ∧ bitAt t.host.buoy0 2 = false ∧ t.bcn.fn = s.bcn.fn ∧ t.bcn.period = s.bcn.period)

/-- What a mark does to the Beacon block and to runs in each state. In NO_CLOCK a mark does nothing. In LOCKED it leaves the state,
takes the phase afresh and sets PERIOD_ERR_STS exactly where the interval is no multiple of the period. In ARMED it loads the
FN, enters COUNTING, clears ARM and the missing marks. In COUNTING a mark on the phase adds 1 to the FN modulo 2^48 and clears
the missing marks; one that would overtake a word that can issue cannot come about (log entry 126, the model's choice). With one
slot holding an image: the mark of flash s-1 prepares a start (counters 0, cores in RUN at the first word), that of s makes it
RUNNING at RFN 0 and completes RUN_START. Of a RUNNING run it ends flash n: entries of deadline n untaken leave and are noticed,
tails are published, the lateness is 0, snapshots are taken. Where a halt or the end RFN is due, the run is LOADED with its
cause, cores READY, RUN_STOP completed; while words of the flash are left it waits (log entry 15, the model's choice). A
deadline operation incomplete is an overrun and halts the run with cause 5. After a trip no run moves (log entry 115, the
model's choice). -/
def Obligations.MarkByState : Prop :=
  ∀ (s : State) (edges : Nat),
    (s.bcnState = 0 → exec (.mark edges) s = .next s) ∧
    (s.bcnState = 1 → ∃ t, exec (.mark edges) s = .next t ∧ t.bcnState = 1 ∧ t.bcn.fn = s.bcn.fn ∧ t.bcn.phase = 0 ∧
      t.bcn.hasMark = true ∧
      bitAt t.bcn.sts 10 = (bitAt s.bcn.sts 10 || (s.bcn.hasMark && edges % s.period != 0))) ∧
    (s.bcnState = 2 → ∃ t, exec (.mark edges) s = .next t ∧ t.bcnState = 3 ∧ t.bcn.fn = s.bcn.armFn ∧ t.bcn.phase = 0 ∧
      bitAt t.bcn.ctrl 0 = false ∧ t.missRun = 0) ∧
    (s.markEarly edges = true → exec (.mark edges) s = .next s) ∧
    (s.bcnState = 3 → (s.bcn.phase + edges) % s.period = 0 → s.markEarly edges = false → ∃ t, exec (.mark edges) s = .next t ∧ t.bcnState = 3 ∧
      t.bcn.fn = BitVec.ofNat 64 ((fld s.bcn.fn 47 0 + 1) % 2 ^ 48) ∧ t.bcn.phase = 0 ∧ t.missRun = 0 ∧
      (s.thm.trip = true → s.lateCores = [] → t.slots = s.slots ∧ t.cx = s.cx ∧ t.coreR = s.coreR) ∧
      (∀ p i, s.thm.trip = false → p < 8 → (s.slot p).img = some i → (s.slot p).ending = none → (s.slot p).mute = none →
        (∀ q, q ≠ p → (s.slot q).img = none ∧ s.slotState q ≠ 3) →
        let n := s.curRfn p
        let first : BitVec 48 := (s.slot p).start.truncate 48
        (s.slotState p = 2 → (s.slot p).prepared = false → s.fn + 2 = first →
          t.slotState p = 2 ∧ (t.slot p).prepared = true ∧ ∀ c ∈ s.partCores i,
            (∀ r ∈ State.clearedAtStart, r ≠ R.pgwErrAddr → t.core c r = 0) ∧ (t.cxOf c).pos = 0 ∧ (t.cxOf c).rfn = 0 ∧ (t.cxOf c).op = 0 ∧
            (s.coreState c = 1 → t.coreState c = 2)) ∧
        (s.slotState p = 2 → (s.slot p).prepared = true → s.fn + 1 = first →
          t.slotState p = 3 ∧ t.curRfn p = 0 ∧ (∀ c ∈ s.partCores i, t.lateness c = 0) ∧
          ∀ x, s.kpr.accepted = [x] → State.slotCmd Op.runStart p x = true → ∃ y ∈ t.kpr.done, y.tag = x.tag ∧ y.status = Sts.ok) ∧
        (s.slotState p = 3 → s.lateCores = [] → s.haltCause p n = none → n + 1 < 2 ^ 48 →
          t.slotState p = 3 ∧ t.curRfn p = n + 1 ∧
          (∀ c ∈ s.partCores i, t.lateness c = 0 ∧ fld (t.core c R.seqSlkCur) 16 0 = 0) ∧
          (∀ q d, q < 64 → s.queDecl? p q = some d →
            (d.input = true → (t.que p q).seen = fld (t.que p q).avail 31 0 ∧ ∃ l, (t.que p q).ents =
              (s.que p q).ents.filter (fun e => !((e.inTime && e.dl.toNat == n) || (!e.inTime && decide (e.dl.toNat ≤ n)))) ++ l) ∧
            (2 ≤ d.kind → fld (t.que p q).tail 31 0 = (t.que p q).wtail % 2 ^ 32 ∧ (t.que p q).wrote = [])) ∧
          (∀ q o qd od e, q < 64 → o < 64 → s.queDecl? p q = some qd → qd.input = true → qd.outq = o → s.queDecl? p o = some od →
            od.kind = 3 → 32 ≤ od.esize → (s.slot p).notices = [] → (s.que p q).ents = [e] → e.inTime = true → e.dl.toNat = n →
            (∀ k d, k ≠ q → s.queDecl? p k = some d → d.input = true → (s.que p k).ents = []) → s.hbmClean →
            State.inHbm od.ring (od.depth * od.esize) = true → ahead (s.que p o).wtail (fld (s.que p o).head 31 0) < od.depth →
            (s.que p o).gap = false →
            t.seen (od.entryDa (s.que p o).wtail) 32 = State.outHeader 2 e.ctx n
              ((if qd.cordKind then flCordMissed else flInputDropped) ||| s.haltFlags p) 0 e.idx (s.que p o).wtail ∧
            (t.que p o).wtail = idxAdd (s.que p o).wtail 1)) ∧
        (∀ cause, s.slotState p = 3 → s.lateCores = [] → s.haltCause p n = some cause →
          (s.busyUntil p n = true → t.slotState p = 3 ∧ (t.slot p).ending = some (BitVec.ofNat 48 n, cause)) ∧
          (s.busyUntil p n = false → t.slotState p = 1 ∧ (t.slot p).endR = BitVec.ofNat 64 (cause * 2 ^ 56 + n % 2 ^ 48) ∧
            (∀ c ∈ s.partCores i, s.coreState c = 2 → t.coreState c = 1) ∧
            ∀ x, s.kpr.accepted = [x] → State.slotCmd Op.runStop p x = true →
              ∃ y ∈ t.kpr.done, y.tag = x.tag ∧ y.status = Sts.ok ∧ y.result = leBytes 8 n)) ∧
        (s.slotState p = 3 → s.lateCores ≠ [] → s.haltCause p n = none →
          bitAt t.bcn.sts 12 = true ∧ t.slotState p = 3 ∧ (t.slot p).ending = some (BitVec.ofNat 48 n, 5) ∧
          ∃ e ∈ t.kpr.log, e.seq = s.kpr.logSeq ∧ e.type = 2)))

/-- A stray mark is ignored. In COUNTING, a mark whose interval from the loading mark is no multiple of the flash period leaves the
FN and the count of missing marks, adds 1 to BCN_STRAY_CNT (which saturates) and sets STRAY_STS. Of the rest of the state only
the event log, which gains one entry, and the phase counter change. -/
def Obligations.StrayMarkIgnored : Prop :=
  ∀ (s : State) (edges : Nat), s.bcnState = 3 → (s.bcn.phase + edges) % s.period ≠ 0 →
    ∃ t, exec (.mark edges) s = .next t ∧ t.bcn.fn = s.bcn.fn ∧ t.missRun = s.missRun ∧ t.bcnState = 3 ∧
      t.bcn.strayCnt = incFld s.bcn.strayCnt 31 0 1 ∧ bitAt t.bcn.sts 11 = true ∧
      t.kpr.logSeq = s.kpr.logSeq + 1 ∧ t = { s with bcn := t.bcn, kpr := t.kpr }

/-- Absent marks hold the flash number, and the 65th is a stall. In COUNTING with fewer than 64 consecutive missing marks, an
occultation holds the FN, counts one more missing mark, counts in BCN_OCC_CNT and is logged. With 64, the next absent mark is a
Beacon stall: STALL_STS is set, the state becomes LOCKED, the FN is held, and the log gains its entry, of type 4 (R367). -/
def Obligations.AbsentMarks : Prop :=
  ∀ s : State, s.bcnState = 3 →
    (s.missRun < 64 → ∃ t, exec .occultation s = .next t ∧ t.bcnState = 3 ∧ t.bcn.fn = s.bcn.fn ∧ t.missRun = s.missRun + 1 ∧
      fld t.bcn.occCnt 31 0 = min (fld s.bcn.occCnt 31 0 + 1) (2 ^ 32 - 1) ∧ t.kpr.logSeq = s.kpr.logSeq + 1) ∧
    (s.missRun = 64 → ∃ t, exec .beaconStall s = .next t ∧ t.bcnState = 1 ∧ bitAt t.bcn.sts 9 = true ∧ t.bcn.fn = s.bcn.fn ∧
      (∃ e ∈ t.kpr.log, e.seq = s.kpr.logSeq ∧ e.type = 4) ∧ s.kpr.logSeq < t.kpr.logSeq)

/-- Arming and disarming through the Beacon register. ARM in LOCKED, or in COUNTING, with no slot STARTING or RUNNING and a period
that the margin class allows, writes the load value to BCN_ARM_FN, enters ARMED, sets ARM and clears the occultation and stray
counters, and changes nothing else. While a slot is active it changes nothing. DISARM in ARMED leads to LOCKED and clears ARM;
in every other state it changes nothing. -/
def Obligations.ArmAndDisarm : Prop :=
  ∀ (s : State) (load : BitVec 48),
    ((s.bcnState = 1 ∨ s.bcnState = 3) → s.anyActive = false → s.periodFits = true →
      exec (.arm load) s = .next { s with bcn := { s.bcn with
        armFn := BitVec.ofNat 64 load.toNat, sts := setFld s.bcn.sts 2 0 2, ctrl := setBit s.bcn.ctrl 0 true, occCnt := 0, strayCnt := 0 } }) ∧
    (s.anyActive = true → exec (.arm load) s = .next s) ∧
    (s.bcnState = 2 → ∃ t, exec .disarm s = .next t ∧ t.bcnState = 1 ∧ bitAt t.bcn.ctrl 0 = false ∧ t.bcn.fn = s.bcn.fn ∧
      t = { s with bcn := t.bcn, kpr := t.kpr }) ∧
    (s.bcnState ≠ 2 → exec .disarm s = .next s)

/-- SLIP_L is driven at the cut-off and released once no core requests an occultation. In COUNTING without a trip, at the cut-off
every core of a RUNNING slot that has a slack, an incomplete deadline operation of the flash, and whose run is not silenced,
requests an occultation afterwards; where it did not before, SLIP_L is driven low and SLIP_STS set. The FN, the queues, memory
and the log stay as they are. SLIP_RELEASE with no core requesting an occultation clears SLIP_STS and releases SLIP_L, and
changes nothing else; while a core requests one it changes nothing. -/
def Obligations.SlipFollowsRequests : Prop :=
  (∀ s : State,
    ((∀ c, c < 512 → s.requests c = false) →
      exec .slipRelease s = .next { s with bcn := { s.bcn with sts := setBit s.bcn.sts 13 false }, pins := { s.pins with slip := false } }) ∧
    ((∃ c, c < 512 ∧ s.requests c = true) → exec .slipRelease s = .next s)) ∧
  ∀ (s : State) (p c : Nat), s.thm.trip = false → s.bcnState = 3 → p < 8 → s.slotState p = 3 → c ∈ s.slotCores p →
    (s.cxOf c).slack.isSome = true → s.deadlineOpen p c (s.curRfn p) = true → s.muted p (s.curRfn p) = false →
    ∃ t, exec .cutOff s = .next t ∧ t.requests c = true ∧
      (s.requests c = false → t.pins.slip = true ∧ bitAt t.bcn.sts 13 = true) ∧
      t.bcn.fn = s.bcn.fn ∧ t = { s with bcn := t.bcn, coreR := t.coreR, pins := t.pins }

/-- A late cycle is charged to its lowest cause. On a module without a trip, where core c runs in slot p and a deadline operation of
the flash is incomplete, a cycle that causes hold late is charged once, to the lowest-coded cause that holds (DAMPER, code 1,
only where the lateness of R405 exceeds its largest earlier value in the flash; REFRESH, code 2, only where the slices of the
die, or the bank, that block have made more refreshes in the flash than the slack absorbs): the counter of that cause grows by
1, those of the other causes stay, and the core requests an occultation, with SLIP_L low, where its lateness then exceeds the
slack and its run is not silenced, also after an occultation in the same flash (log entry 106, the model's choice). -/
def Obligations.SlackIsCharged : Prop :=
  ∀ (s : State) (core : Core) (off : Nat) (causes : BitVec 8) (place : Fin 8256) (p k slack : Nat),
    s.thm.trip = false → s.slotOf core.val = some p → s.slotState p = 3 → s.deadlineOpen p core.val (s.curRfn p) = true →
    (s.cxOf core.val).slack = some slack → 1 ≤ k → k < 8 → causes.getLsbD k = true → (k = 1 → s.dampLate p core.val off = true) →
    (k = 2 → s.refreshBeyond place.val = true) →
    (∀ j, 1 ≤ j → j < k → causes.getLsbD j = true →
      (j = 1 ∧ s.dampLate p core.val off = false) ∨ (j = 2 ∧ s.refreshBeyond place.val = false)) →
    ∃ t, exec (.slackCharge core off causes place) s = .next t ∧
      t.core core.val (R.seqSlkCause k) = incFld (s.core core.val (R.seqSlkCause k)) 47 0 1 ∧
      (∀ j, 1 ≤ j → j < 8 → j ≠ k → t.core core.val (R.seqSlkCause j) = s.core core.val (R.seqSlkCause j)) ∧
      (slack < t.lateness core.val → s.muted p (s.curRfn p) = false →
        t.requests core.val = true ∧ (s.requests core.val = false → t.pins.slip = true)) ∧
      t.mem = s.mem ∧ t.kpr = s.kpr ∧ t.slots = s.slots

/-- The sequencer dispatches the next word of a stream. On a core in state RUN of an active slot, without a CTRL word before it and
without a trip, the next word of the stream, read without error from the core's turf slice, free of word errors, with no
rotation or halt to wait for and a credit in every queue it needs, is appended to the queue of each of its units; position, RFN
and op index move on. The fetch has a transfer tag free to it (R232). A CTRL word is kept by the sequencer, and no later word is
dispatched before it is done (log entry 19, the model's choice). Ramps that have ended are taken up first (log entry 21, the
model's choice). Without a credit nothing else changes. A word error traps the core with cause 3 and the word's address. -/
def Obligations.DispatchOfAWord : Prop :=
  ∀ (s : State) (core : Core) (off p n base : Nat) (dfl : Bool) (e : StreamEnt) (bs : List Byte) (v : State),
    s.thm.trip = false → s.slotOf core.val = some p → s.streamEnt? p core.val = some e → s.coreState core.val = 2 →
    s.slotActive p = true → (s.cxOf core.val).ctl = none → s.removed core.val off = false → (s.slot p).ending = none →
    State.streamNext e (s.cxOf core.val).pos (s.cxOf core.val).rfn.toNat = some (n, base, dfl) →
    let u := s.settleRamps core.val off
    u.tagFree core.val 0 →
    turfOf core.val ≤ u.wordDa core.val n → u.wordDa core.val n + 16 ≤ turfOf core.val + turfLen →
    u.readDa (Who.fetch core.val) (u.wordDa core.val n) 16 = (.ok bs, v) →
    let w := BitVec.ofNat 128 (leNat bs)
    let r := BitVec.ofNat 48 (State.wordRfn base dfl w)
    let us := unitsOf w (u.shiftOf p core.val)
    (wordError u.cpf w = true →
      ∃ t, exec (.dispatch core off) s = .next t ∧ t.coreState core.val = 3 ∧
        t.core core.val R.seqTrap = BitVec.ofNat 64 (2 ^ 63 + 3 * 2 ^ 48 + u.wordDa core.val n)) ∧
    (wordError u.cpf w = false → u.rotPending p core.val r.toNat = false →
      (u.hasCredit core.val us = false → exec (.dispatch core off) s = .next u) ∧
      (u.hasCredit core.val us = true → ∃ t q, exec (.dispatch core off) s = .next t ∧ q.word = w ∧ q.rfn = r ∧
        q.op = (if r = (s.cxOf core.val).rfn then (s.cxOf core.val).op else 0) ∧
        (t.cxOf core.val).pos = n + 1 ∧ (t.cxOf core.val).rfn = r ∧ (t.cxOf core.val).op = q.op + 1 ∧
        (t.cxOf core.val).ctl = (if wClass w = 0 then some q else none) ∧
        (∀ u, u ∈ us → (t.cxOf core.val).queued u = (s.cxOf core.val).queued u ++ [q]) ∧
        t = { v with cx := t.cx, coreR := t.coreR }))

/-- NOP, SYNC, BANK and UNBANK. A due CTRL word that the sequencer has reached, with words left in the stream, is done, and counts
in the event counter it names. NOP does nothing else. SYNC adds ADV to the RFN, and a non-zero ADV starts the op index again.
BANK sets the banking bit of each unit its mask names, and an idle one banks. UNBANK clears it, and a banked unit stands idle
and not ready. Engines, vector engine and walker that the mask does not name keep their state. Nothing of another core changes.
A CTRL word waits at the sequencer until it is done (log entry 19, the model's choice). -/
def Obligations.CtrlWords : Prop :=
  ∀ (s : State) (core : Core) (off p : Nat) (q : QWord),
    (s.atCtrl p core.val off q 0 → ∃ t, exec (.nop core off) s = .next t ∧
      t.cxOf core.val = { s.cxOf core.val with ctl := none } ∧ s.signalled t core.val q.word ∧ s.coreRegsKept t core.val isEvReg ∧
      s.othersKept t core.val ∧ t = { s with cx := t.cx, coreR := t.coreR }) ∧
    (s.atCtrl p core.val off q 1 → ∃ t, exec (.sync core off) s = .next t ∧
      t.cxOf core.val = { s.cxOf core.val with
        ctl := none, rfn := (s.cxOf core.val).rfn + BitVec.ofNat 48 (wbits q.word 47 0)
        op := if wbits q.word 47 0 = 0 then (s.cxOf core.val).op else 0 } ∧
      s.signalled t core.val q.word ∧ s.coreRegsKept t core.val isEvReg ∧ s.othersKept t core.val ∧ t = { s with cx := t.cx, coreR := t.coreR }) ∧
    (s.atCtrl p core.val off q 2 → ∃ t, exec (.bank core off) s = .next t ∧ (t.cxOf core.val).ctl = none ∧
      (∀ e : Fin 4, (q.word.getLsbD e.val = true → bitAt (t.eng core.val e.val R.engCtrl) 1 = true ∧
          t.engState core.val e.val = if s.engState core.val e.val = engIdle then engBanked else s.engState core.val e.val) ∧
        (q.word.getLsbD e.val = false → t.eng core.val e.val R.engCtrl = s.eng core.val e.val R.engCtrl ∧
          t.engState core.val e.val = s.engState core.val e.val)) ∧
      (q.word.getLsbD 4 = true → (t.cxOf core.val).vec.bank = true ∧
        t.vecState core.val = if s.vecState core.val = unitIdle then unitBanked else s.vecState core.val) ∧
      (q.word.getLsbD 5 = true → bitAt (t.core core.val R.pgwCtrl) 1 = true ∧
        t.pgwState core.val = if s.pgwState core.val = unitIdle then unitBanked else s.pgwState core.val) ∧
      (q.word.getLsbD 4 = false → (t.cxOf core.val).vec = (s.cxOf core.val).vec ∧ t.vecState core.val = s.vecState core.val) ∧
      (q.word.getLsbD 5 = false → (t.cxOf core.val).pgw = (s.cxOf core.val).pgw ∧
        t.core core.val R.pgwCtrl = s.core core.val R.pgwCtrl ∧ t.pgwState core.val = s.pgwState core.val) ∧
      s.signalled t core.val q.word ∧ s.othersKept t core.val ∧ t = { s with cx := t.cx, coreR := t.coreR }) ∧
    (s.atCtrl p core.val off q 3 → ∃ t, exec (.unbank core off) s = .next t ∧ (t.cxOf core.val).ctl = none ∧
      (∀ e : Fin 4, (q.word.getLsbD e.val = true → bitAt (t.eng core.val e.val R.engCtrl) 1 = false ∧
          (s.engState core.val e.val = engBanked →
            t.engState core.val e.val = engIdle ∧ (t.engX core.val e.val).u.ready = false)) ∧
        (q.word.getLsbD e.val = false → t.eng core.val e.val R.engCtrl = s.eng core.val e.val R.engCtrl ∧
          t.engState core.val e.val = s.engState core.val e.val)) ∧
      (q.word.getLsbD 4 = true → (t.cxOf core.val).vec.bank = false ∧
        (s.vecState core.val = unitBanked → t.vecState core.val = unitIdle ∧ (t.cxOf core.val).vec.ready = false)) ∧
      (q.word.getLsbD 5 = true → bitAt (t.core core.val R.pgwCtrl) 1 = false ∧
        (s.pgwState core.val = unitBanked → t.pgwState core.val = unitIdle ∧ (t.cxOf core.val).pgw.ready = false)) ∧
      (q.word.getLsbD 4 = false → (t.cxOf core.val).vec = (s.cxOf core.val).vec ∧ t.vecState core.val = s.vecState core.val) ∧
      (q.word.getLsbD 5 = false → (t.cxOf core.val).pgw = (s.cxOf core.val).pgw ∧
        t.core core.val R.pgwCtrl = s.core core.val R.pgwCtrl ∧ t.pgwState core.val = s.pgwState core.val) ∧
      s.signalled t core.val q.word ∧ s.othersKept t core.val ∧ t = { s with cx := t.cx, coreR := t.coreR })

/-- A unit completes its word and becomes free. In a run with words left in the stream and no halt under way, in a cycle that the
damper leaves the core, the vector engine, the check unit, the queue port and an engine complete the word they run: the unit is
free, and the event counter that the word names goes up by 1; VEC_OPS_CNT and ENG_OPS_CNT count; a deadline operation done
before the flash that it counts in is kept for that flash's slack; beside a drain, an MMUL that does not drain completes while
the drain runs on; ramps that have ended are taken up first (log entry 21, the model's choice). No other core changes. A stream
channel does so once no request of it is outstanding; the walker completes a word of class 4. On a module without a trip,
UNIT_READY marks an unbanked unit ready and changes nothing else. -/
def Obligations.WordCompletion : Prop :=
  (∀ (s : State) (core : Core) (u : CoreUnit), s.thm.trip = false →
    ∃ t, exec (.unitReady core u) s = .next t ∧ ((t.cxOf core.val).unit u) = { (s.cxOf core.val).unit u with ready := true } ∧
      s.othersKept t core.val ∧ t = { s with cx := t.cx }) ∧
  ∀ (s : State) (core : Core) (off p : Nat) (beside : Bool) (q : QWord), s.thm.trip = false → s.runSlot core.val = some p → s.wordsLeft p core.val →
    s.removed core.val off = false → (s.slot p).ending = none →
    let u := s.settleRamps core.val off
    ((s.cxOf core.val).vec.run = some q → wClass q.word = 2 → ∃ t, exec (.wordComplete core .vec off beside) s = .next t ∧
      (t.cxOf core.val).vec.run = none ∧ t.core core.val R.vecOpsCnt = incFld (s.core core.val R.vecOpsCnt) 47 0 1 ∧
      t.vecState core.val = (if (s.cxOf core.val).vec.bank then unitBanked else unitIdle) ∧ s.signalled t core.val q.word ∧
      s.othersKept t core.val ∧ t = { s with cx := t.cx, coreR := t.coreR }) ∧
    ((s.cxOf core.val).chk.run = some q → ∃ t, exec (.wordComplete core .chk off beside) s = .next t ∧
      t.cxOf core.val = { u.cxOf core.val with
        chk := { (s.cxOf core.val).chk with run := none }, early := (s.cxOf core.val).early ++ s.earlyFor p q } ∧ s.signalled t core.val q.word ∧
      u.coreRegsKept t core.val isEvReg ∧ s.othersKept t core.val ∧ t = { s with cx := t.cx, coreR := t.coreR }) ∧
    ((s.cxOf core.val).que.run = some q → ∃ t, exec (.wordComplete core .que off beside) s = .next t ∧
      t.cxOf core.val = { u.cxOf core.val with
        que := { (s.cxOf core.val).que with run := none }, early := (s.cxOf core.val).early ++ s.earlyFor p q } ∧ s.signalled t core.val q.word ∧
      u.coreRegsKept t core.val isEvReg ∧ s.othersKept t core.val ∧ t = { s with cx := t.cx, coreR := t.coreR }) ∧
    (∀ ch : Chan, (s.cxOf core.val).strRun.find? ch.val = some q → (s.cxOf core.val).strRev.find? ch.val = none →
      (s.chanQuiet core.val ch.val = true → ∃ t, exec (.wordComplete core (.str ch) off beside) s = .next t ∧
        t.cxOf core.val = { u.cxOf core.val with
          strRun := (s.cxOf core.val).strRun.erase ch.val, early := (s.cxOf core.val).early ++ s.earlyFor p q } ∧
        s.signalled t core.val q.word ∧ s.othersKept t core.val ∧ t = { s with cx := t.cx, coreR := t.coreR }) ∧
      (s.chanQuiet core.val ch.val = false → exec (.wordComplete core (.str ch) off beside) s = .next s)) ∧
    ((s.cxOf core.val).pgw.run = some q → ∃ t, exec (.wordComplete core .pgw off beside) s = .next t ∧
      (t.cxOf core.val).pgw.run = none ∧ s.signalled t core.val q.word ∧ s.othersKept t core.val) ∧
    (∀ e : Fin 4, wClass q.word = 1 → e.val ∈ enginesOf (wEmask q.word) q.shift → (s.engX core.val e.val).drain = none →
      (s.engX core.val e.val).u.run = some q → ∃ t, exec (.wordComplete core (.eng e) off beside) s = .next t ∧
      (t.engX core.val e.val).u.run = none ∧
      t.eng core.val e.val R.engOpsCnt = incFld (s.eng core.val e.val R.engOpsCnt) 47 0 1 ∧ s.signalled t core.val q.word ∧ s.othersKept t core.val) ∧
    (∀ (e : Fin 4) (d : QWord), wClass q.word = 1 → e.val ∈ enginesOf (wEmask q.word) q.shift → wDrains q.word = false →
      (s.engX core.val e.val).drain = some d → sameWord d q = false → (s.engX core.val e.val).u.run = some q →
      ∃ t, exec (.wordComplete core (.eng e) off true) s = .next t ∧
      (t.engX core.val e.val).u.run = none ∧ (t.engX core.val e.val).drain = some d ∧
      t.eng core.val e.val R.engOpsCnt = incFld (s.eng core.val e.val R.engOpsCnt) 47 0 1 ∧ s.signalled t core.val q.word ∧ s.othersKept t core.val)

/-- The elementwise vector operations. A fit ADD, MUL, FMA, MAX, MIN, DADD, DMUL, DFMA or IADD48 word that the vector engine of a
running core can issue reads every row of its operands, widens them (R145; IADD48 takes them as they are), forms each element's
exact result, and writes the rows to DST, rounded by the word's mode; a single column S2 is spread over its row. Memory holds
nothing else new, and of the core only the vector engine's record and counts change. (Every row is read before the first is
written, log entry 31, the model's choice.) -/
def Obligations.VecElementwise : Prop :=
  ∀ (s : State) (core : Core) (off p : Nat) (q : QWord) (o : VecOp),
    (∀ x ∈ [(Instr.vecAdd core off, 0x01, Fmt.fp32, Machine.Num.add), (.vecMul core off, 0x02, .fp32, Machine.Num.mul),
        (.vecMax core off, 0x04, .fp32, maxNum), (.vecMin core off, 0x05, .fp32, minNum),
        (.vecDadd core off, 0x30, .fp64, Machine.Num.add), (.vecDmul core off, 0x31, .fp64, Machine.Num.mul)],
      s.vecReady p core.val off q x.2.1 o → ∃ t, exec x.1 s = .next t ∧ s.vecRan t core.val q ∧
        t.mem = o.store s.mem (o.codes s p core.val q x.2.2.1 ((List.range o.rows).map fun r =>
          List.zipWith x.2.2.2 (o.args s x.2.2.1 0 r) (o.args s x.2.2.1 1 r)))) ∧
    (∀ x ∈ [(Instr.vecFma core off, 0x03, Fmt.fp32), (.vecDfma core off, 0x32, .fp64)],
      s.vecReady p core.val off q x.2.1 o → ∃ t, exec x.1 s = .next t ∧ s.vecRan t core.val q ∧
        t.mem = o.store s.mem (o.codes s p core.val q x.2.2 ((List.range o.rows).map fun r =>
          List.zipWith (fun a b => (Machine.Num.mul a b.1).add b.2) (o.args s x.2.2 0 r)
            ((o.args s x.2.2 1 r).zip (o.args s x.2.2 2 r))))) ∧
    (s.vecReady p core.val off q 0x2C o → ∃ t, exec (.vecIadd48 core off) s = .next t ∧ s.vecRan t core.val q ∧
      t.mem = o.store s.mem (o.codes s p core.val q .int48 ((List.range o.rows).map fun r =>
        List.zipWith Machine.Num.add (o.vals s 0 r o.cols) (o.vals s 1 r o.cols))))

/-- Special functions, reductions and normalisations. A fit EXP, RCP, RSQRT, ACT, RMAX, RSUM, SOFTMAX, RMSNORM, LAYERNORM or ROPE
word writes to DST, row by row and rounded by its mode, what the definition of R146, R147 and R149 gives of the widened rows;
ACT takes the table loaded last, SOFTMAX with bit 0 of IMM also writes the pair (m, s) of each row. What ROPE leaves for the
last element of an odd row is a free value (log entry 30). (The order of roundings in RMSNORM and LAYERNORM is log entry 29,
rows read before the first is written 31, draws of the second output 117, the order of a table's coefficients 120, the model's
choices.) -/
def Obligations.VecRowFunctions : Prop :=
  ∀ (s : State) (core : Core) (off p : Nat) (q : QWord) (o : VecOp),
    (∀ x ∈ ([(.vecExp core off, 0x10, fun a => (a 0).map fun x => valueOf (exp32 x)),
        (.vecRcp core off, 0x11, fun a => (a 0).map fun x => valueOf (rcp32 x)),
        (.vecRsqrt core off, 0x12, fun a => (a 0).map fun x => valueOf (rsqrt32 x)),
        (.vecAct core off, 0x13, fun a => (a 0).map fun x => valueOf (act32 (s.cxOf core.val).act x)),
        (.vecRmax core off, 0x18, fun a => [valueOf (rmax (a 0))]),
        (.vecRsum core off, 0x19, fun a => [valueOf (rsum (a 0))]),
        (.vecRmsnorm core off, 0x1B, fun a => valueOf (rmsRow o.imm (a 0) (a 1))),
        (.vecLayernorm core off, 0x1C, fun a => valueOf (layerRow o.imm (a 0) (a 1) (a 2))),
        (.vecRope core off, 0x20, fun a => valueOf (ropeRow (ropeLast (a 0) (a 1)) (a 0) (a 1)))] :
        List (Instr × Nat × ((Nat → List Machine.Num) → List Machine.Num))),
      s.vecReady p core.val off q x.2.1 o → ∃ t, exec x.1 s = .next t ∧ s.vecRan t core.val q ∧
        t.mem = o.store s.mem (o.codes s p core.val q .fp32 ((List.range o.rows).map fun r =>
          x.2.2 fun k => o.args s .fp32 k r))) ∧
    (s.vecReady p core.val off q 0x1A o → ∃ t, exec (.vecSoftmax core off) s = .next t ∧ s.vecRan t core.val q ∧
      let ys := (List.range o.rows).map fun r => valueOf (softmaxRow (o.args s .fp32 0 r))
      let m := o.store s.mem (o.codes s p core.val q .fp32 (ys.map (·.1)))
      t.mem = if o.imm.testBit 0 then
          ys.zipIdx.foldl (fun m y => Memory.sets m (rowDa (o.d 2) 0 y.2)
            (y.1.2.flatMap fun x => leBytes 4 (Fmt.round .fp32 .nearest 0 x).code)) m
        else m)

/-- Conversions: CVT, QUANT, DEQUANT, SPLIT2, SPLIT3, D7SLICE, D7FINISH. A fit CVT or DEQUANT word converts the exact source values
row by row into DST, quantising where DST is block-scaled; QUANT quantises the widened values; a quantised row is padded with +0
codes to whole blocks, which are stored (R72, log entry 99). SPLIT2 and SPLIT3 write each element's pieces into two and three
BF16 planes. D7SLICE writes seven planes of digits, and to S3 the exponent of each row (or of each column with bit 0 of IMM).
D7FINISH folds seven INT48 planes and two exponents into FP64 elements. (Source rows and exponents are read before the first
result row is written, log entry 31, the model's choice.) -/
def Obligations.VecConversions : Prop :=
  ∀ (s : State) (core : Core) (off p : Nat) (q : QWord) (o : VecOp),
    (∀ x ∈ [(Instr.vecCvt core off, 0x06), (.vecDequant core off, 0x08)],
      s.vecReady p core.val off q x.2 o → ∃ t, exec x.1 s = .next t ∧ s.vecRan t core.val q ∧
        let m := (List.range o.rows).map fun r => o.vals s 0 r o.cols
        t.mem = if (o.f 3).scaled then o.storeBlocks s.mem (o.blocks s p core.val q m)
          else o.store s.mem (o.codes s p core.val q (o.f 0) m)) ∧
    (s.vecReady p core.val off q 0x07 o → ∃ t, exec (.vecQuant core off) s = .next t ∧ s.vecRan t core.val q ∧
      t.mem = o.storeBlocks s.mem (o.blocks s p core.val q ((List.range o.rows).map fun r => o.args s .fp32 0 r))) ∧
    (∀ x ∈ [(Instr.vecSplit2 core off, 0x28, 2), (.vecSplit3 core off, 0x29, 3)],
      s.vecReady p core.val off q x.2.1 o → ∃ t, exec x.1 s = .next t ∧ s.vecRan t core.val q ∧
        t.mem = (List.range o.rows).foldl (fun m r => (List.range x.2.2).foldl (fun m i =>
          setRow m (o.d 3) .bf16 i r ((o.args s .fp32 0 r).map fun a =>
            (Fmt.round .bf16 .nearest 0 ((valueOf (splitPieces x.2.2 a)).getD i Machine.Num.zero)).code)) m) s.mem) ∧
    (s.vecReady p core.val off q 0x2A o → ∃ t, exec (.vecD7slice core off) s = .next t ∧ s.vecRan t core.val q ∧
      let m := (List.range o.rows).map fun r => o.vals s 0 r o.cols
      let byCol := o.imm.testBit 0
      let slices := (if byCol then transposed o.cols m else m).map d7Slice
      let planes := (List.range 7).foldl (fun m i => (List.range o.rows).foldl (fun m r =>
        setRow m (o.d 3) .int8 i r ((List.range o.cols).map fun col =>
          let x := if byCol then (col, r) else (r, col)
          unsigned 8 ((((slices.getD x.1 (0, [])).2.getD x.2 []).getD i 0)))) m) s.mem
      t.mem = slices.zipIdx.foldl (fun m x =>
        Memory.sets m (if byCol then (o.d 2).base + 2 * x.2 else rowDa (o.d 2) 0 x.2) (leBytes 2 (unsigned 16 x.1.1))) planes) ∧
    (s.vecReady p core.val off q 0x2B o → ∃ t, exec (.vecD7finish core off) s = .next t ∧ s.vecRan t core.val q ∧
      t.mem = (List.range o.rows).foldl (fun m r => setRow m (o.d 3) .fp64 0 r ((List.range o.cols).map fun col =>
        (d7Finish ((List.range 7).map fun i => signed 48 ((o.row s 0 i r o.cols).getD col 0))
          (signed 16 (leNat (Memory.gets s.mem (rowDa (o.d 1) 0 r) 2)))
          (signed 16 (leNat (Memory.gets s.mem ((o.d 2).base + 2 * col) 2)))).code)) s.mem)

/-- ACTLOAD, and vector operations with unfit operands. A fit ACTLOAD word replaces the activation table from its start by the
elements of S1 in order, the first 194 of them, where a shorter source leaves the rest (log entry 31, the model's choice), and
writes no memory. A vector word whose operands its operation does not accept, or that do not fit R134, writes no memory, sets
DESC_ERR_STS of the sequencer and SRC_ERR_STS of the vector engine, and is run all the same. -/
def Obligations.VecTableAndReject : Prop :=
  ∀ (s : State) (core : Core) (off p : Nat) (q : QWord) (o : VecOp),
    (s.vecReady p core.val off q 0x38 o → ∃ t, exec (.vecActload core off) s = .next t ∧ s.vecRan t core.val q ∧ t.mem = s.mem ∧
      (t.cxOf core.val).act =
        let new := (((List.range o.rows).flatMap fun r => o.row s 0 0 r o.cols).take 194).map (BitVec.ofNat 32 ·)
        new ++ (s.cxOf core.val).act.drop new.length) ∧
    (∀ x ∈ [(Instr.vecAdd core off, 0x01), (.vecMul core off, 0x02), (.vecFma core off, 0x03), (.vecMax core off, 0x04),
        (.vecMin core off, 0x05), (.vecCvt core off, 0x06), (.vecQuant core off, 0x07), (.vecDequant core off, 0x08),
        (.vecExp core off, 0x10), (.vecRcp core off, 0x11), (.vecRsqrt core off, 0x12), (.vecAct core off, 0x13),
        (.vecRmax core off, 0x18), (.vecRsum core off, 0x19), (.vecSoftmax core off, 0x1A), (.vecRmsnorm core off, 0x1B),
        (.vecLayernorm core off, 0x1C), (.vecRope core off, 0x20), (.vecSplit2 core off, 0x28), (.vecSplit3 core off, 0x29),
        (.vecD7slice core off, 0x2A), (.vecD7finish core off, 0x2B), (.vecIadd48 core off, 0x2C), (.vecDadd core off, 0x30),
        (.vecDmul core off, 0x31), (.vecDfma core off, 0x32), (.vecActload core off, 0x38)],
      s.canIssue p core.val off .vec q 2 x.2 →
      runAcc (vecLook core.val q.word) (s.unitTake core.val .vec q) = (.ok o, s.unitTake core.val .vec q) →
      (o.accepts x.2 && (vecUses x.2 o.imm).all (o.fits core.val x.2)) = false →
      ∃ t, exec x.1 s = .next t ∧ t.mem = s.mem ∧ (t.cxOf core.val).vec.run = some q ∧
        bitAt (t.core core.val R.seqSts) 7 = true ∧ bitAt (t.core core.val R.vecSts) 8 = true ∧
        t = { s with cx := t.cx, coreR := t.coreR })

/-- The check byte of a word, and what its syndrome means. For every 8-byte word: its check byte is the XOR of the column values of
its ones, 0 for the zero word. Read with syndrome 0 it is delivered with no error; with the column value of data bit j, with
that bit inverted, as a correctable error; with weight 1, unchanged, as a correctable error; with an even weight other than 0,
or an odd one that is no column value, it is uncorrectable. So one wrong data or check bit is corrected, and two wrong bits are
detected. -/
def Obligations.CheckCode : Prop :=
  let H : List Nat :=
    [0x07, 0x0B, 0x0D, 0x0E, 0x13, 0x15, 0x16, 0x19] ++ [0x1A, 0x1C, 0x23, 0x25, 0x26, 0x29, 0x2A, 0x2C] ++
    [0x31, 0x32, 0x34, 0x38, 0x43, 0x45, 0x46, 0x49] ++ [0x4A, 0x4C, 0x51, 0x52, 0x54, 0x58, 0x61, 0x62] ++
    [0x64, 0x68, 0x70, 0x83, 0x85, 0x86, 0x89, 0x8A] ++ [0x8C, 0x91, 0x92, 0x94, 0x98, 0xA1, 0xA2, 0xA4] ++
    [0xA8, 0xB0, 0xC1, 0xC2, 0xC4, 0xC8, 0xD0, 0xE0] ++ [0x1F, 0x3E, 0x7C, 0xF8, 0xF1, 0xE3, 0xC7, 0x8F]
  codeOf 0 = 0 ∧
  ∀ w : List Byte, w.length = 8 →
    codeOf (leNat w) = BitVec.ofNat 8 ((List.range 64).foldl (fun a j => if (leNat w).testBit j then a ^^^ H.getD j 0 else a) 0) ∧
    (∀ s : Byte,
      (s = 0 → checkWord w s = { data := w, ce := false, ue := false }) ∧
      (∀ j < 64, s.toNat = H.getD j 0 → (checkWord w s).ce = true ∧ (checkWord w s).ue = false ∧
        (checkWord w s).data.length = 8 ∧ leNat (checkWord w s).data = leNat w ^^^ 2 ^ j) ∧
      (popCount 8 s.toNat = 1 → checkWord w s = { data := w, ce := true, ue := false }) ∧
      (popCount 8 s.toNat % 2 = 0 → s ≠ 0 → (checkWord w s).ue = true) ∧
      (popCount 8 s.toNat % 2 = 1 → popCount 8 s.toNat ≠ 1 → s.toNat ∉ H → (checkWord w s).ue = true)) ∧
    (let y (v : List Byte) : Byte := codeOf (leNat w) ^^^ codeOf (leNat v)
     (∀ j < 64, checkWord (flipBit w j) (y (flipBit w j)) = { data := w, ce := true, ue := false }) ∧
     (∀ k < 8, checkWord w (BitVec.ofNat 8 (2 ^ k)) = { data := w, ce := true, ue := false }) ∧
     (∀ i j, i < j → j < 64 → (checkWord (flipBit (flipBit w i) j) (y (flipBit (flipBit w i) j))).ue = true) ∧
     (∀ j k, j < 64 → k < 8 → (checkWord (flipBit w j) (y (flipBit w j) ^^^ BitVec.ofNat 8 (2 ^ k))).ue = true))

/-- The interleave hash and the bank-linear alias, one to one. A device address below 2^39 names the HBM byte whose stack, channel,
pseudo-channel, bank group, bank, row and byte the hash of R245 gives; an address of the alias names the byte whose fields its
bits give. Hash and alias are one to one: each offset is recovered from its fields, and a bank is one contiguous range of 64 MiB
of the alias. -/
def Obligations.InterleaveHashInverts : Prop :=
  ∀ o : Nat, o < 2 ^ 39 →
    (let u := o >>> 8
     let row := (u >>> 15) &&& 0xFFFF
     (hashAt o).row = row ∧ (hashAt o).stk = (u &&& 7) ^^^ ((u >>> 15) &&& 7) ^^^ ((u >>> 24) &&& 7) ∧
     (hashAt o).ch = ((u >>> 3) &&& 0x1F) ^^^ ((u >>> 18) &&& 0x1F) ∧
     (hashAt o).pc = ((u >>> 8) &&& 1) ^^^ ((u >>> 23) &&& 1) ^^^ ((u >>> 30) &&& 1) ∧
     (hashAt o).bg = ((u >>> 9) &&& 3) ^^^ ((u >>> 27) &&& 3) ∧ (hashAt o).bank = ((u >>> 11) &&& 3) ^^^ ((u >>> 29) &&& 3) ∧
     (hashAt o).byte = (((u >>> 13) &&& 3) <<< 8) ||| (o &&& 0xFF)) ∧
    (aliasAt o = { stk := o / 2 ^ 36, ch := o / 2 ^ 31 % 32, pc := o / 2 ^ 30 % 2, bg := o / 2 ^ 28 % 4, bank := o / 2 ^ 26 % 4
                   row := o / 2 ^ 10 % 2 ^ 16, byte := o % 2 ^ 10 }) ∧
    (∀ a < 2 ^ 39, o / 2 ^ 26 = a / 2 ^ 26 ↔ (aliasAt o).stk = (aliasAt a).stk ∧ (aliasAt o).ch = (aliasAt a).ch ∧
      (aliasAt o).pc = (aliasAt a).pc ∧ (aliasAt o).bg = (aliasAt a).bg ∧ (aliasAt o).bank = (aliasAt a).bank) ∧
    (hashAt o).alias_ < 2 ^ 39 ∧ (hashAt o).hashed = o ∧ aliasAt (hashAt o).alias_ = hashAt o ∧
    (aliasAt o).alias_ = o ∧ (aliasAt o).hashed < 2 ^ 39 ∧ hashAt (aliasAt o).hashed = aliasAt o ∧
    ∀ s : State, s.locate o = some (.hbm (hashAt o).alias_) ∧ s.locate (0x010000000000 + o) = some (.hbm o)

/-- A value that a format holds rounds to itself, and digits rebuild their number. In every format and rounding mode and for every
draw: the value of a code of the format that is not NaN rounds into the format to that code, with no saturation, overflow or
integer saturation counted. For every integer X of magnitude at most 2^54, the seven balanced base-256 digits of D7SLICE lie
between -128 and 127, and X is the sum of the digits times the powers of 256. -/
def Obligations.NumbersSurviveTheirCodes : Prop :=
  (∀ (f : Fmt) (mode : Rnd) (draw code : Nat), code < 2 ^ f.width → (f.decode code).isNan = false →
    f.round mode draw (f.decode code) = { code := code }) ∧
  ∀ x : Int, -(2 ^ 54) ≤ x → x ≤ 2 ^ 54 →
    (d7DigitsUp 7 x).length = 7 ∧ (∀ d ∈ d7DigitsUp 7 x, -128 ≤ d ∧ d ≤ 127) ∧
    (d7DigitsUp 7 x).foldr (fun d a => d + 256 * a) 0 = x

/-- An MMUL leaves in the accumulator bank the sums of R105, and drains them where its word says so. A fit MMUL word that its whole
gang can issue, for every class, split and gang, plain or convolution A, with or without a cord: afterwards slot (i, j) of the
bank of gang slot 0's engine holds the combined sum, the other engines of the gang hold their own sums, and where the word
drains, the destination rows hold the converted values and nothing else of memory changes; otherwise memory is as before; each
engine of the gang keeps with the bank how many columns an operation on a cord filled, and 32 for another (log entry 108, the
model's choice). (A convolution whose T x K_t differs from taps x C_IN runs, cut short or padded, log entry 108; a D7 sum beyond
INT48 is a free value, log entry 25; the model's choices.) -/
def Obligations.MmulComputes : Prop :=
  ∀ (s : State) (core : Core) (e : Eng) (off p : Nat) (q : QWord) (o : MmulOp),
    let gang := enginesOf (wEmask q.word) q.shift
    let cls := wbits q.word 67 64
    let u := forEach gang (s.settleRamps core.val off) fun t g => t.engTake core.val off q g
    s.gangReady p core.val off e q 1 → o.w = q.word → o.gang = gang →
    runAcc (readDesc core.val (wbits q.word 26 18)) u = (.ok o.a, u) →
    runAcc (readDesc core.val (wbits q.word 17 9)) u = (.ok o.b, u) →
    (q.word.getLsbD 61 = true → runAcc (readDesc core.val (wbits q.word 8 0)) u = (.ok o.d, u)) →
    fmtOf o.a.fmt = some o.fa → fmtOf o.b.fmt = some o.fb → (q.word.getLsbD 61 = true → fmtOf o.d.fmt = some o.fd) →
    runAcc (State.convOf core.val o.a o.fa) u = (.ok o.conv, u) → (∀ v, o.conv = some v → v.own = true ∧ v.ok = true) →
    o.lanes = (if o.b.type = 2 then s.cordLanes core.val o.b.cq else wN q.word) →
    classAccepts cls o.fa = true → classAccepts cls o.fb = true →
    (q.word.getLsbD 61 = true → State.drainFmt q.word o.d = true ∧ State.fitsC core.val q.word o.d = true) →
    o.a.rsv = false → o.b.rsv = false → (o.a.type = 0 ∨ o.a.type = 1) → (o.b.type = 0 ∨ o.b.type = 2) →
    (let planes := match wbits q.word 60 59 with
        | 0 => 1
        | 1 => 2
        | 2 => 3
        | _ => wbits q.word 58 56 + 1
      State.fitsA core.val q.word o.a o.fa o.conv planes = true ∧
      descFits core.val o.b o.fb .col (match o.conv with
        | some v => min v.k (wT q.word * classKt cls)
        | none => wT q.word * classKt cls) (wN q.word) planes false = true) →
    ∃ t, exec (.mmul core e off) s = .next t ∧ s.engRan t core.val q ∧
      (∀ i j, i < wM q.word → j < wN q.word →
        t.acbVal core.val (gang.getD 0 0) (acbLoc (wBank q.word) i j) = slotBits cls (combine cls (s.mmSums core.val o i j)).1 ∧
        ∀ g, 0 < g → g < gang.length →
          t.acbVal core.val (gang.getD g 0) (acbLoc (wBank q.word) i j) = slotBits cls ((s.mmSums core.val o i j).getD g Machine.Num.zero)) ∧
      (∀ g ∈ gang, (t.engX core.val g).lanes.get 32 (wBank q.word) = if o.b.type = 2 then o.lanes else 32) ∧
      t.mem = if q.word.getLsbD 61 then
          s.drained p core.val q o.d o.fd o.lanes fun i j => slotBits cls (combine cls (s.mmSums core.val o i j)).1
        else s.mem

/-- A DRAIN writes the accumulator bank to memory, and RAMP_UP readies an engine. A fit DRAIN word that its engine can issue writes
rows 0 to M - 1 of the bank, converted into the destination's format by the word's mode, and leaves the accumulator as it was;
of a bank that an operation on a cord filled, it writes the columns of the cord's filled lanes alone (log entry 108, the model's
choice). RAMP_UP of an idle, ready engine with kindling enabled, in a cycle that the damper leaves the core, whose next word's
compiled issue cycle lies at most 64 offset cycles ahead, starts the ramp at that executed cycle and counts it; while the word
is further away it changes nothing. Ramps that have ended are taken up first (log entry 21). -/
def Obligations.DrainConverts : Prop :=
  ∀ (s : State) (core : Core) (e : Eng) (off p : Nat) (q : QWord),
    (∀ (d : Desc) (f : Fmt),
      let gang := enginesOf (wEmask q.word) q.shift
      let u := forEach gang (s.settleRamps core.val off) fun t g => t.engTake core.val off q g
      s.gangReady p core.val off e q 2 → runAcc (readDesc core.val (wbits q.word 8 0)) u = (.ok d, u) → fmtOf d.fmt = some f →
      State.drainFmt q.word d = true → State.fitsC core.val q.word d = true →
      ∃ t, exec (.drain core e off) s = .next t ∧ s.engRan t core.val q ∧ t.acb = s.acb ∧ t.stat = s.stat ∧
        t.mem = s.drained p core.val q d f ((s.engX core.val (gang.getD 0 0)).lanes.get 32 (wBank q.word)) fun i j => s.acbVal core.val (gang.getD 0 0) (acbLoc (wBank q.word) i j)) ∧
    (let u := s.settleRamps core.val off
     s.thm.trip = false → u.slotOf core.val = some p → u.slotActive p = true → u.coreState core.val = 2 → u.removed core.val off = false →
      (u.engX core.val e.val).u.queue.head? = some q → u.engState core.val e.val = engIdle →
      (u.engX core.val e.val).u.ready = true → u.kndOn core.val e.val = true →
      (u.issueCycle p q ≤ u.runCycle p off + 64 → ∃ t, exec (.rampUp core e off) s = .next t ∧
        t.engState core.val e.val = engRampUp ∧
        t.eng core.val e.val R.engRampCnt = incFld (u.eng core.val e.val R.engRampCnt) 63 32 1 ∧
        (t.engX core.val e.val) = { u.engX core.val e.val with ramp := some (u.ran core.val off) } ∧
        t = { s with cx := t.cx, coreR := t.coreR }) ∧
      ((u.runCycle p off : Int) + 64 < u.issueCycle p q → exec (.rampUp core e off) s = .next u))

/-- A cord point issues the cord of R122: full, partial or empty. At each cord point of a cord queue of a RUNNING slot, with the
eligible entries of flash f being those that wait, were in time and are due from f to f + W: where at least 32 are eligible, the
cord is the first 32 of them by D and then queue order; else, where the first of them has D = f, it is all of them in that
order; else it is empty. Its entries leave those that wait and no other entry does, but that after the last point of the flash
those due in f are answered as CORD_MISSED and leave too. Of the state only the slots change. -/
def Obligations.CordPointIssues : Prop :=
  ∀ (s : State) (slot : Slot) (q : QNum) (k : Fin 8) (d : QueueDecl) (off : Nat),
    s.thm.trip = false → s.queDecl? slot.val q.val = some d → s.slotState slot.val = 3 → d.cordKind = true →
    d.points[k.val]? = some off →
    let f := s.curRfn slot.val
    let x := s.que slot.val q.val
    let h := fld x.head 31 0
    let may (e : InEnt) : Prop := e ∈ x.ents ∧ e.inTime = true ∧ f ≤ e.dl.toNat ∧ e.dl.toNat ≤ f + d.w
    let n := x.ents.countP fun e => e.inTime && decide (f ≤ e.dl.toNat ∧ e.dl.toNat ≤ f + d.w)
    ∃ t l, exec (.cordPoint slot q k) s = .next t ∧
      (∀ e ∈ l, may e) ∧
      l.Pairwise (fun a b => a.dl.toNat < b.dl.toNat ∨ (a.dl = b.dl ∧ ahead a.idx h ≤ ahead b.idx h)) ∧
      (32 ≤ n → l.length = 32 ∧ ∀ e, may e → e ∉ l → ∀ a ∈ l, a.dl.toNat < e.dl.toNat ∨ (a.dl = e.dl ∧ ahead a.idx h ≤ ahead e.idx h)) ∧
      (n < 32 → (∃ e, may e ∧ e.dl.toNat = f) → l.length = n ∧ ∀ e, may e → e ∈ l) ∧
      (n < 32 → (∀ e, may e → e.dl.toNat ≠ f) → l = []) ∧
      (t.que slot.val q.val).cord = some
        { rfn := BitVec.ofNat 48 f, off := off, lanes := l.map fun e => { idx := e.idx, ctx := e.ctx, len := e.len } } ∧
      (k.val + 1 < d.points.length → (t.que slot.val q.val).ents = x.ents.filter (fun e => !l.contains e) ∧
        (t.slot slot.val).notices = (s.slot slot.val).notices) ∧
      (k.val + 1 = d.points.length → (t.que slot.val q.val).ents = x.ents.filter (fun e => !l.contains e && !(e.inTime && e.dl.toNat == f)) ∧
        (t.slot slot.val).notices = (s.slot slot.val).notices ++
          (x.ents.filter fun e => !l.contains e && e.inTime && e.dl.toNat == f).map fun e =>
            { q := q.val, idx := e.idx, ctx := e.ctx, flags := flCordMissed, rfn := BitVec.ofNat 48 f }) ∧
      (∀ q', q' ≠ q.val → t.que slot.val q' = s.que slot.val q') ∧ t = { s with slots := t.slots }

/-- COPY, GATHER and XSEND issue their requests. A fit STR word that heads its channel leaves the shared queue, and runs on the
channel. With tags enough, every request of a COPY or GATHER takes a transfer tag, in element order, and nothing is moved yet;
with none free to the core they all wait. With a route over a chip link that is UP, XSEND reads its rows and sends one data flit
for each of its requests, which the replay buffer of 512 keeps: the bytes read, then +0 (log entry 35, the model's choice), its
number, the acknowledgement of the last flit taken, and the CRC. On a halted channel the word completes at once and is counted
as skipped; with unfit descriptors it makes no request and sets DESC_ERR_STS. -/
def Obligations.StreamWordsIssue : Prop :=
  ∀ (s : State) (core : Core) (ch : Fin 8) (off p : Nat) (q : QWord) (src dst : Desc),
    (∀ x ∈ [(Instr.strCopy core ch off, 1), (.strGather core ch off, 2), (.strXsend core ch off, 3)],
      s.strReady p core.val ch.val off x.2 q src dst →
      (s.chanHalted core.val ch.val = true → (x.2 = 3 ∨ wbits q.word 26 23 = 0) → s.wordsLeft p core.val → (s.slot p).ending = none →
        ∃ t, exec x.1 s = .next t ∧ t.cxOf core.val = { s.cxOf core.val with strQ := (s.cxOf core.val).strQ.erase q } ∧
          t.core core.val (R.strChSts ch.val) = incFld (s.core core.val (R.strChSts ch.val)) 47 16 1 ∧
          s.signalled t core.val q.word ∧ t = { s with cx := t.cx, coreR := t.coreR }) ∧
      (s.chanHalted core.val ch.val = false → State.strFits q.word src dst = false →
        ∃ t, exec x.1 s = .next t ∧ (t.cxOf core.val).reqs = (s.cxOf core.val).reqs ∧
          (t.cxOf core.val).strRun.find? ch.val = some q ∧ bitAt (t.core core.val R.seqSts) 7 = true ∧
          t = { s with cx := t.cx, coreR := t.coreR }) ∧
      (s.chanHalted core.val ch.val = false → State.strFits q.word src dst = true → x.2 ≠ 3 →
        s.tagsOf core.val false + (strReqs q src dst).length ≤ 256 → s.dieTags (dieOf core.val) + (strReqs q src dst).length ≤ 4096 →
        ∃ t, exec x.1 s = .next t ∧ (t.cxOf core.val).reqs = (s.cxOf core.val).reqs ++ strReqs q src dst ∧
          (t.cxOf core.val).waiting = (s.cxOf core.val).waiting ∧ (t.cxOf core.val).strQ = (s.cxOf core.val).strQ.erase q ∧
          (t.cxOf core.val).strRun.find? ch.val = some q ∧ t = { s with cx := t.cx, coreR := t.coreR, slots := t.slots }) ∧
      (s.chanHalted core.val ch.val = false → State.strFits q.word src dst = true → x.2 ≠ 3 → 256 ≤ s.tagsOf core.val false →
        ∃ t, exec x.1 s = .next t ∧ (t.cxOf core.val).waiting = (s.cxOf core.val).waiting ++ strReqs q src dst ∧
          (t.cxOf core.val).reqs = (s.cxOf core.val).reqs ∧ (t.cxOf core.val).strRun.find? ch.val = some q ∧
          t = { s with cx := t.cx, slots := t.slots, kpr := t.kpr }) ∧
      (s.chanHalted core.val ch.val = false → State.strFits q.word src dst = true → x.2 = 3 → s.ownClean core.val →
        (∀ r ∈ strReqs q src dst, (ownPart core.val r.fromDa (r.fromDa + r.bytes)).isSome = true) →
        s.tagsOf core.val true + (strReqs q src dst).length ≤ 128 → s.dieTags (dieOf core.val) + (strReqs q src dst).length ≤ 4096 →
        ∀ i j, (s.slot p).img = some i → i.routeTo (wbits q.word 22 13) = some j → s.lnkState j = lnkUp →
        ∃ t, exec x.1 s = .next t ∧ (t.cxOf core.val).reqs = (s.cxOf core.val).reqs ++ strReqs q src dst ∧
          (t.cxOf core.val).strRun.find? ch.val = some q ∧
          (t.clx j).txSeq % 4096 = ((s.clx j).txSeq + (strReqs q src dst).length) % 4096 ∧
          ((s.clx j).txSeq < 4096 →
            let sent := (s.clx j).replay ++ (strReqs q src dst).mapIdx fun k r =>
              (((s.clx j).txSeq + k) % 4096,
                s.dataFlitOf j (((s.clx j).txSeq + k) % 4096) (Memory.gets s.mem r.fromDa r.bytes))
            (t.clx j).replay = sent.drop (sent.length - 512)) ∧
          t = { s with cx := t.cx, coreR := t.coreR, slots := t.slots, cl := t.cl }))

/-- What the return of a request does. With no request waiting for a tag: a memory request that returns OK frees its tag and moves
its bytes (whole words with the check bytes that alone are wrong, log entry 98, the model's choice; a GATHER row moves the 32
bytes that its 8-byte entry names; of a last byte with one 4-bit element the other nibble stays), or at a reduction window over
clean HBM applies each element to its target and changes nothing else below the turf; an error instead halts its channel with
the cause, the address and a log entry. A request that has not returned after 100 µs halts its channel with TARGET_RESET and two
log entries; a walker access that has not, while the walker runs a word, halts the walker with cause 3 and its address (log
entry 34, the model's choice); a queue-port access that has not is logged and fails its word (log entry 35, the model's choice).
A remote request acknowledged OK only frees its tag; an error halts its channel. A request whose core has given its words up
moves nothing and frees its tag (log entry 112, the model's choice). The tag that a return frees goes to a memory request, or to
the fetch, walker or queue port, of the core that waits, whose event then comes about when given again (log entry 35). -/
def Obligations.RequestsReturn : Prop :=
  ∀ (s : State) (core : Core) (i p : Nat) (r : Req),
    s.thm.trip = false → s.runSlot core.val = some p → (s.cxOf core.val).reqs[i]? = some r →
    (r.dead = true → s.noneWait →
      let u := s.updCx core.val fun x => { x with reqs := x.reqs.eraseIdx i }
      (r.kind ≠ 2 → ∀ st ∈ [ReqStatus.ok, .addressError, .targetReset], exec (.requestComplete core i st) s = .next u) ∧
      (r.kind = 2 → ∀ st ∈ [ReqStatus.ok, .uncorrectable, .addressError, .targetReset], exec (.remoteAck core i st) s = .next u) ∧
      (∃ t, exec (.memoryTimeout core (.stream i)) s = .next t ∧ t.cx = u.cx ∧ t.kpr.logSeq = s.kpr.logSeq + 1 ∧ t = { u with kpr := t.kpr })) ∧
    (∀ (q : QWord) (da : BitVec 48), (s.cxOf core.val).que.queue.head? = some q → wClass q.word = 6 → 2 ≤ wOpc q.word →
      ∃ t, exec (.memoryTimeout core (.queue da)) s = .next t ∧ (t.cxOf core.val).late = (s.cxOf core.val).late ++ [da.toNat] ∧
        t.kpr.logSeq = s.kpr.logSeq + 1 ∧ t = { s with cx := t.cx, kpr := t.kpr }) ∧
    (r.dead = false → r.kind ≠ 2 → s.chanHalted core.val r.ch = false → (∀ c, c ≠ core.val → s.noWait c) → s.tagsOf core.val false ≤ 256 →
      s.dieTags (dieOf core.val) ≤ 4096 →
      (∀ r', r'.kind ≠ 2 → r'.ch ≠ r.ch → (s.cxOf core.val).waiting = [r'] → (s.cxOf core.val).stalled = [] →
        ∃ t, exec (.requestComplete core i .addressError) s = .next t ∧ (t.cxOf core.val).waiting = [] ∧
          (t.cxOf core.val).reqs = (s.cxOf core.val).reqs.eraseIdx i ++ [r']) ∧
      (∀ k, (s.cxOf core.val).waiting = [] → (s.cxOf core.val).stalled = [k] →
        ∃ t, exec (.requestComplete core i .addressError) s = .next t ∧ (t.cxOf core.val).stalled = [] ∧
          (t.cxOf core.val).granted = (s.cxOf core.val).granted ++ [k] ∧ t.tagReady core.val k = true ∧
          (t.cxOf core.val).reqs = (s.cxOf core.val).reqs.eraseIdx i)) ∧
    (r.dead = false → s.noneWait →
    let u := s.updCx core.val fun x => { x with reqs := x.reqs.eraseIdx i }
    (∀ b v w, r.kind = 0 → r.half = false → windowAt r.toDa = none → u.readDa (.stream core.val) r.fromDa r.bytes = (.ok b, v) →
      v.writeDa (.stream core.val) r.toDa b = (none, w) →
      (u.wrongChecks r.fromDa r.toDa r.bytes = [] →
        ∃ t, exec (.requestComplete core i .ok) s = .next t ∧ t.mem = w.mem ∧ t.syn = w.syn ∧ t.cache = w.cache ∧ t.poison = w.poison ∧
          (t.cxOf core.val).reqs = (s.cxOf core.val).reqs.eraseIdx i) ∧
      (∀ a y a' d, u.wrongChecks r.fromDa r.toDa r.bytes = [(a, y)] → w.locate a = some (.sram a' d) →
        ∃ t, exec (.requestComplete core i .ok) s = .next t ∧ t.mem = w.mem ∧ t.syn = w.syn.set (a' / 8) y ∧
          (t.cxOf core.val).reqs = (s.cxOf core.val).reqs.eraseIdx i)) ∧
    (∀ b v, r.kind = 0 → r.half = true → windowAt r.toDa = none → u.readDa (.stream core.val) r.fromDa r.bytes = (.ok b, v) → b ≠ [] →
      v.ownClean core.val → (ownPart core.val r.toDa (r.toDa + b.length)).isSome = true → u.wrongChecks r.fromDa r.toDa (r.bytes - 1) = [] →
      ∃ t, exec (.requestComplete core i .ok) s = .next t ∧ t.syn = v.syn ∧
        t.mem = Memory.sets v.mem r.toDa (b.dropLast ++ [(b.getLastD 0 &&& 0x0F) ||| (Memory.get v.mem (r.toDa + b.length - 1) &&& 0xF0)]) ∧
        (t.cxOf core.val).reqs = (s.cxOf core.val).reqs.eraseIdx i) ∧
    (∀ b v k op da, r.kind = 0 → windowAt r.toDa = some (k, op, da) → u.readDa (.stream core.val) r.fromDa r.bytes = (.ok b, v) →
      v.hbmClean → b.length ≤ 256 →
      let n := if k = 1 then 8 else 4
      da % n = 0 → b.length % n = 0 → da + b.length ≤ turfBase →
      ∃ t, exec (.requestComplete core i .ok) s = .next t ∧ (t.cxOf core.val).reqs = (s.cxOf core.val).reqs.eraseIdx i ∧
        (∀ x < b.length / n, t.peek (da + n * x) n = windowOp op (8 * n) (leAt b (n * x) n) (v.peek (da + n * x) n)) ∧
        (∀ a < turfBase, a < da ∨ da + b.length ≤ a → t.peek a 1 = v.peek a 1) ∧ t.mem = v.mem) ∧
    (∀ e b v v' w, r.kind = 1 → u.readDa (.stream core.val) r.fromDa 8 = (.ok e, v) →
      leNat e % 2 ^ 48 % 32 = 0 → leNat e % 2 ^ 48 < turfBase → v.readDa (.stream core.val) (leNat e % 2 ^ 48) 32 = (.ok b, v') →
      v.wrongChecks (leNat e % 2 ^ 48) r.toDa 32 = [] →
      v'.writeDa (.stream core.val) r.toDa b = (none, w) →
      ∃ t, exec (.requestComplete core i .ok) s = .next t ∧ t.mem = w.mem ∧ t.syn = w.syn ∧ t.cache = w.cache ∧
        (t.cxOf core.val).reqs = (s.cxOf core.val).reqs.eraseIdx i) ∧
    (s.chanHalted core.val r.ch = false →
      (∀ x ∈ [(ReqStatus.uncorrectable, 1, 2), (.addressError, 2, 1), (.targetReset, 3, 1), (.timeout, 3, 2)],
        (r.kind ≠ 2 → ∃ t, exec (.requestComplete core i x.1) s = .next t ∧ t.chanHalted core.val r.ch = true ∧
          fld (t.core core.val (R.strChSts r.ch)) 9 8 = x.2.1 ∧
          t.core core.val (R.strChAddr r.ch) = BitVec.ofNat 64 (r.fromDa % 2 ^ 48) ∧
          t.kpr.logSeq = s.kpr.logSeq + x.2.2 ∧ (t.slot p).channelHalted = true ∧ t.mem = s.mem) ∧
        (r.kind = 2 → ∃ t, exec (.remoteAck core i x.1) s = .next t ∧ t.chanHalted core.val r.ch = true ∧
          fld (t.core core.val (R.strChSts r.ch)) 9 8 = x.2.1 ∧
          t.core core.val (R.strChAddr r.ch) = BitVec.ofNat 64 (r.toDa % 2 ^ 48) ∧ t.mem = s.mem)) ∧
      (∃ t, exec (.memoryTimeout core (.stream i)) s = .next t ∧ t.chanHalted core.val r.ch = true ∧
        fld (t.core core.val (R.strChSts r.ch)) 9 8 = 3 ∧ t.kpr.logSeq = s.kpr.logSeq + 2 ∧
        (t.cxOf core.val).reqs = (s.cxOf core.val).reqs.eraseIdx i ∧ t.mem = s.mem)) ∧
    (r.kind = 2 → exec (.remoteAck core i .ok) s = .next u) ∧
    (∀ da : BitVec 48, (s.cxOf core.val).pgw.run.isSome = true → bitAt (s.core core.val R.pgwSts) 11 = false →
      ∃ t, exec (.memoryTimeout core (.walker da)) s = .next t ∧ bitAt (t.core core.val R.pgwSts) 11 = true ∧
        t.core core.val R.pgwErrAddr = BitVec.ofNat 64 (2 ^ 63 + 3 * 2 ^ 48 + da.toNat) ∧ (t.slot p).walkerHalted = true ∧
        t.kpr.logSeq = s.kpr.logSeq + 2 ∧ t.mem = s.mem ∧ (t.cxOf core.val).reqs = (s.cxOf core.val).reqs))

/-- BEGIN, FEED, END and CMP of the check unit. BEGIN sets the context's running value to INIT, with FOLD 2 after the eight bytes of
the sequence value. FEED takes the bytes of its rows into it, with FOLD 1 with the addresses folded in. END leaves the finished
value in the result register and, 8 bytes little-endian, in memory, ends the run of the context, and advances the sequence value
where INC says so. CMP sets the context's failure bit exactly where the 8 bytes it reads are not the last result. With an unfit
descriptor DESC_ERR_STS is set and nothing else happens. (A FEED or END without BEGIN starts from INIT, and FOLD 1 folds a block
again that is entered again, log entry 36, the model's choices.) -/
def Obligations.CheckUnitWords : Prop :=
  ∀ (s : State) (core : Core) (off p : Nat) (q : QWord) (d : Desc),
    let c := core.val
    let k := wCtx q.word
    let P := s.chkP c k
    let src := runAcc (readDesc c (wChkSrc q.word)) (s.unitTake c .chk q) = (.ok d, s.unitTake c .chk q)
    (s.issues p c off .chk q 5 1 → ∃ t, exec (.chkBegin core off) s = .next t ∧ (t.cxOf c).chk.run = some q ∧
      (t.cxOf c).chkRun.find? k = some (BitVec.ofNat 64 (if fld (s.core c (R.chkCtrl k)) 15 14 = 2 then
        crcFeed P P.init (leBytes 8 (s.core c (R.chkSeq k)).toNat) else P.init)) ∧ t = { s with cx := t.cx }) ∧
    (s.issues p c off .chk q 5 2 → src → descPlain d = true →
      let n := rowBytes ((fmtOf d.fmt).getD .fp32) (wbits q.word 48 37 + 1)
      let rows := wbits q.word 60 49 + 1
      spanFits c d n rows 1 false = true → ∃ t, exec (.chkFeed core off) s = .next t ∧ (t.cxOf c).chk.run = some q ∧
        (t.cxOf c).chkRun.find? k = some (BitVec.ofNat 64
          (if fld (s.core c (R.chkCtrl k)) 15 14 = 1 then
            ((List.range rows).foldl (fun v r => feedFolded P (rowDa d 0 r) v.2 v.1 (Memory.gets s.mem (rowDa d 0 r) n))
              (s.chkVal c k, none)).1
          else crcFeed P (s.chkVal c k) ((List.range rows).flatMap fun r => Memory.gets s.mem (rowDa d 0 r) n))) ∧
        t = { s with cx := t.cx }) ∧
    (s.issues p c off .chk q 5 3 → src → descPlain d = true → spanFits c d 8 1 1 true = true →
      let v := crcFinish P (s.chkVal c k)
      ∃ t, exec (.chkEnd core off) s = .next t ∧ (t.cxOf c).chk.run = some q ∧ t.core c (R.chkRes k) = BitVec.ofNat 64 v ∧
        (t.cxOf c).chkRun.find? k = none ∧ t.mem = Memory.sets s.mem d.base (leBytes 8 v) ∧
        t.core c (R.chkSeq k) = (if bitAt (s.core c (R.chkCtrl k)) 13 then s.core c (R.chkSeq k) + 1 else s.core c (R.chkSeq k)) ∧
        t = { s with cx := t.cx, coreR := t.coreR, mem := t.mem, syn := t.syn }) ∧
    (s.issues p c off .chk q 5 4 → src → descPlain d = true → spanFits c d 8 1 1 false = true →
      ∃ t, exec (.chkCmp core off) s = .next t ∧ (t.cxOf c).chk.run = some q ∧
        t.core c R.chkSts = (if leNat (Memory.gets s.mem d.base 8) = (s.core c (R.chkRes k)).toNat then s.core c R.chkSts
          else setBit (s.core c R.chkSts) k true) ∧ t = { s with cx := t.cx, coreR := t.coreR }) ∧
    (∀ x ∈ [(Instr.chkFeed core off, 2), (.chkEnd core off, 3), (.chkCmp core off, 4)],
      s.issues p c off .chk q 5 x.2 → src → descPlain d = false → ∃ t, exec x.1 s = .next t ∧
        bitAt (t.core c R.seqSts) 7 = true ∧ (t.cxOf c).chkRun = (s.cxOf c).chkRun ∧ t.mem = s.mem)

/-- CORD_TAKE, IN_READ and OUT_WRITE. Of the run of slot p, with RFN f of the word. CORD_TAKE latches the cord issued in flash f at
or before its offset, else an empty one, and records its lanes' entries, and changes nothing else. IN_READ on a plain input
takes, in index order, the first MAX waiting entries of deadline f that were in time, and records each with its row; of a cord
queue it records the latched lanes. Over a clean ring in HBM row j then holds the payload of entry or lane j, cut to LEN, the
entry's room and the row, then +0; a row of an unfilled lane is +0, a row beyond the entries taken stays. OUT_WRITE writes for
each entry recorded, in order, the header of R221 and its row at the next index of the ring, one entry from any ring that takes
it and several over a clean ring; with the ring full an entry is lost and GAP follows; a silenced run writes none. Rows are
ROW_PITCH long, and LEN is that length (log entry 37, the model's choice). Every fit or unfit form runs on the queue port; with
no tag free an IN_READ or OUT_WRITE waits whole and comes about when given again (log entry 35, the model's choice). -/
def Obligations.QueuePortWords : Prop :=
  ∀ (s : State) (core : Core) (off p : Nat) (q : QWord),
    let c := core.val
    let n := wQ q.word
    let f := q.rfn.toNat
    let u := s.unitTake c .que q
    let x := s.que p n
    let h := fld x.head 31 0
    (s.issues p c off .que q 6 1 →
      let latch (k : Cord) : State := u.updCx c fun y => { y with
        cords := y.cords.set n k
        lq := y.lq.set n (k.lanes.mapIdx fun j l => { row := j, idx := l.idx, ctx := l.ctx, trunc := false, err := false }) }
      (∀ k, x.cord = some k → k.rfn = q.rfn → (k.off ≤ off ∨ f < s.curRfn p) → exec (.cordTake core off) s = .next (latch k)) ∧
      ((∀ k, x.cord = some k → k.rfn ≠ q.rfn ∨ (off < k.off ∧ s.curRfn p ≤ f)) →
        exec (.cordTake core off) s = .next (latch { rfn := q.rfn, off := off, lanes := [] }))) ∧
    (∀ y ∈ [(Instr.inRead core off, 2), (.outWrite core off, 3)], s.canIssue p c off .que q 6 y.2 → s.tagReady c 8 = false →
      (s.cxOf c).stalled.contains 8 = false → ∃ t, exec y.1 s = .next t ∧
        t.cxOf c = { s.cxOf c with stalled := (s.cxOf c).stalled ++ [8] } ∧ (t.slot p).tag = incFld (s.slot p).tag 63 32 1 ∧
        t = { s with cx := t.cx, slots := t.slots, kpr := t.kpr }) ∧
    (s.tagFree c 8 → (s.cxOf c).late = [] →
    (∀ (qd : QueueDecl) (d : Desc), s.issues p c off .que q 6 2 → s.queDecl? p n = some qd → qd.input = true →
      runAcc (readDesc c (wQDesc q.word)) u = (.ok d, u) →
      (qd.cordKind = false → rowsFit c d (wMax q.word) = true → ∃ t es, exec (.inRead core off) s = .next t ∧
        (∀ e ∈ es, e ∈ x.ents ∧ e.inTime = true ∧ e.dl.toNat = f) ∧ es.Pairwise (fun a b => ahead a.idx h ≤ ahead b.idx h) ∧
        es.length = min (wMax q.word) (x.ents.countP fun e => e.inTime && e.dl.toNat == f) ∧
        (∀ e ∈ x.ents, e.inTime = true → e.dl.toNat = f → e ∉ es → ∀ a ∈ es, ahead a.idx h ≤ ahead e.idx h) ∧
        (t.que p n).ents = x.ents.filter (fun e => !es.contains e) ∧ (∀ e ∈ es, e.idx ∈ (t.que p n).done) ∧
        ((t.cxOf c).lq.get [] n).map (fun r => (r.row, r.idx, r.ctx, r.trunc)) =
          es.mapIdx (fun j e => (j, e.idx, e.ctx, decide (min e.len (min (qd.esize - 32) d.rowPitch) < e.len))) ∧
        (∀ e b v, es = [e] →
          (u.updQue p n fun y => State.settle y es).readDa (.queue c) (qd.entryDa e.idx + 32) (min e.len (min (qd.esize - 32) d.rowPitch)) =
            (.ok b, v) →
          Memory.gets t.mem (rowDa d 0 0) d.rowPitch = b ++ zeros (d.rowPitch - b.length)) ∧
        (s.hbmClean → State.inHbm qd.ring (qd.depth * qd.esize) = true →
          ((t.cxOf c).lq.get [] n).all (fun r => !r.err) = true ∧
          (∀ j e, es[j]? = some e → let k := min e.len (min (qd.esize - 32) d.rowPitch)
            Memory.gets t.mem (rowDa d 0 j) d.rowPitch = s.seen (qd.entryDa e.idx + 32) k ++ zeros (d.rowPitch - k)) ∧
          (∀ j, es.length ≤ j → j < wMax q.word →
            Memory.gets t.mem (rowDa d 0 j) d.rowPitch = Memory.gets s.mem (rowDa d 0 j) d.rowPitch))) ∧
      (qd.cordKind = true → rowsFit c d 32 = true → ∀ k, (s.cxOf c).cords.find? n = some k → k.lanes.length ≤ 32 →
        ∃ t, exec (.inRead core off) s = .next t ∧ t.slots.map (·.1) = s.slots.map (·.1) ∧ (t.que p n).ents = x.ents ∧
          ((t.cxOf c).lq.get [] n).map (fun r => (r.row, r.idx, r.ctx, r.trunc)) =
            k.lanes.mapIdx (fun j l => (j, l.idx, l.ctx, decide (min l.len (min (qd.esize - 32) d.rowPitch) < l.len))) ∧
          (k.lanes = [] → ∀ j < 32, Memory.gets t.mem (rowDa d 0 j) d.rowPitch = zeros d.rowPitch) ∧
          (s.hbmClean → State.inHbm qd.ring (qd.depth * qd.esize) = true → ∀ j < 32,
            Memory.gets t.mem (rowDa d 0 j) d.rowPitch = match k.lanes[j]? with
              | some l => let m := min l.len (min (qd.esize - 32) d.rowPitch)
                s.seen (qd.entryDa l.idx + 32) m ++ zeros (d.rowPitch - m)
              | none => zeros d.rowPitch))) ∧
    (∀ (qd : QueueDecl) (d : Desc) (r : LqRec), s.issues p c off .que q 6 3 → s.queDecl? p n = some qd → 2 ≤ qd.kind →
      runAcc (readDesc c (wQDesc q.word)) u = (.ok d, u) → rowsFit c d 1 = true →
      (wOne q.word = true ∧ r = { row := 0, idx := 0, ctx := 0, trunc := false, err := false } ∨
       wOne q.word = false ∧ r.row = 0 ∧ (s.cxOf c).lq.get [] (wLq q.word) = [r] ∧
         ∀ l, s.queDecl? p (wLq q.word) = some l → l.cordKind = false) →
      let b := Memory.gets s.mem (rowDa d 0 0) (min d.rowPitch (qd.esize - 32))
      ∀ sb w, (wOne q.word = true ∨ qd.kind = 2 → sb = zeros 16 ∧ w = u) →
        (wOne q.word = false → qd.kind ≠ 2 → u.readDa (.queue c) (fld (s.core c R.pgwCstatBase) 47 0 + 16 * r.ctx) 16 = (.ok sb, w)) →
      let fl := ((if f - wSback q.word < leAt sb 0 8 then flKvFull else 0) + (if f - wSback q.word < leAt sb 8 8 then flAttnSkipped else 0) +
        (if r.trunc then flInputTrunc else 0) + (if r.err then flInputErr else 0)) ||| s.haltFlags p
      let header := if qd.kind = 2 then
          leBytes 8 (r.ctx % 4096 * 2 ^ 48 + (f + wDdl q.word) % 2 ^ 48) ++ leBytes 8 (b.length % 2 ^ 16 * 2 ^ 32) ++ zeros 16
        else leBytes 8 (wOkind q.word % 16 * 2 ^ 60 + r.ctx % 4096 * 2 ^ 48 + f % 2 ^ 48) ++
          leBytes 8 ((if x.gap then fl ||| flGap else fl) % 2 ^ 16 * 2 ^ 48 + d.rowPitch % 2 ^ 16 * 2 ^ 32 + r.idx % 2 ^ 32) ++
          leBytes 8 (x.wtail % 2 ^ 32) ++ zeros 8
      (s.muted p f = true → ∃ t, exec (.outWrite core off) s = .next t ∧ t.slots = w.slots ∧ t.mem = w.mem) ∧
      (s.muted p f = false → qd.depth ≤ ahead x.wtail h → ∃ t, exec (.outWrite core off) s = .next t ∧ t.mem = w.mem ∧
        t.que p n = { x with sts := setBit (incFld x.sts 47 16 1) 1 true, gap := true }) ∧
      (∀ v, s.muted p f = false → ahead x.wtail h < qd.depth →
        w.writeDa (.queue c) (qd.entryDa x.wtail) (header ++ b) = (none, v) →
        ∃ t, exec (.outWrite core off) s = .next t ∧ t.mem = v.mem ∧ t.cache = v.cache ∧ t.syn = v.syn ∧
          t.que p n = { x with wtail := idxAdd x.wtail 1, wrote := x.wrote ++ [f], gap := false })) ∧
    (∀ (qd : QueueDecl) (d : Desc) (rs : List LqRec), s.issues p c off .que q 6 3 → s.queDecl? p n = some qd → 2 ≤ qd.kind →
      runAcc (readDesc c (wQDesc q.word)) u = (.ok d, u) → wOne q.word = false → (s.cxOf c).lq.get [] (wLq q.word) = rs →
      let rows := if (s.queDecl? p (wLq q.word)).any (·.cordKind) then 32 else rs.length
      rowsFit c d rows = true → (∀ r ∈ rs, r.row < rows) → s.muted p f = false → rs ≠ [] → 32 ≤ qd.esize → qd.depth ≤ 2 ^ 32 →
      ahead x.wtail h + rs.length ≤ qd.depth →
      s.hbmClean → State.inHbm qd.ring (qd.depth * qd.esize) = true →
      let stat (r : LqRec) : Nat := fld (s.core c R.pgwCstatBase) 47 0 + 16 * r.ctx
      (qd.kind ≠ 2 → ∀ r ∈ rs, State.inHbm (stat r) 16 = true ∧
        ∀ a < 16, ∀ b < qd.depth * qd.esize, s.locate (stat r + a) ≠ s.locate (qd.ring + b)) →
      let pay (r : LqRec) : List Byte := Memory.gets s.mem (rowDa d 0 r.row) (min d.rowPitch (qd.esize - 32))
      let head (i : Nat) (r : LqRec) : List Byte := if qd.kind = 2 then
          leBytes 8 (r.ctx % 4096 * 2 ^ 48 + (f + wDdl q.word) % 2 ^ 48) ++ leBytes 8 ((pay r).length % 2 ^ 16 * 2 ^ 32) ++ zeros 16
        else
          let fl := ((if f - wSback q.word < leAt (s.seen (stat r) 16) 0 8 then flKvFull else 0) +
            (if f - wSback q.word < leAt (s.seen (stat r) 16) 8 8 then flAttnSkipped else 0) +
            (if r.trunc then flInputTrunc else 0) + (if r.err then flInputErr else 0)) ||| s.haltFlags p
          leBytes 8 (wOkind q.word % 16 * 2 ^ 60 + r.ctx % 4096 * 2 ^ 48 + f % 2 ^ 48) ++
            leBytes 8 ((if x.gap && i == 0 then fl ||| flGap else fl) % 2 ^ 16 * 2 ^ 48 + d.rowPitch % 2 ^ 16 * 2 ^ 32 + r.idx % 2 ^ 32) ++
            leBytes 8 (idxAdd x.wtail i % 2 ^ 32) ++ zeros 8
      ∃ t, exec (.outWrite core off) s = .next t ∧
        (∀ i r, rs[i]? = some r → t.seen (qd.entryDa (idxAdd x.wtail i)) (32 + (pay r).length) = head i r ++ pay r) ∧
        t.que p n = { x with
          wtail := idxAdd x.wtail rs.length, wrote := x.wrote ++ List.replicate rs.length f, gap := false }) ∧
    (∀ y ∈ [(Instr.inRead core off, 2), (.outWrite core off, 3)], ∀ d, s.issues p c off .que q 6 y.2 →
      runAcc (readDesc c (wQDesc q.word)) u = (.ok d, u) →
      (∀ r ∈ (s.cxOf c).lq.get [] (wLq q.word), r.row < ((s.cxOf c).lq.get [] (wLq q.word)).length) →
      ∃ t, exec y.1 s = .next t ∧ (t.cxOf c).que = { (s.cxOf c).que with queue := (s.cxOf c).que.queue.drop 1, run := some q } ∧
        t.coreState c = 2))

/-- MERGE merges the rows of two partial results. A fit MERGE word that walker and vector engine can issue writes, row by row, the
merge of the two rows (O1, m1, l1) and (O2, m2, l2), normalised with NORM, and its statistics; a halted walker writes +0 rows
with statistics (-infinity, 0) instead. Memory holds nothing else new. -/
def Obligations.MergeRows : Prop :=
  ∀ (s : State) (core : Core) (off p : Nat) (q : QWord) (d : Nat → Desc),
    let c := core.val
    let dim := (s.geom c).d
    let rows := wbits q.word 16 5 + 1
    let u := s.walkTake c off q 3
    s.walkReady p c off q 3 →
    (∀ k < 6, runAcc (readDesc c (wbits q.word (71 - 9 * k) (63 - 9 * k))) u = (.ok (d k), u)) →
    (∀ k < 6, rowsOk c (d k) (if k % 2 = 0 then dim else 2) rows (decide (4 ≤ k)) (· == .fp32) = true) →
    ∃ t, exec (.merge core off) s = .next t ∧ (t.cxOf c).pgw.run = some q ∧ (t.cxOf c).vec.run = some q ∧
      t.mem = (if bitAt (s.core c R.pgwSts) 11 then blankMem s.mem d dim rows else mergeMem s.mem d dim rows (q.word.getLsbD 17)) ∧
      t = { s with cx := t.cx, coreR := t.coreR, mem := t.mem, syn := t.syn, slots := t.slots } ∧
      ∀ k, t.slot k = { s.slot k with tag := (t.slot k).tag }

/-- APPEND, ATTN and SCORES work through their lists. An APPEND, ATTN or SCORES word that all its units can issue, with its
descriptors readable, always completes: it runs in each of its units and has left their queues. A fit one serves the entries of
its walker list in order by the model's meaning of an entry (latching and skipping of R174-R176, appends of R179-R181, attention
of R187, scores of R193), its generator seeded first. An error in reading the list halts the walker first, with the entries read
before it still in the list. A halted walker appends nothing, and its ATTN writes +0 to every output row of every entry. Of a
list of one entry, its context named by field or by lane, tables and vectors in the core's own clean memory: a reserving APPEND
quantises key and value of each token into the next slots of the last page, of its copy where it is shared, of a page added from
the pool, or parks the context (kv_full); with RSV 0 it rewrites the slots reserved last; ATTN writes the merged rows of its
chunks, SCORES the weights or in mode 1 their sums by page; a context that is not LIVE is skipped with its status words, an
unfilled lane without. (The model's choices: cases that meet and CHUNK_MAX 0 for APPEND, log entry 39; draws and RND, 40;
staging, 41; output formats, 114; STATE 3, SLOT at or above H_s, long WD rows and weights of -infinity, 122 to 125.) -/
def Obligations.WalkerListWords : Prop :=
  ∀ (s : State) (core : Core) (off p : Nat) (q : QWord) (l : WList) (ld qd bd dd : Desc) (lv : State),
    let c := core.val
    let g := s.geom c
    (∀ x ∈ [(Instr.append core off, 2), (.attn core off, 1), (.scores core off, 4)],
     let u := s.walkTake c off q x.2
     s.walkReady p c off q x.2 →
     (∀ k < (if x.2 = 4 ∨ (x.2 = 1 ∧ wStat q.word = true) then 4 else 3), ∃ d, runAcc (readDesc c (wbits q.word (59 - 9 * k) (51 - 9 * k))) u = (.ok d, u)) →
     ∃ t, exec x.1 s = .next t ∧
       (t.cxOf c).pgw.run = some q ∧ (t.cxOf c).pgw.queue = (s.cxOf c).pgw.queue.drop 1 ∧ t.pgwState c = unitActive ∧
       (x.2 ≠ 2 → (t.cxOf c).vec.run = some q ∧ (t.cxOf c).vec.queue = (s.cxOf c).vec.queue.drop 1 ∧ t.vecState c = unitActive) ∧
       (∀ e ∈ walkEngs q, (t.engX c e).u.run = some q ∧ (t.engX c e).u.queue = (s.engX c e).u.queue.drop 1 ∧ t.engState c e = engActive)) ∧
    (let u := s.walkTake c off q 2
     s.walkReady p c off q 2 → runAcc (readDesc c (wbits q.word 59 51)) u = (.ok ld, u) →
     runAcc (readDesc c (wbits q.word 50 42)) u = (.ok qd, u) → runAcc (readDesc c (wbits q.word 41 33)) u = (.ok bd, u) →
     runAcc (readWalkList c ld.base) u = (.ok (some l), lv) →
     rowsOk c qd g.d (rowsUsed l.ents fun e => e.qrow + e.ntok) false (fun _ => true) = true →
     rowsOk c bd g.d (rowsUsed l.ents fun e => e.qrow + e.ntok) false (fun _ => true) = true →
     let o : AppOp := { kd := qd, vd := bd, fk := (fmtOf qd.fmt).getD .fp32, fv := (fmtOf bd.fmt).getD .fp32 }
     let v := walkEntries c (appendEntry p c q l o) (fun _ => pure ()) l.ents (runAcc (seedWord p c q) (lv.listHalt c l)).2
     ∃ t, exec (.append core off) s = .next t ∧ (t.cxOf c).pgw.run = some q ∧
       t.mem = v.mem ∧ t.cache = v.cache ∧ t.cx = v.cx ∧ t.coreR = v.coreR ∧ t.kpr = v.kpr ∧
       (bitAt (s.core c R.pgwSts) 11 = true → t.mem = lv.mem) ∧
       ∀ e, l.ents = [e] → l.err = none → bitAt (s.core c R.pgwSts) 11 = false →
         let served := fld (t.core c R.pgwEntCnt) 31 0 = min (fld (s.core c R.pgwEntCnt) 31 0 + 1) (2 ^ 32 - 1)
         (s.unfilled c l e → t.mem = s.mem ∧ t.core c R.pgwEntCnt = s.core c R.pgwEntCnt ∧
           ∀ b ∈ [9, 10, 11], bitAt (t.core c R.pgwSts) b = bitAt (s.core c R.pgwSts) b) ∧
         (∀ n x ps, s.latches c q l e n x ps → q.word.getLsbD 63 = false → x.last ≤ (tokenSlots ps).length → x.last ≤ e.ntok →
           let slots := (tokenSlots ps).drop ((tokenSlots ps).length - x.last)
           (∀ y ∈ slots, slotOwn c g y.1 (wSlot q.word) y.2) → t.mem = s.rewriteMem p c q o e slots ∧ served) ∧
         (∀ n x ps, s.latches c q l e n x ps → q.word.getLsbD 63 = true →
           (∀ y, ps.getLast? = some y → y.2.ref ≤ 1 → y.2.fill + e.ntok ≤ slotsOf y.2.sz →
             (∀ i < e.ntok, slotOwn c g y.2 (wSlot q.word) (y.2.fill + i)) →
             t.mem = s.appendMem p c q o e n s.mem (s.frameDa c y.1.frame) y.2 x ∧ served) ∧
           ((∀ y, ps.getLast? = some y → y.2.fill = slotsOf y.2.sz ∨ (1 < y.2.ref ∧ g.cow < y.2.sz)) → e.ntok = 1 → x.npages < x.cap →
             0 < s.poolCnt c x.grow →
             let a := s.poolDa c x.grow ((s.cxOf c).poolHead.get 0 x.grow)
             let k := leNat (Memory.gets s.mem a 2)
             let f : Frame := { frameAt s.mem (s.frameDa c k) with st := 2, ref := 1, fill := 0, free := 0 }
             inOwn c a 2 → inOwn c (s.frameDa c k) 16 → inOwn c (x.list + 8 * x.npages) 8 → slotOwn c g f (wSlot q.word) 0 →
             t.mem = s.appendMem p c q o e n (Memory.sets (setFrame s.mem (s.frameDa c k) f) (x.list + 8 * x.npages)
               (leBytes 8 (Page.word { pos := nextPos ps, frame := k }))) (s.frameDa c k) f { x with npages := x.npages + 1 } ∧
             t.poolCnt c x.grow = s.poolCnt c x.grow - 1 ∧ served) ∧
           (∀ y, ps.getLast? = some y → 1 < y.2.ref → y.2.sz ≤ g.cow → y.2.fill < slotsOf y.2.sz → e.ntok = 1 → 0 < s.poolCnt c y.2.sz →
             let a := s.poolDa c y.2.sz ((s.cxOf c).poolHead.get 0 y.2.sz)
             let k := leNat (Memory.gets s.mem a 2)
             let f : Frame := { frameAt s.mem (s.frameDa c k) with st := 2, ref := 1, fill := y.2.fill, free := 0 }
             inOwn c a 2 → inOwn c (s.frameDa c k) 16 → k ≠ y.1.frame → (∀ h < g.hs, ∀ i < y.2.fill, slotOwn c g y.2 h i ∧ slotOwn c g f h i) →
             slotOwn c g f (wSlot q.word) y.2.fill →
             t.mem = s.appendMem p c q o e n (Memory.sets (setFrame (setFrame (copySlots g y.2 f s.mem) (s.frameDa c k) f) (s.frameDa c y.1.frame)
               { y.2 with ref := y.2.ref - 1 }) (x.list + 8 * (x.npages - 1)) (leBytes 8 (Page.word { y.1 with frame := k }))) (s.frameDa c k) f x ∧
             t.poolCnt c y.2.sz = s.poolCnt c y.2.sz - 1 ∧
             fld (t.core c R.pgwFrmCnt) 31 0 = min (fld (s.core c R.pgwFrmCnt) 31 0 + 1) (2 ^ 32 - 1) ∧ served) ∧
           ((∀ y, ps.getLast? = some y → y.2.fill = slotsOf y.2.sz) → x.npages = x.cap ∨ s.poolCnt c x.grow = 0 →
             let da := fld (s.core c R.pgwCstatBase) 47 0
             s.hbmClean → da % 16 = 0 → State.inHbm (da + n * 16) 16 = true →
             t.mem = setCtx s.mem (s.ctxDa c n) { x with last := 0, st := 2, full := q.rfn.toNat } ∧
             s.statusKept t c n 0 (q.rfn.toNat + 1) True ∧ served ∧
             t.core c R.pgwLastFull = BitVec.ofNat 64 (n * 2 ^ 52 + x.grow * 2 ^ 48 + q.rfn.toNat)) ∧
           (∀ y, ps.getLast? = some y → 1 < y.2.ref → y.2.sz ≤ g.cow → y.2.fill < slotsOf y.2.sz → s.poolCnt c y.2.sz = 0 →
             let da := fld (s.core c R.pgwCstatBase) 47 0
             s.hbmClean → da % 16 = 0 → State.inHbm (da + n * 16) 16 = true →
             t.mem = setCtx s.mem (s.ctxDa c n) { x with last := 0, st := 2, full := q.rfn.toNat } ∧
             s.statusKept t c n 0 (q.rfn.toNat + 1) True ∧ served ∧
             t.core c R.pgwLastFull = BitVec.ofNat 64 (n * 2 ^ 52 + y.2.sz * 2 ^ 48 + q.rfn.toNat))) ∧
         (e.lsrc = false → inOwn c (s.ctxDa c e.ctx) 32 →
           let x := ctxAt s.mem (s.ctxDa c e.ctx)
           let da := fld (s.core c R.pgwCstatBase) 47 0
           x.st ≠ 1 → s.hbmClean → da % 16 = 0 → State.inHbm (da + e.ctx * 16) 16 = true →
           t.mem = s.mem ∧ fld (t.core c R.pgwEntCnt) 63 32 = min (fld (s.core c R.pgwEntCnt) 63 32 + 1) (2 ^ 32 - 1) ∧
           s.statusKept t c e.ctx 0 (q.rfn.toNat + 1) (x.st = 2) ∧
           s.statusKept t c e.ctx 1 (q.rfn.toNat + 1) (x.st ≠ 2 ∨ 32 < e.ntok ∨ e.cmax = 0) ∧
           bitAt (t.core c R.pgwSts) 10 = (bitAt (s.core c R.pgwSts) 10 || x.st != 2))) ∧
    (∀ x ∈ [(Instr.attn core off, 1), (.scores core off, 4)],
     let u := s.walkTake c off q x.2
     s.walkReady p c off q x.2 → runAcc (readDesc c (wbits q.word 59 51)) u = (.ok ld, u) →
     runAcc (readDesc c (wbits q.word 50 42)) u = (.ok qd, u) → runAcc (readDesc c (wbits q.word 41 33)) u = (.ok bd, u) →
     ((x.2 = 4 ∨ wStat q.word = true) → runAcc (readDesc c (wbits q.word 32 24)) u = (.ok dd, u)) →
     (x.2 = 1 → wStat q.word = false → dd = bd) → runAcc (readWalkList c ld.base) u = (.ok (some l), lv) →
     let od := if x.2 = 1 then bd else dd
     let o : AttnOp :=
       { qd := qd, od := od, sd := if x.2 = 1 then dd else bd, fq := (fmtOf qd.fmt).getD .fp32, fo := (fmtOf od.fmt).getD .fp32
         es := walkEngs q }
     attnFits c q.word g l o = true →
     let w := (runAcc (seedWord p c q) ((lv.listHalt c l).noteAttn c o.es q)).2
     let v := if x.2 = 1 then walkEntries c (attnEntry p c q l o) (attnBlank p c q l o g) l.ents w
       else walkEntries c (scoresEntry p c q l o) (scoresBlank c q o) l.ents w
     ∃ t, exec x.1 s = .next t ∧ (t.cxOf c).pgw.run = some q ∧ (t.cxOf c).vec.run = some q ∧
       let opc := x.2
       t.mem = v.mem ∧ t.cache = v.cache ∧ t.cx = v.cx ∧ t.coreR = v.coreR ∧ t.acb = v.acb ∧ t.kpr = v.kpr ∧
       (x.2 = 1 → wStat q.word = false → bitAt (s.core c R.pgwSts) 11 = true → ∀ e ∈ l.ents, ∀ r < e.ntok * wGq q.word,
         Memory.gets t.mem (rowDa od 0 (e.orow + r)) (rowBytes o.fo g.d) = zeros (rowBytes o.fo g.d)) ∧
       (∀ e, opc = 1 → wStat q.word = false → l.ents = [e] → l.err = none → bitAt (s.core c R.pgwSts) 11 = false → s.unfilled c l e →
         t.core c R.pgwEntCnt = s.core c R.pgwEntCnt ∧ ∀ r < e.ntok * wGq q.word,
           Memory.gets t.mem (rowDa od 0 (e.orow + r)) (rowBytes o.fo g.d) = zeros (rowBytes o.fo g.d)) ∧
       ∀ e n x ps, l.ents = [e] → l.err = none → bitAt (s.core c R.pgwSts) 11 = false → s.latches c q l e n x ps →
         fld (s.core c R.pgwRamBase) 22 0 + stageLen ≤ sramLen → (∀ y ∈ ps, ∀ i < y.2.fill, slotOwn c g y.2 (wSlot q.word) i) →
         ∃ m, s.staged c m ∧
           let scale := Fmt.decode .fp32 l.scale
           (opc = 1 → t.mem = s.attnMem p c q o e m (attnRows (s.cxOf c) m g q o scale e ps)) ∧
           (opc = 4 → wStat q.word = false →
             let rows := scoreRows (s.cxOf c) m g q o scale e ps
             (∀ y ∈ rows.zipIdx, spanFits c od (4 * y.1.length) (e.orow + y.2 + 1) 1 true = true) →
             t.mem = rows.zipIdx.foldl (fun m y => setF32 m (rowDa od 0 (e.orow + y.2)) y.1) m) ∧
           (opc = 4 → wStat q.word = true → (ps.map (·.1.frame)).Nodup →
             let rows := scoreSums (s.cxOf c) m g q o scale e ps
             (∀ y ∈ rows.zipIdx, spanFits c od (4 * y.1.length) (e.orow + y.2 + 1) 1 true = true) →
             t.mem = rows.zipIdx.foldl (fun m y => setF32 m (rowDa od 0 (e.orow + y.2)) y.1) m) ∧
           fld (t.core c R.pgwEntCnt) 31 0 = min (fld (s.core c R.pgwEntCnt) 31 0 + 1) (2 ^ 32 - 1))

/-- Frame, context and page entries read back as they were written. A page-frame entry, a context entry and a page descriptor whose
fields fit their widths are read back from their words as they were. -/
def Obligations.WalkerTablesRoundTrip : Prop :=
  (∀ f : Frame, f.addr < 2 ^ 42 → f.sz < 16 → f.st < 4 → f.ref < 2 ^ 16 → f.fill < 2 ^ 14 → f.free < 2 ^ 48 → parseFrame f.word = f) ∧
    (∀ x : Ctx, x.gen < 2 ^ 16 → x.list < 2 ^ 48 → x.npages < 2 ^ 13 → x.cap < 2 ^ 13 → x.grow < 16 → x.st < 4 → x.last < 64 →
      x.full < 2 ^ 48 → parseCtx x.word = x) ∧
    (∀ p : Page, p.pos < 2 ^ 24 → p.frame < 2 ^ 16 → parsePage p.word = p)

/-- A page commit is applied whole or not at all, and frames due are released. The next commit of a core that may be applied, a tag
being free (log entry 35, the model's choice), leaves those that wait; where one of its records fails, nothing of the core's
tables changes and its command completes with that record's status and number; else its records have all taken effect, PGW_EDIT
records it and its command completes OK. On tables in the core's own clean memory a commit of one record that is in order (PARK,
UNPARK, FREE, SET, TRUNC within the last page, FRAME_ADD, FRAME_TAKE, SET_WM) writes just the context, frame and pool entries
that R195 gives it. FRAME_RELEASE returns the frames due before the next walker word; a halted walker returns none. (TRUNC's n
as the number of tokens removed is log entry 44, a commit with no run 121, the model's choices.) -/
def Obligations.CommitsAndReleases : Prop :=
  ∀ (s : State) (core : Core),
    let c := core.val
    (∀ (k : Commit) (cmd : Cmd), s.thm.trip = false → s.nextCommit c = some k → s.mayApply c k = true → s.tagFree c 2 →
      s.kpr.accepted.find? (fun x => x.ring == k.ring && x.idx == k.idx) = some cmd →
      let u := s.updCx c fun x => { x with commits := x.commits.erase k }
      (∀ i st v, applyEdits c (u.releaseRfn c k.b.toNat) 0 (k.recs.map parseEdit) u = (.error (i, st, none), v) →
        exec (.commitApply core) s = .next (u.complete cmd st i [])) ∧
      (∀ m v, applyEdits c (u.releaseRfn c k.b.toNat) 0 (k.recs.map parseEdit) u = (.ok (m, []), v) →
        ∃ t, exec (.commitApply core) s = .next t ∧ t.mem = v.mem ∧ t.cache = v.cache ∧
          (t.cxOf c).commits = (s.cxOf c).commits.erase k ∧
          t.core c R.pgwEdit = BitVec.ofNat 64 (k.recs.length % 256 * 2 ^ 56 + (!s.coreRunning c).toNat * 2 ^ 48 + k.b.toNat) ∧
          ∃ x ∈ t.kpr.done, x.ring = cmd.ring ∧ x.tag = cmd.tag ∧ x.status = Sts.ok ∧
            x.result = leBytes 8 k.b.toNat ++ leBytes 8 m ++ leBytes 2 0) ∧
      (∀ r m mx n, k.recs = [r] → k.resBuf = 0 → s.ownClean c → (parseEdit r).bad = false →
        s.edits c (u.releaseRfn c k.b.toNat) (parseEdit r) m mx n →
        let e := parseEdit r
        let z := bits e.b 3 0
        ∃ t x, exec (.commitApply core) s = .next t ∧ t.mem = m ∧ t.cache = s.cache ∧ (t.cxOf c).commits = (s.cxOf c).commits.erase k ∧
          x ∈ t.kpr.done ∧ x.tag = cmd.tag ∧ x.status = Sts.ok ∧ x.result = leBytes 8 k.b.toNat ++ leBytes 8 mx ++ leBytes 2 n ∧
          (e.op = 6 → t.poolCnt c z = s.poolCnt c z + (bits e.b 47 32 + 1)) ∧
          (e.op = 7 → t.poolCnt c z = s.poolCnt c z - n ∧ (t.cxOf c).poolHead.get 0 z = ((s.cxOf c).poolHead.get 0 z + n) % 65536) ∧
          (e.op = 8 → t.poolWm c z = bits e.b 31 16) ∧ (e.op ≠ 6 → e.op ≠ 7 → ∀ y, t.poolCnt c y = s.poolCnt c y))) ∧
    (∀ (p : Nat) (q : QWord), s.thm.trip = false → s.runSlot c = some p → (s.cxOf c).pgw.queue.head? = some q → s.tagFree c 2 →
      (bitAt (s.core c R.pgwSts) 11 = true → exec (.frameRelease core) s = .next s) ∧
      (bitAt (s.core c R.pgwSts) 11 = false →
        (∀ v, runAcc (releaseFrames c fun f => decide (f ≤ q.rfn.toNat)) s = (.ok (), v) →
          ∃ t, exec (.frameRelease core) s = .next t ∧ t.mem = v.mem ∧ t.coreR = v.coreR ∧ t.cx = v.cx ∧ t.cache = v.cache) ∧
        (∀ e v, runAcc (releaseFrames c fun f => decide (f ≤ q.rfn.toNat)) s = (.error e, v) →
          ∃ t, exec (.frameRelease core) s = .next t ∧ bitAt (t.core c R.pgwSts) 11 = true)))

/-- What an access of a scrubber and a refresh do. An access of a scrubber on a powered module without a trip to memory that
answers: the eight words of the group are read with their syndromes, each correctable one holds its corrected data and no error
afterwards, every other byte stays, and the position moves to the next group (with the sweep counted and its duration kept where
it ends). Where the memory is down, or a trip has stopped the core clocks, nothing changes. A turf refresh takes the next 16
rows of the next bank, in ascending order, and adds 17 to the die's refresh count, an HBM refresh 1 to the stack's; beyond the
refreshes that a flash's slack is compiled for, those that hold up deadline operations of a run count in XREF. -/
def Obligations.ScrubbersAndRefreshes : Prop :=
  (∀ (s : State) (die : Die) (p : Fin 17),
      (s.powered = false ∨ s.dieUp die.val = false ∨ s.thm.trip = true → exec (.sramScrub die p) s = .next s) ∧
      (s.powered = true → s.thm.trip = false → s.dieUp die.val = true → Memory.wf s.mem = true →
        let n := s.sramScrub.get 0 (17 * die.val + p.val)
        ∃ t, exec (.sramScrub die p) s = .next t ∧ t.sramScrub = s.sramScrub.set (17 * die.val + p.val) ((n + 1) % 98304) ∧
          (∀ l, s.borneBy die.val p.val = some l → s.scrubbed t (sramOf (coreAt die.val l) + 64 * n)) ∧
          (s.borneBy die.val p.val = none → p.val = 16 → s.scrubbed t (spareSram die.val + 64 * n)) ∧
          (s.borneBy die.val p.val = none → p.val ≠ 16 → t = { s with sramScrub := t.sramScrub }))) ∧
    (∀ (s : State) (die : Die) (secs : BitVec 32),
      let w := s.die die.val R.turfScrbSts
      let p := fld w 31 27
      let g := fld w 22 0
      (s.powered = false ∨ s.dieUp die.val = false ∨ s.thm.trip = true → exec (.turfScrub die secs) s = .next s) ∧
      (s.powered = true → s.thm.trip = false → s.dieUp die.val = true → Memory.wf s.mem = true →
        ∃ t, exec (.turfScrub die secs) s = .next t ∧
          (∀ l, s.borneBy die.val p = some l → s.scrubbed t (turfOf (coreAt die.val l) + 64 * g)) ∧
          (s.borneBy die.val p = none → p = 16 → s.scrubbed t (spareTurf die.val + 64 * g)) ∧
          (g + 1 < 2 ^ 23 → fld (t.die die.val R.turfScrbSts) 31 0 = p * 2 ^ 27 + g + 1) ∧
          (g + 1 = 2 ^ 23 → p < 16 → fld (t.die die.val R.turfScrbSts) 31 0 = (p + 1) * 2 ^ 27) ∧
          (g + 1 = 2 ^ 23 → 16 ≤ p → fld (t.die die.val R.turfScrbSts) 31 0 = 0 ∧
            fld (t.die die.val R.turfScrbSts) 63 32 = min (fld w 63 32 + 1) (2 ^ 32 - 1) ∧
            t.die die.val R.turfScrbLast = BitVec.ofNat 64 secs.toNat))) ∧
    (∀ (s : State) (stk : Stk) (secs : BitVec 32) (g : Nat) (ended : Bool),
      let k := stk.val
      let w := s.iod (k / 2) (R.scrubHSts (k % 2))
      (s.powered = false ∨ s.stackUp k = false ∨ s.stackWiping k = true ∨ s.thm.trip = true → exec (.hbmScrub stk secs) s = .next s) ∧
      (s.powered = true → s.thm.trip = false → s.stackUp k = true → s.stackWiping k = false → Memory.wf s.mem = true → s.hbmGroup k = some (g, ended) →
        ∃ t, exec (.hbmScrub stk secs) s = .next t ∧
          (s.poison.contains (k * 2 ^ 28 + g / 4) = false → s.scrubbed t (aliasBase + k * 2 ^ 36 + 64 * g)) ∧
          (s.poison.contains (k * 2 ^ 28 + g / 4) = true → t.mem = s.mem ∧ t.syn = s.syn ∧ t.kpr.logSeq = s.kpr.logSeq + 1) ∧
          s.unprotected (k * 2 ^ 36 + g / 16 * 1024) = false ∧
          fld (t.iod (k / 2) (R.scrubHSts (k % 2))) 29 0 = (g + 1) % 2 ^ 30 ∧
          (ended = false → g + 1 ≠ 2 ^ 30 → fld (t.iod (k / 2) (R.scrubHSts (k % 2))) 63 32 = fld w 63 32) ∧
          (ended ≠ (g + 1 == 2 ^ 30) →
            fld (t.iod (k / 2) (R.scrubHSts (k % 2))) 63 32 = min (fld w 63 32 + 1) (2 ^ 32 - 1) ∧
            t.iod (k / 2) (R.scrubHLast (k % 2)) = BitVec.ofNat 64 secs.toNat))) ∧
    (∀ (s : State) (die : Die) (blocked : BitVec 17),
      let d := die.val
      let n := (s.countRefresh d).1
      (s.powered = false ∨ s.fenced d = true → exec (.turfRefresh die blocked) s = .next s) ∧
      (s.powered = true → s.fenced d = false →
        ∃ t, exec (.turfRefresh die blocked) s = .next t ∧
          fld (t.die d R.turfRefCnt) 47 0 = min (fld (s.die d R.turfRefCnt) 47 0 + 17) (2 ^ 48 - 1) ∧
          fld (t.die d R.turfXrefCnt) 47 0 = (if cdiv (10 * s.period) 3900 < n ∧ s.anyRunning = true then
            min (fld (s.die d R.turfXrefCnt) 47 0 + popCount 17 blocked.toNat) (2 ^ 48 - 1) else fld (s.die d R.turfXrefCnt) 47 0) ∧
          t.thm.refs.get (0, 0) d = (s.fn.toNat, n) ∧
          (s.thm.turfPos.get 0 d < 16384 → t.turfRefreshAt d =
            let (b, r) := s.turfRefreshAt d
            if b < 31 then (b + 1, r) else (0, if r + 16 < 8192 then r + 16 else 0)) ∧
          t = { s with dieR := t.dieR, thm := { s.thm with refs := t.thm.refs, turfPos := t.thm.turfPos } })) ∧
    (∀ (s : State) (stk : Stk) (bank : Fin 1024) (blocked : Bool) (late : Option (Fin 41)),
      let k := stk.val
      let n := (s.countRefresh (64 + (k * 1024 + bank.val))).1
      (s.powered = false ∨ s.map.hbmOut.getLsbD k = true → exec (.hbmRefresh stk bank blocked late) s = .next s) ∧
      (s.powered = true → s.map.hbmOut.getLsbD k = false →
        ∃ t, exec (.hbmRefresh stk bank blocked late) s = .next t ∧
          fld (t.iod (k / 2) (stackReg k R.hbmRefCnt)) 47 0 = min (fld (s.iod (k / 2) (stackReg k R.hbmRefCnt)) 47 0 + 1) (2 ^ 48 - 1) ∧
          fld (t.iod (k / 2) (stackReg k R.hbmXrefCnt)) 47 0 =
            (if blocked = true ∧ cdiv (10 * s.period) 3900 < n ∧ s.anyRunning = true then
              min (fld (s.iod (k / 2) (stackReg k R.hbmXrefCnt)) 47 0 + 1) (2 ^ 48 - 1)
            else fld (s.iod (k / 2) (stackReg k R.hbmXrefCnt)) 47 0) ∧
          (∀ ns, late = some ns → s.bankBusy (k * 1024 + bank.val) = true →
            fld (t.iod (k / 2) R.nbuRinsCnt) 47 0 = min (fld (s.iod (k / 2) R.nbuRinsCnt) 47 0 + 1) (2 ^ 48 - 1)) ∧
          t = { s with iodR := t.iodR, thm := { s.thm with refs := t.thm.refs } }))

/-- A turf die changes its band by the thresholds of its governing reading. On a powered module BAND_CHANGE takes a die's upper or
lower turf die to band 2 above 95 degrees, to band 1 above 85 (1,520 and 1,360 in 1/16 degree; never down by those), one band
down once the reading has stayed below for 10,000 us, and otherwise leaves it. A change of either is logged (log entry 68, the
model's choice), the slices refresh at the higher of the two bands, and a change of that is counted up or down. Readings and
times are those that the model holds. -/
def Obligations.BandsFollowReadings : Prop :=
  ∀ (s : State) (die : Die) (up : Bool),
    let d := die.val
    let b := s.turfBand d up
    let g := s.turfGov d up
    let us := if up then (s.thmDie d).upUs else (s.thmDie d).loUs
    let v := if b < 2 ∧ 1520 < g then 2 else if b < 1 ∧ 1360 < g then 1 else if 0 < b ∧ 10000 ≤ us then b - 1 else b
    let old := fld (s.die d R.turfSts) 5 4
    let new := max v (s.turfBand d !up)
    s.powered = true →
    ∃ t, exec (.bandChange die up) s = .next t ∧ t.turfBand d up = v ∧ t.turfBand d (!up) = s.turfBand d (!up) ∧
      (v = b → t = { s with pins := t.pins, iodR := t.iodR }) ∧
      (v ≠ b → t.kpr.logSeq = s.kpr.logSeq + 1 ∧ fld (t.die d R.turfSts) 5 4 = new ∧
        fld (t.die d R.turfBandCnt) 63 32 = (if old < new then min (fld (s.die d R.turfBandCnt) 63 32 + 1) (2 ^ 32 - 1)
          else fld (s.die d R.turfBandCnt) 63 32) ∧
        fld (t.die d R.turfBandCnt) 31 0 = (if new < old then min (fld (s.die d R.turfBandCnt) 31 0 + 1) (2 ^ 32 - 1)
          else fld (s.die d R.turfBandCnt) 31 0) ∧
        (old ≠ new → (t.thmDie d).presetPend = true)) ∧
      t.mem = s.mem ∧ t.bcn = s.bcn ∧ t.coreR = s.coreR ∧ t.slots = s.slots

/-- Host reads, writes and AtomicOps of BAR2, and BAR4. While the host link is up and the function in D0: a BAR2 read answers the
bytes that the model's access gives, or Completer Abort with the error in HOST_ERR; within one core's SRAM or turf slice that
answers and holds no word in error those are the bytes of memory, and a write there changes exactly its bytes. FETCHADD, SWAP
and CAS on an aligned element of 4 or 8 bytes of the hashed range answer its prior value and leave in its cache line the sum,
the operand, or the operand where the prior value is the compare operand; a misaligned or 16-byte one, or one at any other
address, is answered with Completer Abort and cause 7 (log entry 66, the model's choice), and a write that fails is dropped
whole (log entry 64, the model's choice). BAR4 is memory of its own, of which the entries that the host has written are noted.
With the link down nothing changes; in D3hot a read or AtomicOp is answered Unsupported Request and a write dropped (log entry
104, the model's choice). -/
def Obligations.HostReachesMemory : Prop :=
  ∀ (s : State) (off : BitVec 36),
    let da := s.bar2Da off.toNat
    (s.hostReach = false → ∀ n data w x y, (∀ b, exec (.bar2Read b off n) s = .next s) ∧ (∀ b, exec (.bar2Write b off data) s = .next s) ∧
      exec (.fetchAdd off w x) s = .next s ∧ exec (.swap off w x) s = .next s ∧ exec (.cas off w x y) s = .next s) ∧
    (s.hostReach = true → s.host.d3 = true →
      (∀ n b w x y, ∀ i ∈ [Instr.bar2Read b off n, .fetchAdd off w x, .swap off w x, .cas off w x y],
        exec i s = .next (s.emit .unsupported)) ∧
      (∀ b data, exec (.bar2Write b off data) s = .next (s.emit .dropped))) ∧
    (s.hostReach = true → s.host.d3 = false →
      (∀ data, ∃ t, exec (.bar2Write .bar4 off data) s = .next t ∧ t.host.bar4 = Memory.sets s.host.bar4 off.toNat data ∧
        t = { s with host := { s.host with bar4 := t.host.bar4, fresh := t.host.fresh } } ∧
        (data ≠ [] → ∀ k, k ∈ t.host.fresh ↔ k ∈ s.host.fresh ∨ (off.toNat / 64 ≤ k ∧ 64 * k < off.toNat + data.length))) ∧
      (∀ n, exec (.bar2Read .bar4 off n) s = .next (s.emit (.data (Memory.gets s.host.bar4 off.toNat n)))) ∧
      (∀ n b u, s.readDa Who.host da n = (.ok b, u) →
        ∃ t, exec (.bar2Read .bar2 off n) s = .next t ∧ t.out = u.out ++ [.data b] ∧ t.host = u.host ∧ t.mem = u.mem ∧ t.cache = u.cache) ∧
      (∀ n e u, s.readDa Who.host da n = (.error e, u) →
        ∃ t, exec (.bar2Read .bar2 off n) s = .next t ∧ t.out = u.out ++ [.completerAbort] ∧ u.hostErrs t (State.errHost e) 2 (errDa e) ∧
          t.mem = u.mem) ∧
      (∀ data e u, s.hostWriteCheck da data.length = (.error e, u) →
        ∃ t, exec (.bar2Write .bar2 off data) s = .next t ∧ t.out = u.out ++ [.dropped] ∧ u.hostErrs t (State.errHost e) 2 (errDa e) ∧
          t.mem = u.mem ∧ t.cache = u.cache) ∧
      (∀ c n z, c < 512 → s.ownClean c → State.ownEnd c da = some z → da + n ≤ z →
        (∃ t, exec (.bar2Read .bar2 off n) s = .next t ∧ t = { s with out := s.out ++ [.data (Memory.gets s.mem da n)] }) ∧
        ∀ data, data.length = n → ∃ t, exec (.bar2Write .bar2 off data) s = .next t ∧ Memory.gets t.mem da n = data ∧
          (∀ a, a < da ∨ da + n ≤ a → Memory.get t.mem a = Memory.get s.mem a) ∧ (∀ k, t.syn.get 0 k = 0) ∧
          t = { s with mem := t.mem, syn := t.syn }) ∧
      (∀ (w : AtomW) (x y : BitVec 64), w ≠ .w128 → da < turfBase → da % State.atomBytes w = 0 → s.linesWhole = true →
        let n := State.atomBytes w
        ∀ i f, (i, f) ∈ [(Instr.fetchAdd off w x, fun p => (p + x.toNat) % 2 ^ (8 * n)), (.swap off w x, fun _ => x.toNat % 2 ^ (8 * n)),
            (.cas off w x y, fun p => if p = y.toNat % 2 ^ (8 * n) then x.toNat % 2 ^ (8 * n) else p)] →
          (∀ p u, s.atomicDa Who.host da n f = (.ok p, u) →
            ∃ t l, exec i s = .next t ∧ t.out = u.out ++ [.data (leBytes n p)] ∧ t.mem = u.mem ∧
              t.cache.find? ((hashAt da).alias_ / 256) = some l ∧
              (l.data.drop ((hashAt da).alias_ % 256)).take n = leBytes n (f p) ∧ l.dirty = true) ∧
          (∀ e u, s.atomicDa Who.host da n f = (.error e, u) →
            ∃ t, exec i s = .next t ∧ t.out = u.out ++ [.completerAbort] ∧ u.hostErrs t (State.errHost e) 2 (errDa e))) ∧
      (∀ (w : AtomW) (x y : BitVec 64), w = .w128 ∨ turfBase ≤ da ∨ da % State.atomBytes w ≠ 0 →
        ∀ i ∈ [Instr.fetchAdd off w x, .swap off w x, .cas off w x y],
          ∃ t, exec i s = .next t ∧ t.out = s.out ++ [.completerAbort] ∧ s.hostErrs t 7 2 da ∧
            t = { s with out := t.out, host := t.host, kpr := t.kpr }))

/-- Staging lists, MEM_ATOMIC and abandoned accesses. An orderly MEM_STAGE with too many or no entries answers BAD_ARG, with its
list above HBM BAD_ADDRESS; one whose turn comes answers BAD_ADDRESS where an entry is not in order (a die fenced when it was
accepted counts), DIE_UNAVAILABLE where an end's buoy is low (log entry 73, the model's choice), or waits with its list held and
MEM_STAGE_STS busy. STAGE_COMPLETE copies the entries in list order and completes OK, or with the status, entry and address of
the stop. MEM_ATOMIC performs ADD, SWAP or CMPSWAP on an aligned element of the hashed range and answers its prior value.
ACCESS_TIMEOUT abandons an access: cause 4 (a log entry for it is consequent on the latest loss reported of a part that it
crosses, log entry 34), Completer Abort for a read or an AtomicOp, a dropped write of which the first words may be written,
TIMEOUT for a command of the Keeper, whichever it is. (The model's choices: BAD_ARG for a bad address, log entry 66; what is
written of an abandoned access, 67; which command is abandoned, 69; the zero result of a refused MEM_STAGE, 73.) -/
def Obligations.StagingAndAtomics : Prop :=
  (∀ (s : State) (m : Mbox), s.asked Op.memStage 16 [(0, 12)] m →
      let n := arg m.args 8 4
      (n = 0 ∨ 65536 < n → ∃ t, exec (.memStage m) s = .next t ∧ s.replied t Op.memStage m Sts.badArg 0 [] ∧ s.onlyAnswers t) ∧
      (n ≠ 0 → n ≤ 65536 → turfBase < arg m.args 0 8 + 32 * n →
        ∃ t, exec (.memStage m) s = .next t ∧ s.replied t Op.memStage m Sts.badAddress 0 [] ∧ s.onlyAnswers t) ∧
      (∀ b u, n ≠ 0 → n ≤ 65536 → arg m.args 0 8 + 32 * n ≤ turfBase → s.sec.life ≠ 3 → s.kpr.accepted = [] →
        (s.begun Op.memStage m).readDa Who.host (arg m.args 0 8) (32 * n) = (.ok b, u) → u.kpr.accepted = [s.cmdOf Op.memStage m] →
        let es := (State.parseStage b).1
        let fit := (State.parseStage b).2 && es.all (u.stageOk s.map.fenced)
        (∀ st, (fit = false ∧ st = Sts.badAddress) ∨ (fit = true ∧ es.any u.stageDown = true ∧ st = Sts.dieUnavailable) →
          ∃ t x, exec (.memStage m) s = .next t ∧ s.headMoved t Op.memStage m ∧ t.kpr.done = u.kpr.done ++ [x] ∧ x.tag = m.tag ∧
            x.status = st ∧ t.mem = u.mem ∧ t.kpr.accepted = []) ∧
        (fit = true → es.any u.stageDown = false → es.any u.stageBusy = false →
          ∃ t, exec (.memStage m) s = .next t ∧ s.headMoved t Op.memStage m ∧ t.kpr.done = s.kpr.done ∧
            t.kpr.stage = es ∧ t.iod 0 R.memStageSts = BitVec.ofNat 64 (2 ^ 63) ∧ t.mem = u.mem ∧
            t.kpr.accepted = [{ s.cmdOf Op.memStage m with note := 1, gone := s.map.fenced }]))) ∧
    (∀ (s : State) (c : Cmd), s.kpr.accepted = [c] → c.opcode = Op.memStage → c.note = 1 →
      (∀ u, State.copyEntries 0 s.kpr.stage s = (none, u) → u.kpr.accepted = [c] →
        ∃ t x, exec .stageComplete s = .next t ∧ t.mem = u.mem ∧ t.cache = u.cache ∧ t.kpr.stage = [] ∧ t.kpr.accepted = [] ∧
          t.iod 0 R.memStageSts = 0 ∧ t.kpr.done = u.kpr.done ++ [x] ∧ x.tag = c.tag ∧ x.ring = c.ring ∧ x.status = Sts.ok) ∧
      (∀ st i da u, State.copyEntries 0 s.kpr.stage s = (some (st, i, da), u) → u.kpr.accepted = [c] →
        ∃ t x, exec .stageComplete s = .next t ∧ t.mem = u.mem ∧ t.kpr.stage = [] ∧ t.iod 0 R.memStageSts = 0 ∧
          t.kpr.done = u.kpr.done ++ [x] ∧ x.tag = c.tag ∧ x.status = st ∧ x.result = leBytes 4 i ++ zeros 4 ++ leBytes 8 da)) ∧
    (∀ (s : State) (m : Mbox), s.asked Op.memAtomic 32 [(0, 2), (8, 24)] m →
      let op := arg m.args 0 1
      let n := arg m.args 1 1
      let da := arg m.args 8 8
      let f (p : Nat) : Nat := if op = 0 then (p + arg m.args 16 8) % 2 ^ (8 * n)
        else if op = 1 ∨ p = arg m.args 24 8 % 2 ^ (8 * n) then arg m.args 16 8 % 2 ^ (8 * n) else p
      (3 ≤ op ∨ (n ≠ 4 ∧ n ≠ 8) ∨ da % n ≠ 0 ∨ turfBase ≤ da →
        ∃ t, exec (.memAtomic m) s = .next t ∧ s.replied t Op.memAtomic m Sts.badArg 0 [] ∧ s.onlyAnswers t) ∧
      (op < 3 → n = 4 ∨ n = 8 → da % n = 0 → da < turfBase →
        (∀ p u, (s.begun Op.memAtomic m).atomicDa Who.host da n f = (.ok p, u) →
          ∃ t x, exec (.memAtomic m) s = .next t ∧ t.kpr.done = u.kpr.done ++ [x] ∧ x.tag = m.tag ∧ x.status = Sts.ok ∧
            x.result = leBytes 8 p ∧ t.cache = u.cache ∧ t.mem = u.mem) ∧
        (∀ e u, (s.begun Op.memAtomic m).atomicDa Who.host da n f = (.error e, u) →
          ∃ t x, exec (.memAtomic m) s = .next t ∧ t.kpr.done = u.kpr.done ++ [x] ∧ x.tag = m.tag ∧ x.status = u.errStatus e ∧
            x.result = []))) ∧
    (∀ (s : State) (off : BitVec 36) (n done : Nat) (data : List Byte),
      let da := s.bar2Da off.toNat
      (s.hostReach = true →
        (∃ t, exec (.accessTimeout (.read off n)) s = .next t ∧ t.out = s.out ++ [.completerAbort] ∧ s.hostErrs t 4 2 da ∧ s.lateEntry t da ∧
          t = { s with out := t.out, host := t.host, kpr := t.kpr }) ∧
        (∃ t, exec (.accessTimeout (.atomic off)) s = .next t ∧ t.out = s.out ++ [.completerAbort] ∧ s.hostErrs t 4 2 da ∧ s.lateEntry t da ∧
          t = { s with out := t.out, host := t.host, kpr := t.kpr }) ∧
        (let u := (s.writeDa Who.host da (data.take (if done = 0 then 0 else (da / 8 + done) * 8 - da))).2
         ∃ t, exec (.accessTimeout (.write off data done)) s = .next t ∧ t.out = u.out ++ [.dropped] ∧ u.hostErrs t 4 2 da ∧ u.lateEntry t da ∧
          t.mem = u.mem ∧ t.cache = u.cache)) ∧
      (s.hostReach = false → exec (.accessTimeout (.read off n)) s = .next s ∧ exec (.accessTimeout (.atomic off)) s = .next s ∧
        exec (.accessTimeout (.write off data done)) s = .next s)) ∧
    (∀ (s : State) (m : Mbox), ∀ e ∈ mailRows m, s.asked e.2.1 e.2.2.1 e.2.2.2 m →
      ∃ t, exec (.accessTimeout (.command (BitVec.ofNat 16 e.2.1) m)) s = .next t ∧ s.replied t e.2.1 m Sts.timeout 0 [] ∧
        s.onlyAnswers t) ∧
    (∀ (s : State) (ring : Ring) (c : Cmd), s.kpr.accepted = [c] → c.ring = ring.val → c.note = 1 → exclusive c.opcode = true →
      ∃ t x, exec (.accessTimeout (.keeper ring c.tag)) s = .next t ∧ x ∈ t.kpr.done ∧ x.tag = c.tag ∧ x.opcode = c.opcode ∧
        x.status = Sts.timeout ∧ t.kpr.loading = (if c.opcode = Op.memStage then s.kpr.loading else []) ∧
        (c.opcode = Op.memStage → t.kpr.stage = [] ∧ t.iod 0 R.memStageSts = 0))

/-- A near-bank operation computes its row. The next operation of a bank, with the opcode of the command and no fence holding it,
writes to the columns that its mask names the rounded result of A + B, A x B, A x B + D or the activation of A, element by
element, in bank-operation format and rounding (values not defined where a write has touched its command's rows); every other
byte of memory stays. It counts in NBU_OPS_CNT and moves to the operations that have run. Where the bank has no such operation
nothing changes. -/
def Obligations.BankOperations : Prop :=
  ∀ (s : State) (g : BitVec 13) (op : Nat) (i : Instr), (op, i) ∈ [(1, Instr.nbuAdd g), (2, .nbuMul g), (3, .nbuFma g), (4, .nbuAct g)] →
    (s.nbNext g.toNat = none → exec i s = .next s) ∧
    ∀ (c : NbCmd) (w : BitVec 128), s.nbNext g.toNat = some (c, w) →
      let f := nbFmt (wbits w 119 118)
      let es := f.width / 8
      let mode : Rnd := if w.getLsbD 117 then .zero else .nearest
      let base := aliasBase + nbDest w * 1024
      let el (row k : Nat) : Machine.Num := f.decode (leNat (Memory.gets s.mem (aliasBase + row * 1024 + k * es) es))
      let bank := g.toNat * 2 ^ 16
      let a := el (bank + wbits w 47 32)
      let b := el (bank + wbits w 31 16)
      let d := el (nbDest w)
      let v (k : Nat) : Machine.Num := if op = 1 then (a k).add (b k) else if op = 2 then (a k).mul (b k)
        else if op = 3 then ((a k).mul (b k)).add (d k) else valueOf (act32 c.table (a k))
      (wbits w 127 120 ≠ op ∨ s.nbHeld (g.toNat / 2048) c = true → exec i s = .next s) ∧
      (wbits w 127 120 = op → s.nbHeld (g.toNat / 2048) c = false → Memory.wf s.mem = true →
        ∃ t, exec i s = .next t ∧
          (∀ k, (k + 1) * es ≤ 1024 → w.getLsbD (113 + k * es / 256) = true → Memory.gets t.mem (base + k * es) es =
            (if c.hit then (List.range es).map fun x => Config.nbuData s.free (k * es + x) else leBytes es (f.round mode 0 (v k)).code)) ∧
          (∀ x < 1024, w.getLsbD (113 + x / 256) = false → Memory.get t.mem (base + x) = Memory.get s.mem (base + x)) ∧
          (∀ y, y < base ∨ base + 1024 ≤ y → Memory.get t.mem y = Memory.get s.mem y) ∧
          fld (t.iod (g.toNat / 2048) R.nbuOpsCnt) 47 0 = min (fld (s.iod (g.toNat / 2048) R.nbuOpsCnt) 47 0 + 1) (2 ^ 48 - 1) ∧
          (t.nb (g.toNat / 2048)).cmds = ((s.nb (g.toNat / 2048)).cmds.map fun x =>
            let kept := x.own.filter fun u => !(nbUnits w).contains u
            if x.ring = c.ring ∧ x.idx = c.idx then { x with words := x.words.erase w, ran := x.ran ++ [w], own := kept ++ nbUnits w }
            else { x with own := kept }) ∧
          (c.raw = true → ∀ u ∈ nbUnits w, s.unprotected (u * 256) = false → u ∈ t.poison) ∧
          (c.raw = false → t.poison = s.poison) ∧ t.cache = s.cache ∧ t.kpr = s.kpr ∧ t.coreR = s.coreR)

/-- Near-bank commands, fences and region changes begin and end. NBU_RUN and NBU_RAW_RUN answer LIFECYCLE_STATE, BAD_ADDRESS,
NBU_INVALID, DIE_UNAVAILABLE for a low stack, NBU_PROTECTED or NBU_BUSY by the checks of R275 and R376 in the model's order (log
entry 52), also with an activation table, which is read once and kept, UNCORRECTABLE with the index of a word that cannot be
read, and else are held with their words in the I/O die's list, counted as open. NBU_FENCE answers BAD_ADDRESS outside the near-
bank stacks or off a row, DIE_UNAVAILABLE on a low stack, NBU_BUSY where eight are open on an I/O die that it touches, OK at
length 0, else is held. NBU_REGION answers LIFECYCLE_STATE, BAD_ARG, NBU_BUSY for rows of open commands, BAD_ADDRESS for a
region of another I/O die, past the rows or over another entry, else begins to set or clear its entry. A command with no
operation left completes OK and leaves the list; a fence that waits for no command discards its range's lines and completes OK;
a region wipe zeroes the rows that change and writes the entry. (A fence over both I/O dies, held by both and completed by
either, is log entry 54, and the wipe at REGION_WIPE_COMPLETE is log entry 55, the model's choices.) -/
def Obligations.NearBankCommands : Prop :=
  (∀ (s : State) (m : Mbox) (raw : Bool),
      let op := if raw then Op.nbuRawRun else Op.nbuRun
      let i : Instr := if raw then .nbuRawRun m else .nbuRun m
      let da := arg m.args 0 8
      let n := arg m.args 8 2
      s.asked op 24 [(0, 10), (16, 8)] m → arg m.args 16 8 = 0 →
      (s.sec.life = 3 → raw = false → ∃ t, exec i s = .next t ∧ s.replied t op m Sts.lifecycleState 0 [] ∧ s.onlyAnswers t) ∧
      (raw = true → s.sec.life ≠ 1 → ∃ t, exec i s = .next t ∧ s.replied t op m Sts.lifecycleState 0 []) ∧
      (s.sec.life = 1 ∨ (s.sec.life ≠ 3 ∧ raw = false) →
        (n = 0 ∨ 4096 < n ∨ da % 16 ≠ 0 ∨ turfBase < da + 16 * n →
          ∃ t, exec i s = .next t ∧ s.replied t op m Sts.badAddress 0 []) ∧
        (∀ b u, n ≠ 0 → n ≤ 4096 → da % 16 = 0 → da + 16 * n ≤ turfBase →
          (s.begun op m).readDa Who.host da (16 * n) = (.ok b, u) →
          let ws := (chunks 16 b).map fun x => BitVec.ofNat 128 (leNat x)
          let d := (ws.head?.map nbIodOf).getD 0
          let bad (w : BitVec 128) : Bool := !nbWordOk false w || nbIodOf w != d
          (∀ k, ws.findIdx? bad = some k → ∃ t x, exec i s = .next t ∧ t.kpr.done = u.kpr.done ++ [x] ∧ x.tag = m.tag ∧
            x.status = Sts.nbuInvalid ∧ x.detail = k) ∧
          (ws.findIdx? bad = none → ws.any (fun w => !u.stackUp (wbits w 112 100 / 1024)) = true →
            ∃ t x, exec i s = .next t ∧ t.kpr.done = u.kpr.done ++ [x] ∧ x.tag = m.tag ∧ x.status = Sts.dieUnavailable) ∧
          (ws.findIdx? bad = none → ws.any (fun w => !u.stackUp (wbits w 112 100 / 1024)) = false →
            let prot (w : BitVec 128) : Bool := !(nbRows w).all fun r => u.unprotected (r * 1024) && !u.wiping (r * 1024)
            (∀ k, raw = false → ws.findIdx? prot = some k → ∃ t x, exec i s = .next t ∧ t.kpr.done = u.kpr.done ++ [x] ∧
              x.tag = m.tag ∧ x.status = Sts.nbuProtected ∧ x.detail = k) ∧
            (raw = true ∨ ws.findIdx? prot = none →
              (8 ≤ (u.nb d).cmds.length → ∃ t x, exec i s = .next t ∧ t.kpr.done = u.kpr.done ++ [x] ∧ x.tag = m.tag ∧
                x.status = Sts.nbuBusy) ∧
              ((u.nb d).cmds.length < 8 → ∃ t c, exec i s = .next t ∧ t.kpr.done = u.kpr.done ∧
                (t.nb d).cmds = (u.nb d).cmds ++ [c] ∧ c.words = ws ∧ c.ran = [] ∧ c.raw = raw ∧ c.ring = m.ring.val ∧
                c.idx = (s.crReg m.ring.val 3).toNat ∧ fld (t.iod d R.nbuSts) 3 0 = (u.nb d).cmds.length + 1)))))) ∧
    (∀ (s : State) (m : Mbox) (raw : Bool),
      let op := if raw then Op.nbuRawRun else Op.nbuRun
      let i : Instr := if raw then .nbuRawRun m else .nbuRun m
      let da := arg m.args 0 8
      let n := arg m.args 8 2
      let td := arg m.args 16 8
      s.asked op 24 [(0, 10), (16, 8)] m → (s.sec.life = 1 ∨ (s.sec.life ≠ 3 ∧ raw = false)) →
      n ≠ 0 → n ≤ 4096 → da % 16 = 0 → da + 16 * n ≤ turfBase →
      (td ≠ 0 → td % 16 ≠ 0 ∨ turfBase < td + 776 → ∃ t, exec i s = .next t ∧ s.replied t op m Sts.badAddress 0 []) ∧
      (td = 0 ∨ (td % 16 = 0 ∧ td + 776 ≤ turfBase) →
        (∀ a w k u, (s.begun op m).readDa Who.host da (16 * n) = (.error (.ue a w k), u) → ∃ t x, exec i s = .next t ∧
          t.kpr.done = u.kpr.done ++ [x] ∧ x.tag = m.tag ∧ x.status = Sts.uncorrectable ∧
          x.detail = ((aliasAt (a - aliasBase)).hashed - da) / 16) ∧
        (∀ b tb u v, td ≠ 0 → (s.begun op m).readDa Who.host da (16 * n) = (.ok b, u) → u.readDa Who.host td 776 = (.ok tb, v) →
          let ws := (chunks 16 b).map fun x => BitVec.ofNat 128 (leNat x)
          let d := (ws.head?.map nbIodOf).getD 0
          let bad (w : BitVec 128) : Bool := !nbWordOk true w || nbIodOf w != d
          let prot (w : BitVec 128) : Bool := !(nbRows w).all fun r => v.unprotected (r * 1024) && !v.wiping (r * 1024)
          (∀ k, ws.findIdx? bad = some k → ∃ t x, exec i s = .next t ∧ t.kpr.done = v.kpr.done ++ [x] ∧ x.tag = m.tag ∧
            x.status = Sts.nbuInvalid ∧ x.detail = k) ∧
          (ws.findIdx? bad = none → ws.any (fun w => !v.stackUp (wbits w 112 100 / 1024)) = false →
            (raw = true ∨ ws.findIdx? prot = none) → (v.nb d).cmds.length < 8 → ∃ t c, exec i s = .next t ∧ t.kpr.done = v.kpr.done ∧
              (t.nb d).cmds = (v.nb d).cmds ++ [c] ∧ c.words = ws ∧
              c.table = (List.range 194).map (fun k => BitVec.ofNat 32 (leAt tb (4 * k) 4)) ∧ c.raw = raw)))) ∧
    (∀ (s : State) (m : Mbox), s.asked Op.nbuFence 16 [(0, 16)] m →
      let da := arg m.args 0 8
      let n := arg m.args 8 8
      let ok := da % 1024 = 0 ∧ n % 1024 = 0 ∧ aliasBase + 4 * 2 ^ 36 ≤ da ∧ da + n ≤ aliasBase + 8 * 2 ^ 36
      (¬ ok → ∃ t, exec (.nbuFence m) s = .next t ∧ s.replied t Op.nbuFence m Sts.badAddress 0 [] ∧ s.onlyAnswers t) ∧
      let down := [4, 5, 6, 7].any fun k => decide (da - aliasBase < (k + 1) * 2 ^ 36 ∧ k * 2 ^ 36 < da - aliasBase + n) && !s.stackUp k
      (ok → 0 < n → down = true →
        ∃ t, exec (.nbuFence m) s = .next t ∧ s.replied t Op.nbuFence m Sts.dieUnavailable 0 [] ∧ s.onlyAnswers t) ∧
      (ok → n = 0 → ∃ t, exec (.nbuFence m) s = .next t ∧ s.replied t Op.nbuFence m Sts.ok 0 [] ∧ s.onlyAnswers t) ∧
      (ok → 0 < n → down = false → (∃ i ∈ [2, 3], da - aliasBase < (i + 1) * 2 ^ 37 ∧ i * 2 ^ 37 < da - aliasBase + n ∧ 8 ≤ (s.nb i).fences.length) →
        ∃ t, exec (.nbuFence m) s = .next t ∧ s.replied t Op.nbuFence m Sts.nbuBusy 0 [] ∧ s.onlyAnswers t) ∧
      (ok → 0 < n → down = false →
        (∀ i ∈ [2, 3], da - aliasBase < (i + 1) * 2 ^ 37 → i * 2 ^ 37 < da - aliasBase + n → (s.nb i).fences.length < 8) →
        ∃ t, exec (.nbuFence m) s = .next t ∧ t.kpr.done = s.kpr.done ∧ t.cache = s.cache ∧ ∀ i ∈ [2, 3],
          (da - aliasBase < (i + 1) * 2 ^ 37 ∧ i * 2 ^ 37 < da - aliasBase + n →
            (t.nb i).fences = (s.nb i).fences ++
              [⟨m.ring.val, (s.crReg m.ring.val 3).toNat, da - aliasBase, n, (s.nb i).ord⟩]) ∧
          (¬ (da - aliasBase < (i + 1) * 2 ^ 37 ∧ i * 2 ^ 37 < da - aliasBase + n) → t.nb i = s.nb i))) ∧
    (∀ (s : State) (m : Mbox), s.asked Op.nbuRegion 16 [(0, 3), (4, 8)] m →
      let i := arg m.args 0 1
      (s.sec.life = 3 → ∃ t, exec (.nbuRegion m) s = .next t ∧ s.replied t Op.nbuRegion m Sts.lifecycleState 0 [] ∧ s.onlyAnswers t) ∧
      (s.sec.life ≠ 3 → i < 2 ∨ 3 < i ∨ 15 < arg m.args 1 1 ∨ 1 < arg m.args 2 1 →
        ∃ t, exec (.nbuRegion m) s = .next t ∧ s.replied t Op.nbuRegion m Sts.badArg 0 [] ∧ s.onlyAnswers t) ∧
      (s.sec.life ≠ 3 → i = 2 ∨ i = 3 → arg m.args 1 1 ≤ 15 → arg m.args 2 1 = 0 → (s.nb i).region = [] → (s.nb i).cmds = [] →
        s.anyActive = false → s.stackUp (2 * i) = true → s.stackUp (2 * i + 1) = true →
        ∃ t, exec (.nbuRegion m) s = .next t ∧ t.kpr.done = s.kpr.done ∧
          (t.nb i).region = [{ ring := m.ring.val, idx := (s.crReg m.ring.val 3).toNat, entry := arg m.args 1 1, value := 0 }]) ∧
      (s.sec.life ≠ 3 → i = 2 ∨ i = 3 → arg m.args 1 1 ≤ 15 → arg m.args 2 1 = 1 → (s.nb i).region = [] →
        let old := nbBoxOf (s.iod i (R.nbuReg (arg m.args 1 1)))
        let new : NbBox := ⟨arg m.args 4 2, arg m.args 6 2 + 1, arg m.args 8 2, arg m.args 10 2 + 1⟩
        let wrong := new.b0 < 2048 * i ∨ 2048 * (i + 1) < new.b0 + new.nb ∨ 65536 < new.r0 + new.nr ∨
          ∃ j < 16, j ≠ arg m.args 1 1 ∧ State.nbMeet new (nbBoxOf (s.iod i (R.nbuReg j))) = true
        ((∃ c ∈ (s.nb i).cmds, ∃ r ∈ c.rows, State.nbIn old r ≠ State.nbIn new r) →
          ∃ t, exec (.nbuRegion m) s = .next t ∧ s.replied t Op.nbuRegion m Sts.nbuBusy 0 [] ∧ s.onlyAnswers t) ∧
        ((s.nb i).cmds = [] → s.anyActive = false → wrong →
          ∃ t, exec (.nbuRegion m) s = .next t ∧ s.replied t Op.nbuRegion m Sts.badAddress 0 [] ∧ s.onlyAnswers t) ∧
        ((s.nb i).cmds = [] → s.anyActive = false → ¬ wrong → s.stackUp (2 * i) = true → s.stackUp (2 * i + 1) = true →
          ∃ t, exec (.nbuRegion m) s = .next t ∧ t.kpr.done = s.kpr.done ∧
            (t.nb i).region = [{ ring := m.ring.val, idx := (s.crReg m.ring.val 3).toNat, entry := arg m.args 1 1,
                                 value := BitVec.ofNat 64 (2 ^ 63 + arg m.args 4 2 * 2 ^ 43 + arg m.args 6 2 * 2 ^ 32 + arg m.args 8 2 * 2 ^ 16 + arg m.args 10 2) }]))) ∧
    (∀ (s : State) (io : NbIod),
      let i := nbIodNum io
      (∀ c k, (s.nb i).cmds.find? (fun c => c.words.isEmpty) = some c →
        s.kpr.accepted.filter (fun x => x.ring == c.ring && x.idx == c.idx) = [k] →
        ∃ t x, exec (.nbuCommandComplete io) s = .next t ∧ t.kpr.done = s.kpr.done ++ [x] ∧ x.tag = k.tag ∧ x.status = Sts.ok ∧
          (t.nb i).cmds = (s.nb i).cmds.filter (fun x => !(x.ring == c.ring && x.idx == c.idx)) ∧ t.mem = s.mem) ∧
      ((s.nb i).cmds.find? (fun c => c.words.isEmpty) = none → exec (.nbuCommandComplete io) s = .next s) ∧
      (∀ f k, (s.nb i).fences.find? s.nbFenceFree = some f → (s.nb 2).cmds = [] → (s.nb 3).cmds = [] →
        s.kpr.accepted.filter (fun x => x.ring == f.ring && x.idx == f.idx) = [k] →
        ∃ t x, exec (.fenceComplete io) s = .next t ∧ t.kpr.done = s.kpr.done ++ [x] ∧ x.tag = k.tag ∧ x.status = Sts.ok ∧
          (∀ u, t.cache.find? u = if f.base ≤ u * 256 ∧ u * 256 < f.base + f.len then none else s.cache.find? u) ∧
          (∀ j ∈ [2, 3], (t.nb j).fences = (s.nb j).fences.filter fun x => !(x.ring == f.ring && x.idx == f.idx)) ∧ t.mem = s.mem) ∧
      ((s.nb i).fences.find? s.nbFenceFree = none → exec (.fenceComplete io) s = .next s) ∧
      (∀ r k, (s.nb i).region = [r] → s.kpr.accepted = [k] → k.ring = r.ring → k.idx = r.idx → r.entry < 16 →
        let old := nbBoxOf (s.iod i (R.nbuReg r.entry))
        let new := nbBoxOf r.value
        ∃ t x, exec (.regionWipeComplete io) s = .next t ∧ t.kpr.done = s.kpr.done ++ [x] ∧ x.tag = k.tag ∧ x.status = Sts.ok ∧
          t.iod i (R.nbuReg r.entry) = r.value ∧ (t.nb i).region = [] ∧
          (∀ y, aliasBase ≤ y → y < 0x0180_0000_0000 → Memory.get t.mem y =
            if State.nbIn old ((y - aliasBase) / 1024) ≠ State.nbIn new ((y - aliasBase) / 1024) then 0 else Memory.get s.mem y) ∧
          (∀ y, y < aliasBase ∨ 0x0180_0000_0000 ≤ y → Memory.get t.mem y = Memory.get s.mem y)) ∧
      ((s.nb i).region = [] → exec (.regionWipeComplete io) s = .next s))

/-- Die-to-die flits, retries, training and faults. The flits that the end across has sent are numbered and kept in its replay
buffer, the last 64. At an UP end a data flit whose CRC holds for the expected number is taken (the number moves on, the sender
sends it no more); a failed copy, the first or one sent again, is counted and answered by a NAK, and the ninth takes the
connection down; any other flit between a failed copy and the retransmission is discarded. A NAK flit acts as the NAK it
carries; idle and ACK flits, and data on a DEGRADED port, change nothing. The first eight NAKs for a flit of the buffer send the
buffer from it on again, the ninth takes the connection down; one that names none does nothing. More than 64 retries in 1 ms
mark an UP connection DEGRADED. Training adopts at both ends the width and lane map that the bad lanes leave, or takes the
connection down with the bad groups kept, as its timeout does. An idle report sets its bit; an idle port is a lost connection, a
lost compute die, a lost I/O die, or the end of power for IOD0. Elsewhere, and on ports of a domain under reset, nothing
changes. What changes the map record is stated where no run is STARTING, since a start that becomes stale is cancelled too. (The
model's choices: the report of failed training, log entry 45; discarding flits up to 63 ahead and the NAK rules, 46; the bearing
of a fenced I/O die, 51.) -/
def Obligations.DieToDiePorts : Prop :=
  ∀ (s : State) (port : D2dPort),
    let e := portAt port
    (∀ (data : List Byte) (ctl crc : BitVec 16) (sent : List (List Byte)) (win : BitVec 16),
      let i := Instr.d2dFlit port data ctl crc sent win
      (ctlType ctl = 3 → s.portLive e = true → flitCrc (s.link e).rxSeq data ctl = crc.toNat →
        exec i s = exec (.d2dNak port (BitVec.ofNat 12 (ctlSeq ctl)) win) (s.sentTo e sent)) ∧
      (ctlType ctl = 3 → flitCrc (s.link e).rxSeq data ctl ≠ crc.toNat → exec i s = .next (s.sentTo e sent)) ∧
      (ctlType ctl = 1 → s.portState e ≠ portUp → exec i s = .next s) ∧
      (ctlType ctl ≠ 1 → ctlType ctl ≠ 3 → exec i s = .next (s.sentTo e sent)) ∧
      (∀ o, e.other = some o → s.portData e = true → sent ≠ [] → (s.sentTo e sent).link o = numbered (s.link o) sent ∧
        s.sentTo e sent = { s with d2d := (s.sentTo e sent).d2d })) ∧
    (s.powered = true → s.portState e = portUp → ∀ (data : List Byte) (ctl crc : BitVec 16) (sent : List (List Byte)) (win : BitVec 16),
      ctlType ctl = 1 →
      let x := s.link e
      let i := Instr.d2dFlit port data ctl crc sent win
      (flitCrc x.rxSeq data ctl = crc.toNat → ∃ t, exec i s = .next t ∧
        (t.link e).rxSeq = (x.rxSeq + 1) % 4096 ∧ (t.link e).fails = 0 ∧ (t.link e).nak = none ∧
        (∀ o, e.other = some o → let y := (s.sentTo e sent).link o
          (t.link o).txSeq = y.txSeq ∧ (t.link o).replay = y.replay ∧ (t.link o).resent = y.resent.filter fun f => f.1 != x.rxSeq) ∧
        t = { s with d2d := t.d2d }) ∧
      (flitCrc x.rxSeq data ctl ≠ crc.toNat →
        let later := ((s.sentTo e sent).resending e = false ∨ ∃ k < 63, flitCrc ((x.rxSeq + 1 + k) % 4096) data ctl = crc.toNat)
        (x.fails ≠ 0 → later → exec i s = .next (s.sentTo e sent)) ∧
        (x.fails = 0 ∨ ¬ later →
          (x.fails < 8 → ∃ t, exec i s = .next t ∧ (∀ o, e.other = some o → t.link o = { (s.sentTo e sent).link o with resent := [] }) ∧ (t.link e).fails = x.fails + 1 ∧
            (t.link e).rxSeq = x.rxSeq ∧ (t.link e).nak = some x.rxSeq ∧ t = { s with d2d := t.d2d }) ∧
          (8 ≤ x.fails → s.noneStarting → ∀ c, e.conn = some c →
            ∃ t, exec i s = .next t ∧ bitAt (t.port e prSts) 0 = true ∧ s.connDown t c)))) ∧
    (s.portLive e = true → ∀ (sq : BitVec 12) (win : BitVec 16),
      let x := s.link e
      let n := if x.nakSeq = sq.toNat then x.naks + 1 else 1
      let again := x.replay.dropWhile (fun f => f.1 != sq.toNat)
      (again = [] → exec (.d2dNak port sq win) s = .next s) ∧
      (again ≠ [] → n < 9 → ∃ t, exec (.d2dNak port sq win) s = .next t ∧ (t.link e).nakSeq = sq.toNat ∧ (t.link e).naks = n ∧
        (t.link e).resent = again ∧
        fld (t.port e prRty) 47 0 = min (fld (s.port e prRty) 47 0 + 1) (2 ^ 48 - 1) ∧ fld (t.port e prWin) 15 0 = win.toNat ∧
        fld (t.port e prWin) 47 32 = max (fld (s.port e prWin) 47 32) win.toNat ∧
        t = { s with d2d := t.d2d, dieR := t.dieR, iodR := t.iodR }) ∧
      (again ≠ [] → 9 ≤ n → s.noneStarting → ∀ c, e.conn = some c → ∃ t, exec (.d2dNak port sq win) s = .next t ∧ bitAt (t.port e prSts) 0 = true ∧ s.connDown t c)) ∧
    (s.fabricReset = true → ∀ alive, exec (.idlePort port) s = .next s ∧ exec (.dieFault port alive) s = .next s) ∧
    (s.portLive e = false → ∀ data ctl crc sent sq win alive, exec (.d2dFlit port data ctl crc sent win) s = .next s ∧
      exec (.d2dNak port sq win) s = .next s ∧ exec (.idlePort port) s = .next s ∧ exec (.dieFault port alive) s = .next s) ∧
    (∀ c, e.conn = some c →
      (s.powered = true → s.portState e = portUp → s.retriedOut c = true → s.noneStarting →
        ∃ t, exec (.portDegraded port) s = .next t ∧ (∀ x ∈ connEnds c, t.portState x = portDegraded) ∧ c ∈ t.map.degMark ∧
          s.faultShown t none) ∧
      (s.portState e ≠ portUp ∨ s.retriedOut c = false → exec (.portDegraded port) s = .next s) ∧
      (s.trains e c = true → s.noneStarting →
        (∀ bad w, trainedWidth bad = some w → ∃ t, exec (.d2dTrainingDone port bad) s = .next t ∧ ∀ x ∈ connEnds c,
          t.portState x = (if s.map.degMark.contains c then portDegraded else portUp) ∧ fld (t.port x prSts) 4 3 = w ∧
          t.port x prLane = laneWord bad w ∧ t.port x prRty = 0 ∧ t.port x prWin = 0 ∧ t.link x = {} ∧ t.kpr.failSeq.find? c = none) ∧
        (∀ bad, trainedWidth bad = none → ∃ t, exec (.d2dTrainingDone port bad) s = .next t ∧ s.connDown t c ∧
          ∀ x ∈ connEnds c, t.port x prLane = badGroups bad) ∧
        (∃ t, exec (.d2dTrainingTimeout port) s = .next t ∧ s.connDown t c)) ∧
      (s.trains e c = false → ∀ bad, exec (.d2dTrainingDone port bad) s = .next s ∧
        exec (.d2dTrainingTimeout port) s = .next s) ∧
      (s.portLive e = true → s.fabricReset = false → s.noneStarting → ∀ o, e.other = some o →
        (∃ t, exec (.dieFault port true) s = .next t ∧ s.connDown t c) ∧
        (o.iod = false → ∃ t, exec (.dieFault port false) s = .next t ∧ t.fenced o.n = true ∧ t.dieUp o.n = false ∧
          (∀ k ∈ connsOf o.n, ∀ x ∈ connEnds k, t.portState x = portReset) ∧ s.faultShown t (some (100 + o.n)) ∧
          s.runsHalt t (fun p => s.slotHasDie p o.n)) ∧
        (o.iod = true → o.n = 0 → ∃ t, exec (.dieFault port false) s = .next t ∧ t.powered = false ∧ t.mem = [] ∧ t.slots = []) ∧
        (o.iod = true → o.n = 1 ∨ o.n = 2 ∨ o.n = 3 → ∃ t, exec (.dieFault port false) s = .next t ∧
          t.map.iodFenced.getLsbD o.n = true ∧ t.stackUp (2 * o.n) = false ∧ t.stackUp (2 * o.n + 1) = false ∧
          (∀ u, State.unitIod u = o.n → t.cache.find? u = none) ∧ s.faultShown t (some (132 + o.n))))) ∧
    (s.portLive e = true → s.fabricReset = false → e.iod = false → ∃ t, exec (.idlePort port) s = .next t ∧ bitAt (t.die e.n R.d2dDieSts) (4 + e.p) = true ∧
      t = { s with dieR := t.dieR })

/-- Chip-link ports from signal to failure. Signal, training (its eye noted), padding, flits, replays, loss, LNK_TARGET and
LNK_RETRAIN as the states of a port have them: a signal starts training once the margin plan is done and the Beacon has locked;
the raw latency measured is kept, above 250 it fails the port, else padding begins where both ends' Beacons have locked;
confirmed padding makes the port UP with its partner named. On an UP port a flit with FEC, CRC and number right is taken and
acknowledged; a packet for this device within one core's own memory is written, counts its event and is acknowledged
(TARGET_RESET in a compute reset); for another device it goes on by its run's routes, or is logged as discarded. An
acknowledgement ends the resending of its flits, a NAK flit acts as the NAK it carries; a failed flit is answered by a NAK; the
fifth failed copy of the flit expected, and the fifth NAK for a flit, fail the port. A port that fails or loses its partner is
reported and halts the runs that use it. In other states nothing changes. What changes the map record is stated where no run is
STARTING. (The model's choices: NAKs, ACKs and which failures count, log entry 46; what a flit carries, 49; LNK_RETRAIN to
TRAINING or DOWN, FEC counts in UP and PADDING, training only with the Beacon locked, TARGET_RESET in a compute reset, 50.) -/
def Obligations.ChipLinks : Prop :=
  ∀ (s : State) (cl : ClPort),
    let j := cl.val
    let x := s.clx j
    (s.powered = false → ∀ raw pk eye data tr co un pkt sq pr pp, exec (.partnerSignalPresent cl) s = .next s ∧
      exec (.chipLinkTrained cl raw pk eye) s = .next s ∧ exec (.chipLinkTrainingTimeout cl) s = .next s ∧
      exec (.paddingConfirmed cl pr pp) s = .next s ∧ exec (.clFlit cl data tr co un pkt) s = .next s ∧
      exec (.clNak cl sq) s = .next s ∧ exec (.partnerSignalLost cl) s = .next s) ∧
    (s.powered = true →
      (∃ t, exec (.partnerSignalPresent cl) s = .next t ∧ (t.clx j).signal = true ∧ (t.clx j).padded = x.padded ∧
        t.lnkState j = (if s.lnkState j = lnkDown ∧ s.kpr.coldDone = true ∧ s.bcn.locked = true ∧ s.map.iodFenced.getLsbD (j / 6) = false then lnkTraining
          else s.lnkState j)) ∧
      (x.signal = false → ∀ raw pk eye pr pp, exec (.chipLinkTrained cl raw pk eye) s = .next s ∧ exec (.paddingConfirmed cl pr pp) s = .next s) ∧
      (s.lnkState j = lnkTraining → ∃ t, exec (.chipLinkTrainingTimeout cl) s = .next t ∧ s.linkGone t j lnkFailed) ∧
      (s.lnkState j = lnkTraining → x.signal = true → ∀ (raw : BitVec 16) (pk : Bool) (eye : Fin 101),
        let eyed (t : State) : Prop := t.thm.life.eye.find? j = some (match s.thm.life.eye.find? j with
          | some o => min o eye.val
          | none => eye.val)
        (250 < raw.toNat → ∃ t, exec (.chipLinkTrained cl raw pk eye) s = .next t ∧ s.linkGone t j lnkFailed ∧ eyed t ∧
          fld (t.lnk j 8) 47 32 = raw.toNat) ∧
        (raw.toNat ≤ 250 → s.bcnState = 1 ∨ s.bcnState = 3 → pk = true →
          ∃ t, exec (.chipLinkTrained cl raw pk eye) s = .next t ∧ t.lnkState j = lnkPadding ∧ eyed t ∧ fld (t.lnk j 8) 47 32 = raw.toNat ∧
            (t.clx j).target = fld (s.lnk j 8) 6 0) ∧
        (raw.toNat ≤ 250 → (s.bcnState ≠ 1 ∧ s.bcnState ≠ 3) ∨ pk = false → ∃ t, exec (.chipLinkTrained cl raw pk eye) s = .next t ∧ eyed t ∧
          fld (t.lnk j 8) 47 32 = raw.toNat ∧ t.lnkState j = lnkTraining ∧ t = { s with iodR := t.iodR, thm := t.thm })) ∧
      (s.lnkState j ≠ lnkTraining → ∀ raw pk eye, exec (.chipLinkTrained cl raw pk eye) s = .next s ∧
        exec (.chipLinkTrainingTimeout cl) s = .next s) ∧
      (s.lnkState j = lnkPadding → x.signal = true → s.noneStarting → ∀ (peer : BitVec 64) (pp : Fin 24), ∃ t, exec (.paddingConfirmed cl peer pp) s = .next t ∧
        t.lnkState j = lnkUp ∧ bitAt t.host.buoy1 j = true ∧ t.lnk j 0x10 = peer ∧ fld (t.lnk j 0) 20 16 = pp.val ∧
        fld (t.lnk j 0x18) 47 0 = 0 ∧ (t.clx j).padded = x.target ∧ (t.clx j).rxSeq = 0) ∧
      (s.lnkState j ≠ lnkPadding → ∀ peer pp, exec (.paddingConfirmed cl peer pp) s = .next s) ∧
      (∀ data tr corr uncorr pkt, (s.lnkState j ≠ lnkUp → s.lnkState j ≠ lnkPadding → exec (.clFlit cl data tr corr uncorr pkt) s = .next s) ∧
        (s.lnkState j = lnkPadding → ∃ t, exec (.clFlit cl data tr corr uncorr pkt) s = .next t ∧
          fld (t.lnk j 0x20) 31 0 = min (fld (s.lnk j 0x20) 31 0 + corr) (2 ^ 32 - 1) ∧
          fld (t.lnk j 0x20) 63 32 = min (fld (s.lnk j 0x20) 63 32 + uncorr) (2 ^ 32 - 1) ∧ t = { s with iodR := t.iodR })) ∧
      (s.lnkState j = lnkUp → ∀ (data : List Byte) (tr : BitVec 64) (corr uncorr : Nat) (pkt : Option ClPkt),
        let good := uncorr = 0 ∧ crcOf clCrc (data ++ leBytes 4 tr.toNat) = fld tr 63 32
        let copy := fld tr 27 24 = 1 ∧ fld tr 11 0 = x.rxSeq
        (good → fld tr 27 24 = 1 → fld tr 11 0 = x.rxSeq →
          (pkt = none → ∃ t, exec (.clFlit cl data tr corr uncorr pkt) s = .next t ∧ (t.clx j).rxSeq = (x.rxSeq + 1) % 4096 ∧
            (t.clx j).fails = 0 ∧ (t.clx j).nak = none ∧ s.sentFlit t j 2 x.rxSeq ∧ s.ackedTo t j (fld tr 23 12) ∧ fld (t.lnk j 0x20) 31 0 = min (fld (s.lnk j 0x20) 31 0 + corr) (2 ^ 32 - 1) ∧
            t = { s with cl := t.cl, iodR := t.iodR, free := t.free }) ∧
          (∀ k r, pkt = some k → s.kpr.reset = some r → s.computeReset = true →
            ∃ t, exec (.clFlit cl data tr corr uncorr pkt) s = .next t ∧ (t.clx j).rxSeq = (x.rxSeq + 1) % 4096 ∧ t.mem = s.mem ∧
              (r.devIds.contains k.dev.toNat = true → (t.clx j).acks = x.acks ++ [.targetReset]) ∧
              (r.devIds.contains k.dev.toNat = false → (t.clx j).acks = x.acks ∧ t.kpr.logSeq = s.kpr.logSeq + 1)) ∧
          (∀ k i, pkt = some k → (s.slot k.slot.val).img = some i → i.devId ≠ k.dev.toNat → s.computeReset = false →
            ∃ t, exec (.clFlit cl data tr corr uncorr pkt) s = .next t ∧ (t.clx j).rxSeq = (x.rxSeq + 1) % 4096 ∧ t.mem = s.mem ∧
              (i.routeTo k.dev.toNat = none → t.kpr.logSeq = s.kpr.logSeq + 1) ∧
              ∀ q, q ≠ j → i.routeTo k.dev.toNat = some q → s.lnkState q = lnkUp →
                ∃ r, (t.clx q).replay = r ++ [((s.clx q).txSeq, s.dataFlitOf q (s.clx q).txSeq data)]) ∧
          (∀ k i c z, pkt = some k → (s.slot k.slot.val).img = some i → i.devId = k.dev.toNat → s.computeReset = false → c < 512 →
            s.ownClean c → State.ownEnd c k.da.toNat = some z → k.da.toNat + (data.take k.len).length ≤ z →
            ∃ t, exec (.clFlit cl data tr corr uncorr pkt) s = .next t ∧ (t.clx j).rxSeq = (x.rxSeq + 1) % 4096 ∧
              (t.clx j).acks = x.acks ++ [.ok] ∧ (t.clx j).flits.length = x.flits.length + 2 ∧ Memory.gets t.mem k.da.toNat (data.take k.len).length = data.take k.len ∧
              (∀ a, a < k.da.toNat ∨ k.da.toNat + (data.take k.len).length ≤ a → Memory.get t.mem a = Memory.get s.mem a) ∧
              ∀ n, 1 ≤ n → n ≤ 15 → t.evCount c n = if n = k.rev.toNat then (s.evCount c n + 1) % 2 ^ 16 else s.evCount c n)) ∧
        (good → fld tr 27 24 = 1 → fld tr 11 0 ≠ x.rxSeq → ∃ t, exec (.clFlit cl data tr corr uncorr pkt) s = .next t ∧
          (t.clx j).rxSeq = x.rxSeq ∧ t = { s with cl := t.cl, iodR := t.iodR }) ∧
        (good → fld tr 27 24 ∈ [0, 2, 4] ∨ fld tr 27 24 = 5 ∧ pkt = none → ∃ t, exec (.clFlit cl data tr corr uncorr pkt) s = .next t ∧
          s.ackedTo t j (fld tr 23 12) ∧ t = { s with cl := t.cl, iodR := t.iodR }) ∧
        (good → fld tr 27 24 = 5 → ∀ k i, pkt = some k → (s.slot k.slot.val).img = some i → s.computeReset = false →
          ∃ t, exec (.clFlit cl data tr corr uncorr pkt) s = .next t ∧ s.ackedTo t j (fld tr 23 12) ∧ t.mem = s.mem ∧
            (i.devId = k.dev.toNat → t = { s with cl := t.cl, iodR := t.iodR }) ∧
            (i.devId ≠ k.dev.toNat → i.routeTo k.dev.toNat = none → t.kpr.logSeq = s.kpr.logSeq + 1)) ∧
        (good → fld tr 27 24 = 3 → exec (.clFlit cl data tr corr uncorr pkt) s = exec (.clNak cl (BitVec.ofNat 12 (fld tr 23 12)))
          (s.updLnk j 0x20 fun w => incFld (incFld w 63 32 uncorr) 31 0 corr)) ∧
        (good → 5 < fld tr 27 24 → ∃ t, exec (.clFlit cl data tr corr uncorr pkt) s = .next t ∧
          t = { s with iodR := t.iodR }) ∧
        (¬ good → (x.fails < 4 ∨ ¬ copy) → ∃ t, exec (.clFlit cl data tr corr uncorr pkt) s = .next t ∧
          (t.clx j).fails = (if copy then x.fails + 1 else x.fails) ∧ s.sentFlit t j 3 x.rxSeq ∧
          (t.clx j).nak = some x.rxSeq ∧ t = { s with cl := t.cl, iodR := t.iodR, free := t.free }) ∧
        (¬ good → 4 ≤ x.fails → copy → ∃ t, exec (.clFlit cl data tr corr uncorr pkt) s = .next t ∧ bitAt (t.lnk j 0) 3 = true ∧
          s.linkGone t j lnkFailed)) ∧
      (s.lnkState j = lnkUp → ∀ sq : BitVec 12,
        let n := if x.nakSeq = sq.toNat then x.naks + 1 else 1
        let again := x.replay.dropWhile fun f => f.1 != sq.toNat
        (again = [] → exec (.clNak cl sq) s = .next s) ∧
        (again ≠ [] → n < 5 → ∃ t, exec (.clNak cl sq) s = .next t ∧ (t.clx j).naks = n ∧ (t.clx j).nakSeq = sq.toNat ∧ (t.clx j).resent = again ∧
          fld (t.lnk j 0x18) 47 0 = min (fld (s.lnk j 0x18) 47 0 + 1) (2 ^ 48 - 1) ∧ t = { s with cl := t.cl, iodR := t.iodR }) ∧
        (again ≠ [] → 5 ≤ n → ∃ t, exec (.clNak cl sq) s = .next t ∧ bitAt (t.lnk j 0) 3 = true ∧ s.linkGone t j lnkFailed)) ∧
      (s.lnkState j ≠ lnkUp → ∀ sq, exec (.clNak cl sq) s = .next s) ∧
      (∃ t, exec (.partnerSignalLost cl) s = .next t ∧ (t.clx j).signal = false ∧
        (s.lnkState j = lnkUp ∨ s.lnkState j = lnkPadding → s.linkGone t j lnkDown) ∧
        (s.lnkState j = lnkFailed → t.lnkState j = lnkDown) ∧
        (s.lnkState j = lnkDown ∨ s.lnkState j = lnkTraining → t = { s with cl := t.cl }))) ∧
    (∀ m, s.asked Op.lnkTarget 8 [(0, 2)] m →
      let p := arg m.args 0 1
      let v := arg m.args 1 1
      (24 ≤ p ∨ v < 40 ∨ 120 < v → ∃ t, exec (.lnkTarget m) s = .next t ∧ s.replied t Op.lnkTarget m Sts.badArg 0 [] ∧ s.onlyAnswers t) ∧
      (p < 24 → 40 ≤ v → v ≤ 120 → ∃ t, exec (.lnkTarget m) s = .next t ∧ s.replied t Op.lnkTarget m Sts.ok 0 [] ∧
        fld (t.lnk p 8) 6 0 = v)) ∧
    (∀ m, s.asked Op.lnkRetrain 8 [(0, 1)] m →
      let p := arg m.args 0 1
      let busy := (List.range 8).any fun q => s.slotActive q && s.usesLink q p
      let fenced := s.map.iodFenced.getLsbD (p / 6)
      (24 ≤ p → ∃ t, exec (.lnkRetrain m) s = .next t ∧ s.replied t Op.lnkRetrain m Sts.badArg 0 [] ∧ s.onlyAnswers t) ∧
      (p < 24 → fenced = true → ∃ t, exec (.lnkRetrain m) s = .next t ∧ s.replied t Op.lnkRetrain m Sts.dieUnavailable 0 [] ∧ s.onlyAnswers t) ∧
      (p < 24 → fenced = false → busy = true → ∃ t, exec (.lnkRetrain m) s = .next t ∧ s.replied t Op.lnkRetrain m Sts.runActive 0 [] ∧ s.onlyAnswers t) ∧
      (p < 24 → fenced = false → busy = false → ∃ t, exec (.lnkRetrain m) s = .next t ∧ s.headMoved t Op.lnkRetrain m ∧ t.kpr.done = s.kpr.done ∧
        t.lnkState p = (if (s.clx p).signal then lnkTraining else lnkDown) ∧ bitAt t.host.buoy1 p = false ∧
        t.kpr.accepted = s.kpr.accepted ++ [s.cmdOf Op.lnkRetrain m]))

/-- Queue doorbells, ring copies and bindings. A host write of a queue's index, by HOST_QDB or KPR_Qq_TAIL, moves the tail of an
input kind (available at once where no host ring is bound) or by HOST_QDB the head of an output kind; one that goes back or past
the ring only sets TAIL_ERR_STS. With the host link down, and in D3hot (log entry 104, the model's choice), HOST_QDB does
nothing. FETCH_COPY_COMPLETE copies the next entry of a bound input ring into its HBM ring and makes it available;
PUSH_TO_HOST_RING_COMPLETE copies what is published and unpushed, one entry over any ring that reads and any number over a clean
one, to the bound host ring, and sends its vector once. QUEUE_BIND and QUEUE_UNBIND answer BAD_ARG, SLOT_STATE or QUEUE_INVALID,
or set or take away the binding. The memory of a queue's ring is that of the model's access. (Undeclared queues are log entry
70, and HEAD, AVAIL and the answers of a binding log entry 71, the model's choices.) -/
def Obligations.HostSideOfQueues : Prop :=
  ∀ (s : State) (slot : Slot) (q : QNum) (v : BitVec 64),
    let p := slot.val
    let x := s.que p q.val
    let n := fld v 31 0
    let flagged (t : State) : Prop := bitAt (t.que p q.val).sts 2 = true ∧ (t.que p q.val).tail = x.tail ∧ (t.que p q.val).head = x.head
    (s.queDecl? p q.val = none → exec (.hostQdb slot q v) s = .next s ∧ exec (.kprQTail slot q v) s = .next s ∧
      exec (.fetchCopyComplete slot q) s = .next s ∧ exec (.pushToHostRingComplete slot q) s = .next s) ∧
    (∀ d, s.queDecl? p q.val = some d → d.input = true →
      ∀ i, (i = Instr.kprQTail slot q v ∨ (i = .hostQdb slot q v ∧ s.hostReach = true ∧ s.host.d3 = false)) →
      let bad := 2 ^ 31 ≤ ahead n (fld x.tail 31 0) ∨ d.depth < ahead n (fld x.head 31 0)
      (bad → ∃ t, exec i s = .next t ∧ flagged t ∧ t = { s with slots := t.slots }) ∧
      (¬ bad → ∃ t, exec i s = .next t ∧ fld (t.que p q.val).tail 31 0 = n ∧
        fld (t.que p q.val).avail 31 0 = (if x.hostRing then fld x.avail 31 0 else n) ∧ (t.que p q.val).head = x.head ∧
        (t.que p q.val).sts = x.sts ∧ t = { s with slots := t.slots })) ∧
    (∀ d, s.queDecl? p q.val = some d → d.input = false → exec (.kprQTail slot q v) s = .next s ∧
      (s.hostReach = true → s.host.d3 = false →
        let bad := 2 ^ 31 ≤ ahead n (fld x.head 31 0) ∨ ahead (fld x.tail 31 0) (fld x.head 31 0) < ahead n (fld x.head 31 0)
        (bad → ∃ t, exec (.hostQdb slot q v) s = .next t ∧ flagged t ∧ t = { s with slots := t.slots }) ∧
        (¬ bad → ∃ t, exec (.hostQdb slot q v) s = .next t ∧ fld (t.que p q.val).head 31 0 = n ∧ (t.que p q.val).tail = x.tail ∧
          t = { s with slots := t.slots }))) ∧
    (s.hostReach = false ∨ s.host.d3 = true → exec (.hostQdb slot q v) s = .next s) ∧
    (∀ d a, s.queDecl? p q.val = some d → x.hostAddr = some a →
      let i := fld x.avail 31 0
      (d.input = true → x.hostRing = true → s.busReach = true → i ≠ fld x.tail 31 0 →
        ∀ u, s.writeDa Who.host (d.ring + i % d.depth * d.esize) (Memory.gets s.hostMem (a + i % d.depth * d.esize) d.esize) = (none, u) →
          ∃ t, exec (.fetchCopyComplete slot q) s = .next t ∧ fld (t.que p q.val).avail 31 0 = (i + 1) % 2 ^ 32 ∧
            (t.que p q.val).tail = x.tail ∧ t.mem = u.mem ∧ t.cache = u.cache ∧ t.hostMem = s.hostMem) ∧
      (x.hostRing = false ∨ s.busReach = false ∨ i = fld x.tail 31 0 → exec (.fetchCopyComplete slot q) s = .next s) ∧
      (d.kind = 3 → x.hostRing = true → s.busReach = true → ahead (fld x.tail 31 0) x.pushed = 1 →
        ∀ b u, s.readDa Who.host (d.ring + x.pushed % 2 ^ 32 % d.depth * d.esize) d.esize = (.ok b, u) →
          ∃ t, exec (.pushToHostRingComplete slot q) s = .next t ∧ (t.que p q.val).pushed = fld x.tail 31 0 ∧
            t.hostMem = Memory.sets u.hostMem (a + x.pushed % 2 ^ 32 % d.depth * d.esize) b ∧ t.mem = u.mem ∧
            (x.vector = 0 → t.out = u.out) ∧
            (x.vector ≠ 0 → (u.msixEntry x.vector).getLsbD 96 = false → t.out = u.out ++ [.msix x.vector])) ∧
      (∀ k, d.kind = 3 → x.hostRing = true → s.busReach = true → ahead (fld x.tail 31 0) x.pushed = k → 0 < k → k ≤ d.depth → s.hbmClean →
        State.inHbm d.ring (d.depth * d.esize) = true →
          ∃ t, exec (.pushToHostRingComplete slot q) s = .next t ∧ (t.que p q.val).pushed = fld x.tail 31 0 ∧
            (∀ j < k, let o := idxAdd x.pushed j % d.depth * d.esize
              Memory.gets t.hostMem (a + o) d.esize = s.seen (d.ring + o) d.esize) ∧
            (∀ y, y < a ∨ a + d.depth * d.esize ≤ y → Memory.get t.hostMem y = Memory.get s.hostMem y) ∧
            (x.vector = 0 → t.out = s.out) ∧
            (x.vector ≠ 0 → (s.msixEntry x.vector).getLsbD 96 = false → t.out = s.out ++ [.msix x.vector])) ∧
      (x.hostRing = false ∨ s.busReach = false ∨ fld x.tail 31 0 = x.pushed ∧ x.pushed < 2 ^ 32 →
        exec (.pushToHostRingComplete slot q) s = .next s)) ∧
    (∀ m, s.asked Op.queueBind 16 [(0, 4), (8, 8)] m → s.kpr.accepted = [] →
      let p := arg m.args 0 1
      let k := arg m.args 1 1
      let v := arg m.args 2 1
      let ring := arg m.args 3 1 == 1
      let bad := 8 ≤ p ∨ 64 ≤ k ∨ (v ≠ 0 ∧ v < 128) ∨ 2 ≤ arg m.args 3 1
      (bad → ∃ t, exec (.queueBind m) s = .next t ∧ s.replied t Op.queueBind m Sts.badArg 0 [] ∧ s.onlyAnswers t) ∧
      (¬ bad → s.slotState p ≠ 1 →
        ∃ t, exec (.queueBind m) s = .next t ∧ s.replied t Op.queueBind m Sts.slotState 0 [] ∧ s.onlyAnswers t) ∧
      (¬ bad → s.slotState p = 1 → s.queDecl? p k = none →
        ∃ t, exec (.queueBind m) s = .next t ∧ s.replied t Op.queueBind m Sts.queueInvalid 0 [] ∧ s.onlyAnswers t) ∧
      (∀ d, ¬ bad → s.slotState p = 1 → s.queDecl? p k = some d →
        ∃ t, exec (.queueBind m) s = .next t ∧ s.replied t Op.queueBind m Sts.ok 0 [] ∧ (t.que p k).vector = v ∧
          (t.que p k).hostRing = ring ∧ (t.que p k).hostAddr = (if ring then some (arg m.args 8 8) else none) ∧
          (t.que p k).pushed = fld (s.que p k).head 31 0 ∧
          (t.que p k).avail = (if ring = true ∨ d.input = false then (s.que p k).avail else (s.que p k).tail) ∧
          t = { s with host := t.host, kpr := t.kpr, slots := t.slots })) ∧
    (∀ m, s.asked Op.queueUnbind 8 [(0, 2)] m → s.kpr.accepted = [] →
      let p := arg m.args 0 1
      let k := arg m.args 1 1
      (8 ≤ p ∨ 64 ≤ k → ∃ t, exec (.queueUnbind m) s = .next t ∧ s.replied t Op.queueUnbind m Sts.badArg 0 [] ∧ s.onlyAnswers t) ∧
      (p < 8 → k < 64 → s.queDecl? p k = none →
        ∃ t, exec (.queueUnbind m) s = .next t ∧ s.replied t Op.queueUnbind m Sts.slotState 0 [] ∧ s.onlyAnswers t) ∧
      (∀ d, p < 8 → k < 64 → s.queDecl? p k = some d →
        ∃ t, exec (.queueUnbind m) s = .next t ∧ s.replied t Op.queueUnbind m Sts.ok 0 [] ∧ (t.que p k).hostAddr = none ∧
          (t.que p k).hostRing = (s.que p k).hostRing ∧ (t.que p k).tail = (s.que p k).tail ∧
          t = { s with host := t.host, kpr := t.kpr, slots := t.slots }))

/-- Enables, banking bits, counters and idle banking of a core. On a module without a trip: ENG_EN and WALK_EN set the enable and
take the unit from OFF to idle; a banking bit that is set banks a unit that is idle, one that is cleared wakes a banked unit to
idle and not ready; CNT_CLR zeroes the counters that it names; CORE_EN takes the core from OFF to READY and its vector engine
from OFF to idle (log entry 76, the model's choice); TRAP_CLR takes a TRAPPED core whose run has halted and none of whose
engines is in FAULT to READY; IDLE_BANK banks every idle unit of a READY core in no active slot. Nothing outside the core's
registers and records changes, and after a trip nothing at all. -/
def Obligations.EnablesOfACore : Prop :=
  ∀ (s : State) (core : Core) (eng : Eng),
    let c := core.val
    let e := eng.val
    (s.thm.trip = true → ∀ v, exec (.engEn core eng) s = .next s ∧ exec (.engBankEn core eng v) s = .next s ∧
      exec (.engCntClr core eng) s = .next s ∧ exec (.walkEn core) s = .next s ∧ exec (.pgwBankEn core v) s = .next s ∧
      exec (.pgwCntClr core) s = .next s ∧ exec (.coreEn core) s = .next s ∧ exec (.trapClr core) s = .next s ∧
      exec (.idleBank core) s = .next s) ∧
    (s.thm.trip = false →
      (∃ t, exec (.engEn core eng) s = .next t ∧ bitAt (t.eng c e R.engCtrl) 0 = true ∧
        t.engState c e = (if s.engState c e = engOff then engIdle else s.engState c e) ∧
        s.coreRegsKept t c (fun off => off = 0x1000 + e * 0x100 + R.engCtrl ∨ off = 0x1000 + e * 0x100 + R.engSts) ∧
        t = { s with coreR := t.coreR }) ∧
      (∃ t, exec (.engBankEn core eng true) s = .next t ∧ bitAt (t.eng c e R.engCtrl) 1 = true ∧
        t.engState c e = (if s.engState c e = engIdle then engBanked else s.engState c e) ∧
        s.coreRegsKept t c (fun off => off = 0x1000 + e * 0x100 + R.engCtrl ∨ off = 0x1000 + e * 0x100 + R.engSts) ∧
        t = { s with coreR := t.coreR }) ∧
      (∃ t, exec (.engBankEn core eng false) s = .next t ∧ bitAt (t.eng c e R.engCtrl) 1 = false ∧
        t.engState c e = (if s.engState c e = engBanked then engIdle else s.engState c e) ∧
        (s.engState c e = engBanked → (t.engX c e).u.ready = false) ∧ (s.engState c e ≠ engBanked → t.cx = s.cx) ∧
        s.coreRegsKept t c (fun off => off = 0x1000 + e * 0x100 + R.engCtrl ∨ off = 0x1000 + e * 0x100 + R.engSts) ∧
        s.othersKept t c ∧ t = { s with coreR := t.coreR, cx := t.cx }) ∧
      (∃ t, exec (.engCntClr core eng) s = .next t ∧
        (∀ r ∈ [R.engFltCnt, R.engOvfCnt, R.engOpsCnt, R.engBusyCnt, R.engKndCnt, R.engRampCnt, R.engEccCnt], t.eng c e r = 0) ∧
        s.coreRegsKept t c (fun off => ∃ r ∈ [R.engFltCnt, R.engOvfCnt, R.engOpsCnt, R.engBusyCnt, R.engKndCnt, R.engRampCnt, R.engEccCnt],
          off = 0x1000 + e * 0x100 + r) ∧ t = { s with coreR := t.coreR }) ∧
      (∃ t, exec (.walkEn core) s = .next t ∧ bitAt (t.core c R.pgwCtrl) 0 = true ∧
        t.pgwState c = (if s.pgwState c = unitOff then unitIdle else s.pgwState c) ∧
        s.coreRegsKept t c (fun off => off = R.pgwCtrl ∨ off = R.pgwSts) ∧ t = { s with coreR := t.coreR }) ∧
      (∃ t, exec (.pgwBankEn core true) s = .next t ∧ bitAt (t.core c R.pgwCtrl) 1 = true ∧
        t.pgwState c = (if s.pgwState c = unitIdle then unitBanked else s.pgwState c) ∧
        s.coreRegsKept t c (fun off => off = R.pgwCtrl ∨ off = R.pgwSts) ∧ t = { s with coreR := t.coreR }) ∧
      (∃ t, exec (.pgwBankEn core false) s = .next t ∧ bitAt (t.core c R.pgwCtrl) 1 = false ∧
        t.pgwState c = (if s.pgwState c = unitBanked then unitIdle else s.pgwState c) ∧
        (s.pgwState c = unitBanked → (t.cxOf c).pgw.ready = false) ∧
        s.coreRegsKept t c (fun off => off = R.pgwCtrl ∨ off = R.pgwSts) ∧ s.othersKept t c ∧ t = { s with coreR := t.coreR, cx := t.cx }) ∧
      (∃ t, exec (.pgwCntClr core) s = .next t ∧ t.core c R.pgwEntCnt = 0 ∧ t.core c R.pgwFrmCnt = 0 ∧
        s.coreRegsKept t c (fun off => off = R.pgwEntCnt ∨ off = R.pgwFrmCnt) ∧ t = { s with coreR := t.coreR }) ∧
      (∃ t, exec (.coreEn core) s = .next t ∧ bitAt (t.core c R.seqCtrl) 0 = true ∧
        t.coreState c = (if s.coreState c = 0 then 1 else s.coreState c) ∧
        t.vecState c = (if s.vecState c = unitOff then unitIdle else s.vecState c) ∧
        s.coreRegsKept t c (fun off => off = R.seqCtrl ∨ off = R.seqSts ∨ off = R.vecSts) ∧ t = { s with coreR := t.coreR }) ∧
      (s.coreState c = 3 → s.coreActive c = false → (∀ k < 4, s.engState c k ≠ engFault) →
        ∃ t, exec (.trapClr core) s = .next t ∧ t.coreState c = 1 ∧ s.coreRegsKept t c (· = R.seqSts) ∧ t = { s with coreR := t.coreR }) ∧
      (s.coreState c ≠ 3 ∨ s.coreActive c = true ∨ (∃ k < 4, s.engState c k = engFault) → exec (.trapClr core) s = .next s) ∧
      (s.coreState c = 1 → (∀ p, s.slotOf c = some p → s.slotActive p = false) →
        ∃ t, exec (.idleBank core) s = .next t ∧
          (∀ k < 4, t.engState c k = (if s.engState c k = engIdle then engBanked else s.engState c k)) ∧
          t.vecState c = (if s.vecState c = unitIdle then unitBanked else s.vecState c) ∧
          t.pgwState c = (if s.pgwState c = unitIdle then unitBanked else s.pgwState c) ∧
          (t.cxOf c).vec.bank = true ∧ s.othersKept t c ∧ t = { s with coreR := t.coreR, cx := t.cx }) ∧
      (s.coreState c ≠ 1 ∨ (∃ p, s.slotOf c = some p ∧ s.slotActive p = true) → exec (.idleBank core) s = .next s))

/-- Doorbells, completions, log delivery and the host link. While the link is in L0 and the function in D0 (that D3hot drops them is
log entry 104, the model's choice): a ring doorbell takes a producer index that does not go back or past the ring, else cause 6
is recorded; an entry that the host has written to it with an opcode that the firmware does not know is taken, if it is that
ring's turn, and completes with BAD_OPCODE (when, is log entry 69, the model's choice). The first completion that waits is
written to its ring entry by entry layout of R356, TAIL moves on, and its vector is sent unless NOINT; the oldest log entry is
written to the bound ring where it has room, and its cause is set. Without the link or Bus Master Enable neither happens. The
running Keeper's heartbeat counts. The link reaching or leaving L0 sets or clears the flag and its buoy; Bus Master Enable
follows its command; PERST_L rising lets a powered port leave reset. -/
def Obligations.HostPortRows : Prop :=
  ∀ (s : State),
    (∀ (ring : Ring) (v : BitVec 64),
      let r := ring.val
      let n := fld v 31 0
      let bad := 2 ^ 31 ≤ ahead n (s.host.prod.get 0 r).toNat ∨ 256 < ahead n (s.crReg r 3).toNat
      (s.hostReach = false → exec (.hostDb ring v) s = .next s) ∧
      (s.hostReach = true → s.host.d3 = true → exec (.hostDb ring v) s = .next (s.emit .dropped)) ∧
      (s.hostReach = true → s.host.d3 = false → bad → ∃ t, exec (.hostDb ring v) s = .next t ∧ s.hostErrs t 6 0 (0x10000 + 8 * r) ∧
        t.host.prod = s.host.prod ∧ t = { s with host := t.host, kpr := t.kpr }) ∧
      (s.hostReach = true → s.host.d3 = false → ¬ bad →
        let u := { s with host := { s.host with prod := s.host.prod.set r (BitVec.ofNat 32 n) } }
        let b := u.entryAt r
        let op := leNat (b.take 2)
        (s.host.fresh = [] → exec (.hostDb ring v) s = .next u) ∧
        ∃ t, exec (.hostDb ring v) s = .next t ∧ t.host.prod = u.host.prod ∧ t = { s with host := t.host, kpr := t.kpr } ∧
          (u.turnRing = some ring → u.unknownAt r = true → ∃ x ∈ t.kpr.done, x.ring = r ∧ x.tag.toNat = leNat ((b.drop 2).take 2) ∧ x.opcode = op ∧
              x.status = Sts.badOpcode)) ∧
      (s.host.d3 = false → exec (.registerWrite (.host 8) (BitVec.ofNat 48 (0x10000 + 8 * r)) v) s = exec (.hostDb ring v) s)) ∧
    (s.busReach = false → exec .completionWrite s = .next s ∧ exec .logDelivery s = .next s) ∧
    (s.kpr.done = [] → exec .completionWrite s = .next s) ∧
    (∀ d rest, s.kpr.done = d :: rest → s.busReach = true → s.kprState = 2 ∨ s.kprState = 3 →
      let i := fld (s.crReg d.ring 2) 31 0
      let a := fld (s.crReg d.ring 0) 63 14 * 0x4000 + 64 * (i % 256)
      ∃ t, exec .completionWrite s = .next t ∧
        t.hostMem = Memory.sets s.hostMem a (leBytes 2 d.tag.toNat ++ leBytes 2 d.opcode ++ leBytes 2 d.status ++ leBytes 2 d.detail ++
          leBytes 8 d.acc.toNat ++ leBytes 8 d.done.toNat ++ (d.result ++ zeros (32 - d.result.length)) ++ zeros 4 ++
          leBytes 2 d.ring ++ [0, BitVec.ofNat 8 ((i / 256 + 1) % 2)]) ∧
        t.crReg d.ring 2 = BitVec.ofNat 64 ((i + 1) % 2 ^ 32) ∧
        (∃ l, t.kpr.done = rest ++ l ∧ ∀ x ∈ l, x.status = Sts.badOpcode) ∧
        (s.host.fresh = [] → t.kpr = { s.kpr with done := rest }) ∧
        (d.noint = true → t.out = s.out) ∧
        (d.noint = false → (s.msixEntry d.ring).getLsbD 96 = false → t.out = s.out ++ [.msix d.ring]) ∧
        (d.noint = false → (s.msixEntry d.ring).getLsbD 96 = true → d.ring < 256 → t.out = s.out ∧ t.host.pba.getLsbD d.ring = true) ∧
        t.sec = (if d.writes then { s.sec with flashBusy := false } else s.sec) ∧ t.mem = s.mem) ∧
    (∀ e rest a n, s.kpr.log = e :: rest → s.kpr.logBind = some (a, n) → s.busReach = true → s.kprState = 2 →
      let i := fld s.host.log 31 0
      (ahead i (fld s.host.log 63 32) < 2 ^ n → ∃ t, exec .logDelivery s = .next t ∧ t.kpr = { s.kpr with log := rest } ∧
        t.hostMem = Memory.sets s.hostMem (a + 64 * (i % 2 ^ n)) (leBytes 4 e.seq ++ leBytes 2 e.type ++
          [BitVec.ofNat 8 e.conseq.toNat, BitVec.ofNat 8 e.slot] ++ leBytes 8 e.fn.toNat ++ leBytes 8 e.rfn.toNat ++
          leBytes 4 e.primary ++ [0, 0, 0, BitVec.ofNat 8 ((i / 2 ^ n + 1) % 2)] ++ e.data) ∧
        fld t.host.log 31 0 = (i + 1) % 2 ^ 32 ∧ fld t.host.log 63 32 = fld s.host.log 63 32 ∧ bitAt t.host.intSts State.intLog = true) ∧
      (2 ^ n ≤ ahead i (fld s.host.log 63 32) → exec .logDelivery s = .next s)) ∧
    (s.kpr.log = [] ∨ s.kpr.logBind = none → exec .logDelivery s = .next s) ∧
    (∃ t, exec .heartbeat s = .next t ∧ t = { s with host := t.host, kpr := t.kpr } ∧
      t.host.hb = (if s.powered = true ∧ s.kprState = 2 then s.host.hb + 1 else s.host.hb) ∧
      (s.host.fresh = [] ∨ s.kprState ≠ 2 → t = { s with host := { s.host with hb := t.host.hb } })) ∧
    (∃ t, exec .hostLinkReachesL0 s = .next t ∧
      (s.powered = true → s.host.portUp = true → t.host.l0 = true ∧ bitAt t.host.buoy0 0 = true) ∧
      (s.powered = false ∨ s.host.portUp = false → t = s)) ∧
    (∃ t, exec .hostLinkLeavesL0 s = .next t ∧ t.host.l0 = false ∧ bitAt t.host.buoy0 0 = false ∧
      t = { s with host := t.host, out := t.out }) ∧
    (∀ v d3, exec (.busMasterEnableChange v d3) s =
      .next (if s.hostReach then { s with host := { s.host with busMaster := v, d3 := d3 } } else s)) ∧
    exec .perstRise s = .next { s with host := { s.host with perstHigh := true, portUp := s.host.portUp || s.powered } }

/-- Register writes follow the access types of their fields, and the host reads BAR0. A host write to BAR0 while the link is down or
the function in D3hot, and a Keeper write while it does not run, change nothing. A host write clears the causes of HOST_INT_STS
that it names, sets a window register whose value is allowed, and moves a completion head. A host read of BAR0 answers the host
registers, the rings' registers, the index of a queue's doorbell, and zero where nothing is listed. Through the register window
a write that is misaligned or not of 8 bytes records cause 7, as such a read does, which is answered with Completer Abort; an
aligned read answers the register; a write outside every grant records cause 5; both writes are dropped. The Keeper's write to
SEQ_STREAM of a core that is up takes effect unless the core runs, one to SEQ_STS clears DESC_ERR_STS where it names it, one to
a CRC parameter of an idle context keeps the bits below its width, and one to the Keeper's or the security block changes
nothing. (The model's choices: zero at unlisted offsets, log entry 89; causes 5 and 7, 90; partial accesses, 103; D3hot, 104.) -/
def Obligations.RegisterWrites : Prop :=
  ∀ (s : State) (addr : BitVec 48) (v : BitVec 64),
    (s.hostReach = false ∨ s.host.d3 = true → ∀ n, exec (.registerWrite (.host n) addr v) s = .next s) ∧
    (s.powered = false ∨ s.kprState ≠ 2 → exec (.registerWrite .keeper addr v) s = .next s) ∧
    (s.hostReach = true → s.host.d3 = false →
      let reads (off : Nat) (w : BitVec 64) : Prop :=
        exec (.bar2Read .bar0 (BitVec.ofNat 36 off) 8) s = .next { s with out := s.out ++ [.data (leBytes 8 w.toNat)], free := s.free + 1 }
      (∀ x ∈ [(0x08, s.host.buoy0), (0x10, s.host.buoy1), (0x18, s.host.kprSts), (0x20, s.host.hb), (0x28, s.host.intSts),
        (0x30, s.host.intMask), (0x38, s.host.win), (0x40, s.host.rwin), (0x48, s.host.err), (0x50, s.host.log)], reads x.1 x.2) ∧
      (∀ r < 64, ∀ k < 4, reads (0x100 + 0x20 * r + 8 * k) (s.crReg r k)) ∧
      (∀ p < 8, ∀ q < 64, ∀ d, s.queDecl? p q = some d → reads (0x20000 + 0x200 * p + 8 * q)
        (BitVec.ofNat 64 (if d.input then fld (s.que p q).tail 31 0 else fld (s.que p q).head 31 0))) ∧
      (∀ o, 0x31020 ≤ o → o < 0x2000000 → o % 8 = 0 → reads o 0) ∧
      (∀ o < 0x2000000, let off := fld s.host.rwin 10 0 * 0x2000000 + o
        (∀ n, o % 8 ≠ 0 ∨ n ≠ 8 → ∃ t, exec (.bar2Read .bar0 (BitVec.ofNat 36 (0x2000000 + o)) n) s = .next t ∧
          t.out = s.out ++ [.completerAbort] ∧ s.hostErrs t 7 0 (regBase + off) ∧ t = { s with out := t.out, host := t.host, kpr := t.kpr }) ∧
        (o % 8 = 0 → ∀ w t, s.readReg off = (.ok w, t) →
          exec (.bar2Read .bar0 (BitVec.ofNat 36 (0x2000000 + o)) 8) s = .next { t with out := s.out ++ [.data (leBytes 8 w.toNat)] }) ∧
        (o % 8 = 0 → ∀ e u, s.readReg off = (.error e, u) → ∃ t, exec (.bar2Read .bar0 (BitVec.ofNat 36 (0x2000000 + o)) 8) s = .next t ∧
          t.out = s.out ++ [.completerAbort] ∧ s.hostErrs t (State.errHost e) 0 (regBase + off))) ∧
      (exec (.registerWrite (.host 8) 0x28 v) s = .next { s with host := { s.host with intSts := s.host.intSts &&& ~~~(v &&& 0x1FF) } }) ∧
      (exec (.registerWrite (.host 8) 0x38 v) s = .next (if 23 < fld v 4 0 ∨ fld v 4 0 = 15 then s
        else { s with host := { s.host with win := v &&& 0x1F } })) ∧
      (∀ r < 64, ∃ t, exec (.registerWrite (.host 8) (BitVec.ofNat 48 (0x108 + 0x20 * r)) v) s = .next t ∧
        fld (t.crReg r 1) 31 0 = fld v 31 0 ∧ t = { s with host := t.host, kpr := t.kpr } ∧
        (s.host.fresh = [] → t = { s with host := { s.host with cr := s.host.cr.set (4 * r + 1) (BitVec.ofNat 64 (fld v 31 0)) } })) ∧
      (∀ o < 0x2000000, let off := fld s.host.rwin 10 0 * 0x2000000 + o
        (∀ n, o % 8 ≠ 0 ∨ n ≠ 8 → ∃ t, exec (.registerWrite (.host n) (BitVec.ofNat 48 (0x2000000 + o)) v) s = .next t ∧
          t.out = s.out ++ [.dropped] ∧ s.hostErrs t 7 0 (regBase + off) ∧ t = { s with out := t.out, host := t.host, kpr := t.kpr }) ∧
        (o % 8 = 0 → s.granted off = false → ∃ t, exec (.registerWrite (.host 8) (BitVec.ofNat 48 (0x2000000 + o)) v) s = .next t ∧
          t.out = s.out ++ [.dropped] ∧ s.hostErrs t 5 0 (regBase + off) ∧ t = { s with out := t.out, host := t.host, kpr := t.kpr }) ∧
        (o % 8 = 0 → s.granted off = true → s.powered = true → s.kprState = 2 → off < 0x10_0000_0000 → ∀ t, s.writeReg off v = (none, t) →
          exec (.registerWrite (.host 8) (BitVec.ofNat 48 (0x2000000 + o)) v) s =
            exec (.registerWrite .keeper (BitVec.ofNat 48 (regBase + off)) v) s))) ∧
    (s.powered = true → s.kprState = 2 → ∀ c < 512, s.presented c = true → s.dieUp (dieOf c) = true →
      (∃ t, exec (.registerWrite .keeper (BitVec.ofNat 48 (regBase + c * 0x10000 + R.seqStream)) v) s = .next t ∧
        (s.coreState c = 2 → t = s) ∧
        (s.coreState c ≠ 2 → fld (t.core c R.seqStream) 47 0 = fld v 47 0 ∧
          fld (t.core c R.seqStream) 63 48 = fld (s.core c R.seqStream) 63 48 ∧ s.coreRegsKept t c (· = R.seqStream) ∧
          t = { s with coreR := t.coreR })) ∧
      (∃ t, exec (.registerWrite .keeper (BitVec.ofNat 48 (regBase + c * 0x10000 + R.seqSts)) v) s = .next t ∧
        bitAt (t.core c R.seqSts) 7 = (bitAt (s.core c R.seqSts) 7 && !bitAt v 7) ∧
        (∀ i < 64, i ≠ 7 → bitAt (t.core c R.seqSts) i = bitAt (s.core c R.seqSts) i) ∧ s.coreRegsKept t c (· = R.seqSts) ∧
        t = { s with coreR := t.coreR }) ∧
      (∀ k < 4, s.chkOpen c k = false → ∀ o ∈ [0x08, 0x10, 0x18], ∃ t,
        exec (.registerWrite .keeper (BitVec.ofNat 48 (regBase + c * 0x10000 + R.chkCtrl k + o)) v) s = .next t ∧
        t.core c (R.chkCtrl k + o) = v &&& fldMask (fld (s.core c (R.chkCtrl k)) 6 0 - 1) 0 ∧
        s.coreRegsKept t c (· = R.chkCtrl k + o) ∧ t = { s with coreR := t.coreR })) ∧
    (∀ o < 0x110000,
      exec (.registerWrite .keeper (BitVec.ofNat 48 (regBase + 0x20900000 + o)) v) s = .next s)

/-- The JTAG and management ports. A debug access whose scope (bit 1 for a read, bit 2 for a write) is closed changes nothing; an
open one to a misaligned address answers an error, and within one core's own clean memory a read answers the 8 bytes there and a
write changes exactly them. IDCODE and BYPASS always answer; a scan instruction stays in the TAP and shifts out the levels of
the contacts, each at a cell of its own (which cells, and that COOL_REQ between 0 and 100 % has a free level, are the model's,
log entry 93), EXTEST drives the outputs among them with what was shifted in until it ends, and each acts as BYPASS where it is
not open or a slot is active; TRST_L resets the TAP. An SMBus read answers byte count 8, the 8 bytes of the register that its
code selects, lowest first (a measured field is free), and one byte of Packet Error Code (its value is the model's, log entry
95), or NAK; the Alert Response Address is answered with the module's address while SMB_ALERT_L is low. The late Keeper is
noted, and SMB_ALERT_L is low while it is not RUNNING. A module without power answers nothing. (The error of a misaligned access
is log entry 92, the bit of BYPASS 93, JTAG in MANUFACTURE 80, the model's choices.) -/
def Obligations.DebugAndManagementPorts : Prop :=
  ∀ (s : State),
    (s.powered = false → ∀ a v i code, exec (.debugRead a) s = .next s ∧ exec (.debugWrite a v) s = .next s ∧
      exec (.boundaryScan i) s = .next s ∧ exec (.smbusBlockRead code) s = .next s ∧ exec .alertResponse s = .next s) ∧
    (s.powered = true →
      (∀ a v, s.sec.life ≠ 0 → (s.sec.scope.testBit 1 = false → exec (.debugRead a) s = .next s) ∧
        (s.sec.scope.testBit 2 = false → exec (.debugWrite a v) s = .next s)) ∧
      (∀ (a : BitVec 48), s.sec.life = 0 ∨ s.sec.scope.testBit 1 = true →
        (a.toNat % 8 ≠ 0 → exec (.debugRead a) s = .next { s with out := s.out ++ [.debugError] }) ∧
        (a.toNat % 8 = 0 → ∀ c z, c < 512 → s.ownClean c → State.ownEnd c a.toNat = some z →
          exec (.debugRead a) s = .next { s with out := s.out ++ [.debug (BitVec.ofNat 64 (leNat (Memory.gets s.mem a.toNat 8)))] })) ∧
      (∀ (a : BitVec 48) (v : BitVec 64), s.sec.life = 0 ∨ s.sec.scope.testBit 2 = true →
        (a.toNat % 8 ≠ 0 → exec (.debugWrite a v) s = .next { s with out := s.out ++ [.debugError] }) ∧
        (a.toNat % 8 = 0 → ∀ c z, c < 512 → s.ownClean c → State.ownEnd c a.toNat = some z →
          ∃ t, exec (.debugWrite a v) s = .next t ∧ Memory.gets t.mem a.toNat 8 = leBytes 8 v.toNat ∧
            (∀ y, y < a.toNat ∨ a.toNat + 8 ≤ y → Memory.get t.mem y = Memory.get s.mem y) ∧ t = { s with mem := t.mem, syn := t.syn })) ∧
      (s.extesting = false → exec (.boundaryScan .idcode) s = .next { s with
        pins := { s.pins with scan := some .idcode }
        out := s.out ++ [.tdo 32 ((if s.iodC then 0xC else 0xB) * 2 ^ 28 + 0x7100 * 2 ^ 12 + Config.manufacturer.toNat * 2 + 1)] }) ∧
      (s.extesting = false → exec (.boundaryScan .bypass) s = .next { s with pins := { s.pins with scan := some .bypass }, out := s.out ++ [.tdo 1 0] }) ∧
      (s.extesting = false → exec (.boundaryScan .reset) s = .next { s with pins := { s.pins with scan := none } }) ∧
      (s.extesting = true → exec (.boundaryScan .reset) s = .next { s with
        pins := { s.pins with scan := none }, out := s.out ++ [.contacts s.contacts] }) ∧
      (∀ j k, j < 11 → k < 11 → State.scanCell k < State.scanCells ∧ (State.scanCell j = State.scanCell k → j = k)) ∧
      (∀ (i : BScan), i ≠ .idcode → i ≠ .bypass → i ≠ .reset →
        ((s.sec.life = 0 ∨ s.sec.scope.testBit 0 = true) → s.anyActive = false →
          ∃ t v l, exec (.boundaryScan i) s = .next t ∧ t.out = s.out ++ [.tdo State.scanCells v] ++ l ∧
            t = { s with pins := { s.pins with scan := some i }, free := s.free + 1, out := t.out } ∧
            v < 2 ^ State.scanCells ∧
            (let levels := [s.host.perstHigh, !s.pins.slip, !s.pins.thermTrip, !s.pins.coolFault, s.coolHigh, !s.pins.smbAlert,
              s.straps.getLsbD 0, s.straps.getLsbD 1, false]
             ∀ k b, levels[k]? = some b → v.testBit (State.scanCell k) = b) ∧
            (∀ d, i = .extest d → ∃ lv, l = [.contacts lv] ∧
              (∀ k ∈ [1, 2, 3, 4, 5, 10], lv[k]? = some (some (d.testBit (State.scanCell k)))) ∧
              ∀ k ∈ [0, 6, 7, 8, 9], lv[k]? = s.contacts[k]?) ∧
            ((∀ d, i ≠ .extest d) → s.extesting = false → l = [])) ∧
        ((s.sec.life ≠ 0 ∧ s.sec.scope.testBit 0 = false) ∨ s.anyActive = true →
          exec (.boundaryScan i) s = .next { s with pins := { s.pins with scan := some i }, out := s.out ++ [.tdo 1 0] })) ∧
      (∀ c v, (c, v) ∈ [((0x02 : BitVec 8), s.host.buoy0), (0x03, s.host.buoy1), (0x04, s.host.kprSts), (0x05, s.host.hb),
          (0x07, s.iod 0 R.thmFlow), (0x08, s.iod 0 R.thmCool), (0x09, s.marginWord), (0x0A, BitVec.ofNat 64 s.idNumber),
          (0x01, BitVec.ofNat 64 (0x7100 * 2 ^ 48 + s.iodRev * 2 ^ 40 + s.rom.toNat * 2 ^ 32 + s.host.kfw.toNat * 2 ^ 8)),
          (0x0B, BitVec.ofNat 64 (s.sec.returns * 256 + s.sec.ownerErr.toNat * 32 + s.ownerKey.isSome.toNat * 16 + s.sec.life)),
          (0x0C, s.mapStsWord)] →
        ∃ e, exec (.smbusBlockRead c) s = .next { s with out := s.out ++ [.smbus (8 :: leBytes 8 v.toNat ++ [e])] }) ∧
      (∃ v e t, exec (.smbusBlockRead 6) s = .next t ∧ t = { s with free := t.free, out := s.out ++ [.smbus (8 :: leBytes 8 v ++ [e])] } ∧
        v < 2 ^ 64 ∧ v / 2 ^ 16 = (s.iod 0 R.thmSupply).toNat / 2 ^ 16) ∧
      (∀ d < 32, ∃ e, exec (.smbusBlockRead (BitVec.ofNat 8 (0x10 + d))) s =
        .next { s with out := s.out ++ [.smbus (8 :: leBytes 8 (s.die d R.thmQuad).toNat ++ [e])] }) ∧
      (∀ c : BitVec 8, c.toNat = 0 ∨ (0xC < c.toNat ∧ c.toNat < 0x10) ∨ 0x30 ≤ c.toNat →
        exec (.smbusBlockRead c) s = .next { s with out := s.out ++ [.smbusNak] }) ∧
      (exec .alertResponse s = .next { s with
        out := s.out ++ [.alertAddr (if s.pins.smbAlert then some (0x68 + s.straps.toNat) else none)] }) ∧
      (∃ t, exec .keeperNotRunningAlert s = .next t ∧ t.lateKeeper = true ∧ (s.kprState ≠ 2 → t.pins.smbAlert = true) ∧
        t = { s with lateKeeper := true, pins := t.pins, iodR := t.iodR }))

/-- Samples, suspect marks, trips, flow and the coolant state. A sample of a powered module is taken up: value, highest value, and,
with the Keeper RUNNING, the cross-check (three departures above 12 degrees, or a coolant reading outside its range, make a
sensor suspect). Two samples in a row at which the governing reading of its site (while the Keeper is not RUNNING the sensor's
own, log entry 59) is at the limit of its row latch a trip. A suspect mark clears after 10 s near the estimate; a trip is
recorded once. The flow estimate follows R412 from the mean rise of the NTC samples of 100 ms, the coolant state the transitions
of R413 once their conditions have held; the ms without an active run are counted. THM_READ writes the record of 2,752 bytes to
its buffer; THM_COOL_MIN sets the least duty. Where a row's conditions fail, only the pins that follow from heat may change.
(Estimates are free values, log entries 57 and 58; counting idle ms by FLOW_ESTIMATE is log entry 61, the model's choice.) -/
def Obligations.SensorsAndCoolant : Prop :=
  ∀ (s : State),
    (s.powered = false → ∀ x v us w, (∃ t, exec (.sensorSample x v us) s = .next t ∧ s.onlyPins t) ∧
      (∃ t, exec (.suspectClear x) s = .next t ∧ s.onlyPins t) ∧ exec .tripRecord s = .next s ∧
      (∃ t, exec (.flowEstimate w) s = .next t ∧ s.onlyPins t) ∧ ∃ t, exec .coolantStateChange s = .next t ∧ s.onlyPins t) ∧
    (s.powered = true → ∀ (x : Sensor) (v : Int) (us : Nat),
      let k := snsKey x
      let y := s.sns k
      let est := Config.estimate s.free k
      let dep := if 192 < (v - est).natAbs then y.depart + 1 else 0
      let run := s.kprState = 2
      ∃ t, exec (.sensorSample x v us) s = .next t ∧ (t.sns k).val = v ∧ (t.sns k).seen = true ∧ y.high ≤ (t.sns k).high ∧
        ((t.sns k).suspect = true ↔ y.suspect = true ∨
          (run ∧ (3 ≤ dep ∨ (336 ≤ k ∧ k < 340 ∧ (v < -320 ∨ 2080 < v))))) ∧
        (run → (t.sns k).depart = dep ∧ (t.sns k).est = est) ∧
        (∀ lim row, tripOf k = some (lim, row) →
          (t.sns k).trip = (if lim ≤ t.tripReading k then y.trip + 1 else 0) ∧
          (¬ run → t.tripReading k = v) ∧
          (run → 320 ≤ k → t.tripReading k = if (t.sns k).suspect then (t.sns k).repl else v) ∧
          (2 ≤ (t.sns k).trip → s.thm.trip = false → t.thm.trip = true ∧ t.thm.tripRow = row ∧ t.pins.thermTrip = true) ∧
          ((t.sns k).trip < 2 → t.thm.trip = s.thm.trip)) ∧
        (∀ j, j ≠ k → t.sns j = s.sns j) ∧ t.free = s.free + 1 ∧ t.mem = s.mem ∧ t.coreR = s.coreR ∧ t.slots = s.slots) ∧
    (∀ x, let k := snsKey x
      (s.powered = true → (s.sns k).suspect = true → 10000000 ≤ (s.sns k).nearUs →
        ∃ t, exec (.suspectClear x) s = .next t ∧ (t.sns k).suspect = false ∧ (t.sns k).depart = 0 ∧ (t.sns k).val = (s.sns k).val ∧
          t.kpr.logSeq = s.kpr.logSeq + 1) ∧
      ((s.sns k).suspect = false ∨ (s.sns k).nearUs < 10000000 → ∃ t, exec (.suspectClear x) s = .next t ∧ s.onlyPins t)) ∧
    (s.powered = true → s.kprState = 2 → s.thm.trip = true → s.thm.tripWritten = false →
      ∃ t, exec .tripRecord s = .next t ∧ t.thm.tripWritten = true ∧ t.thm.life.trips = s.thm.life.trips + 1 ∧
        t.thm.life.lastTrip = s.thm.tripRow ∧ t = { s with thm := t.thm }) ∧
    (s.thm.trip = false ∨ s.thm.tripWritten = true ∨ s.kprState ≠ 2 → exec .tripRecord s = .next s) ∧
    (s.powered = true → s.kprState = 2 → ∀ (w : BitVec 16),
      let mean (k : Nat) : Nat × Int :=
        let past := (s.sns k).past
        let us := (past.map (·.1)).foldl (· + ·) 0
        if us = 0 then (1, s.snsVal k) else (us, (past.map fun e => (e.1 : Int) * e.2).foldl (· + ·) 0)
      let rise := (mean 337).2 * (mean 336).1 - (mean 336).2 * (mean 337).1
      let den := (mean 336).1 * (mean 337).1
      ∃ t, exec (.flowEstimate w) s = .next t ∧ fld (t.iod 0 R.thmSupply) 31 16 = w.toNat ∧
        (w.toNat < 500 → bitAt (t.iod 0 R.thmFlow) 19 = true ∧ t.flow = s.flow) ∧
        (500 ≤ w.toNat → bitAt (t.iod 0 R.thmFlow) 19 = false ∧ t.flow = (if rise ≤ 0 then 65535
          else min 65535 (96000 * w.toNat * den / (4020 * rise.toNat)))) ∧
        t.kpr.idleMs = (if s.anyActive then 0 else s.kpr.idleMs + 1) ∧
        (∀ k < 4, t.thm.coolUs.get 0 k = if t.coolHolds k then s.thm.coolUs.get 0 k + 1000 else 0)) ∧
    (s.powered = true → s.kprState = 2 →
      let calm := s.thm.sns.all fun e => decide (100000 ≤ e.2.calmUs)
      let held (k us : Nat) : Prop := us ≤ s.thm.coolUs.get 0 k
      let v := if s.coolState = 0 then (if held 0 1000000 then 1 else 0)
        else if s.coolState = 1 then (if held 2 1000000 then 2 else if held 1 10000000 then 0 else 1)
        else if s.coolState = 2 then (if held 3 10000000 then 1 else 2)
        else if calm = true ∧ held 3 10000000 then 2 else s.coolState
      ∃ t, exec .coolantStateChange s = .next t ∧ t.coolState = v ∧ (v = s.coolState → s.onlyPins t) ∧
        (v ≠ s.coolState → t.thm.coolUs = [] ∧ t.kpr.logSeq = s.kpr.logSeq + 1 ∧ (2 < s.coolState → t.pins.coolFault = false))) ∧
    (∀ m, s.asked Op.thmRead 16 [(0, 12)] m →
      (arg m.args 8 4 < 2752 → ∃ t, exec (.thmRead m) s = .next t ∧ s.replied t Op.thmRead m Sts.badArg 0 [] ∧ s.onlyAnswers t) ∧
      (2752 ≤ arg m.args 8 4 → s.mayMaster = true → ∀ a, arg m.args 0 8 = 2 ^ 63 + a → a < 2 ^ 63 → a % 64 = 0 →
        ∃ t, exec (.thmRead m) s = .next t ∧ s.replied t Op.thmRead m Sts.ok 0 [] ∧
          t.hostMem = Memory.sets s.hostMem a s.snsRecord ∧ t = { s with host := t.host, kpr := t.kpr, hostMem := t.hostMem })) ∧
    (∀ m, s.asked Op.thmCoolMin 8 [(0, 1)] m →
      (100 < arg m.args 0 1 → ∃ t, exec (.thmCoolMin m) s = .next t ∧ s.replied t Op.thmCoolMin m Sts.badArg 0 []) ∧
      (arg m.args 0 1 ≤ 100 → ∃ t, exec (.thmCoolMin m) s = .next t ∧ s.replied t Op.thmCoolMin m Sts.ok 0 [] ∧
        fld (t.iod 0 R.thmFlow) 39 32 = arg m.args 0 1 ∧ arg m.args 0 1 ≤ t.pins.coolReq))

/-- The damper, forecasts, measurements and margins. A damper window moves every core of a fenced-in die by one step to the skip
level it targets, enters a division once every core stands beside it, and leaves one that is no longer demanded; the levels of
the window that ends are kept on every running core. Releases end demands held cold for 10 ms. A forecast (a free function of
plan or measured power and readings, log entry 60) that crosses 85 or 95 degrees demands the run's thermal class, or a hold of
at most 24 without a run, which stands until ten quiet ms. A measurement starts in an idle window of 1 s without a run or by
AGE_MEASURE (RUN_ACTIVE, RATE_LIMITED otherwise; log entry 61) and ends in the class that R426 plans; a replica below its floor
raises its die's offset by one step. A class change comes into force once no slot is active, lowers no offset, with BCN_CPF (0
where the period no longer fits) and, where the period no longer fits, LOCKED. The lifetime record adds seconds and energy.
AGE_READ writes the record. Where a row's conditions fail, at most the pins change. (The release of the reactive skip is log
entry 102, ARM cleared by a class change 110, BCN_CPF 0 as a whole 111, the model's choices.) -/
def Obligations.DamperAndAgeing : Prop :=
  ∀ (s : State),
    (s.powered = false ∨ s.thm.trip = true → ∃ t, exec .damperWindow s = .next t ∧ s.onlyPins t) ∧
    (s.powered = true → s.thm.trip = false → ∃ t, exec .damperWindow s = .next t ∧ t.mem = s.mem ∧ t.slots = s.slots ∧ ∀ d < 32,
      s.fenced d = false →
      let want := s.dieDemand d
      let mode := s.dieMode d
      let at_ (l : Nat) : Nat := (s.thmDie d).skip.get 0 l
      (mode ≠ 0 → t.dieMode d = (if want = mode then mode else 0) ∧ (t.thmDie d).skip = (s.thmDie d).skip) ∧
      (mode = 0 → want ≠ 0 → (∀ l < 16, at_ l = 8 * (want + 1)) → t.dieMode d = want) ∧
      (mode = 0 → want = 0 ∨ (∃ l < 16, at_ l ≠ 8 * (want + 1)) → t.dieMode d = 0 ∧ ∀ l < 16,
        (t.thmDie d).skip.get 0 l = if at_ l < s.coreTarget d l then at_ l + 1 else if s.coreTarget d l < at_ l then at_ l - 1 else at_ l)) ∧
    (s.powered = true → s.thm.trip = false → ∃ t, exec .damperWindow s = .next t ∧ t.thm.win = s.thm.win + 1 ∧
      (s.thm.win = 0 → t.cx = s.cx) ∧
      (s.thm.win ≠ 0 → ∀ p < 8, s.slotState p = 3 → ∀ c ∈ s.slotCores p, (t.cxOf c).levels.head? = some (s.levelNow c))) ∧
    (∀ die : Die, s.powered = true → ∃ t, exec (.damperRelease die) s = .next t ∧
      let x := s.thmDie die.val
      ((t.thmDie die.val).d4core = true ↔ x.d4core = true ∧ x.coreUs < 10000) ∧
      ((t.thmDie die.val).d4turf = true ↔ x.d4turf = true ∧ x.turfUs < 10000) ∧
      ((t.thmDie die.val).react = true ↔ x.react = true ∧ x.reactUs < 10000) ∧
      ∀ b < 14, t.thm.d2req.testBit b = (s.thm.d2req.testBit b && decide (s.thm.d2us.get 0 b < 10000))) ∧
    (∀ (die : Die) (power : BitVec 16), s.powered = true → s.kprState = 2 →
      let d := die.val
      let x := s.thmDie d
      let run := (s.slotOfDie d).filter fun p => s.slotState p == 3
      let plan := run.elim [] fun p => s.plannedPower p d
      let aboveMs := if run.isSome = true ∧ 6 * plan.headD 0 < 5 * power.toNat then x.overMs + 1 else 0
      let next := Config.forecast d (if 10 ≤ aboveMs then plan.map fun _ => power.toNat else plan) power.toNat
        [s.snsVal 338, s.snsVal 339, s.turfGov d false, s.turfGov d true]
      let hot := (∃ lim ∈ [1360, 1520], s.turfGov d false ≤ lim ∧ lim < next.1) ∨ (∃ lim ∈ [1360, 1520], s.turfGov d true ≤ lim ∧ lim < next.2)
      ∃ t, exec (.heatForecast die power) s = .next t ∧ (t.thmDie d).overMs = aboveMs ∧
        (hot → (t.thmDie d).fcastOn = true ∧ (t.thmDie d).fcastMs = 0 ∧ 100 ≤ t.pins.coolReq ∧
          (∀ n, s.runClass d = some n → (t.thmDie d).fcast = n) ∧ (s.runClass d = none → (t.thmDie d).fcast ≤ 24)) ∧
        (¬ hot → 9 ≤ x.fcastMs → (t.thmDie d).fcastOn = false ∧ (t.thmDie d).fcast = 0 ∧ (t.thmDie d).fcastMs = 0) ∧
        (¬ hot → x.fcastMs < 9 → (t.thmDie d).fcastOn = x.fcastOn ∧ (t.thmDie d).fcast = x.fcast ∧ (t.thmDie d).fcastMs = x.fcastMs + 1)) ∧
    (let open_ := s.powered = true ∧ s.kpr.coldDone = true ∧ s.kpr.reset = none ∧ s.kprState = 2 ∧ s.anyActive = false ∧ 1000 ≤ s.kpr.idleMs ∧
        s.thm.measuring = none ∧ s.measuredLately = false
     (open_ → exec .idleMeasurement s = .next { s with thm := { s.thm with measuring := some 2 } }) ∧
     (¬ open_ → exec .idleMeasurement s = .next s)) ∧
    (∀ m, s.asked Op.ageMeasure 0 [] m →
      (s.anyActive = true ∨ s.kpr.idleMs < 1000 → ∃ t, exec (.ageMeasure m) s = .next t ∧ s.replied t Op.ageMeasure m Sts.runActive 0 [] ∧ s.onlyAnswers t) ∧
      (s.anyActive = false → 1000 ≤ s.kpr.idleMs → s.measuredLately = true ∨ s.thm.measuring ≠ none →
        ∃ t, exec (.ageMeasure m) s = .next t ∧ s.replied t Op.ageMeasure m Sts.rateLimited 0 [] ∧ s.onlyAnswers t) ∧
      (s.anyActive = false → 1000 ≤ s.kpr.idleMs → s.measuredLately = false → s.thm.measuring = none → ∃ t, exec (.ageMeasure m) s = .next t ∧
        s.headMoved t Op.ageMeasure m ∧ t.kpr.done = s.kpr.done ∧ t.thm = { s.thm with measuring := some 3 })) ∧
    (∀ (ms : List DieMeas) (eyes : List (ClPort × Nat)),
      let cls := s.thm.pendCls.getD s.thm.cls
      (s.thm.measuring = none → ∃ t, exec (.measurementComplete ms eyes) s = .next t ∧ s.onlyPins t) ∧
      (∀ k c, s.thm.measuring = some k → k ≠ 1 → overMargin ms cls = [] → s.noneStarting → s.kpr.accepted = [c] →
        c.opcode = Op.ageMeasure →
        ∃ t x, exec (.measurementComplete ms eyes) s = .next t ∧ t.thm.measuring = none ∧
          t.thm.lastMeas = some s.thm.life.secs ∧ t.thm.cls = s.thm.cls ∧
          t.thm.pendCls = (if planClass ms cls = cls then s.thm.pendCls else some (planClass ms cls)) ∧ x ∈ t.kpr.done ∧ x.tag = c.tag ∧
          x.status = Sts.ok ∧ x.result = [BitVec.ofNat 8 (t.thm.pendCls.getD t.thm.cls)])) ∧
    (∀ (die : Die) (p : Fin 17) (ps : BitVec 16) (below : Bool),
      let d := die.val
      let w := s.die d R.ageCpr
      let o := fld (s.die d R.pwrVoff) 7 0
      (s.powered = false ∨ s.fenced d = true → ∃ t, exec (.replicaRead die p ps below) s = .next t ∧ s.onlyPins t) ∧
      (s.powered = true → s.fenced d = false → (below = false ∨ o < 12) →
        ∃ t, exec (.replicaRead die p ps below) s = .next t ∧
          t.die d R.ageCpr = (if w = 0 ∨ fld w 20 16 = p.val ∨ signed 16 ps.toNat < signed 16 (fld w 15 0)
            then BitVec.ofNat 64 (p.val * 2 ^ 16 + ps.toNat) else w) ∧
          fld (t.die d R.pwrVoff) 7 0 = (if below then o + 1 else o)) ∧
      (s.powered = true → s.fenced d = false → below = true → 12 ≤ o → s.noneStarting →
        ∃ t, exec (.replicaRead die p ps below) s = .next t ∧ t.fenced d = true ∧ t.dieUp d = false ∧
          s.runsHalt t (fun q => s.slotHasDie q d))) ∧
    (∀ c, s.thm.pendCls = some c → s.powered = true → s.kprState = 2 →
      (s.anyActive = true → exec .marginChange s = .next s) ∧
      (s.anyActive = false → ∃ t, exec .marginChange s = .next t ∧ t.thm.cls = c ∧ t.thm.pendCls = none ∧ t.thm.life.cls = c ∧
        fld t.bcn.cpf 15 0 = cpfOf c s.period % 2 ^ 16 ∧ (cpfOf c s.period = 0 → t.bcn.cpf = 0) ∧
        (∀ d < 32, fld (s.die d R.pwrVoff) 7 0 ≤ fld (t.die d R.pwrVoff) 7 0) ∧ t.bcn.fn = s.bcn.fn ∧
        t.bcnState = (if 2 ≤ s.bcnState ∧ cpfOf c s.period = 0 then 1 else s.bcnState) ∧
        (2 ≤ s.bcnState → cpfOf c s.period = 0 → bitAt t.bcn.sts 10 = true ∧ bitAt t.bcn.ctrl 0 = false) ∧
        bitAt t.host.buoy0 2 = bitAt s.host.buoy0 2)) ∧
    (s.thm.pendCls = none → exec .marginChange s = .next s) ∧
    (∀ x : LifeTick, (s.powered = true → s.kprState = 2 → ∃ t, exec (.lifetimeUpdate x) s = .next t ∧
        t.thm.life.secs = s.thm.life.secs + x.secs ∧ t.thm.life.kJ = s.thm.life.kJ + x.kJ ∧
        t.thm.life.lowSecs = s.thm.life.lowSecs + (if s.coolState = 1 then x.secs else 0) ∧ t = { s with thm := t.thm }) ∧
      (s.powered = false ∨ s.kprState ≠ 2 → exec (.lifetimeUpdate x) s = .next s)) ∧
    (∀ m, s.asked Op.ageRead 16 [(0, 12)] m →
      (arg m.args 8 4 < s.lifeBytes.length →
        ∃ t, exec (.ageRead m) s = .next t ∧ s.replied t Op.ageRead m Sts.badArg 0 [] ∧ s.onlyAnswers t) ∧
      (s.lifeBytes.length ≤ arg m.args 8 4 → s.mayMaster = true → ∀ a, arg m.args 0 8 = 2 ^ 63 + a → a < 2 ^ 63 → a % 64 = 0 →
        ∃ t, exec (.ageRead m) s = .next t ∧ s.replied t Op.ageRead m Sts.ok 0 [] ∧
          t.hostMem = Memory.sets s.hostMem a s.lifeBytes ∧ t = { s with host := t.host, kpr := t.kpr, hostMem := t.hostMem }))

/-- Power, PERST_L, restarts and resets. POWER_LOSS and INPUT_CURRENT_LIMIT leave every register and memory at its reset value and
fuses, flash and the lifetime record as they were, with the mark of a slot that was being written, which leads to RECOVERY at
the next boot with a free cause (log entry 81, the model's choice). COLD_POWER_ON of a dark module powers it, with its ROM in
AUTH where IOD0 works; of a powered one it changes nothing. PERST_L falling after the cold sequence begins a PCIe reset, before
it closes the port. A restart of the Keeper goes to RESTARTING and begins a warm reset, at once or after the reset in progress;
authentication, in the cold sequence too, where the HBM stacks come up with it, leads to RUNNING with the image's version (of
the image that ran, after a restart), or to RECOVERY with its cause. RESET_WARM, RESET_COMPUTE and RESET_PARTITION begin resets
of their scope (SLOT_STATE for an empty slot), and RESET_COMPLETE ends one: in RECOVERY the HBM stacks come up and nothing else;
else the mailbox opens, DONE and the duration are kept, the command completes OK. (The model's choices: reset commands before
the end of the cold sequence, log entry 82; stacks that come up in RECOVERY, 84; SLOT_STATE of an empty slot, 88.) -/
def Obligations.PowerAndResets : Prop :=
  ∀ (s : State),
    (∀ i ∈ [Instr.powerLoss, .inputCurrentLimit], ∃ t, exec i s = .next t ∧ s.dark t ∧ t.sec.flashBusy = s.sec.flashBusy) ∧
    (∀ b, s.powered = true → ∃ t, exec (.coldPowerOn b) s = .next t ∧ s.onlyPins t) ∧
    (∀ b : Bring, s.powered = false → ∃ t, exec (.coldPowerOn b) s = .next t ∧ t.powered = true ∧ t.straps = b.straps ∧ t.bcn = {} ∧
      t.mem = [] ∧ t.coreR = [] ∧ t.host.perstHigh = b.perstHigh ∧ t.host.portUp = b.perstHigh ∧ t.kpr.coldDone = false ∧
      t.kpr.bring = some b ∧ t.thm.life.coldOns = s.thm.life.coldOns + 1 ∧ t.sec.life = s.sec.life ∧ t.sec.flash = s.sec.flash ∧
      (b.iodOk.getLsbD 0 = true → t.kprState = 1 ∧ t.sec.nonce = Config.bootNonce s.free)) ∧
    (s.powered = true → s.host.portUp = true →
      (s.kpr.coldDone = true → s.thm.pendCls = none → ∃ t, exec .perstFall s = .next t ∧ t.resetBegun rstPcie none (BitVec.allOnes 32) ∧ t.kprState = 1 ∧
        t.bcn = {} ∧ t.mem = [] ∧ (∀ p < 8, t.slotState p = 0) ∧ t.host.cr = [] ∧ t.host.l0 = false ∧ t.host.busMaster = false ∧ t.host.d3 = false ∧
        t.kpr.accepted = [] ∧ t.kpr.done = [] ∧ t.kpr.stage = [] ∧ t.host.perstHigh = false ∧ t.sec.scope = 0) ∧
      (s.kpr.coldDone = false → ∃ t, exec .perstFall s = .next t ∧ t.host.portUp = false ∧ t.host.l0 = false ∧ t.mem = s.mem ∧
        t.coreR = s.coreR)) ∧
    (s.powered = false ∨ s.host.portUp = false → ∃ t, exec .perstFall s = .next t ∧ t.host = { s.host with perstHigh := false } ∧
      t = { s with host := t.host, pins := t.pins, iodR := t.iodR }) ∧
    (s.powered = false ∨ s.kprState ≠ 2 → ∃ t, exec .keeperRestart s = .next t ∧ s.onlyPins t) ∧
    (∀ r, s.powered = true → s.kprState = 2 → s.kpr.reset = some r → ∃ t, exec .keeperRestart s = .next t ∧ t.kprState = 4 ∧
      t.kpr.reset = some { r with again := true } ∧ t.mem = s.mem ∧ t.mboxUp = false) ∧
    (s.powered = true → s.kprState = 2 → s.kpr.reset = none → ∃ t, exec .keeperRestart s = .next t ∧
      t.kprState = 4 ∧ fld t.host.kprSts 31 16 = min (fld s.host.kprSts 31 16 + 1) (2 ^ 16 - 1) ∧
      t.resetBegun rstWarm none (BitVec.allOnes 32) ∧ t.host.kfw = 0 ∧ t.sec.scope = 0) ∧
    (s.powered = false ∨ (s.kprState ≠ 1 ∧ s.kprState ≠ 4) → ∃ t, exec .firmwareAuthenticated s = .next t ∧ s.onlyPins t) ∧
    (s.powered = true → s.kprState = 1 →
      (∀ b, s.kpr.bring = some b → ∃ t, exec .firmwareAuthenticated s = .next t ∧ t.kpr.bring = some b ∧ t.kpr.coldDone = s.kpr.coldDone ∧
        ∀ k < 8, s.map.hbmOut.getLsbD k = false → s.map.iodFenced.getLsbD (k / 2) = false →
          t.stackUp k = true ∧ bitAt (t.iod (k / 2) (R.hbmSts + k % 2 * 0x10000)) 0 = true) ∧
      (s.sec.flashBusy = true → ∃ t, exec .firmwareAuthenticated s = .next t ∧ t.kprState = 3 ∧ 1 ≤ fld t.host.kprSts 15 8 ∧
        fld t.host.kprSts 15 8 ≤ 3 ∧ t.mboxUp = false) ∧
      (s.flashFault = none → ∃ t, exec .firmwareAuthenticated s = .next t ∧ t.kprState = 2 ∧ t.host.hb = 0 ∧
        t.sec.svn = leAt s.sec.flash 0xC 4 ∧ t.sec.fwDigest = (s.sec.flash.drop 0x20).take 64 ∧
        t.host.kfw = BitVec.ofNat 24 (leAt s.sec.flash 8 1 * 65536 + leAt s.sec.flash 9 1 * 256 + leAt s.sec.flash 10 1) ∧
        (s.kpr.reset = none → t.mboxUp = true) ∧ t.mem = s.mem) ∧
      (∀ f, s.flashFault = some f → ∃ t, exec .firmwareAuthenticated s = .next t ∧ t.kprState = 3 ∧ fld t.host.kprSts 15 8 = f % 256 ∧
        t.mboxUp = false ∧ t.mem = s.mem)) ∧
    (∀ r, s.powered = true → s.kprState = 4 → s.kpr.bring = none → s.flashFault = none → s.kpr.reset = some r → r.again = false →
      ∃ t, exec .firmwareAuthenticated s = .next t ∧ t.kprState = 2 ∧ t.sec.svn = leAt s.sec.running 0xC 4 ∧
        t.sec.fwDigest = (s.sec.running.drop 0x20).take 64 ∧ t.sec.flash = s.sec.flash) ∧
    (∀ (m : Mbox) (code op : Nat) (i : Instr), (code, op, i) ∈ [(rstWarm, Op.resetWarm, Instr.resetWarm m), (rstCompute, Op.resetCompute, .resetCompute m)] →
      s.asked op 0 [] m →
      (s.kpr.coldDone = false → ∃ t, exec i s = .next t ∧ s.onlyPins t) ∧
      (s.kpr.coldDone = true → s.thm.pendCls = none → ∃ t, exec i s = .next t ∧
        t.resetBegun code (some (s.cmdOf op m)) (BitVec.allOnes 32) ∧ (∀ p < 8, t.slotState p = 0) ∧ t.mem = [] ∧ t.cache = [] ∧
        (code = rstCompute → t.bcn = s.bcn) ∧ (code = rstWarm → t.bcn = {}) ∧ t.sec = s.sec)) ∧
    (∀ m, s.asked Op.resetPartition 8 [(0, 1)] m → s.kpr.coldDone = true →
      let p := arg m.args 0 1
      (8 ≤ p → ∃ t, exec (.resetPartition m) s = .next t ∧ s.replied t Op.resetPartition m Sts.badArg 0 []) ∧
      (p < 8 → (s.slot p).img = none → ∃ t, exec (.resetPartition m) s = .next t ∧ s.replied t Op.resetPartition m Sts.slotState 0 []) ∧
      (∀ g, p < 8 → (s.slot p).img = some g → ∃ t, exec (.resetPartition m) s = .next t ∧
        t.resetBegun rstPart (some (s.cmdOf Op.resetPartition m)) (BitVec.ofNat 32 g.dieMask) ∧ t.slotState p = 0 ∧
        (∀ q, q ≠ p → (t.slot q).img = (s.slot q).img) ∧ t.bcn = s.bcn ∧
        ∀ c < 512, g.dieMask.testBit (dieOf c) = false → ∀ off, t.core c off = s.core c off)) ∧
    (∀ (us : BitVec 32) (tests : List DieTest),
      (s.powered = false ∨ (s.kprState ≠ 2 ∧ s.kprState ≠ 3) ∨ (s.kpr.reset = none ∧ (s.kpr.bring = none ∨ s.kprState = 3)) →
        ∃ t, exec (.resetComplete us tests) s = .next t ∧ s.onlyPins t) ∧
      (∀ r, s.powered = true → s.kprState = 3 → s.kpr.reset = some r → ∃ t, exec (.resetComplete us tests) s = .next t ∧
        t.kpr = s.kpr ∧ t.mem = s.mem ∧ ∀ k < 8, s.map.hbmOut.getLsbD k = false → s.map.iodFenced.getLsbD (k / 2) = false →
          t.stackUp k = true ∧ bitAt (t.iod (k / 2) (R.hbmSts + k % 2 * 0x10000)) 0 = true) ∧
      (∀ r, s.powered = true → s.kprState = 2 → s.kpr.reset = some r → r.again = true →
        ∃ t, exec (.resetComplete us tests) s = .next t ∧ s.onlyPins t) ∧
      (∀ r c, s.powered = true → s.kprState = 2 → s.kpr.bring = none → s.kpr.reset = some r → r.again = false → r.cmd = some c → s.kpr.accepted = [c] →
        s.noneStarting →
        ∃ t x, exec (.resetComplete us tests) s = .next t ∧ t.kpr.reset = none ∧ t.mboxUp = true ∧
          bitAt t.kpr.rstLast 58 = true ∧ fld t.kpr.rstLast 31 0 = us.toNat ∧ x ∈ t.kpr.done ∧ x.tag = c.tag ∧ x.status = Sts.ok ∧
          (c.opcode ≠ Op.secLifecycle → x.result = leBytes 8 us.toNat)) ∧
      (∀ b, s.powered = true → s.kprState = 2 → s.kpr.reset = none → s.kpr.bring = some b → s.kpr.coldDone = false →
        s.kpr.accepted = [] →
        ∃ t, exec (.resetComplete us tests) s = .next t ∧ t.kpr.coldDone = true ∧ t.kpr.bring = none ∧
          bitAt t.kpr.rstLast 58 = true ∧ fld t.kpr.rstLast 63 60 = 1))

/-- What every command of the mailbox does with an entry that is not in order. For every one of the mailbox's commands: an entry
that the Keeper cannot take now, once the entries before it in turn whose opcodes the firmware does not know have been taken and
answered BAD_OPCODE (log entry 69), changes nothing more but the pins that follow from heat; in RECOVERY every command but
INFO_VERSION and FW_RECOVER is answered BAD_OPCODE; with a LEN other than the table's, BAD_LENGTH; with reserved bits or bytes
not zero, BAD_ARG (that order of the checks is log entry 74, the model's choice). Such an answer moves HOST_CMDr_HEAD on, waits
as a completion with the entry's tag, and changes nothing else but those pins. -/
def Obligations.MailboxTurnsAway : Prop :=
  ∀ (s : State) (m : Mbox) (i : Instr) (op len : Nat) (used : List (Nat × Nat)), (i, op, len, used) ∈ mailRows m →
    s.kpr.coldDone = true →
    (s.takes op m = false → s.sweepRings.takes op m = false → ∃ t, exec i s = .next t ∧ s.sweepRings.onlyPins t) ∧
    (s.takes op m = false → s.sweepRings.takes op m = true → exec i s = exec i s.sweepRings) ∧
    (s.host.fresh = [] → s.sweepRings = s) ∧
    (∀ r : Ring, s.turnRing = some r → s.host.fresh = [256 * r.val + (s.crReg r.val 3).toNat % 256] → s.unknownAt r.val = true →
      let b := s.entryAt r.val
      s.replied s.sweepRings (leNat (b.take 2)) (mboxOf r b) Sts.badOpcode 0 []) ∧
    (s.takes op m = true →
      (s.kprState = 3 → op ≠ Op.infoVersion → op ≠ Op.fwRecover →
        ∃ t, exec i s = .next t ∧ s.replied t op m Sts.badOpcode 0 [] ∧ s.onlyAnswersPins t) ∧
      ((s.kprState ≠ 3 ∨ op = Op.infoVersion ∨ op = Op.fwRecover) → m.len.toNat ≠ len →
        ∃ t, exec i s = .next t ∧ s.replied t op m Sts.badLength 0 [] ∧ s.onlyAnswersPins t) ∧
      ((s.kprState ≠ 3 ∨ op = Op.infoVersion ∨ op = Op.fwRecover) → m.len.toNat = len →
        (m.rsv ≠ 0 ∨ 4 ≤ m.flags.toNat ∨ argsDirty m.args used = true) →
        ∃ t, exec i s = .next t ∧ s.replied t op m Sts.badArg 0 [] ∧ s.onlyAnswersPins t))

/-- Device information, grants and the logs. An orderly INFO_VERSION answers firmware and ROM version, INFO_DEVICE its 16 bytes.
INFO_MAP waits until the cold sequence is complete, then writes the map record and answers its hash; a length below 1,280 is
BAD_ARG. REG_GRANT: a range that breaks its rule is BAD_ARG, one that touches a guarded block or is the seventeenth
NOT_PERMITTED, else it is granted; a revocation takes the range out of every grant, or is NOT_PERMITTED where that would leave
more than sixteen (log entry 90, the model's choice). LOG_BIND sets or removes the ring. LOG_ECC_READ writes every entry's ADDR
and INFO and answers the valid ones; LOG_ECC_CLEAR makes the entries of its mask invalid and leaves the others and the other
logs. -/
def Obligations.KeeperInformation : Prop :=
  ∀ (s : State) (m : Mbox),
    (s.asked Op.infoVersion 0 [] m → let k := s.host.kfw.toNat
      s.answered (.infoVersion m) Op.infoVersion m Sts.ok 0 [BitVec.ofNat 8 (k / 65536), BitVec.ofNat 8 (k / 256), BitVec.ofNat 8 k, s.rom]) ∧
    (s.asked Op.infoDevice 0 [] m →
      s.answered (.infoDevice m) Op.infoDevice m Sts.ok 0
        ([BitVec.ofNat 8 s.iodRev, if s.iodC then 32 else 16, BitVec.ofNat 8 s.thm.cls,
          (match s.thm.pendCls with | some c => BitVec.ofNat 8 c | none => 0xFF), BitVec.ofNat 8 s.sec.life,
          if s.degraded then 1 else 0] ++ leBytes 2 s.coresUp ++ leBytes 8 s.idNumber)) ∧
    (s.asked Op.infoMap 16 [(0, 12)] m →
      (s.kpr.coldDone = false → ∃ t, exec (.infoMap m) s = .next t ∧ s.opened t Op.infoMap m 0 ∧ t.kpr.done = s.kpr.done ∧
        s.onlyAnswers t) ∧
      (s.kpr.coldDone = true →
        (arg m.args 8 4 < 1280 → s.answered (.infoMap m) Op.infoMap m Sts.badArg 0 []) ∧
        (1280 ≤ arg m.args 8 4 →
          s.gives (.infoMap m) Op.infoMap m (arg m.args 0 8) s.kpr.mapRec (shake256 32 s.kpr.mapRec)))) ∧
    (s.asked Op.regGrant 16 [(0, 13)] m →
      let a := arg m.args 0 8
      let n := arg m.args 8 4
      let on := arg m.args 12 1
      let off := a - regBase
      let fits := n ≠ 0 ∧ n % 0x10000 = 0 ∧ a % 0x10000 = 0 ∧ regBase ≤ a ∧ a + n ≤ aliasBase
      (1 < on ∨ ¬ fits → s.answered (.regGrant m) Op.regGrant m Sts.badArg 0 []) ∧
      (fits → on = 1 → (∃ b ∈ blocksOf off n, grantBlock b = false ∧ guardedBlock b = false) →
        s.answered (.regGrant m) Op.regGrant m Sts.badArg 0 []) ∧
      (fits → on = 1 → (∀ b ∈ blocksOf off n, grantBlock b = true ∨ guardedBlock b = true) →
        ((∃ b ∈ blocksOf off n, guardedBlock b = true) ∨ 16 ≤ s.kpr.grants.length →
          s.answered (.regGrant m) Op.regGrant m Sts.notPermitted 0 []) ∧
        ((∀ b ∈ blocksOf off n, guardedBlock b = false) → s.kpr.grants.length < 16 →
          ∃ t, exec (.regGrant m) s = .next t ∧ s.replied t Op.regGrant m Sts.ok 0 [] ∧ s.onlyAnswers t ∧
            t.kpr.grants = s.kpr.grants ++ [(off, n)])) ∧
      (fits → on = 0 →
        let gone (t : State) : Prop := s.replied t Op.regGrant m Sts.ok 0 [] ∧ s.onlyAnswers t ∧
          ∀ r, r % 8 = 0 → t.granted r = (s.granted r && !decide (off ≤ r ∧ r < off + n))
        (s.kpr.grants.length + (s.kpr.grants.countP fun g => decide (g.1 < off ∧ off + n < g.1 + g.2)) ≤ 16 →
          ∃ t, exec (.regGrant m) s = .next t ∧ gone t) ∧
        ∃ t, exec (.regGrant m) s = .next t ∧ (gone t ∧ t.kpr.grants.length ≤ 16 ∨
          s.replied t Op.regGrant m Sts.notPermitted 0 [] ∧ s.onlyAnswers t ∧ t.kpr.grants = s.kpr.grants))) ∧
    (s.asked Op.logBind 16 [(0, 9)] m →
      let a := arg m.args 0 8
      let n := arg m.args 8 1
      (a ≠ 0 → a % 4096 ≠ 0 ∨ n < 8 ∨ 16 < n → s.answered (.logBind m) Op.logBind m Sts.badArg 0 []) ∧
      (a = 0 ∨ (a % 4096 = 0 ∧ 8 ≤ n ∧ n ≤ 16) →
        ∃ t, exec (.logBind m) s = .next t ∧ s.replied t Op.logBind m Sts.ok 0 [] ∧ s.onlyAnswers t ∧
          t.kpr.logBind = if a = 0 then none else some (a, n))) ∧
    (s.asked Op.logEccRead 16 [(0, 2), (8, 8)] m →
      (State.logNamed (s.cmdOf Op.logEccRead m) = none → s.answered (.logEccRead m) Op.logEccRead m Sts.badArg 0 []) ∧
      (∀ l, State.logNamed (s.cmdOf Op.logEccRead m) = some l →
        s.gives (.logEccRead m) Op.logEccRead m (arg m.args 8 8)
          ((List.range (s.logDepth l)).flatMap fun j => leBytes 8 (s.logAddr l j).toNat ++ leBytes 8 (s.logInfo l j).toNat)
          [BitVec.ofNat 8 ((List.range (s.logDepth l)).countP fun j => bitAt (s.logInfo l j) 63)])) ∧
    (s.asked Op.logEccClear 16 [(0, 2), (8, 4)] m →
      (State.logNamed (s.cmdOf Op.logEccClear m) = none → s.answered (.logEccClear m) Op.logEccClear m Sts.badArg 0 []) ∧
      (∀ l, State.logNamed (s.cmdOf Op.logEccClear m) = some l →
        ∃ t, exec (.logEccClear m) s = .next t ∧ s.replied t Op.logEccClear m Sts.ok 0 [] ∧
          t = { s with host := t.host, kpr := t.kpr, dieR := t.dieR, iodR := t.iodR } ∧
          (∀ j < s.logDepth l, if (arg m.args 8 4).testBit j then bitAt (t.logInfo l j) 63 = false
            else t.logInfo l j = s.logInfo l j ∧ t.logAddr l j = s.logAddr l j) ∧
          ∀ l' j, l' ≠ l → j < 32 → (match l' with | .die d => d < 32 | .stack k => k < 8) →
            t.logInfo l' j = s.logInfo l' j ∧ t.logAddr l' j = s.logAddr l' j))

/-- Attestation, owner key, lifecycle, debug unlock and firmware. An orderly SEC_ATTEST writes the report of R445 for its nonce,
SEC_CERT the certificate chain (a buffer too short learns the length). SEC_OWNER_KEY in MANUFACTURE or RETIRED is
LIFECYCLE_STATE; a record that R442 refuses changes no record, one that it accepts is installed or, for removal, erases the
record. SEC_LIFECYCLE moves the fuses along R446 and begins a warm reset with a good token, or without one from PROVISIONED to
DEPLOYED; only the return to PROVISIONED clears OWNER_ERR. SEC_DEBUG_UNLOCK adds the token's scope. FW_UPDATE stores an
authentic image and changes nothing else; FW_RECOVER runs one in RECOVERY and stores it where PERSIST is set. (Order of the
checks: log entries 79 and 80; from when to when the slot is being written: 81; SEC_LIFECYCLE only after the cold sequence: 82;
the model's reading.) -/
def Obligations.IdentityAndFirmware : Prop :=
  ∀ (s : State) (m : Mbox),
    (s.asked Op.secAttest 48 [(0, 44)] m →
      (arg m.args 40 4 < 1408 → s.answered (.secAttest m) Op.secAttest m Sts.badArg 0 []) ∧
      (1408 ≤ arg m.args 40 4 →
        s.gives (.secAttest m) Op.secAttest m (arg m.args 32 8) (s.attestation (leBytes 32 (arg m.args 0 32))) (leBytes 4 1408))) ∧
    (s.asked Op.secCert 16 [(0, 12)] m → let n := s.certChain.length
      (arg m.args 8 4 < n → s.answered (.secCert m) Op.secCert m Sts.badArg 0 (leBytes 4 n)) ∧
      (n ≤ arg m.args 8 4 → s.gives (.secCert m) Op.secCert m (arg m.args 0 8) s.certChain (leBytes 4 n))) ∧
    (s.asked Op.secOwnerKey 16 [(0, 12)] m →
      (s.sec.life = 0 ∨ s.sec.life = 3 → s.answered (.secOwnerKey m) Op.secOwnerKey m Sts.lifecycleState 0 []) ∧
      (s.sec.life ≠ 0 → s.sec.life ≠ 3 →
        (arg m.args 8 4 ≠ 352 → s.answered (.secOwnerKey m) Op.secOwnerKey m Sts.badArg 0 []) ∧
        ∀ b u, arg m.args 8 4 = 352 → (s.begun Op.secOwnerKey m).bufRead (arg m.args 0 8) 352 = (.ok b, u) →
          let r := b.take 96
          (ownerForm r = false ∨ blockForm 3 (b.drop 96) = false ∨ s.ownerStatus r (b.drop 96) ≠ Sts.ok →
            ∃ t x, exec (.secOwnerKey m) s = .next t ∧ t.kpr.done = u.kpr.done ++ [x] ∧ x.tag = m.tag ∧ x.status ≠ Sts.ok ∧ t.sec = s.sec) ∧
          (ownerForm r = true → blockForm 3 (b.drop 96) = true → s.ownerStatus r (b.drop 96) = Sts.ok →
            ∃ t x, exec (.secOwnerKey m) s = .next t ∧ t.kpr.done = u.kpr.done ++ [x] ∧ x.tag = m.tag ∧ x.status = Sts.ok ∧
              t.sec.owner = (if leAt r 0xC 1 = 2 then [] else r) ∧ t.sec.ownerErr = false ∧
              t.sec = { s.sec with owner := t.sec.owner, ownerTag := t.sec.ownerTag, ownerErr := false } ∧
              t.mem = u.mem ∧ t.hostMem = s.hostMem))) ∧
    (s.asked Op.secLifecycle 16 [(0, 1), (8, 8)] m →
      let to_ := arg m.args 0 1
      let c := s.cmdOf Op.secLifecycle m
      let moved (t : State) : Prop := t.resetBegun rstWarm (some c) (BitVec.allOnes 32) ∧ t.sec.life = to_ ∧
        t.sec.returns = (if s.sec.life = 2 ∧ to_ = 1 then s.sec.returns + 1 else s.sec.returns) ∧
        t.sec.owner = (if (s.sec.life = 2 ∧ to_ = 1) ∨ to_ = 3 then [] else s.sec.owner) ∧ t.sec.secret = s.sec.secret ∧
        t.sec.ownerErr = (if s.sec.life = 2 ∧ to_ = 1 then false else s.sec.ownerErr) ∧
        t.sec.floor = s.sec.floor ∧ t.sec.flash = s.sec.flash
      (s.kpr.coldDone = false → ∃ t, exec (.secLifecycle m) s = .next t ∧ s.onlyPins t) ∧
      (s.kpr.coldDone = true →
        (3 < to_ → ∃ t, exec (.secLifecycle m) s = .next t ∧ s.replied t Op.secLifecycle m Sts.badArg 0 [] ∧ s.onlyAnswersPins t) ∧
        (to_ ≤ 3 → s.anyActive = true →
          ∃ t, exec (.secLifecycle m) s = .next t ∧ s.replied t Op.secLifecycle m Sts.runActive 0 [] ∧ s.onlyAnswersPins t) ∧
        (to_ ≤ 3 → s.anyActive = false → s.lifeStep to_ = false →
          ∃ t, exec (.secLifecycle m) s = .next t ∧ s.replied t Op.secLifecycle m Sts.lifecycleState 0 [] ∧ s.onlyAnswersPins t) ∧
        (s.anyActive = false → s.thm.pendCls = none → s.sec.life = 1 → to_ = 2 → ∃ t, exec (.secLifecycle m) s = .next t ∧ moved t) ∧
        (∀ b u, s.anyActive = false → s.thm.pendCls = none → s.lifeStep to_ = true → ¬(s.sec.life = 1 ∧ to_ = 2) →
          (s.begun Op.secLifecycle m).readToken (arg m.args 8 8) = (.ok b, u) →
          (s.tokenArg b 1 (if to_ = 3 then s.isOwner else State.isService) = some to_ →
            ∃ t, exec (.secLifecycle m) s = .next t ∧ moved t) ∧
          (s.tokenArg b 1 (if to_ = 3 then s.isOwner else State.isService) ≠ some to_ →
            ∃ t x, exec (.secLifecycle m) s = .next t ∧ t.kpr.done = u.kpr.done ++ [x] ∧ x.tag = m.tag ∧ x.status = Sts.badToken ∧
              t.sec = s.sec ∧ t.kpr.reset = s.kpr.reset)))) ∧
    (s.asked Op.secDebugUnlock 8 [(0, 8)] m →
      (arg m.args 0 8 = 0 → s.answered (.secDebugUnlock m) Op.secDebugUnlock m Sts.badToken 0 []) ∧
      ∀ b u, (s.begun Op.secDebugUnlock m).readToken (arg m.args 0 8) = (.ok b, u) →
        let g := s.tokenArg b 2 (if s.sec.life = 2 then s.isOwner else State.isService)
        (∀ n, g = some n → n < 8 → s.sec.life ≠ 0 → ∃ t x, exec (.secDebugUnlock m) s = .next t ∧ t.kpr.done = u.kpr.done ++ [x] ∧
          x.tag = m.tag ∧ x.status = Sts.ok ∧ t.kpr.logSeq = u.kpr.logSeq + 1 ∧
          t.sec = { s.sec with scope := s.sec.scope ||| n, unlocked := true, unlocks := min (s.sec.unlocks + 1) (2 ^ 32 - 1) }) ∧
        (g = none ∨ (∃ n, g = some n ∧ 8 ≤ n) ∨ s.sec.life = 0 → ∃ t x, exec (.secDebugUnlock m) s = .next t ∧
          t.kpr.done = u.kpr.done ++ [x] ∧ x.tag = m.tag ∧ x.status = Sts.badToken ∧ t.sec = s.sec)) ∧
    (s.asked Op.fwUpdate 16 [(0, 12)] m → let n := arg m.args 8 4
      (s.sec.life = 3 → s.answered (.fwUpdate m) Op.fwUpdate m Sts.lifecycleState 0 []) ∧
      (s.sec.life ≠ 3 → 0x800100 < n → s.answered (.fwUpdate m) Op.fwUpdate m Sts.badFormat 0 []) ∧
      ∀ b u, s.sec.life ≠ 3 → n ≤ 0x800100 → (s.begun Op.fwUpdate m).bufRead (arg m.args 0 8) n = (.ok b, u) →
        (∀ f, fwFault s.sec.floor b = some f → ∃ t x, exec (.fwUpdate m) s = .next t ∧ t.kpr.done = u.kpr.done ++ [x] ∧ x.tag = m.tag ∧
          x.status = (if f = badSign then Sts.badSignature else Sts.badFormat) ∧ t.sec = s.sec) ∧
        (fwFault s.sec.floor b = none → ∃ t x, exec (.fwUpdate m) s = .next t ∧ t.kpr.done = u.kpr.done ++ [x] ∧ x.tag = m.tag ∧
          x.status = Sts.ok ∧ x.writes = true ∧ t.sec = { s.sec with flash := b, flashBusy := true } ∧ t.mem = u.mem ∧ t.slots = s.slots)) ∧
    (s.asked Op.fwRecover 16 [(0, 13)] m →
      ∃ t, exec (.fwRecover m) s = .next t ∧ s.replied t Op.fwRecover m Sts.badOpcode 0 [] ∧ s.onlyAnswersPins t) ∧
    (s.takes Op.fwRecover m = true → s.kprState = 3 → m.len.toNat = 16 → m.rsv = 0 → m.flags.toNat < 4 →
      argsDirty m.args [(0, 13)] = false → arg m.args 12 1 < 2 → arg m.args 8 4 ≤ 0x800100 →
      (s.mayMaster = false →
        ∃ t, exec (.fwRecover m) s = .next t ∧ s.replied t Op.fwRecover m Sts.timeout 0 [] ∧ s.onlyAnswersPins t) ∧
      (s.mayMaster = true → let b := Memory.gets s.hostMem (arg m.args 0 8) (arg m.args 8 4)
        (∀ f, fwFault s.sec.floor b = some f → ∃ t, exec (.fwRecover m) s = .next t ∧
          s.replied t Op.fwRecover m (if f = badSign then Sts.badSignature else Sts.badFormat) 0 [] ∧ s.onlyAnswersPins t) ∧
        (fwFault s.sec.floor b = none → ∃ t, exec (.fwRecover m) s = .next t ∧ s.headMoved t Op.fwRecover m ∧
          t.kpr.done = s.kpr.done ++ [{ s.complOf t Op.fwRecover m Sts.ok 0 [] with writes := arg m.args 12 1 == 1 }] ∧
          t.kprState = 2 ∧ t.sec.flash = (if arg m.args 12 1 = 1 then b else s.sec.flash) ∧
          (arg m.args 12 1 = 1 → t.sec.flashBusy = true) ∧ t.sec.svn = leAt b 0xC 4 ∧
          t.sec.fwDigest = (b.drop 0x20).take 64 ∧ s.sec.floor ≤ t.sec.floor ∧ t.sec.life = s.sec.life ∧ t.mem = s.mem)))

/-- Loading, unloading and staleness of images. An orderly SCHED_LOAD whose turn has come stays open with its file held, and with
the owner key of its acceptance (R444), where every check of R209 passes under that key; else it completes with the first
failing check's status, order, section, core and index, no slot changed. LOAD_COMPLETE places the image and leaves its slot
LOADED, or EMPTY with IMAGE_STALE where margin class or map has changed. SCHED_UNLOAD empties a slot that is not active.
SCHED_INFO answers state, cause and digest. A change of the map record, outside wide resets, renews it and makes every image
stale whose MAP_HASH no longer fits. In RETIRED nothing loads. -/
def Obligations.ScheduleCommands : Prop :=
  ∀ (s : State) (m : Mbox),
    (s.asked Op.schedLoad 24 [(0, 1), (8, 16)] m →
      let p := arg m.args 0 1
      let da := arg m.args 8 8
      let n := arg m.args 16 8
      (8 ≤ p → s.answered (.schedLoad m) Op.schedLoad m Sts.badArg 0 []) ∧
      (p < 8 → s.sec.life = 3 → s.answered (.schedLoad m) Op.schedLoad m Sts.lifecycleState 0 []) ∧
      (p < 8 → s.sec.life ≠ 3 → s.kpr.accepted = [] →
        (s.slotActive p = true → s.answered (.schedLoad m) Op.schedLoad m Sts.runActive 1 (zeros 16)) ∧
        (s.slotActive p = false → n < 0x60 → s.answered (.schedLoad m) Op.schedLoad m Sts.badFormat 2 (zeros 16)) ∧
        ∀ h b u v, s.slotActive p = false → 0x60 ≤ n → (s.begun Op.schedLoad m).readDa Who.host da 0x60 = (.ok h, u) →
          n = leAt h 0x10 8 + (if leAt h 0xC 4 = 1 then 256 else 0) → u.readDa Who.host da n = (.ok b, v) →
          v.kpr.accepted = [s.cmdOf Op.schedLoad m] →
          let judged : State := { v with sec := { v.sec with owner := s.sec.owner, ownerErr := s.sec.ownerErr } }
          (∀ x, judged.validate p b = .ok x → ∃ t, exec (.schedLoad m) s = .next t ∧ s.headMoved t Op.schedLoad m ∧
            t.kpr.accepted = [{ s.cmdOf Op.schedLoad m with note := 1, own := (s.sec.owner, s.sec.ownerErr) }] ∧ t.kpr.loading = b ∧ t.kpr.done = v.kpr.done ∧
            t.slots = s.slots ∧ t.mem = v.mem) ∧
          (∀ f, judged.validate p b = .error f → ∃ t x, exec (.schedLoad m) s = .next t ∧ s.headMoved t Op.schedLoad m ∧
            t.kpr.accepted = [] ∧ t.kpr.done = v.kpr.done ++ [x] ∧ x.tag = m.tag ∧ x.status = f.status ∧ x.detail = f.order ∧
            x.result = leBytes 2 f.sec ++ leBytes 2 f.core ++ zeros 4 ++ leBytes 8 f.idx ∧ t.slots = s.slots ∧ t.mem = v.mem))) ∧
    (∀ slot : Slot, let p := slot.val
      ((∀ c ∈ s.kpr.accepted, ¬(c.opcode = Op.schedLoad ∧ c.note = 1 ∧ arg c.args 0 1 = p)) → exec (.loadComplete slot) s = .next s) ∧
      ∀ (c : Cmd) (x : Parsed), s.kpr.accepted = [c] → c.opcode = Op.schedLoad → c.note = 1 → arg c.args 0 1 = p →
        parseImage s.kpr.loading = .ok x → s.noneStarting →
        let fit := x.img.margin = s.thm.cls ∧ x.img.mapHash = shake256 32 s.kpr.mapRec
        (fit → s.thm.pendCls = none →
          let u := ({ s with kpr := { s.kpr with loading := [] } }.emptySlot p).placeImage x
          ∃ t y, exec (.loadComplete slot) s = .next t ∧ t.slotState p = 1 ∧ (t.slot p).img = some x.img ∧
            bitAt (t.slot p).sts 8 = false ∧ (t.slot p).queues = [] ∧ t.mem = u.mem ∧ t.cache = u.cache ∧ t.coreR = u.coreR ∧ t.cx = u.cx ∧
            t.kpr.accepted = [] ∧ t.kpr.loading = [] ∧ t.kpr.done = u.kpr.done ++ [y] ∧ y.tag = c.tag ∧ y.status = Sts.ok ∧
            ((x.img.streams.map (·.core)).Nodup → ∀ e ∈ x.img.streams,
              t.core e.core R.seqStream = BitVec.ofNat 64 (e.loadDa % 2 ^ 48) ∧
              t.core e.core R.seqDesc = BitVec.ofNat 64 (e.descOff % 2 ^ 23))) ∧
        (¬ fit → ∃ t y, exec (.loadComplete slot) s = .next t ∧ t.slotState p = 0 ∧ t.kpr.accepted = [] ∧ y ∈ t.kpr.done ∧
            y.tag = c.tag ∧ y.status = Sts.imageStale)) ∧
    (s.asked Op.schedUnload 8 [(0, 1)] m → let p := arg m.args 0 1
      (8 ≤ p → s.answered (.schedUnload m) Op.schedUnload m Sts.badArg 0 []) ∧
      (p < 8 → s.kpr.accepted = [] →
        (s.slotActive p = true → s.answered (.schedUnload m) Op.schedUnload m Sts.runActive 0 []) ∧
        (s.slotActive p = false → ∃ t, exec (.schedUnload m) s = .next t ∧ s.replied t Op.schedUnload m Sts.ok 0 [] ∧
          t.slot p = {} ∧ (∀ q, q ≠ p → t.slot q = s.slot q) ∧ t = { s with host := t.host, kpr := t.kpr, slots := t.slots }))) ∧
    (s.asked Op.schedInfo 8 [(0, 1)] m → let p := arg m.args 0 1
      (8 ≤ p → s.answered (.schedInfo m) Op.schedInfo m Sts.badArg 0 []) ∧
      (p < 8 → s.answered (.schedInfo m) Op.schedInfo m Sts.ok 0
        ([BitVec.ofNat 8 (s.slotState p), BitVec.ofNat 8 (fld (s.slot p).sts 10 9)] ++ zeros 6 ++
          (match (s.slot p).img with | some i => i.digest.take 24 | none => zeros 24)))) ∧
    ((s.kpr.coldDone = false ∨ (∃ r, s.kpr.reset = some r ∧ r.code ≠ rstPart) ∨ s.mapNow = s.kpr.mapRec →
      exec .mapRecordChange s = .next s) ∧
     (s.kpr.coldDone = true → (∀ r, s.kpr.reset = some r → r.code = rstPart) → s.mapNow ≠ s.kpr.mapRec → s.noneStarting →
      ∃ t, exec .mapRecordChange s = .next t ∧ t.kpr.mapRec = s.mapNow ∧ t.mem = s.mem ∧ t.coreR = s.coreR ∧
        ∀ p < 8, t.slotState p = s.slotState p ∧ (t.slot p).img = (s.slot p).img ∧ ∀ i, (s.slot p).img = some i →
          bitAt (t.slot p).sts 8 = (bitAt (s.slot p).sts 8 || i.mapHash != shake256 32 s.mapNow) ∧
          (bitAt (s.slot p).sts 8 = false → i.mapHash ≠ shake256 32 s.mapNow →
            fld (t.slot p).sts 10 9 = 2 ∧ bitAt t.host.intSts State.intStale = true)))

/-- Beacon commands, starts and stops of runs, and the clearing of a trap. An orderly BCN_SET_PERIOD sets a period of 25 to 1,600
outside ARMED and COUNTING. BCN_ARM arms as ARM does and stays open until the arming mark. BCN_DISARM leaves ARMED. RUN_START
that meets R217 makes its slot STARTING with start FN, seed and end RFN and stays open; else it is answered its status. RUN_STOP
cancels a start, sets the halt of a run at its target or at the current flash and stays open, or answers TOO_LATE, or SLOT_STATE
at or past the end RFN; that a cancelled start's RUN_STOP answers OK with result 0 is log entry 72, the model's choice, as is
the comparison of FN at the turn of a RUN_START (log entry 71). CORE_TRAP_CLEAR makes a trapped core of an available die READY
where no run holds it and no engine is FAULT. -/
def Obligations.RunCommands : Prop :=
  ∀ (s : State) (m : Mbox),
    (s.asked Op.bcnSetPeriod 8 [(0, 2)] m → let n := arg m.args 0 2
      (n < 25 ∨ 1600 < n → s.answered (.bcnSetPeriod m) Op.bcnSetPeriod m Sts.badArg 0 []) ∧
      (25 ≤ n → n ≤ 1600 → 2 ≤ s.bcnState → s.answered (.bcnSetPeriod m) Op.bcnSetPeriod m Sts.bcnState 0 []) ∧
      (25 ≤ n → n ≤ 1600 → s.bcnState < 2 → ∃ t, exec (.bcnSetPeriod m) s = .next t ∧
        s.replied t Op.bcnSetPeriod m Sts.ok 0 [] ∧ t.period = n ∧
        t = { s with host := t.host, kpr := t.kpr, bcn := { s.bcn with period := t.bcn.period, cpf := t.bcn.cpf } })) ∧
    (s.asked Op.bcnArm 8 [(0, 8)] m → let load := arg m.args 0 8
      (2 ^ 48 ≤ load → s.answered (.bcnArm m) Op.bcnArm m Sts.badArg 0 []) ∧
      (load < 2 ^ 48 → s.anyActive = true → s.answered (.bcnArm m) Op.bcnArm m Sts.runActive 0 []) ∧
      (load < 2 ^ 48 → s.anyActive = false → s.bcnState = 0 → s.answered (.bcnArm m) Op.bcnArm m Sts.bcnState 0 []) ∧
      (load < 2 ^ 48 → s.anyActive = false → (s.bcnState = 1 ∨ s.bcnState = 3) →
        (s.periodFits = false → s.answered (.bcnArm m) Op.bcnArm m Sts.periodMismatch 0 []) ∧
        (s.periodFits = true → ∃ t, exec (.bcnArm m) s = .next t ∧ s.opened t Op.bcnArm m 0 ∧ t.kpr.done = s.kpr.done ∧
          t.bcnState = 2 ∧ bitAt t.bcn.ctrl 0 = true ∧ t.bcn.armFn = BitVec.ofNat 64 load ∧ t.bcn.occCnt = 0 ∧ t.bcn.strayCnt = 0 ∧
          t.bcn.fn = s.bcn.fn ∧ t.bcn.period = s.bcn.period ∧ t = { s with host := t.host, kpr := t.kpr, bcn := t.bcn }))) ∧
    (∀ c, s.bcnState = 2 → s.kpr.accepted = [c] → c.opcode = Op.bcnArm → (∀ p < 8, s.slotActive p = false) → ∀ edges,
      ∃ t x, exec (.mark edges) s = .next t ∧ t.kpr.accepted = [] ∧ x ∈ t.kpr.done ∧ x.tag = c.tag ∧ x.status = Sts.ok) ∧
    (s.asked Op.bcnDisarm 0 [] m →
      (s.bcnState ≠ 2 → s.answered (.bcnDisarm m) Op.bcnDisarm m Sts.bcnState 0 []) ∧
      (s.bcnState = 2 → (∀ c ∈ s.kpr.accepted, c.opcode ≠ Op.bcnArm) → ∃ t, exec (.bcnDisarm m) s = .next t ∧
        s.replied t Op.bcnDisarm m Sts.ok 0 [] ∧ t.bcnState = 1 ∧ bitAt t.bcn.ctrl 0 = false ∧ t.bcn.fn = s.bcn.fn ∧
        t = { s with host := t.host, kpr := t.kpr, bcn := t.bcn })) ∧
    (s.asked Op.runStart 32 [(0, 2), (8, 24)] m →
      let p := arg m.args 0 1
      let sFn := arg m.args 8 8
      let e := arg m.args 24 8
      let d := (sFn + 2 ^ 48 - s.fn.toNat) % 2 ^ 48
      (8 ≤ p ∨ 2 ≤ arg m.args 1 1 ∨ 2 ^ 48 ≤ sFn ∨ 2 ^ 48 ≤ e → s.answered (.runStart m) Op.runStart m Sts.badArg 0 []) ∧
      (p < 8 → arg m.args 1 1 < 2 → sFn < 2 ^ 48 → e < 2 ^ 48 →
        (s.sec.life = 3 → s.answered (.runStart m) Op.runStart m Sts.lifecycleState 0 []) ∧
        (s.sec.life ≠ 3 → s.kpr.accepted = [] →
          (s.startStatus p sFn s.fn.toNat ≠ Sts.ok →
            s.answered (.runStart m) Op.runStart m (s.startStatus p sFn s.fn.toNat) 0 []) ∧
          ∀ i, s.counting = true → 1 < d → d ≤ 2 ^ 32 → s.slotState p = 1 → s.thm.pendCls = none → (s.slot p).img = some i →
            bitAt (s.slot p).sts 8 = false → i.period = s.period → (∀ c ∈ s.partCores i, s.coreState c = 1) →
            s.stagesInto p = false → (∀ q ∈ i.queues, (s.que p q.q).hostRing = true → (s.que p q.q).hostAddr ≠ none) →
            (∀ j < 24, i.clUsed.testBit j = true → s.lnkState j = lnkUp) →
            ∃ t, exec (.runStart m) s = .next t ∧ s.opened t Op.runStart m 0 ∧ t.kpr.done = s.kpr.done ∧ t.slotState p = 2 ∧
              (t.slot p).start = BitVec.ofNat 64 sFn ∧ (t.slot p).endRfn = e ∧ (t.slot p).halt = none ∧ (t.slot p).ending = none ∧ (t.slot p).mute = none ∧
              (t.slot p).seed = (if arg m.args 1 1 = 1 then BitVec.ofNat 64 (arg m.args 16 8) else i.seed) ∧
              (t.slot p).img = some i ∧ (∀ q, q ≠ p → t.slot q = s.slot q) ∧
              t = { s with host := t.host, kpr := t.kpr, slots := t.slots, thm := { s.thm with measuring := none } }))) ∧
    (s.asked Op.runStop 16 [(0, 2), (8, 8)] m →
      let p := arg m.args 0 1
      let target := arg m.args 1 1 = 1
      let e := arg m.args 8 8
      let now := s.curRfn p
      let last := (s.slot p).endRfn
      (8 ≤ p ∨ 2 ≤ arg m.args 1 1 ∨ 2 ^ 48 ≤ e → s.answered (.runStop m) Op.runStop m Sts.badArg 0 []) ∧
      (p < 8 → arg m.args 1 1 < 2 → e < 2 ^ 48 → s.kpr.accepted = [] →
        (s.slotState p < 2 → s.answered (.runStop m) Op.runStop m Sts.slotState 0 []) ∧
        (s.slotState p = 2 → ∃ t, exec (.runStop m) s = .next t ∧ s.replied t Op.runStop m Sts.ok 0 (leBytes 8 0) ∧
          t.slotState p = 1 ∧ (t.slot p).img = (s.slot p).img ∧ ∀ q, q ≠ p → t.slot q = s.slot q) ∧
        (s.slotState p = 3 →
          (target → e ≤ now → s.answered (.runStop m) Op.runStop m Sts.tooLate 0 []) ∧
          (target → now < e → last ≠ 0 → last ≤ e → s.answered (.runStop m) Op.runStop m Sts.slotState 0 []) ∧
          (target → now < e → (last = 0 ∨ e < last) → (s.slot p).halt = none → ∃ t, exec (.runStop m) s = .next t ∧
            s.opened t Op.runStop m 0 ∧ (t.slot p).halt = some (BitVec.ofNat 48 e, 2) ∧ t.slotState p = 3 ∧
            t = { s with host := t.host, kpr := t.kpr, slots := t.slots }) ∧
          (¬ target → (last = 0 ∨ now < last) → (s.slot p).halt = none → ∃ t, exec (.runStop m) s = .next t ∧
            s.opened t Op.runStop m 0 ∧ (t.slot p).halt = some (BitVec.ofNat 48 now, 2) ∧ t.slotState p = 3 ∧
            t = { s with host := t.host, kpr := t.kpr, slots := t.slots })))) ∧
    (s.asked Op.coreTrapClear 8 [(0, 2)] m → let n := arg m.args 0 2
      (512 ≤ n ∨ s.presented n = false → s.answered (.coreTrapClear m) Op.coreTrapClear m Sts.badArg 0 []) ∧
      (n < 512 → s.presented n = true → s.dieUp (dieOf n) = false →
        s.answered (.coreTrapClear m) Op.coreTrapClear m Sts.dieUnavailable 0 []) ∧
      (n < 512 → s.presented n = true → s.dieUp (dieOf n) = true →
        (s.coreState n ≠ 3 ∨ s.coreActive n = true ∨ (∃ e < 4, s.engState n e = engFault) →
          s.answered (.coreTrapClear m) Op.coreTrapClear m Sts.coreState 0 []) ∧
        (s.coreState n = 3 → s.coreActive n = false → (∀ e < 4, s.engState n e ≠ engFault) →
          ∃ t, exec (.coreTrapClear m) s = .next t ∧ s.replied t Op.coreTrapClear m Sts.ok 0 [] ∧ t.coreState n = 1 ∧
            s.coreRegsKept t n (fun off => off = R.seqSts) ∧ t = { s with host := t.host, kpr := t.kpr, coreR := t.coreR })))

/-- PAGE_COMMIT and PAGE_READ. An orderly PAGE_COMMIT in RETIRED is LIFECYCLE_STATE; of a core that is not there it is refused; with
a count, flag, target or buffer out of range BAD_ARG; with a target at or below the next flash of a run TOO_LATE. For a core
with a run, and after a trip, it waits, open, with its records and effective RFN (the target, else the next flash); for one
without a run it is applied at once, whole or not at all, and answered. (Waiting after a trip also without a run is log entry
115, a slot that is only STARTING as no run and b 0 without one 121, the model's choices.) PAGE_READ answers the 32 bytes of a
context entry. -/
def Obligations.PageCommands : Prop :=
  ∀ (s : State) (m : Mbox),
    (s.asked Op.pageCommit 32 [(0, 4), (8, 24)] m →
      let c := arg m.args 0 2
      let n := arg m.args 2 1
      let fl := arg m.args 3 1
      let b := arg m.args 8 8
      let rb := arg m.args 24 8
      let now := (s.coreRfn c).toNat
      let eff := if fl = 1 then b else if s.coreRunning c = true then now + 1 else 0
      (s.sec.life = 3 → s.answered (.pageCommit m) Op.pageCommit m Sts.lifecycleState 0 []) ∧
      (s.sec.life ≠ 3 → s.coreStatus c ≠ Sts.ok → s.answered (.pageCommit m) Op.pageCommit m (s.coreStatus c) 0 []) ∧
      (s.sec.life ≠ 3 → s.coreStatus c = Sts.ok →
        (n = 0 ∨ 64 < n ∨ 2 ≤ fl ∨ 2 ^ 48 ≤ b ∨ rb % 64 ≠ 0 → s.answered (.pageCommit m) Op.pageCommit m Sts.badArg 0 []) ∧
        (n ≠ 0 → n ≤ 64 → fl < 2 → b < 2 ^ 48 → rb % 64 = 0 →
          (s.coreRunning c = true → fl = 1 → b ≤ now + 1 → s.answered (.pageCommit m) Op.pageCommit m Sts.tooLate 0 []) ∧
          ∀ bs u, ¬(s.coreRunning c = true ∧ fl = 1 ∧ b ≤ now + 1) →
            (s.begun Op.pageCommit m).bufRead (arg m.args 16 8) (32 * n) = (.ok bs, u) →
            (s.coreRunning c = true ∨ s.thm.trip = true → ∃ t k, exec (.pageCommit m) s = .next t ∧ s.headMoved t Op.pageCommit m ∧
              (t.cxOf c).commits = (s.cxOf c).commits ++ [k] ∧ k.b = BitVec.ofNat 48 eff ∧ k.recs = chunks 32 bs ∧
              k.ring = m.ring.val ∧ k.idx = (s.crReg m.ring.val 3).toNat ∧ t.kpr.accepted = u.kpr.accepted ∧
              t.kpr.done = u.kpr.done ∧ t.mem = u.mem) ∧
            (s.coreRunning c = false → s.thm.trip = false → u.kpr.accepted = [s.cmdOf Op.pageCommit m] →
              (∀ i st v, applyEdits c (u.releaseRfn c (eff % 2 ^ 48)) 0 ((chunks 32 bs).map parseEdit) u = (.error (i, st, none), v) →
                ∃ t x, exec (.pageCommit m) s = .next t ∧ t.kpr.done = u.kpr.done ++ [x] ∧ x.tag = m.tag ∧ x.status = st ∧
                  x.detail = i ∧ t.mem = u.mem ∧ t.coreR = u.coreR ∧ t.cx = u.cx) ∧
              (∀ mx v, applyEdits c (u.releaseRfn c (eff % 2 ^ 48)) 0 ((chunks 32 bs).map parseEdit) u = (.ok (mx, []), v) →
                ∃ t x, exec (.pageCommit m) s = .next t ∧ x ∈ t.kpr.done ∧ x.tag = m.tag ∧ x.status = Sts.ok ∧
                  x.result = leBytes 8 (eff % 2 ^ 48) ++ leBytes 8 mx ++ leBytes 2 0 ∧ t.mem = v.mem ∧ t.cache = v.cache))))) ∧
    (s.asked Op.pageRead 8 [(0, 4)] m →
      let c := arg m.args 0 2
      let k := arg m.args 2 2
      (s.coreStatus c ≠ Sts.ok → s.answered (.pageRead m) Op.pageRead m (s.coreStatus c) 0 []) ∧
      (s.coreStatus c = Sts.ok →
        (4096 ≤ k → s.answered (.pageRead m) Op.pageRead m Sts.badArg 0 []) ∧
        (∀ b u, k < 4096 → (s.begun Op.pageRead m).readDa Who.host (s.ctxDa c k) 32 = (.ok b, u) →
          ∃ t x, exec (.pageRead m) s = .next t ∧ s.headMoved t Op.pageRead m ∧ t.kpr.done = u.kpr.done ++ [x] ∧ x.tag = m.tag ∧
            x.status = Sts.ok ∧ x.result = b ∧ t.mem = u.mem) ∧
        (∀ e u, k < 4096 → (s.begun Op.pageRead m).readDa Who.host (s.ctxDa c k) 32 = (.error e, u) →
          ∃ t x, exec (.pageRead m) s = .next t ∧ t.kpr.done = u.kpr.done ++ [x] ∧ x.tag = m.tag ∧ x.status = u.errStatus e ∧
            x.result = [])))

/-- An arm command during a run, and a run start outside COUNTING, are rejected. While a slot is STARTING or RUNNING, BCN_ARM leaves
the Beacon block as it is (an orderly one is answered RUN_ACTIVE) and ARM changes nothing. Outside COUNTING a RUN_START makes no
slot STARTING; an orderly one, with no other command open, is answered NOT_COUNTING and changes nothing else. -/
def Obligations.ArmsAndStartsRejected : Prop :=
  ∀ (s : State) (m : Mbox),
    (s.anyActive = true →
      (∀ load, exec (.arm load) s = .next s) ∧ (∃ t, exec (.bcnArm m) s = .next t ∧ t.bcn = s.bcn) ∧
      (s.asked Op.bcnArm 8 [(0, 8)] m → arg m.args 0 8 < 2 ^ 48 → s.answered (.bcnArm m) Op.bcnArm m Sts.runActive 0 [])) ∧
    (s.bcnState ≠ 3 →
      (∃ t, exec (.runStart m) s = .next t ∧ ∀ p < 8, t.slotState p = 2 → s.slotState p = 2) ∧
      (s.asked Op.runStart 32 [(0, 2), (8, 24)] m → arg m.args 0 1 < 8 → arg m.args 1 1 < 2 → arg m.args 8 8 < 2 ^ 48 →
        arg m.args 24 8 < 2 ^ 48 → s.sec.life ≠ 3 → s.kpr.accepted = [] →
        s.answered (.runStart m) Op.runStart m Sts.notCounting 0 []))

/-- Every step keeps memory in its canonical form and cache lines whole. Whatever command is taken, a step from a state whose three
byte stores are in canonical form (addresses rising, no zero listed: log entry 5, the model's choice) and whose cache lines all
hold 256 bytes leads to such a state. -/
def Obligations.MemoriesKeepTheirForm : Prop :=
  ∀ s t : State, s.memoriesWf = true → s.linesWhole = true → step s = .next t → t.memoriesWf = true ∧ t.linesWhole = true
end

