-- ==== Sys2Proof/Laws/Fields.lean ====
section
/-!
SUPPORT. Bit fields of registers: what a field reads after a field was set, bit by bit and as numbers.
-/

namespace Sys2Proof.Machine

/-- Bit i of a field is bit lo + i of the register. -/
theorem fld_testBit (w : Word) (hi lo i : Nat) : (fld w hi lo).testBit i = (decide (i < hi + 1 - lo) && w.getLsbD (lo + i)) := by
  simp [fld, Nat.testBit_mod_two_pow, Nat.testBit_shiftRight, BitVec.getLsbD]

/-- Bit i of a mask is set exactly within the field. -/
theorem fldMask_getLsbD (hi lo i : Nat) : (fldMask hi lo).getLsbD i = (decide (i < 64) && decide (lo ≤ i) && decide (i < hi + 1)) := by
  have h : (2 ^ (hi + 1 - lo) - 1).testBit (i - lo) = decide (i - lo < hi + 1 - lo) := Nat.testBit_two_pow_sub_one _ _
  simp only [fldMask, BitVec.getLsbD_shiftLeft, BitVec.getLsbD_ofNat, h]
  by_cases a : i < 64 <;> by_cases b : lo ≤ i <;> by_cases c : i < hi + 1
  · simp [a, b, c, show ¬ i < lo by omega, show i - lo < 64 by omega, show i - lo < hi + 1 - lo by omega]
  · simp [a, b, c, show ¬ i - lo < hi + 1 - lo by omega]
  all_goals simp [a, b]

/-- Bit i after a field was set. -/
theorem setFld_getLsbD (w : Word) (hi lo v i : Nat) :
    (setFld w hi lo v).getLsbD i =
      if i < 64 ∧ lo ≤ i ∧ i < hi + 1 then v.testBit (i - lo) else w.getLsbD i := by
  simp only [setFld, BitVec.getLsbD_or, BitVec.getLsbD_and, BitVec.getLsbD_not, fldMask_getLsbD, BitVec.getLsbD_shiftLeft,
    BitVec.getLsbD_ofNat]
  by_cases a : i < 64
  · by_cases b : lo ≤ i <;> by_cases c : i < hi + 1
    · simp [a, b, c, show ¬ i < lo by omega, show i - lo < 64 by omega]
    all_goals simp [a, b, c]
  · have : w.getLsbD i = false := BitVec.getLsbD_of_ge _ _ (by omega)
    simp [a, this]

/-- A field set reads as the value, cut to its width. -/
theorem fld_setFld_same (w : Word) (hi lo v : Nat) (h : hi < 64) :
    fld (setFld w hi lo v) hi lo = v % 2 ^ (hi + 1 - lo) := by
  apply Nat.eq_of_testBit_eq
  intro i
  rw [fld_testBit, setFld_getLsbD, Nat.testBit_mod_two_pow]
  by_cases c : i < hi + 1 - lo
  · simp [c, show lo + i < 64 ∧ lo ≤ lo + i ∧ lo + i < hi + 1 by omega]
  · simp [c]

/-- A field set leaves every field beside it. -/
theorem fld_setFld_apart (w : Word) (hi lo v a b : Nat) (h : hi < b ∨ a < lo) : fld (setFld w hi lo v) a b = fld w a b := by
  apply Nat.eq_of_testBit_eq
  intro i
  rw [fld_testBit, fld_testBit, setFld_getLsbD]
  by_cases c : i < a + 1 - b
  · rw [if_neg (by omega)]
  · simp [c]

/-- A bit set reads as the value. -/
theorem bitAt_setBit_same (w : Word) (i : Nat) (v : Bool) (h : i < 64) : bitAt (setBit w i v) i = v := by
  simp only [bitAt, setBit, setFld_getLsbD]
  rw [if_pos (by omega)]
  cases v <;> simp

/-- A bit set leaves every other bit. -/
theorem bitAt_setBit_ne (w : Word) (i j : Nat) (v : Bool) (h : i ≠ j) : bitAt (setBit w i v) j = bitAt w j := by
  simp only [bitAt, setBit, setFld_getLsbD]
  rw [if_neg (by omega)]

/-- A field set leaves every bit outside it. -/
theorem bitAt_setFld_apart (w : Word) (hi lo v j : Nat) (h : hi < j ∨ j < lo) : bitAt (setFld w hi lo v) j = bitAt w j := by
  simp only [bitAt, setFld_getLsbD]
  rw [if_neg (by omega)]

/-- A bit set leaves every field that does not hold it. -/
theorem fld_setBit_apart (w : Word) (i a b : Nat) (v : Bool) (h : i < b ∨ a < i) : fld (setBit w i v) a b = fld w a b :=
  fld_setFld_apart w i i v.toNat a b h

/-- A field is smaller than its width allows. -/
theorem fld_lt (w : Word) (hi lo : Nat) : fld w hi lo < 2 ^ (hi + 1 - lo) := Nat.mod_lt _ (Nat.two_pow_pos _)

end Sys2Proof.Machine
end

