-- ==== Sys2Proof/Laws/Memory.lean ====
section
/-!
SUPPORT. The byte store: every operation on it keeps the canonical form, and what it reads after a write.
-/

namespace Sys2Proof.Machine.Memory

/-- A bound below a canonical list may be lowered. -/
theorem wfFrom_mono {a b : Nat} (h : a ≤ b) : ∀ m : List Host.Cell, wfFrom b m = true → wfFrom a m = true
  | [], _ => rfl
  | (k, v) :: t, w => by
    simp only [wfFrom, Bool.and_eq_true, decide_eq_true_eq] at w ⊢
    exact ⟨⟨by omega, w.1.2⟩, w.2⟩

/-- A write keeps the canonical form. -/
theorem wfFrom_set (x : Nat) (v : Byte) : ∀ (m : List Host.Cell) (a : Nat), a ≤ x → wfFrom a m = true → wfFrom a (set m x v) = true
  | [], a, ha, _ => by
    by_cases hv : v = 0#8 <;> simp [set, hv, wfFrom, ha]
  | (k, b) :: t, a, ha, w => by
    simp only [wfFrom, Bool.and_eq_true, decide_eq_true_eq] at w
    obtain ⟨⟨hk, hb⟩, ht⟩ := w
    have hb : ¬ b = 0#8 := by simpa using hb
    simp only [set]
    split
    · rename_i hlt
      split
      · simp [wfFrom, hk, hb, ht]
      · rename_i hv
        have hv : ¬ v = 0#8 := hv
        simp [wfFrom, ha, hv, hb, ht, show x + 1 ≤ k by omega]
    · split
      · rename_i e
        subst e
        split
        · exact wfFrom_mono (by omega) t ht
        · rename_i hv
          have hv : ¬ v = 0#8 := hv
          simp [wfFrom, ha, hv, ht]
      · have := wfFrom_set x v t (k + 1) (by omega) ht
        simp [wfFrom, hk, hb, this]

/-- A write of a byte keeps the canonical form. -/
theorem wf_set (m : List Host.Cell) (x : Nat) (v : Byte) (h : wf m = true) : wf (set m x v) = true :=
  wfFrom_set x v m 0 (Nat.zero_le _) h

/-- A write of bytes keeps the canonical form. -/
theorem wf_sets : ∀ (bs : List Byte) (m : List Host.Cell) (x : Nat), wf m = true → wf (sets m x bs) = true
  | [], _, _, h => h
  | b :: bs, m, x, h => wf_sets bs (set m x b) (x + 1) (wf_set m x b h)

theorem wfFrom_filter (p : Host.Cell → Bool) : ∀ (m : List Host.Cell) (a : Nat), wfFrom a m = true → wfFrom a (m.filter p) = true
  | [], _, _ => rfl
  | (k, b) :: t, a, w => by
    simp only [wfFrom, Bool.and_eq_true, decide_eq_true_eq] at w
    have ih := wfFrom_filter p t (k + 1) w.2
    by_cases hp : p (k, b) = true
    · have hb : ¬ b = 0#8 := by simpa using w.1.2
      simp [hp, wfFrom, w.1.1, hb, ih]
    · simp only [List.filter, hp]
      exact wfFrom_mono (by omega) _ ih

/-- Clearing keeps the canonical form. -/
theorem wf_clear (p : Nat → Bool) (m : List Host.Cell) (h : wf m = true) : wf (clear p m) = true :=
  wfFrom_filter _ m 0 h

/-- Addresses below the first of a canonical list read 0. -/
theorem get_below : ∀ (m : List Host.Cell) (a x : Nat), wfFrom a m = true → x < a → get m x = 0
  | [], _, _, _, _ => rfl
  | (k, b) :: t, a, x, w, h => by
    simp only [wfFrom, Bool.and_eq_true, decide_eq_true_eq] at w
    simp only [get, if_neg (show ¬ k = x by omega)]
    exact get_below t (k + 1) x w.2 (by omega)

theorem get_set_from (x : Nat) (v : Byte) :
    ∀ (m : List Host.Cell) (a y : Nat), wfFrom a m = true → get (set m x v) y = if y = x then v else get m y
  | [], _, y, _ => by
    have hx (e : ¬ y = x) : ¬ x = y := fun h => e h.symm
    by_cases hv : v = 0#8 <;> by_cases e : y = x <;> simp [set, get, hv, e, hx]
  | (k, b) :: t, a, y, w => by
    simp only [wfFrom, Bool.and_eq_true, decide_eq_true_eq] at w
    have low : ∀ z, z ≤ k → get t z = 0 := fun z hz => get_below t (k + 1) z w.2 (by omega)
    simp only [set]
    split
    · rename_i hlt
      by_cases hv : v = 0
      · rw [if_pos hv]
        by_cases e : y = x
        · subst e
          simp [get, show ¬ k = y by omega, low y (by omega), hv]
        · simp [e]
      · rw [if_neg hv]
        by_cases e : y = x
        · subst e; simp [get]
        · simp [get, e, show ¬ x = y by omega]
    · split
      · rename_i e
        subst e
        by_cases hv : v = 0
        · rw [if_pos hv]
          by_cases e : y = x
          · subst e; simp [low y (Nat.le_refl _), hv]
          · simp [get, e, show ¬ x = y by omega]
        · rw [if_neg hv]
          by_cases e : y = x
          · subst e; simp [get]
          · simp [get, e, show ¬ x = y by omega]
      · rename_i h1 h2
        simp only [get]
        by_cases e : k = y
        · subst e
          simp [show ¬ k = x by omega]
        · rw [if_neg e, get_set_from x v t (k + 1) y w.2, if_neg e]

/-- A byte read after a byte written. -/
theorem get_set (m : List Host.Cell) (x y : Nat) (v : Byte) (h : wf m = true) :
    get (set m x v) y = if y = x then v else get m y := get_set_from x v m 0 y h

/-- A byte outside those written reads as before. -/
theorem get_sets_apart : ∀ (bs : List Byte) (m : List Host.Cell) (x y : Nat), wf m = true → (y < x ∨ x + bs.length ≤ y) →
    get (sets m x bs) y = get m y
  | [], _, _, _, _, _ => rfl
  | b :: bs, m, x, y, h, a => by
    simp only [List.length_cons] at a
    rw [sets, get_sets_apart bs _ (x + 1) y (wf_set m x b h) (by omega), get_set m x y b h, if_neg (by omega)]

/-- A byte written reads back. -/
theorem get_sets_at : ∀ (bs : List Byte) (m : List Host.Cell) (x i : Nat), wf m = true → (hi : i < bs.length) →
    get (sets m x bs) (x + i) = bs[i]
  | b :: bs, m, x, 0, h, _ => by
    rw [sets, get_sets_apart bs _ (x + 1) (x + 0) (wf_set m x b h) (by omega), get_set m x _ b h]
    simp
  | b :: bs, m, x, i + 1, h, hi => by
    rw [sets, show x + (i + 1) = x + 1 + i by omega, get_sets_at bs _ (x + 1) i (wf_set m x b h) (by simpa using hi)]
    simp

/-- Bytes written read back whole. -/
theorem gets_sets (bs : List Byte) (m : List Host.Cell) (x : Nat) (h : wf m = true) : gets (sets m x bs) x bs.length = bs := by
  apply List.ext_getElem
  · simp [gets]
  · intro i h1 h2
    simp [gets, get_sets_at bs m x i h h2]

end Sys2Proof.Machine.Memory
end

