-- ==== Sys2Proof/WellFormed.lean ====
section
/-!
DEFINITION. Which commands the block's surroundings can send: bounds that the manual sets on the operands of an event and that the
operands' types do not state. `exec` does not consult them.
-/

namespace Sys2Proof

/-- Longest time within a flash, in core cycles: a period of 1,600 edges (R27) at the highest core clock has 36,000 cycles, and
occultations stretch a flash by at most 64 periods (R47, R51). -/
def maxOff : Nat := 65 * 36000

/-- The operand `off` of a core's command: the cycle of the flash in which it comes about. -/
def okOff (off : Nat) : Bool := decide (off < maxOff)

/-- Transfer tags of a core (R156). -/
def maxTags : Nat := 256

/-- Content bytes of a flit (R316, R326). -/
def flitBytes : Nat := 256

/-- Lane positions of a die-to-die port: 16 groups of 32 data lanes and a spare (R313). -/
def lanePositions : Nat := 16 * 33

/-- A list names nothing twice. -/
def distinct {α : Type} [DecidableEq α] : List α → Bool
  | [] => true
  | x :: l => !l.contains x && distinct l

/-- A PCIe read asks for at most 4,096 bytes (R342). -/
def okRead (n : Nat) : Bool := decide (1 ≤ n) && decide (n ≤ 4096)

/-- A PCIe write carries at most 512 bytes (R342). -/
def okWrite (n : Nat) : Bool := decide (1 ≤ n) && decide (n ≤ 512)

/-- An abandoned access has the form of the access; of a write, fewer words are done than it has. -/
def okHostAcc : HostAcc → Bool
  | .read _ n => okRead n
  | .write _ data done => okWrite data.length && decide (8 * done ≤ data.length)
  | .atomic _ => true
  | .keeper _ _ => true
  | .command _ _ => true

/-- A BAR is read within its size (R342, R345). -/
def okBar (b : HostBar) (off n : Nat) : Bool :=
  okRead n && match b with
    | .bar0 => decide (off + n ≤ 2 ^ 26)
    | .bar2 => decide (off + n ≤ 2 ^ 36)
    | .bar4 => decide (off + n ≤ 2 ^ 20)

/-- A BAR is written within its size (R342, R345). -/
def okBarWrite (b : MemBar) (off n : Nat) : Bool :=
  okWrite n && match b with
    | .bar2 => decide (off + n ≤ 2 ^ 36)
    | .bar4 => decide (off + n ≤ 2 ^ 20)

/-- A timed-out request of the stream unit holds a tag (R156). -/
def okTimed : TimedReq → Bool
  | .stream n => decide (n < maxTags)
  | .walker _ => true
  | .queue _ => true

/-- A data flit of a chip link carries at most its content (R326). -/
def okPkt : Option ClPkt → Bool
  | none => true
  | some p => decide (p.len ≤ flitBytes)

/-- The tests name each die once. -/
def okTests (ts : List DieTest) : Bool := distinct (ts.map (·.die))

/-- The measurements name each die once. -/
def okMeas (ms : List DieMeas) : Bool := distinct (ms.map (·.die))

/-- What a cold power-on finds names each die once in each list. -/
def okBring (b : Bring) : Bool := distinct (b.dieStraps.map (·.1)) && okTests b.tests && okMeas b.meas

/-- A command that the surroundings can send. -/
def Instr.wellFormed : Instr → Bool
  | .bcnClkLock => true
  | .beaconLoss => true
  | .mark edges => decide (1 ≤ edges)
  | .occultation => true
  | .beaconStall => true
  | .arm _ => true
  | .disarm => true
  | .slackCharge _ off _ _ => okOff off
  | .cutOff => true
  | .slipRelease => true
  | .dispatch _ off => okOff off
  | .wordComplete _ _ off _ => okOff off
  | .nop _ off => okOff off
  | .sync _ off => okOff off
  | .bank _ off => okOff off
  | .unbank _ off => okOff off
  | .unitReady _ _ => true
  | .mmul _ _ off => okOff off
  | .drain _ _ off => okOff off
  | .rampUp _ _ off => okOff off
  | .cordPoint _ _ _ => true
  | .vecAdd _ off => okOff off
  | .vecMul _ off => okOff off
  | .vecFma _ off => okOff off
  | .vecMax _ off => okOff off
  | .vecMin _ off => okOff off
  | .vecCvt _ off => okOff off
  | .vecQuant _ off => okOff off
  | .vecDequant _ off => okOff off
  | .vecExp _ off => okOff off
  | .vecRcp _ off => okOff off
  | .vecRsqrt _ off => okOff off
  | .vecAct _ off => okOff off
  | .vecRmax _ off => okOff off
  | .vecRsum _ off => okOff off
  | .vecSoftmax _ off => okOff off
  | .vecRmsnorm _ off => okOff off
  | .vecLayernorm _ off => okOff off
  | .vecRope _ off => okOff off
  | .vecSplit2 _ off => okOff off
  | .vecSplit3 _ off => okOff off
  | .vecD7slice _ off => okOff off
  | .vecD7finish _ off => okOff off
  | .vecIadd48 _ off => okOff off
  | .vecDadd _ off => okOff off
  | .vecDmul _ off => okOff off
  | .vecDfma _ off => okOff off
  | .vecActload _ off => okOff off
  | .strCopy _ _ off => okOff off
  | .strGather _ _ off => okOff off
  | .strXsend _ _ off => okOff off
  | .requestComplete _ n _ => decide (n < maxTags)
  | .memoryTimeout _ r => okTimed r
  | .chkBegin _ off => okOff off
  | .chkFeed _ off => okOff off
  | .chkEnd _ off => okOff off
  | .chkCmp _ off => okOff off
  | .sramScrub _ _ => true
  | .cordTake _ off => okOff off
  | .inRead _ off => okOff off
  | .outWrite _ off => okOff off
  | .attn _ off => okOff off
  | .append _ off => okOff off
  | .merge _ off => okOff off
  | .scores _ off => okOff off
  | .commitApply _ => true
  | .frameRelease _ => true
  | .loadComplete _ => true
  | .mapRecordChange => true
  | .fetchCopyComplete _ _ => true
  | .hostQdb _ _ _ => true
  | .kprQTail _ _ _ => true
  | .turfRefresh _ _ => true
  | .hbmRefresh _ _ _ _ => true
  | .bandChange _ _ => true
  | .turfScrub _ _ => true
  | .hbmScrub _ _ => true
  | .bar2Read b off n => okBar b off.toNat n
  | .bar2Write b off data => okBarWrite b off.toNat data.length
  | .fetchAdd _ w _ => decide (w ≠ .w128)
  | .swap _ w _ => decide (w ≠ .w128)
  | .cas _ _ _ _ => true
  | .accessTimeout a => okHostAcc a
  | .stageComplete => true
  | .nbuAdd _ => true
  | .nbuMul _ => true
  | .nbuFma _ => true
  | .nbuAct _ => true
  | .nbuCommandComplete _ => true
  | .fenceComplete _ => true
  | .regionWipeComplete _ => true
  | .d2dFlit _ data _ _ sent _ => decide (data.length = flitBytes) && sent.all fun d => decide (d.length = flitBytes)
  | .d2dNak _ _ _ => true
  | .portDegraded _ => true
  | .d2dTrainingDone _ bad => bad.all fun x => decide (x < lanePositions)
  | .d2dTrainingTimeout _ => true
  | .idlePort _ => true
  | .dieFault _ _ => true
  | .partnerSignalPresent _ => true
  | .chipLinkTrained _ _ _ _ => true
  | .chipLinkTrainingTimeout _ => true
  | .paddingConfirmed _ _ _ => true
  | .clFlit _ data _ _ _ pkt => decide (data.length = flitBytes) && okPkt pkt
  | .clNak _ _ => true
  | .remoteAck _ n _ => decide (n < maxTags)
  | .partnerSignalLost _ => true
  | .hostDb _ _ => true
  | .registerWrite _ _ _ => true
  | .completionWrite => true
  | .logDelivery => true
  | .heartbeat => true
  | .keeperRestart => true
  | .firmwareAuthenticated => true
  | .infoVersion _ => true
  | .infoDevice _ => true
  | .infoMap _ => true
  | .resetWarm _ => true
  | .resetCompute _ => true
  | .resetPartition _ => true
  | .resetComplete _ tests => okTests tests
  | .schedLoad _ => true
  | .schedUnload _ => true
  | .schedInfo _ => true
  | .bcnSetPeriod _ => true
  | .bcnArm _ => true
  | .bcnDisarm _ => true
  | .runStart _ => true
  | .runStop _ => true
  | .queueBind _ => true
  | .queueUnbind _ => true
  | .coreTrapClear _ => true
  | .pageCommit _ => true
  | .pageRead _ => true
  | .memStage _ => true
  | .memAtomic _ => true
  | .regGrant _ => true
  | .nbuRun _ => true
  | .nbuRawRun _ => true
  | .nbuFence _ => true
  | .nbuRegion _ => true
  | .thmRead _ => true
  | .thmCoolMin _ => true
  | .lnkTarget _ => true
  | .lnkRetrain _ => true
  | .ageRead _ => true
  | .ageMeasure _ => true
  | .secAttest _ => true
  | .secCert _ => true
  | .secOwnerKey _ => true
  | .secLifecycle _ => true
  | .secDebugUnlock _ => true
  | .fwUpdate _ => true
  | .fwRecover _ => true
  | .logBind _ => true
  | .logEccRead _ => true
  | .logEccClear _ => true
  | .engEn _ _ => true
  | .engBankEn _ _ _ => true
  | .engCntClr _ _ => true
  | .walkEn _ => true
  | .pgwBankEn _ _ => true
  | .pgwCntClr _ => true
  | .coreEn _ => true
  | .trapClr _ => true
  | .coldPowerOn b => okBring b
  | .powerLoss => true
  | .inputCurrentLimit => true
  | .perstFall => true
  | .perstRise => true
  | .sensorSample _ _ us => decide (1 ≤ us)
  | .suspectClear _ => true
  | .tripRecord => true
  | .damperWindow => true
  | .damperRelease _ => true
  | .heatForecast _ _ => true
  | .flowEstimate _ => true
  | .coolantStateChange => true
  | .idleBank _ => true
  | .idleMeasurement => true
  | .replicaRead _ _ _ _ => true
  | .marginChange => true
  | .lifetimeUpdate _ => true
  | .debugRead _ => true
  | .debugWrite _ _ => true
  | .smbusBlockRead _ => true
  | .alertResponse => true
  | .hostLinkReachesL0 => true
  | .hostLinkLeavesL0 => true
  | .busMasterEnableChange _ _ => true
  | .pushToHostRingComplete _ _ => true
  | .measurementComplete ms eyes => okMeas ms && eyes.all (fun p => decide (p.2 ≤ 100)) && distinct (eyes.map (·.1))
  | .keeperNotRunningAlert => true
  | .boundaryScan _ => true

/-- The cycle of the flash at which a core's command comes about. -/
def Instr.off? : Instr → Option Nat
  | .bcnClkLock => none
  | .beaconLoss => none
  | .mark _ => none
  | .occultation => none
  | .beaconStall => none
  | .arm _ => none
  | .disarm => none
  | .slackCharge _ off _ _ => some off
  | .cutOff => none
  | .slipRelease => none
  | .dispatch _ off => some off
  | .wordComplete _ _ off _ => some off
  | .nop _ off => some off
  | .sync _ off => some off
  | .bank _ off => some off
  | .unbank _ off => some off
  | .unitReady _ _ => none
  | .mmul _ _ off => some off
  | .drain _ _ off => some off
  | .rampUp _ _ off => some off
  | .cordPoint _ _ _ => none
  | .vecAdd _ off => some off
  | .vecMul _ off => some off
  | .vecFma _ off => some off
  | .vecMax _ off => some off
  | .vecMin _ off => some off
  | .vecCvt _ off => some off
  | .vecQuant _ off => some off
  | .vecDequant _ off => some off
  | .vecExp _ off => some off
  | .vecRcp _ off => some off
  | .vecRsqrt _ off => some off
  | .vecAct _ off => some off
  | .vecRmax _ off => some off
  | .vecRsum _ off => some off
  | .vecSoftmax _ off => some off
  | .vecRmsnorm _ off => some off
  | .vecLayernorm _ off => some off
  | .vecRope _ off => some off
  | .vecSplit2 _ off => some off
  | .vecSplit3 _ off => some off
  | .vecD7slice _ off => some off
  | .vecD7finish _ off => some off
  | .vecIadd48 _ off => some off
  | .vecDadd _ off => some off
  | .vecDmul _ off => some off
  | .vecDfma _ off => some off
  | .vecActload _ off => some off
  | .strCopy _ _ off => some off
  | .strGather _ _ off => some off
  | .strXsend _ _ off => some off
  | .requestComplete _ _ _ => none
  | .memoryTimeout _ _ => none
  | .chkBegin _ off => some off
  | .chkFeed _ off => some off
  | .chkEnd _ off => some off
  | .chkCmp _ off => some off
  | .sramScrub _ _ => none
  | .cordTake _ off => some off
  | .inRead _ off => some off
  | .outWrite _ off => some off
  | .attn _ off => some off
  | .append _ off => some off
  | .merge _ off => some off
  | .scores _ off => some off
  | .commitApply _ => none
  | .frameRelease _ => none
  | .loadComplete _ => none
  | .mapRecordChange => none
  | .fetchCopyComplete _ _ => none
  | .hostQdb _ _ _ => none
  | .kprQTail _ _ _ => none
  | .turfRefresh _ _ => none
  | .hbmRefresh _ _ _ _ => none
  | .bandChange _ _ => none
  | .turfScrub _ _ => none
  | .hbmScrub _ _ => none
  | .bar2Read _ _ _ => none
  | .bar2Write _ _ _ => none
  | .fetchAdd _ _ _ => none
  | .swap _ _ _ => none
  | .cas _ _ _ _ => none
  | .accessTimeout _ => none
  | .stageComplete => none
  | .nbuAdd _ => none
  | .nbuMul _ => none
  | .nbuFma _ => none
  | .nbuAct _ => none
  | .nbuCommandComplete _ => none
  | .fenceComplete _ => none
  | .regionWipeComplete _ => none
  | .d2dFlit _ _ _ _ _ _ => none
  | .d2dNak _ _ _ => none
  | .portDegraded _ => none
  | .d2dTrainingDone _ _ => none
  | .d2dTrainingTimeout _ => none
  | .idlePort _ => none
  | .dieFault _ _ => none
  | .partnerSignalPresent _ => none
  | .chipLinkTrained _ _ _ _ => none
  | .chipLinkTrainingTimeout _ => none
  | .paddingConfirmed _ _ _ => none
  | .clFlit _ _ _ _ _ _ => none
  | .clNak _ _ => none
  | .remoteAck _ _ _ => none
  | .partnerSignalLost _ => none
  | .hostDb _ _ => none
  | .registerWrite _ _ _ => none
  | .completionWrite => none
  | .logDelivery => none
  | .heartbeat => none
  | .keeperRestart => none
  | .firmwareAuthenticated => none
  | .infoVersion _ => none
  | .infoDevice _ => none
  | .infoMap _ => none
  | .resetWarm _ => none
  | .resetCompute _ => none
  | .resetPartition _ => none
  | .resetComplete _ _ => none
  | .schedLoad _ => none
  | .schedUnload _ => none
  | .schedInfo _ => none
  | .bcnSetPeriod _ => none
  | .bcnArm _ => none
  | .bcnDisarm _ => none
  | .runStart _ => none
  | .runStop _ => none
  | .queueBind _ => none
  | .queueUnbind _ => none
  | .coreTrapClear _ => none
  | .pageCommit _ => none
  | .pageRead _ => none
  | .memStage _ => none
  | .memAtomic _ => none
  | .regGrant _ => none
  | .nbuRun _ => none
  | .nbuRawRun _ => none
  | .nbuFence _ => none
  | .nbuRegion _ => none
  | .thmRead _ => none
  | .thmCoolMin _ => none
  | .lnkTarget _ => none
  | .lnkRetrain _ => none
  | .ageRead _ => none
  | .ageMeasure _ => none
  | .secAttest _ => none
  | .secCert _ => none
  | .secOwnerKey _ => none
  | .secLifecycle _ => none
  | .secDebugUnlock _ => none
  | .fwUpdate _ => none
  | .fwRecover _ => none
  | .logBind _ => none
  | .logEccRead _ => none
  | .logEccClear _ => none
  | .engEn _ _ => none
  | .engBankEn _ _ _ => none
  | .engCntClr _ _ => none
  | .walkEn _ => none
  | .pgwBankEn _ _ => none
  | .pgwCntClr _ => none
  | .coreEn _ => none
  | .trapClr _ => none
  | .coldPowerOn _ => none
  | .powerLoss => none
  | .inputCurrentLimit => none
  | .perstFall => none
  | .perstRise => none
  | .sensorSample _ _ _ => none
  | .suspectClear _ => none
  | .tripRecord => none
  | .damperWindow => none
  | .damperRelease _ => none
  | .heatForecast _ _ => none
  | .flowEstimate _ => none
  | .coolantStateChange => none
  | .idleBank _ => none
  | .idleMeasurement => none
  | .replicaRead _ _ _ _ => none
  | .marginChange => none
  | .lifetimeUpdate _ => none
  | .debugRead _ => none
  | .debugWrite _ _ => none
  | .smbusBlockRead _ => none
  | .alertResponse => none
  | .hostLinkReachesL0 => none
  | .hostLinkLeavesL0 => none
  | .busMasterEnableChange _ _ => none
  | .pushToHostRingComplete _ _ => none
  | .measurementComplete _ _ => none
  | .keeperNotRunningAlert => none
  | .boundaryScan _ => none

end Sys2Proof
end

