-- ==== Sys2Proof/Laws/PerInstr.lean ====
section
/-!
SUPPORT. Per command: a well-formed command that carries a cycle of the flash carries one within the longest flash (R27, R47, R51).
-/

namespace Sys2Proof.Laws.WellFormed

/-- The cycle that a well-formed command carries lies within the longest flash. -/
def Statement (i : Instr) : Prop := i.wellFormed = true → ∀ o, i.off? = some o → o < maxOff

theorem bcnClkLock : Statement (.bcnClkLock) :=
  fun _ _ e => nomatch e

theorem beaconLoss : Statement (.beaconLoss) :=
  fun _ _ e => nomatch e

theorem mark (edges : Nat) : Statement (.mark edges) :=
  fun _ _ e => nomatch e

theorem occultation : Statement (.occultation) :=
  fun _ _ e => nomatch e

theorem beaconStall : Statement (.beaconStall) :=
  fun _ _ e => nomatch e

theorem arm (load : BitVec 48) : Statement (.arm load) :=
  fun _ _ e => nomatch e

theorem disarm : Statement (.disarm) :=
  fun _ _ e => nomatch e

theorem slackCharge (core : Core) (off : Nat) (causes : BitVec 8) (place : Fin 8256) : Statement (.slackCharge core off causes place) :=
  fun h _ e => Option.some.inj e ▸ of_decide_eq_true h

theorem cutOff : Statement (.cutOff) :=
  fun _ _ e => nomatch e

theorem slipRelease : Statement (.slipRelease) :=
  fun _ _ e => nomatch e

theorem dispatch (core : Core) (off : Nat) : Statement (.dispatch core off) :=
  fun h _ e => Option.some.inj e ▸ of_decide_eq_true h

theorem wordComplete (core : Core) (u : CoreUnit) (off : Nat) (beside : Bool) : Statement (.wordComplete core u off beside) :=
  fun h _ e => Option.some.inj e ▸ of_decide_eq_true h

theorem nop (core : Core) (off : Nat) : Statement (.nop core off) :=
  fun h _ e => Option.some.inj e ▸ of_decide_eq_true h

theorem sync (core : Core) (off : Nat) : Statement (.sync core off) :=
  fun h _ e => Option.some.inj e ▸ of_decide_eq_true h

theorem bank (core : Core) (off : Nat) : Statement (.bank core off) :=
  fun h _ e => Option.some.inj e ▸ of_decide_eq_true h

theorem unbank (core : Core) (off : Nat) : Statement (.unbank core off) :=
  fun h _ e => Option.some.inj e ▸ of_decide_eq_true h

theorem unitReady (core : Core) (u : CoreUnit) : Statement (.unitReady core u) :=
  fun _ _ e => nomatch e

theorem mmul (core : Core) (eng : Eng) (off : Nat) : Statement (.mmul core eng off) :=
  fun h _ e => Option.some.inj e ▸ of_decide_eq_true h

theorem drain (core : Core) (eng : Eng) (off : Nat) : Statement (.drain core eng off) :=
  fun h _ e => Option.some.inj e ▸ of_decide_eq_true h

theorem rampUp (core : Core) (eng : Eng) (off : Nat) : Statement (.rampUp core eng off) :=
  fun h _ e => Option.some.inj e ▸ of_decide_eq_true h

theorem cordPoint (slot : Slot) (q : QNum) (k : Fin 8) : Statement (.cordPoint slot q k) :=
  fun _ _ e => nomatch e

theorem vecAdd (core : Core) (off : Nat) : Statement (.vecAdd core off) :=
  fun h _ e => Option.some.inj e ▸ of_decide_eq_true h

theorem vecMul (core : Core) (off : Nat) : Statement (.vecMul core off) :=
  fun h _ e => Option.some.inj e ▸ of_decide_eq_true h

theorem vecFma (core : Core) (off : Nat) : Statement (.vecFma core off) :=
  fun h _ e => Option.some.inj e ▸ of_decide_eq_true h

theorem vecMax (core : Core) (off : Nat) : Statement (.vecMax core off) :=
  fun h _ e => Option.some.inj e ▸ of_decide_eq_true h

theorem vecMin (core : Core) (off : Nat) : Statement (.vecMin core off) :=
  fun h _ e => Option.some.inj e ▸ of_decide_eq_true h

theorem vecCvt (core : Core) (off : Nat) : Statement (.vecCvt core off) :=
  fun h _ e => Option.some.inj e ▸ of_decide_eq_true h

theorem vecQuant (core : Core) (off : Nat) : Statement (.vecQuant core off) :=
  fun h _ e => Option.some.inj e ▸ of_decide_eq_true h

theorem vecDequant (core : Core) (off : Nat) : Statement (.vecDequant core off) :=
  fun h _ e => Option.some.inj e ▸ of_decide_eq_true h

theorem vecExp (core : Core) (off : Nat) : Statement (.vecExp core off) :=
  fun h _ e => Option.some.inj e ▸ of_decide_eq_true h

theorem vecRcp (core : Core) (off : Nat) : Statement (.vecRcp core off) :=
  fun h _ e => Option.some.inj e ▸ of_decide_eq_true h

theorem vecRsqrt (core : Core) (off : Nat) : Statement (.vecRsqrt core off) :=
  fun h _ e => Option.some.inj e ▸ of_decide_eq_true h

theorem vecAct (core : Core) (off : Nat) : Statement (.vecAct core off) :=
  fun h _ e => Option.some.inj e ▸ of_decide_eq_true h

theorem vecRmax (core : Core) (off : Nat) : Statement (.vecRmax core off) :=
  fun h _ e => Option.some.inj e ▸ of_decide_eq_true h

theorem vecRsum (core : Core) (off : Nat) : Statement (.vecRsum core off) :=
  fun h _ e => Option.some.inj e ▸ of_decide_eq_true h

theorem vecSoftmax (core : Core) (off : Nat) : Statement (.vecSoftmax core off) :=
  fun h _ e => Option.some.inj e ▸ of_decide_eq_true h

theorem vecRmsnorm (core : Core) (off : Nat) : Statement (.vecRmsnorm core off) :=
  fun h _ e => Option.some.inj e ▸ of_decide_eq_true h

theorem vecLayernorm (core : Core) (off : Nat) : Statement (.vecLayernorm core off) :=
  fun h _ e => Option.some.inj e ▸ of_decide_eq_true h

theorem vecRope (core : Core) (off : Nat) : Statement (.vecRope core off) :=
  fun h _ e => Option.some.inj e ▸ of_decide_eq_true h

theorem vecSplit2 (core : Core) (off : Nat) : Statement (.vecSplit2 core off) :=
  fun h _ e => Option.some.inj e ▸ of_decide_eq_true h

theorem vecSplit3 (core : Core) (off : Nat) : Statement (.vecSplit3 core off) :=
  fun h _ e => Option.some.inj e ▸ of_decide_eq_true h

theorem vecD7slice (core : Core) (off : Nat) : Statement (.vecD7slice core off) :=
  fun h _ e => Option.some.inj e ▸ of_decide_eq_true h

theorem vecD7finish (core : Core) (off : Nat) : Statement (.vecD7finish core off) :=
  fun h _ e => Option.some.inj e ▸ of_decide_eq_true h

theorem vecIadd48 (core : Core) (off : Nat) : Statement (.vecIadd48 core off) :=
  fun h _ e => Option.some.inj e ▸ of_decide_eq_true h

theorem vecDadd (core : Core) (off : Nat) : Statement (.vecDadd core off) :=
  fun h _ e => Option.some.inj e ▸ of_decide_eq_true h

theorem vecDmul (core : Core) (off : Nat) : Statement (.vecDmul core off) :=
  fun h _ e => Option.some.inj e ▸ of_decide_eq_true h

theorem vecDfma (core : Core) (off : Nat) : Statement (.vecDfma core off) :=
  fun h _ e => Option.some.inj e ▸ of_decide_eq_true h

theorem vecActload (core : Core) (off : Nat) : Statement (.vecActload core off) :=
  fun h _ e => Option.some.inj e ▸ of_decide_eq_true h

theorem strCopy (core : Core) (ch : Fin 8) (off : Nat) : Statement (.strCopy core ch off) :=
  fun h _ e => Option.some.inj e ▸ of_decide_eq_true h

theorem strGather (core : Core) (ch : Fin 8) (off : Nat) : Statement (.strGather core ch off) :=
  fun h _ e => Option.some.inj e ▸ of_decide_eq_true h

theorem strXsend (core : Core) (ch : Fin 8) (off : Nat) : Statement (.strXsend core ch off) :=
  fun h _ e => Option.some.inj e ▸ of_decide_eq_true h

theorem requestComplete (core : Core) (n : Nat) (st : ReqStatus) : Statement (.requestComplete core n st) :=
  fun _ _ e => nomatch e

theorem memoryTimeout (core : Core) (r : TimedReq) : Statement (.memoryTimeout core r) :=
  fun _ _ e => nomatch e

theorem chkBegin (core : Core) (off : Nat) : Statement (.chkBegin core off) :=
  fun h _ e => Option.some.inj e ▸ of_decide_eq_true h

theorem chkFeed (core : Core) (off : Nat) : Statement (.chkFeed core off) :=
  fun h _ e => Option.some.inj e ▸ of_decide_eq_true h

theorem chkEnd (core : Core) (off : Nat) : Statement (.chkEnd core off) :=
  fun h _ e => Option.some.inj e ▸ of_decide_eq_true h

theorem chkCmp (core : Core) (off : Nat) : Statement (.chkCmp core off) :=
  fun h _ e => Option.some.inj e ▸ of_decide_eq_true h

theorem sramScrub (die : Die) (p : Fin 17) : Statement (.sramScrub die p) :=
  fun _ _ e => nomatch e

theorem cordTake (core : Core) (off : Nat) : Statement (.cordTake core off) :=
  fun h _ e => Option.some.inj e ▸ of_decide_eq_true h

theorem inRead (core : Core) (off : Nat) : Statement (.inRead core off) :=
  fun h _ e => Option.some.inj e ▸ of_decide_eq_true h

theorem outWrite (core : Core) (off : Nat) : Statement (.outWrite core off) :=
  fun h _ e => Option.some.inj e ▸ of_decide_eq_true h

theorem attn (core : Core) (off : Nat) : Statement (.attn core off) :=
  fun h _ e => Option.some.inj e ▸ of_decide_eq_true h

theorem append (core : Core) (off : Nat) : Statement (.append core off) :=
  fun h _ e => Option.some.inj e ▸ of_decide_eq_true h

theorem merge (core : Core) (off : Nat) : Statement (.merge core off) :=
  fun h _ e => Option.some.inj e ▸ of_decide_eq_true h

theorem scores (core : Core) (off : Nat) : Statement (.scores core off) :=
  fun h _ e => Option.some.inj e ▸ of_decide_eq_true h

theorem commitApply (core : Core) : Statement (.commitApply core) :=
  fun _ _ e => nomatch e

theorem frameRelease (core : Core) : Statement (.frameRelease core) :=
  fun _ _ e => nomatch e

theorem loadComplete (slot : Slot) : Statement (.loadComplete slot) :=
  fun _ _ e => nomatch e

theorem mapRecordChange : Statement (.mapRecordChange) :=
  fun _ _ e => nomatch e

theorem fetchCopyComplete (slot : Slot) (q : QNum) : Statement (.fetchCopyComplete slot q) :=
  fun _ _ e => nomatch e

theorem hostQdb (slot : Slot) (q : QNum) (v : BitVec 64) : Statement (.hostQdb slot q v) :=
  fun _ _ e => nomatch e

theorem kprQTail (slot : Slot) (q : QNum) (v : BitVec 64) : Statement (.kprQTail slot q v) :=
  fun _ _ e => nomatch e

theorem turfRefresh (die : Die) (blocked : BitVec 17) : Statement (.turfRefresh die blocked) :=
  fun _ _ e => nomatch e

theorem hbmRefresh (stk : Stk) (bank : Fin 1024) (blocked : Bool) (late : Option (Fin 41)) : Statement (.hbmRefresh stk bank blocked late) :=
  fun _ _ e => nomatch e

theorem bandChange (die : Die) (upper : Bool) : Statement (.bandChange die upper) :=
  fun _ _ e => nomatch e

theorem turfScrub (die : Die) (secs : BitVec 32) : Statement (.turfScrub die secs) :=
  fun _ _ e => nomatch e

theorem hbmScrub (stk : Stk) (secs : BitVec 32) : Statement (.hbmScrub stk secs) :=
  fun _ _ e => nomatch e

theorem bar2Read (b : HostBar) (off : BitVec 36) (n : Nat) : Statement (.bar2Read b off n) :=
  fun _ _ e => nomatch e

theorem bar2Write (b : MemBar) (off : BitVec 36) (data : List Byte) : Statement (.bar2Write b off data) :=
  fun _ _ e => nomatch e

theorem fetchAdd (off : BitVec 36) (w : AtomW) (x : BitVec 64) : Statement (.fetchAdd off w x) :=
  fun _ _ e => nomatch e

theorem swap (off : BitVec 36) (w : AtomW) (x : BitVec 64) : Statement (.swap off w x) :=
  fun _ _ e => nomatch e

theorem cas (off : BitVec 36) (w : AtomW) (x : BitVec 64) (cmp : BitVec 64) : Statement (.cas off w x cmp) :=
  fun _ _ e => nomatch e

theorem accessTimeout (a : HostAcc) : Statement (.accessTimeout a) :=
  fun _ _ e => nomatch e

theorem stageComplete : Statement (.stageComplete) :=
  fun _ _ e => nomatch e

theorem nbuAdd (g : BitVec 13) : Statement (.nbuAdd g) :=
  fun _ _ e => nomatch e

theorem nbuMul (g : BitVec 13) : Statement (.nbuMul g) :=
  fun _ _ e => nomatch e

theorem nbuFma (g : BitVec 13) : Statement (.nbuFma g) :=
  fun _ _ e => nomatch e

theorem nbuAct (g : BitVec 13) : Statement (.nbuAct g) :=
  fun _ _ e => nomatch e

theorem nbuCommandComplete (io : NbIod) : Statement (.nbuCommandComplete io) :=
  fun _ _ e => nomatch e

theorem fenceComplete (io : NbIod) : Statement (.fenceComplete io) :=
  fun _ _ e => nomatch e

theorem regionWipeComplete (io : NbIod) : Statement (.regionWipeComplete io) :=
  fun _ _ e => nomatch e

theorem d2dFlit (port : D2dPort) (data : List Byte) (ctl : BitVec 16) (crc : BitVec 16) (sent : List (List Byte)) (win : BitVec 16) : Statement (.d2dFlit port data ctl crc sent win) :=
  fun _ _ e => nomatch e

theorem d2dNak (port : D2dPort) (sq : BitVec 12) (win : BitVec 16) : Statement (.d2dNak port sq win) :=
  fun _ _ e => nomatch e

theorem portDegraded (port : D2dPort) : Statement (.portDegraded port) :=
  fun _ _ e => nomatch e

theorem d2dTrainingDone (port : D2dPort) (bad : List Nat) : Statement (.d2dTrainingDone port bad) :=
  fun _ _ e => nomatch e

theorem d2dTrainingTimeout (port : D2dPort) : Statement (.d2dTrainingTimeout port) :=
  fun _ _ e => nomatch e

theorem idlePort (port : D2dPort) : Statement (.idlePort port) :=
  fun _ _ e => nomatch e

theorem dieFault (port : D2dPort) (alive : Bool) : Statement (.dieFault port alive) :=
  fun _ _ e => nomatch e

theorem partnerSignalPresent (cl : ClPort) : Statement (.partnerSignalPresent cl) :=
  fun _ _ e => nomatch e

theorem chipLinkTrained (cl : ClPort) (raw : BitVec 16) (peerLocked : Bool) (eye : Fin 101) : Statement (.chipLinkTrained cl raw peerLocked eye) :=
  fun _ _ e => nomatch e

theorem chipLinkTrainingTimeout (cl : ClPort) : Statement (.chipLinkTrainingTimeout cl) :=
  fun _ _ e => nomatch e

theorem paddingConfirmed (cl : ClPort) (peer : BitVec 64) (peerPort : Fin 24) : Statement (.paddingConfirmed cl peer peerPort) :=
  fun _ _ e => nomatch e

theorem clFlit (cl : ClPort) (data : List Byte) (trailer : BitVec 64) (corr : Nat) (uncorr : Nat) (pkt : Option ClPkt) : Statement (.clFlit cl data trailer corr uncorr pkt) :=
  fun _ _ e => nomatch e

theorem clNak (cl : ClPort) (sq : BitVec 12) : Statement (.clNak cl sq) :=
  fun _ _ e => nomatch e

theorem remoteAck (core : Core) (n : Nat) (st : ReqStatus) : Statement (.remoteAck core n st) :=
  fun _ _ e => nomatch e

theorem partnerSignalLost (cl : ClPort) : Statement (.partnerSignalLost cl) :=
  fun _ _ e => nomatch e

theorem hostDb (ring : Ring) (v : BitVec 64) : Statement (.hostDb ring v) :=
  fun _ _ e => nomatch e

theorem registerWrite (a : RegAgent) (addr : BitVec 48) (v : BitVec 64) : Statement (.registerWrite a addr v) :=
  fun _ _ e => nomatch e

theorem completionWrite : Statement (.completionWrite) :=
  fun _ _ e => nomatch e

theorem logDelivery : Statement (.logDelivery) :=
  fun _ _ e => nomatch e

theorem heartbeat : Statement (.heartbeat) :=
  fun _ _ e => nomatch e

theorem keeperRestart : Statement (.keeperRestart) :=
  fun _ _ e => nomatch e

theorem firmwareAuthenticated : Statement (.firmwareAuthenticated) :=
  fun _ _ e => nomatch e

theorem infoVersion (m : Mbox) : Statement (.infoVersion m) :=
  fun _ _ e => nomatch e

theorem infoDevice (m : Mbox) : Statement (.infoDevice m) :=
  fun _ _ e => nomatch e

theorem infoMap (m : Mbox) : Statement (.infoMap m) :=
  fun _ _ e => nomatch e

theorem resetWarm (m : Mbox) : Statement (.resetWarm m) :=
  fun _ _ e => nomatch e

theorem resetCompute (m : Mbox) : Statement (.resetCompute m) :=
  fun _ _ e => nomatch e

theorem resetPartition (m : Mbox) : Statement (.resetPartition m) :=
  fun _ _ e => nomatch e

theorem resetComplete (us : BitVec 32) (tests : List DieTest) : Statement (.resetComplete us tests) :=
  fun _ _ e => nomatch e

theorem schedLoad (m : Mbox) : Statement (.schedLoad m) :=
  fun _ _ e => nomatch e

theorem schedUnload (m : Mbox) : Statement (.schedUnload m) :=
  fun _ _ e => nomatch e

theorem schedInfo (m : Mbox) : Statement (.schedInfo m) :=
  fun _ _ e => nomatch e

theorem bcnSetPeriod (m : Mbox) : Statement (.bcnSetPeriod m) :=
  fun _ _ e => nomatch e

theorem bcnArm (m : Mbox) : Statement (.bcnArm m) :=
  fun _ _ e => nomatch e

theorem bcnDisarm (m : Mbox) : Statement (.bcnDisarm m) :=
  fun _ _ e => nomatch e

theorem runStart (m : Mbox) : Statement (.runStart m) :=
  fun _ _ e => nomatch e

theorem runStop (m : Mbox) : Statement (.runStop m) :=
  fun _ _ e => nomatch e

theorem queueBind (m : Mbox) : Statement (.queueBind m) :=
  fun _ _ e => nomatch e

theorem queueUnbind (m : Mbox) : Statement (.queueUnbind m) :=
  fun _ _ e => nomatch e

theorem coreTrapClear (m : Mbox) : Statement (.coreTrapClear m) :=
  fun _ _ e => nomatch e

theorem pageCommit (m : Mbox) : Statement (.pageCommit m) :=
  fun _ _ e => nomatch e

theorem pageRead (m : Mbox) : Statement (.pageRead m) :=
  fun _ _ e => nomatch e

theorem memStage (m : Mbox) : Statement (.memStage m) :=
  fun _ _ e => nomatch e

theorem memAtomic (m : Mbox) : Statement (.memAtomic m) :=
  fun _ _ e => nomatch e

theorem regGrant (m : Mbox) : Statement (.regGrant m) :=
  fun _ _ e => nomatch e

theorem nbuRun (m : Mbox) : Statement (.nbuRun m) :=
  fun _ _ e => nomatch e

theorem nbuRawRun (m : Mbox) : Statement (.nbuRawRun m) :=
  fun _ _ e => nomatch e

theorem nbuFence (m : Mbox) : Statement (.nbuFence m) :=
  fun _ _ e => nomatch e

theorem nbuRegion (m : Mbox) : Statement (.nbuRegion m) :=
  fun _ _ e => nomatch e

theorem thmRead (m : Mbox) : Statement (.thmRead m) :=
  fun _ _ e => nomatch e

theorem thmCoolMin (m : Mbox) : Statement (.thmCoolMin m) :=
  fun _ _ e => nomatch e

theorem lnkTarget (m : Mbox) : Statement (.lnkTarget m) :=
  fun _ _ e => nomatch e

theorem lnkRetrain (m : Mbox) : Statement (.lnkRetrain m) :=
  fun _ _ e => nomatch e

theorem ageRead (m : Mbox) : Statement (.ageRead m) :=
  fun _ _ e => nomatch e

theorem ageMeasure (m : Mbox) : Statement (.ageMeasure m) :=
  fun _ _ e => nomatch e

theorem secAttest (m : Mbox) : Statement (.secAttest m) :=
  fun _ _ e => nomatch e

theorem secCert (m : Mbox) : Statement (.secCert m) :=
  fun _ _ e => nomatch e

theorem secOwnerKey (m : Mbox) : Statement (.secOwnerKey m) :=
  fun _ _ e => nomatch e

theorem secLifecycle (m : Mbox) : Statement (.secLifecycle m) :=
  fun _ _ e => nomatch e

theorem secDebugUnlock (m : Mbox) : Statement (.secDebugUnlock m) :=
  fun _ _ e => nomatch e

theorem fwUpdate (m : Mbox) : Statement (.fwUpdate m) :=
  fun _ _ e => nomatch e

theorem fwRecover (m : Mbox) : Statement (.fwRecover m) :=
  fun _ _ e => nomatch e

theorem logBind (m : Mbox) : Statement (.logBind m) :=
  fun _ _ e => nomatch e

theorem logEccRead (m : Mbox) : Statement (.logEccRead m) :=
  fun _ _ e => nomatch e

theorem logEccClear (m : Mbox) : Statement (.logEccClear m) :=
  fun _ _ e => nomatch e

theorem engEn (core : Core) (eng : Eng) : Statement (.engEn core eng) :=
  fun _ _ e => nomatch e

theorem engBankEn (core : Core) (eng : Eng) (v : Bool) : Statement (.engBankEn core eng v) :=
  fun _ _ e => nomatch e

theorem engCntClr (core : Core) (eng : Eng) : Statement (.engCntClr core eng) :=
  fun _ _ e => nomatch e

theorem walkEn (core : Core) : Statement (.walkEn core) :=
  fun _ _ e => nomatch e

theorem pgwBankEn (core : Core) (v : Bool) : Statement (.pgwBankEn core v) :=
  fun _ _ e => nomatch e

theorem pgwCntClr (core : Core) : Statement (.pgwCntClr core) :=
  fun _ _ e => nomatch e

theorem coreEn (core : Core) : Statement (.coreEn core) :=
  fun _ _ e => nomatch e

theorem trapClr (core : Core) : Statement (.trapClr core) :=
  fun _ _ e => nomatch e

theorem coldPowerOn (b : Bring) : Statement (.coldPowerOn b) :=
  fun _ _ e => nomatch e

theorem powerLoss : Statement (.powerLoss) :=
  fun _ _ e => nomatch e

theorem inputCurrentLimit : Statement (.inputCurrentLimit) :=
  fun _ _ e => nomatch e

theorem perstFall : Statement (.perstFall) :=
  fun _ _ e => nomatch e

theorem perstRise : Statement (.perstRise) :=
  fun _ _ e => nomatch e

theorem sensorSample (x : Sensor) (temp : Int) (us : Nat) : Statement (.sensorSample x temp us) :=
  fun _ _ e => nomatch e

theorem suspectClear (x : Sensor) : Statement (.suspectClear x) :=
  fun _ _ e => nomatch e

theorem tripRecord : Statement (.tripRecord) :=
  fun _ _ e => nomatch e

theorem damperWindow : Statement (.damperWindow) :=
  fun _ _ e => nomatch e

theorem damperRelease (die : Die) : Statement (.damperRelease die) :=
  fun _ _ e => nomatch e

theorem heatForecast (die : Die) (power : BitVec 16) : Statement (.heatForecast die power) :=
  fun _ _ e => nomatch e

theorem flowEstimate (w : BitVec 16) : Statement (.flowEstimate w) :=
  fun _ _ e => nomatch e

theorem coolantStateChange : Statement (.coolantStateChange) :=
  fun _ _ e => nomatch e

theorem idleBank (core : Core) : Statement (.idleBank core) :=
  fun _ _ e => nomatch e

theorem idleMeasurement : Statement (.idleMeasurement) :=
  fun _ _ e => nomatch e

theorem replicaRead (die : Die) (p : Fin 17) (ps : BitVec 16) (below : Bool) : Statement (.replicaRead die p ps below) :=
  fun _ _ e => nomatch e

theorem marginChange : Statement (.marginChange) :=
  fun _ _ e => nomatch e

theorem lifetimeUpdate (x : LifeTick) : Statement (.lifetimeUpdate x) :=
  fun _ _ e => nomatch e

theorem debugRead (addr : BitVec 48) : Statement (.debugRead addr) :=
  fun _ _ e => nomatch e

theorem debugWrite (addr : BitVec 48) (v : BitVec 64) : Statement (.debugWrite addr v) :=
  fun _ _ e => nomatch e

theorem smbusBlockRead (code : BitVec 8) : Statement (.smbusBlockRead code) :=
  fun _ _ e => nomatch e

theorem alertResponse : Statement (.alertResponse) :=
  fun _ _ e => nomatch e

theorem hostLinkReachesL0 : Statement (.hostLinkReachesL0) :=
  fun _ _ e => nomatch e

theorem hostLinkLeavesL0 : Statement (.hostLinkLeavesL0) :=
  fun _ _ e => nomatch e

theorem busMasterEnableChange (v : Bool) (d3 : Bool) : Statement (.busMasterEnableChange v d3) :=
  fun _ _ e => nomatch e

theorem pushToHostRingComplete (slot : Slot) (q : QNum) : Statement (.pushToHostRingComplete slot q) :=
  fun _ _ e => nomatch e

theorem measurementComplete (ms : List DieMeas) (eyes : List (ClPort × Nat)) : Statement (.measurementComplete ms eyes) :=
  fun _ _ e => nomatch e

theorem keeperNotRunningAlert : Statement (.keeperNotRunningAlert) :=
  fun _ _ e => nomatch e

theorem boundaryScan (x : BScan) : Statement (.boundaryScan x) :=
  fun _ _ e => nomatch e

end Sys2Proof.Laws.WellFormed
end

