-- ==== Sys2Proof/Laws/Reach.lean ====
section
/-!
SUPPORT. Which commands reach neither the Beacon block nor identity and lifecycle: of every such command, that a next state holds both
as they were. The commands without a lemma here reach one of the two.
-/

namespace Sys2Proof.Machine

/-- The Beacon block and identity and lifecycle stand as they were. -/
abbrev Keeps (s t : State) : Prop := t.bcn = s.bcn ∧ t.sec = s.sec

theorem State.done_keeps {s u t : State} (h : s.done u = .next t) : Keeps s t := by
  injection h with h; subst h; exact ⟨rfl, rfl⟩

theorem State.coreDone_keeps {s u t : State} (h : s.coreDone u = .next t) : Keeps s t := by
  unfold State.coreDone at h; injection h with h; subst h; split <;> exact ⟨rfl, rfl⟩

theorem State.clockDone_keeps {s u t : State} (h : s.clockDone u = .next t) : Keeps s t := done_keeps h

theorem State.heatDone_keeps {s u t : State} (h : s.heatDone u = .next t) : Keeps s t := done_keeps h

theorem State.onHost_keeps {s t : State} {f : State → State} (h : s.onHost f = .next t) : Keeps s t := done_keeps h

theorem exec_dispatch_keeps (core : Core) (off : Nat) {s t : State} (h : exec (.dispatch core off) s = .next t) : Keeps s t := by
  change execDispatch core off s = _ at h; delta execDispatch at h; exact State.coreDone_keeps h
theorem exec_nop_keeps (core : Core) (off : Nat) {s t : State} (h : exec (.nop core off) s = .next t) : Keeps s t := by
  change execNop core off s = _ at h; delta execNop at h; exact State.coreDone_keeps h
theorem exec_sync_keeps (core : Core) (off : Nat) {s t : State} (h : exec (.sync core off) s = .next t) : Keeps s t := by
  change execSync core off s = _ at h; delta execSync at h; exact State.coreDone_keeps h
theorem exec_bank_keeps (core : Core) (off : Nat) {s t : State} (h : exec (.bank core off) s = .next t) : Keeps s t := by
  change execBank core off s = _ at h; delta execBank at h; exact State.coreDone_keeps h
theorem exec_unbank_keeps (core : Core) (off : Nat) {s t : State} (h : exec (.unbank core off) s = .next t) : Keeps s t := by
  change execUnbank core off s = _ at h; delta execUnbank at h; exact State.coreDone_keeps h
theorem exec_unitReady_keeps (core : Core) (u : CoreUnit) {s t : State} (h : exec (.unitReady core u) s = .next t) : Keeps s t := by
  change execUnitReady core u s = _ at h; delta execUnitReady at h; exact State.coreDone_keeps h
theorem exec_mmul_keeps (core : Core) (eng : Eng) (off : Nat) {s t : State} (h : exec (.mmul core eng off) s = .next t) : Keeps s t := by
  change execMmul core eng off s = _ at h; delta execMmul at h; exact State.coreDone_keeps h
theorem exec_drain_keeps (core : Core) (eng : Eng) (off : Nat) {s t : State} (h : exec (.drain core eng off) s = .next t) : Keeps s t := by
  change execDrain core eng off s = _ at h; delta execDrain at h; exact State.coreDone_keeps h
theorem exec_rampUp_keeps (core : Core) (eng : Eng) (off : Nat) {s t : State} (h : exec (.rampUp core eng off) s = .next t) : Keeps s t := by
  change execRampUp core eng off s = _ at h; delta execRampUp at h; exact State.coreDone_keeps h
theorem exec_cordPoint_keeps (slot : Slot) (q : QNum) (k : Fin 8) {s t : State} (h : exec (.cordPoint slot q k) s = .next t) : Keeps s t := by
  change execCordPoint slot q k s = _ at h; delta execCordPoint at h; exact State.coreDone_keeps h
theorem exec_vecAdd_keeps (core : Core) (off : Nat) {s t : State} (h : exec (.vecAdd core off) s = .next t) : Keeps s t := by
  change execVecAdd core off s = _ at h; delta execVecAdd at h; exact State.coreDone_keeps h
theorem exec_vecMul_keeps (core : Core) (off : Nat) {s t : State} (h : exec (.vecMul core off) s = .next t) : Keeps s t := by
  change execVecMul core off s = _ at h; delta execVecMul at h; exact State.coreDone_keeps h
theorem exec_vecFma_keeps (core : Core) (off : Nat) {s t : State} (h : exec (.vecFma core off) s = .next t) : Keeps s t := by
  change execVecFma core off s = _ at h; delta execVecFma at h; exact State.coreDone_keeps h
theorem exec_vecMax_keeps (core : Core) (off : Nat) {s t : State} (h : exec (.vecMax core off) s = .next t) : Keeps s t := by
  change execVecMax core off s = _ at h; delta execVecMax at h; exact State.coreDone_keeps h
theorem exec_vecMin_keeps (core : Core) (off : Nat) {s t : State} (h : exec (.vecMin core off) s = .next t) : Keeps s t := by
  change execVecMin core off s = _ at h; delta execVecMin at h; exact State.coreDone_keeps h
theorem exec_vecCvt_keeps (core : Core) (off : Nat) {s t : State} (h : exec (.vecCvt core off) s = .next t) : Keeps s t := by
  change execVecCvt core off s = _ at h; delta execVecCvt at h; exact State.coreDone_keeps h
theorem exec_vecQuant_keeps (core : Core) (off : Nat) {s t : State} (h : exec (.vecQuant core off) s = .next t) : Keeps s t := by
  change execVecQuant core off s = _ at h; delta execVecQuant at h; exact State.coreDone_keeps h
theorem exec_vecDequant_keeps (core : Core) (off : Nat) {s t : State} (h : exec (.vecDequant core off) s = .next t) : Keeps s t := by
  change execVecDequant core off s = _ at h; delta execVecDequant at h; exact State.coreDone_keeps h
theorem exec_vecExp_keeps (core : Core) (off : Nat) {s t : State} (h : exec (.vecExp core off) s = .next t) : Keeps s t := by
  change execVecExp core off s = _ at h; delta execVecExp at h; exact State.coreDone_keeps h
theorem exec_vecRcp_keeps (core : Core) (off : Nat) {s t : State} (h : exec (.vecRcp core off) s = .next t) : Keeps s t := by
  change execVecRcp core off s = _ at h; delta execVecRcp at h; exact State.coreDone_keeps h
theorem exec_vecRsqrt_keeps (core : Core) (off : Nat) {s t : State} (h : exec (.vecRsqrt core off) s = .next t) : Keeps s t := by
  change execVecRsqrt core off s = _ at h; delta execVecRsqrt at h; exact State.coreDone_keeps h
theorem exec_vecAct_keeps (core : Core) (off : Nat) {s t : State} (h : exec (.vecAct core off) s = .next t) : Keeps s t := by
  change execVecAct core off s = _ at h; delta execVecAct at h; exact State.coreDone_keeps h
theorem exec_vecRmax_keeps (core : Core) (off : Nat) {s t : State} (h : exec (.vecRmax core off) s = .next t) : Keeps s t := by
  change execVecRmax core off s = _ at h; delta execVecRmax at h; exact State.coreDone_keeps h
theorem exec_vecRsum_keeps (core : Core) (off : Nat) {s t : State} (h : exec (.vecRsum core off) s = .next t) : Keeps s t := by
  change execVecRsum core off s = _ at h; delta execVecRsum at h; exact State.coreDone_keeps h
theorem exec_vecSoftmax_keeps (core : Core) (off : Nat) {s t : State} (h : exec (.vecSoftmax core off) s = .next t) : Keeps s t := by
  change execVecSoftmax core off s = _ at h; delta execVecSoftmax at h; exact State.coreDone_keeps h
theorem exec_vecRmsnorm_keeps (core : Core) (off : Nat) {s t : State} (h : exec (.vecRmsnorm core off) s = .next t) : Keeps s t := by
  change execVecRmsnorm core off s = _ at h; delta execVecRmsnorm at h; exact State.coreDone_keeps h
theorem exec_vecLayernorm_keeps (core : Core) (off : Nat) {s t : State} (h : exec (.vecLayernorm core off) s = .next t) : Keeps s t := by
  change execVecLayernorm core off s = _ at h; delta execVecLayernorm at h; exact State.coreDone_keeps h
theorem exec_vecRope_keeps (core : Core) (off : Nat) {s t : State} (h : exec (.vecRope core off) s = .next t) : Keeps s t := by
  change execVecRope core off s = _ at h; delta execVecRope at h; exact State.coreDone_keeps h
theorem exec_vecSplit2_keeps (core : Core) (off : Nat) {s t : State} (h : exec (.vecSplit2 core off) s = .next t) : Keeps s t := by
  change execVecSplit2 core off s = _ at h; delta execVecSplit2 at h; exact State.coreDone_keeps h
theorem exec_vecSplit3_keeps (core : Core) (off : Nat) {s t : State} (h : exec (.vecSplit3 core off) s = .next t) : Keeps s t := by
  change execVecSplit3 core off s = _ at h; delta execVecSplit3 at h; exact State.coreDone_keeps h
theorem exec_vecD7slice_keeps (core : Core) (off : Nat) {s t : State} (h : exec (.vecD7slice core off) s = .next t) : Keeps s t := by
  change execVecD7slice core off s = _ at h; delta execVecD7slice at h; exact State.coreDone_keeps h
theorem exec_vecD7finish_keeps (core : Core) (off : Nat) {s t : State} (h : exec (.vecD7finish core off) s = .next t) : Keeps s t := by
  change execVecD7finish core off s = _ at h; delta execVecD7finish at h; exact State.coreDone_keeps h
theorem exec_vecIadd48_keeps (core : Core) (off : Nat) {s t : State} (h : exec (.vecIadd48 core off) s = .next t) : Keeps s t := by
  change execVecIadd48 core off s = _ at h; delta execVecIadd48 at h; exact State.coreDone_keeps h
theorem exec_vecDadd_keeps (core : Core) (off : Nat) {s t : State} (h : exec (.vecDadd core off) s = .next t) : Keeps s t := by
  change execVecDadd core off s = _ at h; delta execVecDadd at h; exact State.coreDone_keeps h
theorem exec_vecDmul_keeps (core : Core) (off : Nat) {s t : State} (h : exec (.vecDmul core off) s = .next t) : Keeps s t := by
  change execVecDmul core off s = _ at h; delta execVecDmul at h; exact State.coreDone_keeps h
theorem exec_vecDfma_keeps (core : Core) (off : Nat) {s t : State} (h : exec (.vecDfma core off) s = .next t) : Keeps s t := by
  change execVecDfma core off s = _ at h; delta execVecDfma at h; exact State.coreDone_keeps h
theorem exec_vecActload_keeps (core : Core) (off : Nat) {s t : State} (h : exec (.vecActload core off) s = .next t) : Keeps s t := by
  change execVecActload core off s = _ at h; delta execVecActload at h; exact State.coreDone_keeps h
theorem exec_strCopy_keeps (core : Core) (ch : Fin 8) (off : Nat) {s t : State} (h : exec (.strCopy core ch off) s = .next t) : Keeps s t := by
  change execStrCopy core ch off s = _ at h; delta execStrCopy at h; exact State.clockDone_keeps h
theorem exec_strGather_keeps (core : Core) (ch : Fin 8) (off : Nat) {s t : State} (h : exec (.strGather core ch off) s = .next t) : Keeps s t := by
  change execStrGather core ch off s = _ at h; delta execStrGather at h; exact State.clockDone_keeps h
theorem exec_strXsend_keeps (core : Core) (ch : Fin 8) (off : Nat) {s t : State} (h : exec (.strXsend core ch off) s = .next t) : Keeps s t := by
  change execStrXsend core ch off s = _ at h; delta execStrXsend at h; exact State.clockDone_keeps h
theorem exec_requestComplete_keeps (core : Core) (n : Nat) (st : ReqStatus) {s t : State} (h : exec (.requestComplete core n st) s = .next t) : Keeps s t := by
  change execRequestComplete core n st s = _ at h; delta execRequestComplete at h; exact State.clockDone_keeps h
theorem exec_memoryTimeout_keeps (core : Core) (r : TimedReq) {s t : State} (h : exec (.memoryTimeout core r) s = .next t) : Keeps s t := by
  change execMemoryTimeout core r s = _ at h; delta execMemoryTimeout at h; exact State.clockDone_keeps h
theorem exec_chkBegin_keeps (core : Core) (off : Nat) {s t : State} (h : exec (.chkBegin core off) s = .next t) : Keeps s t := by
  change execChkBegin core off s = _ at h; delta execChkBegin at h; exact State.coreDone_keeps h
theorem exec_chkFeed_keeps (core : Core) (off : Nat) {s t : State} (h : exec (.chkFeed core off) s = .next t) : Keeps s t := by
  change execChkFeed core off s = _ at h; delta execChkFeed at h; exact State.coreDone_keeps h
theorem exec_chkEnd_keeps (core : Core) (off : Nat) {s t : State} (h : exec (.chkEnd core off) s = .next t) : Keeps s t := by
  change execChkEnd core off s = _ at h; delta execChkEnd at h; exact State.coreDone_keeps h
theorem exec_chkCmp_keeps (core : Core) (off : Nat) {s t : State} (h : exec (.chkCmp core off) s = .next t) : Keeps s t := by
  change execChkCmp core off s = _ at h; delta execChkCmp at h; exact State.coreDone_keeps h
theorem exec_sramScrub_keeps (die : Die) (p : Fin 17) {s t : State} (h : exec (.sramScrub die p) s = .next t) : Keeps s t := by
  change execSramScrub die p s = _ at h; delta execSramScrub at h; exact State.clockDone_keeps h
theorem exec_cordTake_keeps (core : Core) (off : Nat) {s t : State} (h : exec (.cordTake core off) s = .next t) : Keeps s t := by
  change execCordTake core off s = _ at h; delta execCordTake at h; exact State.coreDone_keeps h
theorem exec_inRead_keeps (core : Core) (off : Nat) {s t : State} (h : exec (.inRead core off) s = .next t) : Keeps s t := by
  change execInRead core off s = _ at h; delta execInRead at h; exact State.coreDone_keeps h
theorem exec_outWrite_keeps (core : Core) (off : Nat) {s t : State} (h : exec (.outWrite core off) s = .next t) : Keeps s t := by
  change execOutWrite core off s = _ at h; delta execOutWrite at h; exact State.coreDone_keeps h
theorem exec_attn_keeps (core : Core) (off : Nat) {s t : State} (h : exec (.attn core off) s = .next t) : Keeps s t := by
  change execAttn core off s = _ at h; delta execAttn at h; exact State.coreDone_keeps h
theorem exec_append_keeps (core : Core) (off : Nat) {s t : State} (h : exec (.append core off) s = .next t) : Keeps s t := by
  change execAppend core off s = _ at h; delta execAppend at h; exact State.coreDone_keeps h
theorem exec_merge_keeps (core : Core) (off : Nat) {s t : State} (h : exec (.merge core off) s = .next t) : Keeps s t := by
  change execMerge core off s = _ at h; delta execMerge at h; exact State.coreDone_keeps h
theorem exec_scores_keeps (core : Core) (off : Nat) {s t : State} (h : exec (.scores core off) s = .next t) : Keeps s t := by
  change execScores core off s = _ at h; delta execScores at h; exact State.coreDone_keeps h
theorem exec_commitApply_keeps (core : Core) {s t : State} (h : exec (.commitApply core) s = .next t) : Keeps s t := by
  change execCommitApply core s = _ at h; delta execCommitApply at h; exact State.clockDone_keeps h
theorem exec_frameRelease_keeps (core : Core) {s t : State} (h : exec (.frameRelease core) s = .next t) : Keeps s t := by
  change execFrameRelease core s = _ at h; delta execFrameRelease at h; exact State.coreDone_keeps h
theorem exec_loadComplete_keeps (slot : Slot) {s t : State} (h : exec (.loadComplete slot) s = .next t) : Keeps s t := by
  change execLoadComplete slot s = _ at h; delta execLoadComplete at h; exact State.done_keeps h
theorem exec_mapRecordChange_keeps  {s t : State} (h : exec (.mapRecordChange ) s = .next t) : Keeps s t := by
  change execMapRecordChange  s = _ at h; delta execMapRecordChange at h; exact State.done_keeps h
theorem exec_fetchCopyComplete_keeps (slot : Slot) (q : QNum) {s t : State} (h : exec (.fetchCopyComplete slot q) s = .next t) : Keeps s t := by
  change execFetchCopyComplete slot q s = _ at h; delta execFetchCopyComplete at h; exact State.done_keeps h
theorem exec_hostQdb_keeps (slot : Slot) (q : QNum) (v : BitVec 64) {s t : State} (h : exec (.hostQdb slot q v) s = .next t) : Keeps s t := by
  change execHostQdb slot q v s = _ at h; delta execHostQdb at h; exact State.done_keeps h
theorem exec_kprQTail_keeps (slot : Slot) (q : QNum) (v : BitVec 64) {s t : State} (h : exec (.kprQTail slot q v) s = .next t) : Keeps s t := by
  change execKprQTail slot q v s = _ at h; delta execKprQTail at h; exact State.done_keeps h
theorem exec_turfRefresh_keeps (die : Die) (blocked : BitVec 17) {s t : State} (h : exec (.turfRefresh die blocked) s = .next t) : Keeps s t := by
  change execTurfRefresh die blocked s = _ at h; delta execTurfRefresh at h; exact State.done_keeps h
theorem exec_hbmRefresh_keeps (stk : Stk) (bank : Fin 1024) (blocked : Bool) (late : Option (Fin 41)) {s t : State} (h : exec (.hbmRefresh stk bank blocked late) s = .next t) : Keeps s t := by
  change execHbmRefresh stk bank blocked late s = _ at h; delta execHbmRefresh at h; exact State.done_keeps h
theorem exec_bandChange_keeps (die : Die) (upper : Bool) {s t : State} (h : exec (.bandChange die upper) s = .next t) : Keeps s t := by
  change execBandChange die upper s = _ at h; delta execBandChange at h; exact State.heatDone_keeps h
theorem exec_turfScrub_keeps (die : Die) (secs : BitVec 32) {s t : State} (h : exec (.turfScrub die secs) s = .next t) : Keeps s t := by
  change execTurfScrub die secs s = _ at h; delta execTurfScrub at h; exact State.clockDone_keeps h
theorem exec_hbmScrub_keeps (stk : Stk) (secs : BitVec 32) {s t : State} (h : exec (.hbmScrub stk secs) s = .next t) : Keeps s t := by
  change execHbmScrub stk secs s = _ at h; delta execHbmScrub at h; exact State.clockDone_keeps h
theorem exec_accessTimeout_keeps (a : HostAcc) {s t : State} (h : exec (.accessTimeout a) s = .next t) : Keeps s t := by
  change execAccessTimeout a s = _ at h; delta execAccessTimeout at h; exact State.done_keeps h
theorem exec_stageComplete_keeps  {s t : State} (h : exec (.stageComplete ) s = .next t) : Keeps s t := by
  change execStageComplete  s = _ at h; delta execStageComplete at h; exact State.done_keeps h
theorem exec_nbuAdd_keeps (g : BitVec 13) {s t : State} (h : exec (.nbuAdd g) s = .next t) : Keeps s t := by
  change execNbuAdd g s = _ at h; delta execNbuAdd at h; exact State.done_keeps h
theorem exec_nbuMul_keeps (g : BitVec 13) {s t : State} (h : exec (.nbuMul g) s = .next t) : Keeps s t := by
  change execNbuMul g s = _ at h; delta execNbuMul at h; exact State.done_keeps h
theorem exec_nbuFma_keeps (g : BitVec 13) {s t : State} (h : exec (.nbuFma g) s = .next t) : Keeps s t := by
  change execNbuFma g s = _ at h; delta execNbuFma at h; exact State.done_keeps h
theorem exec_nbuAct_keeps (g : BitVec 13) {s t : State} (h : exec (.nbuAct g) s = .next t) : Keeps s t := by
  change execNbuAct g s = _ at h; delta execNbuAct at h; exact State.done_keeps h
theorem exec_nbuCommandComplete_keeps (io : NbIod) {s t : State} (h : exec (.nbuCommandComplete io) s = .next t) : Keeps s t := by
  change execNbuCommandComplete io s = _ at h; delta execNbuCommandComplete at h; exact State.done_keeps h
theorem exec_fenceComplete_keeps (io : NbIod) {s t : State} (h : exec (.fenceComplete io) s = .next t) : Keeps s t := by
  change execFenceComplete io s = _ at h; delta execFenceComplete at h; exact State.done_keeps h
theorem exec_regionWipeComplete_keeps (io : NbIod) {s t : State} (h : exec (.regionWipeComplete io) s = .next t) : Keeps s t := by
  change execRegionWipeComplete io s = _ at h; delta execRegionWipeComplete at h; exact State.done_keeps h
theorem exec_d2dFlit_keeps (port : D2dPort) (data : List Byte) (ctl : BitVec 16) (crc : BitVec 16) (sent : List (List Byte)) (win : BitVec 16) {s t : State} (h : exec (.d2dFlit port data ctl crc sent win) s = .next t) : Keeps s t := by
  change execD2dFlit port data ctl crc sent win s = _ at h; delta execD2dFlit at h; exact State.done_keeps h
theorem exec_d2dNak_keeps (port : D2dPort) (sq : BitVec 12) (win : BitVec 16) {s t : State} (h : exec (.d2dNak port sq win) s = .next t) : Keeps s t := by
  change execD2dNak port sq win s = _ at h; delta execD2dNak at h; exact State.done_keeps h
theorem exec_portDegraded_keeps (port : D2dPort) {s t : State} (h : exec (.portDegraded port) s = .next t) : Keeps s t := by
  change execPortDegraded port s = _ at h; delta execPortDegraded at h; exact State.done_keeps h
theorem exec_d2dTrainingDone_keeps (port : D2dPort) (bad : List Nat) {s t : State} (h : exec (.d2dTrainingDone port bad) s = .next t) : Keeps s t := by
  change execD2dTrainingDone port bad s = _ at h; delta execD2dTrainingDone at h; exact State.done_keeps h
theorem exec_d2dTrainingTimeout_keeps (port : D2dPort) {s t : State} (h : exec (.d2dTrainingTimeout port) s = .next t) : Keeps s t := by
  change execD2dTrainingTimeout port s = _ at h; delta execD2dTrainingTimeout at h; exact State.done_keeps h
theorem exec_idlePort_keeps (port : D2dPort) {s t : State} (h : exec (.idlePort port) s = .next t) : Keeps s t := by
  change execIdlePort port s = _ at h; delta execIdlePort at h; exact State.done_keeps h
theorem exec_partnerSignalPresent_keeps (cl : ClPort) {s t : State} (h : exec (.partnerSignalPresent cl) s = .next t) : Keeps s t := by
  change execPartnerSignalPresent cl s = _ at h; delta execPartnerSignalPresent at h; exact State.done_keeps h
theorem exec_chipLinkTrained_keeps (cl : ClPort) (raw : BitVec 16) (peerLocked : Bool) (eye : Fin 101) {s t : State} (h : exec (.chipLinkTrained cl raw peerLocked eye) s = .next t) : Keeps s t := by
  change execChipLinkTrained cl raw peerLocked eye s = _ at h; delta execChipLinkTrained at h; exact State.done_keeps h
theorem exec_chipLinkTrainingTimeout_keeps (cl : ClPort) {s t : State} (h : exec (.chipLinkTrainingTimeout cl) s = .next t) : Keeps s t := by
  change execChipLinkTrainingTimeout cl s = _ at h; delta execChipLinkTrainingTimeout at h; exact State.done_keeps h
theorem exec_paddingConfirmed_keeps (cl : ClPort) (peer : BitVec 64) (peerPort : Fin 24) {s t : State} (h : exec (.paddingConfirmed cl peer peerPort) s = .next t) : Keeps s t := by
  change execPaddingConfirmed cl peer peerPort s = _ at h; delta execPaddingConfirmed at h; exact State.done_keeps h
theorem exec_clFlit_keeps (cl : ClPort) (data : List Byte) (trailer : BitVec 64) (corr : Nat) (uncorr : Nat) (pkt : Option ClPkt) {s t : State} (h : exec (.clFlit cl data trailer corr uncorr pkt) s = .next t) : Keeps s t := by
  change execClFlit cl data trailer corr uncorr pkt s = _ at h; delta execClFlit at h; exact State.done_keeps h
theorem exec_clNak_keeps (cl : ClPort) (sq : BitVec 12) {s t : State} (h : exec (.clNak cl sq) s = .next t) : Keeps s t := by
  change execClNak cl sq s = _ at h; delta execClNak at h; exact State.done_keeps h
theorem exec_remoteAck_keeps (core : Core) (n : Nat) (st : ReqStatus) {s t : State} (h : exec (.remoteAck core n st) s = .next t) : Keeps s t := by
  change execRemoteAck core n st s = _ at h; delta execRemoteAck at h; exact State.clockDone_keeps h
theorem exec_partnerSignalLost_keeps (cl : ClPort) {s t : State} (h : exec (.partnerSignalLost cl) s = .next t) : Keeps s t := by
  change execPartnerSignalLost cl s = _ at h; delta execPartnerSignalLost at h; exact State.done_keeps h
theorem exec_logDelivery_keeps  {s t : State} (h : exec (.logDelivery ) s = .next t) : Keeps s t := by
  change execLogDelivery  s = _ at h; delta execLogDelivery at h; exact State.done_keeps h
theorem exec_heartbeat_keeps  {s t : State} (h : exec (.heartbeat ) s = .next t) : Keeps s t := by
  change execHeartbeat  s = _ at h; delta execHeartbeat at h; exact State.done_keeps h
theorem exec_infoVersion_keeps (m : Mbox) {s t : State} (h : exec (.infoVersion m) s = .next t) : Keeps s t := by
  change execInfoVersion m s = _ at h; delta execInfoVersion at h; exact State.done_keeps h
theorem exec_infoDevice_keeps (m : Mbox) {s t : State} (h : exec (.infoDevice m) s = .next t) : Keeps s t := by
  change execInfoDevice m s = _ at h; delta execInfoDevice at h; exact State.done_keeps h
theorem exec_infoMap_keeps (m : Mbox) {s t : State} (h : exec (.infoMap m) s = .next t) : Keeps s t := by
  change execInfoMap m s = _ at h; delta execInfoMap at h; exact State.done_keeps h
theorem exec_schedLoad_keeps (m : Mbox) {s t : State} (h : exec (.schedLoad m) s = .next t) : Keeps s t := by
  change execSchedLoad m s = _ at h; delta execSchedLoad at h; exact State.done_keeps h
theorem exec_schedUnload_keeps (m : Mbox) {s t : State} (h : exec (.schedUnload m) s = .next t) : Keeps s t := by
  change execSchedUnload m s = _ at h; delta execSchedUnload at h; exact State.done_keeps h
theorem exec_schedInfo_keeps (m : Mbox) {s t : State} (h : exec (.schedInfo m) s = .next t) : Keeps s t := by
  change execSchedInfo m s = _ at h; delta execSchedInfo at h; exact State.done_keeps h
theorem exec_runStart_keeps (m : Mbox) {s t : State} (h : exec (.runStart m) s = .next t) : Keeps s t := by
  change execRunStart m s = _ at h; delta execRunStart at h; exact State.done_keeps h
theorem exec_runStop_keeps (m : Mbox) {s t : State} (h : exec (.runStop m) s = .next t) : Keeps s t := by
  change execRunStop m s = _ at h; delta execRunStop at h; exact State.done_keeps h
theorem exec_queueBind_keeps (m : Mbox) {s t : State} (h : exec (.queueBind m) s = .next t) : Keeps s t := by
  change execQueueBind m s = _ at h; delta execQueueBind at h; exact State.done_keeps h
theorem exec_queueUnbind_keeps (m : Mbox) {s t : State} (h : exec (.queueUnbind m) s = .next t) : Keeps s t := by
  change execQueueUnbind m s = _ at h; delta execQueueUnbind at h; exact State.done_keeps h
theorem exec_coreTrapClear_keeps (m : Mbox) {s t : State} (h : exec (.coreTrapClear m) s = .next t) : Keeps s t := by
  change execCoreTrapClear m s = _ at h; delta execCoreTrapClear at h; exact State.done_keeps h
theorem exec_pageCommit_keeps (m : Mbox) {s t : State} (h : exec (.pageCommit m) s = .next t) : Keeps s t := by
  change execPageCommit m s = _ at h; delta execPageCommit at h; exact State.done_keeps h
theorem exec_pageRead_keeps (m : Mbox) {s t : State} (h : exec (.pageRead m) s = .next t) : Keeps s t := by
  change execPageRead m s = _ at h; delta execPageRead at h; exact State.done_keeps h
theorem exec_memStage_keeps (m : Mbox) {s t : State} (h : exec (.memStage m) s = .next t) : Keeps s t := by
  change execMemStage m s = _ at h; delta execMemStage at h; exact State.done_keeps h
theorem exec_memAtomic_keeps (m : Mbox) {s t : State} (h : exec (.memAtomic m) s = .next t) : Keeps s t := by
  change execMemAtomic m s = _ at h; delta execMemAtomic at h; exact State.done_keeps h
theorem exec_regGrant_keeps (m : Mbox) {s t : State} (h : exec (.regGrant m) s = .next t) : Keeps s t := by
  change execRegGrant m s = _ at h; delta execRegGrant at h; exact State.done_keeps h
theorem exec_nbuRun_keeps (m : Mbox) {s t : State} (h : exec (.nbuRun m) s = .next t) : Keeps s t := by
  change execNbuRun m s = _ at h; delta execNbuRun at h; exact State.done_keeps h
theorem exec_nbuRawRun_keeps (m : Mbox) {s t : State} (h : exec (.nbuRawRun m) s = .next t) : Keeps s t := by
  change execNbuRawRun m s = _ at h; delta execNbuRawRun at h; exact State.done_keeps h
theorem exec_nbuFence_keeps (m : Mbox) {s t : State} (h : exec (.nbuFence m) s = .next t) : Keeps s t := by
  change execNbuFence m s = _ at h; delta execNbuFence at h; exact State.done_keeps h
theorem exec_nbuRegion_keeps (m : Mbox) {s t : State} (h : exec (.nbuRegion m) s = .next t) : Keeps s t := by
  change execNbuRegion m s = _ at h; delta execNbuRegion at h; exact State.done_keeps h
theorem exec_thmRead_keeps (m : Mbox) {s t : State} (h : exec (.thmRead m) s = .next t) : Keeps s t := by
  change execThmRead m s = _ at h; delta execThmRead at h; exact State.done_keeps h
theorem exec_thmCoolMin_keeps (m : Mbox) {s t : State} (h : exec (.thmCoolMin m) s = .next t) : Keeps s t := by
  change execThmCoolMin m s = _ at h; delta execThmCoolMin at h; exact State.heatDone_keeps h
theorem exec_lnkTarget_keeps (m : Mbox) {s t : State} (h : exec (.lnkTarget m) s = .next t) : Keeps s t := by
  change execLnkTarget m s = _ at h; delta execLnkTarget at h; exact State.done_keeps h
theorem exec_lnkRetrain_keeps (m : Mbox) {s t : State} (h : exec (.lnkRetrain m) s = .next t) : Keeps s t := by
  change execLnkRetrain m s = _ at h; delta execLnkRetrain at h; exact State.done_keeps h
theorem exec_ageRead_keeps (m : Mbox) {s t : State} (h : exec (.ageRead m) s = .next t) : Keeps s t := by
  change execAgeRead m s = _ at h; delta execAgeRead at h; exact State.done_keeps h
theorem exec_ageMeasure_keeps (m : Mbox) {s t : State} (h : exec (.ageMeasure m) s = .next t) : Keeps s t := by
  change execAgeMeasure m s = _ at h; delta execAgeMeasure at h; exact State.done_keeps h
theorem exec_secAttest_keeps (m : Mbox) {s t : State} (h : exec (.secAttest m) s = .next t) : Keeps s t := by
  change execSecAttest m s = _ at h; delta execSecAttest at h; exact State.done_keeps h
theorem exec_secCert_keeps (m : Mbox) {s t : State} (h : exec (.secCert m) s = .next t) : Keeps s t := by
  change execSecCert m s = _ at h; delta execSecCert at h; exact State.done_keeps h
theorem exec_logBind_keeps (m : Mbox) {s t : State} (h : exec (.logBind m) s = .next t) : Keeps s t := by
  change execLogBind m s = _ at h; delta execLogBind at h; exact State.done_keeps h
theorem exec_logEccRead_keeps (m : Mbox) {s t : State} (h : exec (.logEccRead m) s = .next t) : Keeps s t := by
  change execLogEccRead m s = _ at h; delta execLogEccRead at h; exact State.done_keeps h
theorem exec_logEccClear_keeps (m : Mbox) {s t : State} (h : exec (.logEccClear m) s = .next t) : Keeps s t := by
  change execLogEccClear m s = _ at h; delta execLogEccClear at h; exact State.done_keeps h
theorem exec_engEn_keeps (core : Core) (eng : Eng) {s t : State} (h : exec (.engEn core eng) s = .next t) : Keeps s t := by
  change execEngEn core eng s = _ at h; delta execEngEn at h; exact State.coreDone_keeps h
theorem exec_engBankEn_keeps (core : Core) (eng : Eng) (v : Bool) {s t : State} (h : exec (.engBankEn core eng v) s = .next t) : Keeps s t := by
  change execEngBankEn core eng v s = _ at h; delta execEngBankEn at h; exact State.coreDone_keeps h
theorem exec_engCntClr_keeps (core : Core) (eng : Eng) {s t : State} (h : exec (.engCntClr core eng) s = .next t) : Keeps s t := by
  change execEngCntClr core eng s = _ at h; delta execEngCntClr at h; exact State.coreDone_keeps h
theorem exec_walkEn_keeps (core : Core) {s t : State} (h : exec (.walkEn core) s = .next t) : Keeps s t := by
  change execWalkEn core s = _ at h; delta execWalkEn at h; exact State.coreDone_keeps h
theorem exec_pgwBankEn_keeps (core : Core) (v : Bool) {s t : State} (h : exec (.pgwBankEn core v) s = .next t) : Keeps s t := by
  change execPgwBankEn core v s = _ at h; delta execPgwBankEn at h; exact State.coreDone_keeps h
theorem exec_pgwCntClr_keeps (core : Core) {s t : State} (h : exec (.pgwCntClr core) s = .next t) : Keeps s t := by
  change execPgwCntClr core s = _ at h; delta execPgwCntClr at h; exact State.coreDone_keeps h
theorem exec_coreEn_keeps (core : Core) {s t : State} (h : exec (.coreEn core) s = .next t) : Keeps s t := by
  change execCoreEn core s = _ at h; delta execCoreEn at h; exact State.coreDone_keeps h
theorem exec_trapClr_keeps (core : Core) {s t : State} (h : exec (.trapClr core) s = .next t) : Keeps s t := by
  change execTrapClr core s = _ at h; delta execTrapClr at h; exact State.coreDone_keeps h
theorem exec_perstRise_keeps  {s t : State} (h : exec (.perstRise ) s = .next t) : Keeps s t := by
  change execPerstRise  s = _ at h; delta execPerstRise at h; exact State.done_keeps h
theorem exec_sensorSample_keeps (x : Sensor) (temp : Int) (us : Nat) {s t : State} (h : exec (.sensorSample x temp us) s = .next t) : Keeps s t := by
  change execSensorSample x temp us s = _ at h; delta execSensorSample at h; exact State.heatDone_keeps h
theorem exec_suspectClear_keeps (x : Sensor) {s t : State} (h : exec (.suspectClear x) s = .next t) : Keeps s t := by
  change execSuspectClear x s = _ at h; delta execSuspectClear at h; exact State.heatDone_keeps h
theorem exec_tripRecord_keeps  {s t : State} (h : exec (.tripRecord ) s = .next t) : Keeps s t := by
  change execTripRecord  s = _ at h; delta execTripRecord at h; exact State.done_keeps h
theorem exec_damperWindow_keeps  {s t : State} (h : exec (.damperWindow ) s = .next t) : Keeps s t := by
  change execDamperWindow  s = _ at h; delta execDamperWindow at h; exact State.heatDone_keeps h
theorem exec_damperRelease_keeps (die : Die) {s t : State} (h : exec (.damperRelease die) s = .next t) : Keeps s t := by
  change execDamperRelease die s = _ at h; delta execDamperRelease at h; exact State.heatDone_keeps h
theorem exec_heatForecast_keeps (die : Die) (power : BitVec 16) {s t : State} (h : exec (.heatForecast die power) s = .next t) : Keeps s t := by
  change execHeatForecast die power s = _ at h; delta execHeatForecast at h; exact State.heatDone_keeps h
theorem exec_flowEstimate_keeps (w : BitVec 16) {s t : State} (h : exec (.flowEstimate w) s = .next t) : Keeps s t := by
  change execFlowEstimate w s = _ at h; delta execFlowEstimate at h; exact State.heatDone_keeps h
theorem exec_coolantStateChange_keeps  {s t : State} (h : exec (.coolantStateChange ) s = .next t) : Keeps s t := by
  change execCoolantStateChange  s = _ at h; delta execCoolantStateChange at h; exact State.heatDone_keeps h
theorem exec_idleBank_keeps (core : Core) {s t : State} (h : exec (.idleBank core) s = .next t) : Keeps s t := by
  change execIdleBank core s = _ at h; delta execIdleBank at h; exact State.coreDone_keeps h
theorem exec_idleMeasurement_keeps  {s t : State} (h : exec (.idleMeasurement ) s = .next t) : Keeps s t := by
  change execIdleMeasurement  s = _ at h; delta execIdleMeasurement at h; exact State.done_keeps h
theorem exec_replicaRead_keeps (die : Die) (p : Fin 17) (ps : BitVec 16) (below : Bool) {s t : State} (h : exec (.replicaRead die p ps below) s = .next t) : Keeps s t := by
  change execReplicaRead die p ps below s = _ at h; delta execReplicaRead at h; exact State.heatDone_keeps h
theorem exec_lifetimeUpdate_keeps (x : LifeTick) {s t : State} (h : exec (.lifetimeUpdate x) s = .next t) : Keeps s t := by
  change execLifetimeUpdate x s = _ at h; delta execLifetimeUpdate at h; exact State.done_keeps h
theorem exec_debugRead_keeps (addr : BitVec 48) {s t : State} (h : exec (.debugRead addr) s = .next t) : Keeps s t := by
  change execDebugRead addr s = _ at h; delta execDebugRead at h; exact State.done_keeps h
theorem exec_smbusBlockRead_keeps (code : BitVec 8) {s t : State} (h : exec (.smbusBlockRead code) s = .next t) : Keeps s t := by
  change execSmbusBlockRead code s = _ at h; delta execSmbusBlockRead at h; exact State.done_keeps h
theorem exec_alertResponse_keeps  {s t : State} (h : exec (.alertResponse ) s = .next t) : Keeps s t := by
  change execAlertResponse  s = _ at h; delta execAlertResponse at h; exact State.done_keeps h
theorem exec_hostLinkReachesL0_keeps  {s t : State} (h : exec (.hostLinkReachesL0 ) s = .next t) : Keeps s t := by
  change execHostLinkReachesL0  s = _ at h; delta execHostLinkReachesL0 at h; exact State.done_keeps h
theorem exec_hostLinkLeavesL0_keeps  {s t : State} (h : exec (.hostLinkLeavesL0 ) s = .next t) : Keeps s t := by
  change execHostLinkLeavesL0  s = _ at h; delta execHostLinkLeavesL0 at h; exact State.done_keeps h
theorem exec_busMasterEnableChange_keeps (v : Bool) (d3 : Bool) {s t : State} (h : exec (.busMasterEnableChange v d3) s = .next t) : Keeps s t := by
  change execBusMasterEnableChange v d3 s = _ at h; delta execBusMasterEnableChange at h; exact State.onHost_keeps h
theorem exec_pushToHostRingComplete_keeps (slot : Slot) (q : QNum) {s t : State} (h : exec (.pushToHostRingComplete slot q) s = .next t) : Keeps s t := by
  change execPushToHostRingComplete slot q s = _ at h; delta execPushToHostRingComplete at h; exact State.done_keeps h
theorem exec_keeperNotRunningAlert_keeps  {s t : State} (h : exec (.keeperNotRunningAlert ) s = .next t) : Keeps s t := by
  change execKeeperNotRunningAlert  s = _ at h; delta execKeeperNotRunningAlert at h; exact State.heatDone_keeps h
theorem exec_boundaryScan_keeps (x : BScan) {s t : State} (h : exec (.boundaryScan x) s = .next t) : Keeps s t := by
  change execBoundaryScan x s = _ at h; delta execBoundaryScan at h; exact State.done_keeps h

end Sys2Proof.Machine
end

