-- ==== Sys2Proof/Laws/Tbl.lean ====
section
/-!
SUPPORT. Sparse tables: what a table gives after a value was set, erased or dropped.
-/

namespace Sys2Proof.Machine

variable {α : Type}

theorem Tbl.find?_set_same (k : Nat) (v : α) : ∀ t : Tbl α, (t.set k v).find? k = some v
  | [] => by simp [Tbl.set, Tbl.find?]
  | (j, w) :: t => by
    simp only [Tbl.set]
    split
    · simp [Tbl.find?]
    · split
      · simp [Tbl.find?]
      · rename_i h _
        simp [Tbl.find?, h, Tbl.find?_set_same k v t]

theorem Tbl.find?_set_ne {k j : Nat} (v : α) (h : j ≠ k) : ∀ t : Tbl α, (t.set k v).find? j = t.find? j
  | [] => by simp [Tbl.set, Tbl.find?, h.symm]
  | (i, w) :: t => by
    simp only [Tbl.set]
    split
    · rename_i e
      subst e
      simp [Tbl.find?, h.symm]
    · split
      · simp [Tbl.find?, h.symm]
      · simp [Tbl.find?, Tbl.find?_set_ne v h t]

/-- A value set is the value got. -/
@[simp] theorem Tbl.get_set_same (d : α) (k : Nat) (v : α) (t : Tbl α) : (t.set k v).get d k = v := by
  simp [Tbl.get, Tbl.find?_set_same]

/-- A value set leaves the values of other keys. -/
theorem Tbl.get_set_ne (d : α) {k j : Nat} (v : α) (t : Tbl α) (h : j ≠ k) : (t.set k v).get d j = t.get d j := by
  simp [Tbl.get, Tbl.find?_set_ne v h]

theorem Tbl.find?_filter (p : Nat → Bool) (k : Nat) :
    ∀ t : Tbl α, Tbl.find? k (t.filter fun e => p e.1) = if p k then t.find? k else none
  | [] => by simp [Tbl.find?]
  | (j, w) :: t => by
    by_cases hj : p j = true <;> by_cases e : j = k
    · subst e; simp [Tbl.find?, hj]
    · simp [Tbl.find?, hj, e, Tbl.find?_filter p k t]
    · subst e; simp [hj, Tbl.find?_filter p j t]
    · simp [Tbl.find?, hj, e, Tbl.find?_filter p k t]

/-- A table with keys dropped gives the default for those and what it gave for the others. -/
theorem Tbl.get_drop (d : α) (p : Nat → Bool) (k : Nat) (t : Tbl α) : (t.drop p).get d k = if p k then d else t.get d k := by
  simp only [Tbl.get, Tbl.drop, Tbl.find?_filter fun k => !p k]
  cases p k <;> simp

end Sys2Proof.Machine
end

