-- ==== Sys2Proof/Laws/State.lean ====
section
/-!
SUPPORT. What each elementary change of the state leaves alone, field by field, and what it leaves to be read back.
-/

namespace Sys2Proof.Machine
namespace State

variable (s : State)

@[simp] theorem setCore_pending (c off : Nat) (v : Word) : (s.setCore c off v).pending = s.pending := rfl
@[simp] theorem setCore_free (c off : Nat) (v : Word) : (s.setCore c off v).free = s.free := rfl
@[simp] theorem setCore_out (c off : Nat) (v : Word) : (s.setCore c off v).out = s.out := rfl
@[simp] theorem setCore_powered (c off : Nat) (v : Word) : (s.setCore c off v).powered = s.powered := rfl
@[simp] theorem setCore_lateKeeper (c off : Nat) (v : Word) : (s.setCore c off v).lateKeeper = s.lateKeeper := rfl
@[simp] theorem setCore_straps (c off : Nat) (v : Word) : (s.setCore c off v).straps = s.straps := rfl
@[simp] theorem setCore_iodC (c off : Nat) (v : Word) : (s.setCore c off v).iodC = s.iodC := rfl
@[simp] theorem setCore_rom (c off : Nat) (v : Word) : (s.setCore c off v).rom = s.rom := rfl
@[simp] theorem setCore_bcn (c off : Nat) (v : Word) : (s.setCore c off v).bcn = s.bcn := rfl
@[simp] theorem setCore_dieR (c off : Nat) (v : Word) : (s.setCore c off v).dieR = s.dieR := rfl
@[simp] theorem setCore_iodR (c off : Nat) (v : Word) : (s.setCore c off v).iodR = s.iodR := rfl
@[simp] theorem setCore_cx (c off : Nat) (v : Word) : (s.setCore c off v).cx = s.cx := rfl
@[simp] theorem setCore_acb (c off : Nat) (v : Word) : (s.setCore c off v).acb = s.acb := rfl
@[simp] theorem setCore_stat (c off : Nat) (v : Word) : (s.setCore c off v).stat = s.stat := rfl
@[simp] theorem setCore_slots (c off : Nat) (v : Word) : (s.setCore c off v).slots = s.slots := rfl
@[simp] theorem setCore_mem (c off : Nat) (v : Word) : (s.setCore c off v).mem = s.mem := rfl
@[simp] theorem setCore_syn (c off : Nat) (v : Word) : (s.setCore c off v).syn = s.syn := rfl
@[simp] theorem setCore_poison (c off : Nat) (v : Word) : (s.setCore c off v).poison = s.poison := rfl
@[simp] theorem setCore_cache (c off : Nat) (v : Word) : (s.setCore c off v).cache = s.cache := rfl
@[simp] theorem setCore_sramScrub (c off : Nat) (v : Word) : (s.setCore c off v).sramScrub = s.sramScrub := rfl
@[simp] theorem setCore_hostMem (c off : Nat) (v : Word) : (s.setCore c off v).hostMem = s.hostMem := rfl
@[simp] theorem setCore_host (c off : Nat) (v : Word) : (s.setCore c off v).host = s.host := rfl
@[simp] theorem setCore_kpr (c off : Nat) (v : Word) : (s.setCore c off v).kpr = s.kpr := rfl
@[simp] theorem setCore_map (c off : Nat) (v : Word) : (s.setCore c off v).map = s.map := rfl
@[simp] theorem setCore_nbu (c off : Nat) (v : Word) : (s.setCore c off v).nbu = s.nbu := rfl
@[simp] theorem setCore_d2d (c off : Nat) (v : Word) : (s.setCore c off v).d2d = s.d2d := rfl
@[simp] theorem setCore_cl (c off : Nat) (v : Word) : (s.setCore c off v).cl = s.cl := rfl
@[simp] theorem setCore_thm (c off : Nat) (v : Word) : (s.setCore c off v).thm = s.thm := rfl
@[simp] theorem setCore_sec (c off : Nat) (v : Word) : (s.setCore c off v).sec = s.sec := rfl
@[simp] theorem setCore_pins (c off : Nat) (v : Word) : (s.setCore c off v).pins = s.pins := rfl

@[simp] theorem updCore_pending (c off : Nat) (f : Word → Word) : (s.updCore c off f).pending = s.pending := rfl
@[simp] theorem updCore_free (c off : Nat) (f : Word → Word) : (s.updCore c off f).free = s.free := rfl
@[simp] theorem updCore_out (c off : Nat) (f : Word → Word) : (s.updCore c off f).out = s.out := rfl
@[simp] theorem updCore_powered (c off : Nat) (f : Word → Word) : (s.updCore c off f).powered = s.powered := rfl
@[simp] theorem updCore_lateKeeper (c off : Nat) (f : Word → Word) : (s.updCore c off f).lateKeeper = s.lateKeeper := rfl
@[simp] theorem updCore_straps (c off : Nat) (f : Word → Word) : (s.updCore c off f).straps = s.straps := rfl
@[simp] theorem updCore_iodC (c off : Nat) (f : Word → Word) : (s.updCore c off f).iodC = s.iodC := rfl
@[simp] theorem updCore_rom (c off : Nat) (f : Word → Word) : (s.updCore c off f).rom = s.rom := rfl
@[simp] theorem updCore_bcn (c off : Nat) (f : Word → Word) : (s.updCore c off f).bcn = s.bcn := rfl
@[simp] theorem updCore_dieR (c off : Nat) (f : Word → Word) : (s.updCore c off f).dieR = s.dieR := rfl
@[simp] theorem updCore_iodR (c off : Nat) (f : Word → Word) : (s.updCore c off f).iodR = s.iodR := rfl
@[simp] theorem updCore_cx (c off : Nat) (f : Word → Word) : (s.updCore c off f).cx = s.cx := rfl
@[simp] theorem updCore_acb (c off : Nat) (f : Word → Word) : (s.updCore c off f).acb = s.acb := rfl
@[simp] theorem updCore_stat (c off : Nat) (f : Word → Word) : (s.updCore c off f).stat = s.stat := rfl
@[simp] theorem updCore_slots (c off : Nat) (f : Word → Word) : (s.updCore c off f).slots = s.slots := rfl
@[simp] theorem updCore_mem (c off : Nat) (f : Word → Word) : (s.updCore c off f).mem = s.mem := rfl
@[simp] theorem updCore_syn (c off : Nat) (f : Word → Word) : (s.updCore c off f).syn = s.syn := rfl
@[simp] theorem updCore_poison (c off : Nat) (f : Word → Word) : (s.updCore c off f).poison = s.poison := rfl
@[simp] theorem updCore_cache (c off : Nat) (f : Word → Word) : (s.updCore c off f).cache = s.cache := rfl
@[simp] theorem updCore_sramScrub (c off : Nat) (f : Word → Word) : (s.updCore c off f).sramScrub = s.sramScrub := rfl
@[simp] theorem updCore_hostMem (c off : Nat) (f : Word → Word) : (s.updCore c off f).hostMem = s.hostMem := rfl
@[simp] theorem updCore_host (c off : Nat) (f : Word → Word) : (s.updCore c off f).host = s.host := rfl
@[simp] theorem updCore_kpr (c off : Nat) (f : Word → Word) : (s.updCore c off f).kpr = s.kpr := rfl
@[simp] theorem updCore_map (c off : Nat) (f : Word → Word) : (s.updCore c off f).map = s.map := rfl
@[simp] theorem updCore_nbu (c off : Nat) (f : Word → Word) : (s.updCore c off f).nbu = s.nbu := rfl
@[simp] theorem updCore_d2d (c off : Nat) (f : Word → Word) : (s.updCore c off f).d2d = s.d2d := rfl
@[simp] theorem updCore_cl (c off : Nat) (f : Word → Word) : (s.updCore c off f).cl = s.cl := rfl
@[simp] theorem updCore_thm (c off : Nat) (f : Word → Word) : (s.updCore c off f).thm = s.thm := rfl
@[simp] theorem updCore_sec (c off : Nat) (f : Word → Word) : (s.updCore c off f).sec = s.sec := rfl
@[simp] theorem updCore_pins (c off : Nat) (f : Word → Word) : (s.updCore c off f).pins = s.pins := rfl

@[simp] theorem updEng_pending (c e off : Nat) (f : Word → Word) : (s.updEng c e off f).pending = s.pending := rfl
@[simp] theorem updEng_free (c e off : Nat) (f : Word → Word) : (s.updEng c e off f).free = s.free := rfl
@[simp] theorem updEng_out (c e off : Nat) (f : Word → Word) : (s.updEng c e off f).out = s.out := rfl
@[simp] theorem updEng_powered (c e off : Nat) (f : Word → Word) : (s.updEng c e off f).powered = s.powered := rfl
@[simp] theorem updEng_lateKeeper (c e off : Nat) (f : Word → Word) : (s.updEng c e off f).lateKeeper = s.lateKeeper := rfl
@[simp] theorem updEng_straps (c e off : Nat) (f : Word → Word) : (s.updEng c e off f).straps = s.straps := rfl
@[simp] theorem updEng_iodC (c e off : Nat) (f : Word → Word) : (s.updEng c e off f).iodC = s.iodC := rfl
@[simp] theorem updEng_rom (c e off : Nat) (f : Word → Word) : (s.updEng c e off f).rom = s.rom := rfl
@[simp] theorem updEng_bcn (c e off : Nat) (f : Word → Word) : (s.updEng c e off f).bcn = s.bcn := rfl
@[simp] theorem updEng_dieR (c e off : Nat) (f : Word → Word) : (s.updEng c e off f).dieR = s.dieR := rfl
@[simp] theorem updEng_iodR (c e off : Nat) (f : Word → Word) : (s.updEng c e off f).iodR = s.iodR := rfl
@[simp] theorem updEng_cx (c e off : Nat) (f : Word → Word) : (s.updEng c e off f).cx = s.cx := rfl
@[simp] theorem updEng_acb (c e off : Nat) (f : Word → Word) : (s.updEng c e off f).acb = s.acb := rfl
@[simp] theorem updEng_stat (c e off : Nat) (f : Word → Word) : (s.updEng c e off f).stat = s.stat := rfl
@[simp] theorem updEng_slots (c e off : Nat) (f : Word → Word) : (s.updEng c e off f).slots = s.slots := rfl
@[simp] theorem updEng_mem (c e off : Nat) (f : Word → Word) : (s.updEng c e off f).mem = s.mem := rfl
@[simp] theorem updEng_syn (c e off : Nat) (f : Word → Word) : (s.updEng c e off f).syn = s.syn := rfl
@[simp] theorem updEng_poison (c e off : Nat) (f : Word → Word) : (s.updEng c e off f).poison = s.poison := rfl
@[simp] theorem updEng_cache (c e off : Nat) (f : Word → Word) : (s.updEng c e off f).cache = s.cache := rfl
@[simp] theorem updEng_sramScrub (c e off : Nat) (f : Word → Word) : (s.updEng c e off f).sramScrub = s.sramScrub := rfl
@[simp] theorem updEng_hostMem (c e off : Nat) (f : Word → Word) : (s.updEng c e off f).hostMem = s.hostMem := rfl
@[simp] theorem updEng_host (c e off : Nat) (f : Word → Word) : (s.updEng c e off f).host = s.host := rfl
@[simp] theorem updEng_kpr (c e off : Nat) (f : Word → Word) : (s.updEng c e off f).kpr = s.kpr := rfl
@[simp] theorem updEng_map (c e off : Nat) (f : Word → Word) : (s.updEng c e off f).map = s.map := rfl
@[simp] theorem updEng_nbu (c e off : Nat) (f : Word → Word) : (s.updEng c e off f).nbu = s.nbu := rfl
@[simp] theorem updEng_d2d (c e off : Nat) (f : Word → Word) : (s.updEng c e off f).d2d = s.d2d := rfl
@[simp] theorem updEng_cl (c e off : Nat) (f : Word → Word) : (s.updEng c e off f).cl = s.cl := rfl
@[simp] theorem updEng_thm (c e off : Nat) (f : Word → Word) : (s.updEng c e off f).thm = s.thm := rfl
@[simp] theorem updEng_sec (c e off : Nat) (f : Word → Word) : (s.updEng c e off f).sec = s.sec := rfl
@[simp] theorem updEng_pins (c e off : Nat) (f : Word → Word) : (s.updEng c e off f).pins = s.pins := rfl

@[simp] theorem setCoreState_pending (c v : Nat) : (s.setCoreState c v).pending = s.pending := rfl
@[simp] theorem setCoreState_free (c v : Nat) : (s.setCoreState c v).free = s.free := rfl
@[simp] theorem setCoreState_out (c v : Nat) : (s.setCoreState c v).out = s.out := rfl
@[simp] theorem setCoreState_powered (c v : Nat) : (s.setCoreState c v).powered = s.powered := rfl
@[simp] theorem setCoreState_lateKeeper (c v : Nat) : (s.setCoreState c v).lateKeeper = s.lateKeeper := rfl
@[simp] theorem setCoreState_straps (c v : Nat) : (s.setCoreState c v).straps = s.straps := rfl
@[simp] theorem setCoreState_iodC (c v : Nat) : (s.setCoreState c v).iodC = s.iodC := rfl
@[simp] theorem setCoreState_rom (c v : Nat) : (s.setCoreState c v).rom = s.rom := rfl
@[simp] theorem setCoreState_bcn (c v : Nat) : (s.setCoreState c v).bcn = s.bcn := rfl
@[simp] theorem setCoreState_dieR (c v : Nat) : (s.setCoreState c v).dieR = s.dieR := rfl
@[simp] theorem setCoreState_iodR (c v : Nat) : (s.setCoreState c v).iodR = s.iodR := rfl
@[simp] theorem setCoreState_cx (c v : Nat) : (s.setCoreState c v).cx = s.cx := rfl
@[simp] theorem setCoreState_acb (c v : Nat) : (s.setCoreState c v).acb = s.acb := rfl
@[simp] theorem setCoreState_stat (c v : Nat) : (s.setCoreState c v).stat = s.stat := rfl
@[simp] theorem setCoreState_slots (c v : Nat) : (s.setCoreState c v).slots = s.slots := rfl
@[simp] theorem setCoreState_mem (c v : Nat) : (s.setCoreState c v).mem = s.mem := rfl
@[simp] theorem setCoreState_syn (c v : Nat) : (s.setCoreState c v).syn = s.syn := rfl
@[simp] theorem setCoreState_poison (c v : Nat) : (s.setCoreState c v).poison = s.poison := rfl
@[simp] theorem setCoreState_cache (c v : Nat) : (s.setCoreState c v).cache = s.cache := rfl
@[simp] theorem setCoreState_sramScrub (c v : Nat) : (s.setCoreState c v).sramScrub = s.sramScrub := rfl
@[simp] theorem setCoreState_hostMem (c v : Nat) : (s.setCoreState c v).hostMem = s.hostMem := rfl
@[simp] theorem setCoreState_host (c v : Nat) : (s.setCoreState c v).host = s.host := rfl
@[simp] theorem setCoreState_kpr (c v : Nat) : (s.setCoreState c v).kpr = s.kpr := rfl
@[simp] theorem setCoreState_map (c v : Nat) : (s.setCoreState c v).map = s.map := rfl
@[simp] theorem setCoreState_nbu (c v : Nat) : (s.setCoreState c v).nbu = s.nbu := rfl
@[simp] theorem setCoreState_d2d (c v : Nat) : (s.setCoreState c v).d2d = s.d2d := rfl
@[simp] theorem setCoreState_cl (c v : Nat) : (s.setCoreState c v).cl = s.cl := rfl
@[simp] theorem setCoreState_thm (c v : Nat) : (s.setCoreState c v).thm = s.thm := rfl
@[simp] theorem setCoreState_sec (c v : Nat) : (s.setCoreState c v).sec = s.sec := rfl
@[simp] theorem setCoreState_pins (c v : Nat) : (s.setCoreState c v).pins = s.pins := rfl

@[simp] theorem setDie_pending (d off : Nat) (v : Word) : (s.setDie d off v).pending = s.pending := rfl
@[simp] theorem setDie_free (d off : Nat) (v : Word) : (s.setDie d off v).free = s.free := rfl
@[simp] theorem setDie_out (d off : Nat) (v : Word) : (s.setDie d off v).out = s.out := rfl
@[simp] theorem setDie_powered (d off : Nat) (v : Word) : (s.setDie d off v).powered = s.powered := rfl
@[simp] theorem setDie_lateKeeper (d off : Nat) (v : Word) : (s.setDie d off v).lateKeeper = s.lateKeeper := rfl
@[simp] theorem setDie_straps (d off : Nat) (v : Word) : (s.setDie d off v).straps = s.straps := rfl
@[simp] theorem setDie_iodC (d off : Nat) (v : Word) : (s.setDie d off v).iodC = s.iodC := rfl
@[simp] theorem setDie_rom (d off : Nat) (v : Word) : (s.setDie d off v).rom = s.rom := rfl
@[simp] theorem setDie_bcn (d off : Nat) (v : Word) : (s.setDie d off v).bcn = s.bcn := rfl
@[simp] theorem setDie_coreR (d off : Nat) (v : Word) : (s.setDie d off v).coreR = s.coreR := rfl
@[simp] theorem setDie_iodR (d off : Nat) (v : Word) : (s.setDie d off v).iodR = s.iodR := rfl
@[simp] theorem setDie_cx (d off : Nat) (v : Word) : (s.setDie d off v).cx = s.cx := rfl
@[simp] theorem setDie_acb (d off : Nat) (v : Word) : (s.setDie d off v).acb = s.acb := rfl
@[simp] theorem setDie_stat (d off : Nat) (v : Word) : (s.setDie d off v).stat = s.stat := rfl
@[simp] theorem setDie_slots (d off : Nat) (v : Word) : (s.setDie d off v).slots = s.slots := rfl
@[simp] theorem setDie_mem (d off : Nat) (v : Word) : (s.setDie d off v).mem = s.mem := rfl
@[simp] theorem setDie_syn (d off : Nat) (v : Word) : (s.setDie d off v).syn = s.syn := rfl
@[simp] theorem setDie_poison (d off : Nat) (v : Word) : (s.setDie d off v).poison = s.poison := rfl
@[simp] theorem setDie_cache (d off : Nat) (v : Word) : (s.setDie d off v).cache = s.cache := rfl
@[simp] theorem setDie_sramScrub (d off : Nat) (v : Word) : (s.setDie d off v).sramScrub = s.sramScrub := rfl
@[simp] theorem setDie_hostMem (d off : Nat) (v : Word) : (s.setDie d off v).hostMem = s.hostMem := rfl
@[simp] theorem setDie_host (d off : Nat) (v : Word) : (s.setDie d off v).host = s.host := rfl
@[simp] theorem setDie_kpr (d off : Nat) (v : Word) : (s.setDie d off v).kpr = s.kpr := rfl
@[simp] theorem setDie_map (d off : Nat) (v : Word) : (s.setDie d off v).map = s.map := rfl
@[simp] theorem setDie_nbu (d off : Nat) (v : Word) : (s.setDie d off v).nbu = s.nbu := rfl
@[simp] theorem setDie_d2d (d off : Nat) (v : Word) : (s.setDie d off v).d2d = s.d2d := rfl
@[simp] theorem setDie_cl (d off : Nat) (v : Word) : (s.setDie d off v).cl = s.cl := rfl
@[simp] theorem setDie_thm (d off : Nat) (v : Word) : (s.setDie d off v).thm = s.thm := rfl
@[simp] theorem setDie_sec (d off : Nat) (v : Word) : (s.setDie d off v).sec = s.sec := rfl
@[simp] theorem setDie_pins (d off : Nat) (v : Word) : (s.setDie d off v).pins = s.pins := rfl

@[simp] theorem updDie_pending (d off : Nat) (f : Word → Word) : (s.updDie d off f).pending = s.pending := rfl
@[simp] theorem updDie_free (d off : Nat) (f : Word → Word) : (s.updDie d off f).free = s.free := rfl
@[simp] theorem updDie_out (d off : Nat) (f : Word → Word) : (s.updDie d off f).out = s.out := rfl
@[simp] theorem updDie_powered (d off : Nat) (f : Word → Word) : (s.updDie d off f).powered = s.powered := rfl
@[simp] theorem updDie_lateKeeper (d off : Nat) (f : Word → Word) : (s.updDie d off f).lateKeeper = s.lateKeeper := rfl
@[simp] theorem updDie_straps (d off : Nat) (f : Word → Word) : (s.updDie d off f).straps = s.straps := rfl
@[simp] theorem updDie_iodC (d off : Nat) (f : Word → Word) : (s.updDie d off f).iodC = s.iodC := rfl
@[simp] theorem updDie_rom (d off : Nat) (f : Word → Word) : (s.updDie d off f).rom = s.rom := rfl
@[simp] theorem updDie_bcn (d off : Nat) (f : Word → Word) : (s.updDie d off f).bcn = s.bcn := rfl
@[simp] theorem updDie_coreR (d off : Nat) (f : Word → Word) : (s.updDie d off f).coreR = s.coreR := rfl
@[simp] theorem updDie_iodR (d off : Nat) (f : Word → Word) : (s.updDie d off f).iodR = s.iodR := rfl
@[simp] theorem updDie_cx (d off : Nat) (f : Word → Word) : (s.updDie d off f).cx = s.cx := rfl
@[simp] theorem updDie_acb (d off : Nat) (f : Word → Word) : (s.updDie d off f).acb = s.acb := rfl
@[simp] theorem updDie_stat (d off : Nat) (f : Word → Word) : (s.updDie d off f).stat = s.stat := rfl
@[simp] theorem updDie_slots (d off : Nat) (f : Word → Word) : (s.updDie d off f).slots = s.slots := rfl
@[simp] theorem updDie_mem (d off : Nat) (f : Word → Word) : (s.updDie d off f).mem = s.mem := rfl
@[simp] theorem updDie_syn (d off : Nat) (f : Word → Word) : (s.updDie d off f).syn = s.syn := rfl
@[simp] theorem updDie_poison (d off : Nat) (f : Word → Word) : (s.updDie d off f).poison = s.poison := rfl
@[simp] theorem updDie_cache (d off : Nat) (f : Word → Word) : (s.updDie d off f).cache = s.cache := rfl
@[simp] theorem updDie_sramScrub (d off : Nat) (f : Word → Word) : (s.updDie d off f).sramScrub = s.sramScrub := rfl
@[simp] theorem updDie_hostMem (d off : Nat) (f : Word → Word) : (s.updDie d off f).hostMem = s.hostMem := rfl
@[simp] theorem updDie_host (d off : Nat) (f : Word → Word) : (s.updDie d off f).host = s.host := rfl
@[simp] theorem updDie_kpr (d off : Nat) (f : Word → Word) : (s.updDie d off f).kpr = s.kpr := rfl
@[simp] theorem updDie_map (d off : Nat) (f : Word → Word) : (s.updDie d off f).map = s.map := rfl
@[simp] theorem updDie_nbu (d off : Nat) (f : Word → Word) : (s.updDie d off f).nbu = s.nbu := rfl
@[simp] theorem updDie_d2d (d off : Nat) (f : Word → Word) : (s.updDie d off f).d2d = s.d2d := rfl
@[simp] theorem updDie_cl (d off : Nat) (f : Word → Word) : (s.updDie d off f).cl = s.cl := rfl
@[simp] theorem updDie_thm (d off : Nat) (f : Word → Word) : (s.updDie d off f).thm = s.thm := rfl
@[simp] theorem updDie_sec (d off : Nat) (f : Word → Word) : (s.updDie d off f).sec = s.sec := rfl
@[simp] theorem updDie_pins (d off : Nat) (f : Word → Word) : (s.updDie d off f).pins = s.pins := rfl

@[simp] theorem setIod_pending (i off : Nat) (v : Word) : (s.setIod i off v).pending = s.pending := rfl
@[simp] theorem setIod_free (i off : Nat) (v : Word) : (s.setIod i off v).free = s.free := rfl
@[simp] theorem setIod_out (i off : Nat) (v : Word) : (s.setIod i off v).out = s.out := rfl
@[simp] theorem setIod_powered (i off : Nat) (v : Word) : (s.setIod i off v).powered = s.powered := rfl
@[simp] theorem setIod_lateKeeper (i off : Nat) (v : Word) : (s.setIod i off v).lateKeeper = s.lateKeeper := rfl
@[simp] theorem setIod_straps (i off : Nat) (v : Word) : (s.setIod i off v).straps = s.straps := rfl
@[simp] theorem setIod_iodC (i off : Nat) (v : Word) : (s.setIod i off v).iodC = s.iodC := rfl
@[simp] theorem setIod_rom (i off : Nat) (v : Word) : (s.setIod i off v).rom = s.rom := rfl
@[simp] theorem setIod_bcn (i off : Nat) (v : Word) : (s.setIod i off v).bcn = s.bcn := rfl
@[simp] theorem setIod_coreR (i off : Nat) (v : Word) : (s.setIod i off v).coreR = s.coreR := rfl
@[simp] theorem setIod_dieR (i off : Nat) (v : Word) : (s.setIod i off v).dieR = s.dieR := rfl
@[simp] theorem setIod_cx (i off : Nat) (v : Word) : (s.setIod i off v).cx = s.cx := rfl
@[simp] theorem setIod_acb (i off : Nat) (v : Word) : (s.setIod i off v).acb = s.acb := rfl
@[simp] theorem setIod_stat (i off : Nat) (v : Word) : (s.setIod i off v).stat = s.stat := rfl
@[simp] theorem setIod_slots (i off : Nat) (v : Word) : (s.setIod i off v).slots = s.slots := rfl
@[simp] theorem setIod_mem (i off : Nat) (v : Word) : (s.setIod i off v).mem = s.mem := rfl
@[simp] theorem setIod_syn (i off : Nat) (v : Word) : (s.setIod i off v).syn = s.syn := rfl
@[simp] theorem setIod_poison (i off : Nat) (v : Word) : (s.setIod i off v).poison = s.poison := rfl
@[simp] theorem setIod_cache (i off : Nat) (v : Word) : (s.setIod i off v).cache = s.cache := rfl
@[simp] theorem setIod_sramScrub (i off : Nat) (v : Word) : (s.setIod i off v).sramScrub = s.sramScrub := rfl
@[simp] theorem setIod_hostMem (i off : Nat) (v : Word) : (s.setIod i off v).hostMem = s.hostMem := rfl
@[simp] theorem setIod_host (i off : Nat) (v : Word) : (s.setIod i off v).host = s.host := rfl
@[simp] theorem setIod_kpr (i off : Nat) (v : Word) : (s.setIod i off v).kpr = s.kpr := rfl
@[simp] theorem setIod_map (i off : Nat) (v : Word) : (s.setIod i off v).map = s.map := rfl
@[simp] theorem setIod_nbu (i off : Nat) (v : Word) : (s.setIod i off v).nbu = s.nbu := rfl
@[simp] theorem setIod_d2d (i off : Nat) (v : Word) : (s.setIod i off v).d2d = s.d2d := rfl
@[simp] theorem setIod_cl (i off : Nat) (v : Word) : (s.setIod i off v).cl = s.cl := rfl
@[simp] theorem setIod_thm (i off : Nat) (v : Word) : (s.setIod i off v).thm = s.thm := rfl
@[simp] theorem setIod_sec (i off : Nat) (v : Word) : (s.setIod i off v).sec = s.sec := rfl
@[simp] theorem setIod_pins (i off : Nat) (v : Word) : (s.setIod i off v).pins = s.pins := rfl

@[simp] theorem updIod_pending (i off : Nat) (f : Word → Word) : (s.updIod i off f).pending = s.pending := rfl
@[simp] theorem updIod_free (i off : Nat) (f : Word → Word) : (s.updIod i off f).free = s.free := rfl
@[simp] theorem updIod_out (i off : Nat) (f : Word → Word) : (s.updIod i off f).out = s.out := rfl
@[simp] theorem updIod_powered (i off : Nat) (f : Word → Word) : (s.updIod i off f).powered = s.powered := rfl
@[simp] theorem updIod_lateKeeper (i off : Nat) (f : Word → Word) : (s.updIod i off f).lateKeeper = s.lateKeeper := rfl
@[simp] theorem updIod_straps (i off : Nat) (f : Word → Word) : (s.updIod i off f).straps = s.straps := rfl
@[simp] theorem updIod_iodC (i off : Nat) (f : Word → Word) : (s.updIod i off f).iodC = s.iodC := rfl
@[simp] theorem updIod_rom (i off : Nat) (f : Word → Word) : (s.updIod i off f).rom = s.rom := rfl
@[simp] theorem updIod_bcn (i off : Nat) (f : Word → Word) : (s.updIod i off f).bcn = s.bcn := rfl
@[simp] theorem updIod_coreR (i off : Nat) (f : Word → Word) : (s.updIod i off f).coreR = s.coreR := rfl
@[simp] theorem updIod_dieR (i off : Nat) (f : Word → Word) : (s.updIod i off f).dieR = s.dieR := rfl
@[simp] theorem updIod_cx (i off : Nat) (f : Word → Word) : (s.updIod i off f).cx = s.cx := rfl
@[simp] theorem updIod_acb (i off : Nat) (f : Word → Word) : (s.updIod i off f).acb = s.acb := rfl
@[simp] theorem updIod_stat (i off : Nat) (f : Word → Word) : (s.updIod i off f).stat = s.stat := rfl
@[simp] theorem updIod_slots (i off : Nat) (f : Word → Word) : (s.updIod i off f).slots = s.slots := rfl
@[simp] theorem updIod_mem (i off : Nat) (f : Word → Word) : (s.updIod i off f).mem = s.mem := rfl
@[simp] theorem updIod_syn (i off : Nat) (f : Word → Word) : (s.updIod i off f).syn = s.syn := rfl
@[simp] theorem updIod_poison (i off : Nat) (f : Word → Word) : (s.updIod i off f).poison = s.poison := rfl
@[simp] theorem updIod_cache (i off : Nat) (f : Word → Word) : (s.updIod i off f).cache = s.cache := rfl
@[simp] theorem updIod_sramScrub (i off : Nat) (f : Word → Word) : (s.updIod i off f).sramScrub = s.sramScrub := rfl
@[simp] theorem updIod_hostMem (i off : Nat) (f : Word → Word) : (s.updIod i off f).hostMem = s.hostMem := rfl
@[simp] theorem updIod_host (i off : Nat) (f : Word → Word) : (s.updIod i off f).host = s.host := rfl
@[simp] theorem updIod_kpr (i off : Nat) (f : Word → Word) : (s.updIod i off f).kpr = s.kpr := rfl
@[simp] theorem updIod_map (i off : Nat) (f : Word → Word) : (s.updIod i off f).map = s.map := rfl
@[simp] theorem updIod_nbu (i off : Nat) (f : Word → Word) : (s.updIod i off f).nbu = s.nbu := rfl
@[simp] theorem updIod_d2d (i off : Nat) (f : Word → Word) : (s.updIod i off f).d2d = s.d2d := rfl
@[simp] theorem updIod_cl (i off : Nat) (f : Word → Word) : (s.updIod i off f).cl = s.cl := rfl
@[simp] theorem updIod_thm (i off : Nat) (f : Word → Word) : (s.updIod i off f).thm = s.thm := rfl
@[simp] theorem updIod_sec (i off : Nat) (f : Word → Word) : (s.updIod i off f).sec = s.sec := rfl
@[simp] theorem updIod_pins (i off : Nat) (f : Word → Word) : (s.updIod i off f).pins = s.pins := rfl

@[simp] theorem updCx_pending (c : Nat) (f : CoreX → CoreX) : (s.updCx c f).pending = s.pending := rfl
@[simp] theorem updCx_free (c : Nat) (f : CoreX → CoreX) : (s.updCx c f).free = s.free := rfl
@[simp] theorem updCx_out (c : Nat) (f : CoreX → CoreX) : (s.updCx c f).out = s.out := rfl
@[simp] theorem updCx_powered (c : Nat) (f : CoreX → CoreX) : (s.updCx c f).powered = s.powered := rfl
@[simp] theorem updCx_lateKeeper (c : Nat) (f : CoreX → CoreX) : (s.updCx c f).lateKeeper = s.lateKeeper := rfl
@[simp] theorem updCx_straps (c : Nat) (f : CoreX → CoreX) : (s.updCx c f).straps = s.straps := rfl
@[simp] theorem updCx_iodC (c : Nat) (f : CoreX → CoreX) : (s.updCx c f).iodC = s.iodC := rfl
@[simp] theorem updCx_rom (c : Nat) (f : CoreX → CoreX) : (s.updCx c f).rom = s.rom := rfl
@[simp] theorem updCx_bcn (c : Nat) (f : CoreX → CoreX) : (s.updCx c f).bcn = s.bcn := rfl
@[simp] theorem updCx_coreR (c : Nat) (f : CoreX → CoreX) : (s.updCx c f).coreR = s.coreR := rfl
@[simp] theorem updCx_dieR (c : Nat) (f : CoreX → CoreX) : (s.updCx c f).dieR = s.dieR := rfl
@[simp] theorem updCx_iodR (c : Nat) (f : CoreX → CoreX) : (s.updCx c f).iodR = s.iodR := rfl
@[simp] theorem updCx_acb (c : Nat) (f : CoreX → CoreX) : (s.updCx c f).acb = s.acb := rfl
@[simp] theorem updCx_stat (c : Nat) (f : CoreX → CoreX) : (s.updCx c f).stat = s.stat := rfl
@[simp] theorem updCx_slots (c : Nat) (f : CoreX → CoreX) : (s.updCx c f).slots = s.slots := rfl
@[simp] theorem updCx_mem (c : Nat) (f : CoreX → CoreX) : (s.updCx c f).mem = s.mem := rfl
@[simp] theorem updCx_syn (c : Nat) (f : CoreX → CoreX) : (s.updCx c f).syn = s.syn := rfl
@[simp] theorem updCx_poison (c : Nat) (f : CoreX → CoreX) : (s.updCx c f).poison = s.poison := rfl
@[simp] theorem updCx_cache (c : Nat) (f : CoreX → CoreX) : (s.updCx c f).cache = s.cache := rfl
@[simp] theorem updCx_sramScrub (c : Nat) (f : CoreX → CoreX) : (s.updCx c f).sramScrub = s.sramScrub := rfl
@[simp] theorem updCx_hostMem (c : Nat) (f : CoreX → CoreX) : (s.updCx c f).hostMem = s.hostMem := rfl
@[simp] theorem updCx_host (c : Nat) (f : CoreX → CoreX) : (s.updCx c f).host = s.host := rfl
@[simp] theorem updCx_kpr (c : Nat) (f : CoreX → CoreX) : (s.updCx c f).kpr = s.kpr := rfl
@[simp] theorem updCx_map (c : Nat) (f : CoreX → CoreX) : (s.updCx c f).map = s.map := rfl
@[simp] theorem updCx_nbu (c : Nat) (f : CoreX → CoreX) : (s.updCx c f).nbu = s.nbu := rfl
@[simp] theorem updCx_d2d (c : Nat) (f : CoreX → CoreX) : (s.updCx c f).d2d = s.d2d := rfl
@[simp] theorem updCx_cl (c : Nat) (f : CoreX → CoreX) : (s.updCx c f).cl = s.cl := rfl
@[simp] theorem updCx_thm (c : Nat) (f : CoreX → CoreX) : (s.updCx c f).thm = s.thm := rfl
@[simp] theorem updCx_sec (c : Nat) (f : CoreX → CoreX) : (s.updCx c f).sec = s.sec := rfl
@[simp] theorem updCx_pins (c : Nat) (f : CoreX → CoreX) : (s.updCx c f).pins = s.pins := rfl

@[simp] theorem updSlot_pending (p : Nat) (f : SlotX → SlotX) : (s.updSlot p f).pending = s.pending := rfl
@[simp] theorem updSlot_free (p : Nat) (f : SlotX → SlotX) : (s.updSlot p f).free = s.free := rfl
@[simp] theorem updSlot_out (p : Nat) (f : SlotX → SlotX) : (s.updSlot p f).out = s.out := rfl
@[simp] theorem updSlot_powered (p : Nat) (f : SlotX → SlotX) : (s.updSlot p f).powered = s.powered := rfl
@[simp] theorem updSlot_lateKeeper (p : Nat) (f : SlotX → SlotX) : (s.updSlot p f).lateKeeper = s.lateKeeper := rfl
@[simp] theorem updSlot_straps (p : Nat) (f : SlotX → SlotX) : (s.updSlot p f).straps = s.straps := rfl
@[simp] theorem updSlot_iodC (p : Nat) (f : SlotX → SlotX) : (s.updSlot p f).iodC = s.iodC := rfl
@[simp] theorem updSlot_rom (p : Nat) (f : SlotX → SlotX) : (s.updSlot p f).rom = s.rom := rfl
@[simp] theorem updSlot_bcn (p : Nat) (f : SlotX → SlotX) : (s.updSlot p f).bcn = s.bcn := rfl
@[simp] theorem updSlot_coreR (p : Nat) (f : SlotX → SlotX) : (s.updSlot p f).coreR = s.coreR := rfl
@[simp] theorem updSlot_dieR (p : Nat) (f : SlotX → SlotX) : (s.updSlot p f).dieR = s.dieR := rfl
@[simp] theorem updSlot_iodR (p : Nat) (f : SlotX → SlotX) : (s.updSlot p f).iodR = s.iodR := rfl
@[simp] theorem updSlot_cx (p : Nat) (f : SlotX → SlotX) : (s.updSlot p f).cx = s.cx := rfl
@[simp] theorem updSlot_acb (p : Nat) (f : SlotX → SlotX) : (s.updSlot p f).acb = s.acb := rfl
@[simp] theorem updSlot_stat (p : Nat) (f : SlotX → SlotX) : (s.updSlot p f).stat = s.stat := rfl
@[simp] theorem updSlot_mem (p : Nat) (f : SlotX → SlotX) : (s.updSlot p f).mem = s.mem := rfl
@[simp] theorem updSlot_syn (p : Nat) (f : SlotX → SlotX) : (s.updSlot p f).syn = s.syn := rfl
@[simp] theorem updSlot_poison (p : Nat) (f : SlotX → SlotX) : (s.updSlot p f).poison = s.poison := rfl
@[simp] theorem updSlot_cache (p : Nat) (f : SlotX → SlotX) : (s.updSlot p f).cache = s.cache := rfl
@[simp] theorem updSlot_sramScrub (p : Nat) (f : SlotX → SlotX) : (s.updSlot p f).sramScrub = s.sramScrub := rfl
@[simp] theorem updSlot_hostMem (p : Nat) (f : SlotX → SlotX) : (s.updSlot p f).hostMem = s.hostMem := rfl
@[simp] theorem updSlot_host (p : Nat) (f : SlotX → SlotX) : (s.updSlot p f).host = s.host := rfl
@[simp] theorem updSlot_kpr (p : Nat) (f : SlotX → SlotX) : (s.updSlot p f).kpr = s.kpr := rfl
@[simp] theorem updSlot_map (p : Nat) (f : SlotX → SlotX) : (s.updSlot p f).map = s.map := rfl
@[simp] theorem updSlot_nbu (p : Nat) (f : SlotX → SlotX) : (s.updSlot p f).nbu = s.nbu := rfl
@[simp] theorem updSlot_d2d (p : Nat) (f : SlotX → SlotX) : (s.updSlot p f).d2d = s.d2d := rfl
@[simp] theorem updSlot_cl (p : Nat) (f : SlotX → SlotX) : (s.updSlot p f).cl = s.cl := rfl
@[simp] theorem updSlot_thm (p : Nat) (f : SlotX → SlotX) : (s.updSlot p f).thm = s.thm := rfl
@[simp] theorem updSlot_sec (p : Nat) (f : SlotX → SlotX) : (s.updSlot p f).sec = s.sec := rfl
@[simp] theorem updSlot_pins (p : Nat) (f : SlotX → SlotX) : (s.updSlot p f).pins = s.pins := rfl

@[simp] theorem updNb_pending (i : Nat) (f : NbuX → NbuX) : (s.updNb i f).pending = s.pending := rfl
@[simp] theorem updNb_free (i : Nat) (f : NbuX → NbuX) : (s.updNb i f).free = s.free := rfl
@[simp] theorem updNb_out (i : Nat) (f : NbuX → NbuX) : (s.updNb i f).out = s.out := rfl
@[simp] theorem updNb_powered (i : Nat) (f : NbuX → NbuX) : (s.updNb i f).powered = s.powered := rfl
@[simp] theorem updNb_lateKeeper (i : Nat) (f : NbuX → NbuX) : (s.updNb i f).lateKeeper = s.lateKeeper := rfl
@[simp] theorem updNb_straps (i : Nat) (f : NbuX → NbuX) : (s.updNb i f).straps = s.straps := rfl
@[simp] theorem updNb_iodC (i : Nat) (f : NbuX → NbuX) : (s.updNb i f).iodC = s.iodC := rfl
@[simp] theorem updNb_rom (i : Nat) (f : NbuX → NbuX) : (s.updNb i f).rom = s.rom := rfl
@[simp] theorem updNb_bcn (i : Nat) (f : NbuX → NbuX) : (s.updNb i f).bcn = s.bcn := rfl
@[simp] theorem updNb_coreR (i : Nat) (f : NbuX → NbuX) : (s.updNb i f).coreR = s.coreR := rfl
@[simp] theorem updNb_dieR (i : Nat) (f : NbuX → NbuX) : (s.updNb i f).dieR = s.dieR := rfl
@[simp] theorem updNb_iodR (i : Nat) (f : NbuX → NbuX) : (s.updNb i f).iodR = s.iodR := rfl
@[simp] theorem updNb_cx (i : Nat) (f : NbuX → NbuX) : (s.updNb i f).cx = s.cx := rfl
@[simp] theorem updNb_acb (i : Nat) (f : NbuX → NbuX) : (s.updNb i f).acb = s.acb := rfl
@[simp] theorem updNb_stat (i : Nat) (f : NbuX → NbuX) : (s.updNb i f).stat = s.stat := rfl
@[simp] theorem updNb_slots (i : Nat) (f : NbuX → NbuX) : (s.updNb i f).slots = s.slots := rfl
@[simp] theorem updNb_mem (i : Nat) (f : NbuX → NbuX) : (s.updNb i f).mem = s.mem := rfl
@[simp] theorem updNb_syn (i : Nat) (f : NbuX → NbuX) : (s.updNb i f).syn = s.syn := rfl
@[simp] theorem updNb_poison (i : Nat) (f : NbuX → NbuX) : (s.updNb i f).poison = s.poison := rfl
@[simp] theorem updNb_cache (i : Nat) (f : NbuX → NbuX) : (s.updNb i f).cache = s.cache := rfl
@[simp] theorem updNb_sramScrub (i : Nat) (f : NbuX → NbuX) : (s.updNb i f).sramScrub = s.sramScrub := rfl
@[simp] theorem updNb_hostMem (i : Nat) (f : NbuX → NbuX) : (s.updNb i f).hostMem = s.hostMem := rfl
@[simp] theorem updNb_host (i : Nat) (f : NbuX → NbuX) : (s.updNb i f).host = s.host := rfl
@[simp] theorem updNb_kpr (i : Nat) (f : NbuX → NbuX) : (s.updNb i f).kpr = s.kpr := rfl
@[simp] theorem updNb_map (i : Nat) (f : NbuX → NbuX) : (s.updNb i f).map = s.map := rfl
@[simp] theorem updNb_d2d (i : Nat) (f : NbuX → NbuX) : (s.updNb i f).d2d = s.d2d := rfl
@[simp] theorem updNb_cl (i : Nat) (f : NbuX → NbuX) : (s.updNb i f).cl = s.cl := rfl
@[simp] theorem updNb_thm (i : Nat) (f : NbuX → NbuX) : (s.updNb i f).thm = s.thm := rfl
@[simp] theorem updNb_sec (i : Nat) (f : NbuX → NbuX) : (s.updNb i f).sec = s.sec := rfl
@[simp] theorem updNb_pins (i : Nat) (f : NbuX → NbuX) : (s.updNb i f).pins = s.pins := rfl

@[simp] theorem updThmDie_pending (d : Nat) (f : DieX → DieX) : (s.updThmDie d f).pending = s.pending := rfl
@[simp] theorem updThmDie_free (d : Nat) (f : DieX → DieX) : (s.updThmDie d f).free = s.free := rfl
@[simp] theorem updThmDie_out (d : Nat) (f : DieX → DieX) : (s.updThmDie d f).out = s.out := rfl
@[simp] theorem updThmDie_powered (d : Nat) (f : DieX → DieX) : (s.updThmDie d f).powered = s.powered := rfl
@[simp] theorem updThmDie_lateKeeper (d : Nat) (f : DieX → DieX) : (s.updThmDie d f).lateKeeper = s.lateKeeper := rfl
@[simp] theorem updThmDie_straps (d : Nat) (f : DieX → DieX) : (s.updThmDie d f).straps = s.straps := rfl
@[simp] theorem updThmDie_iodC (d : Nat) (f : DieX → DieX) : (s.updThmDie d f).iodC = s.iodC := rfl
@[simp] theorem updThmDie_rom (d : Nat) (f : DieX → DieX) : (s.updThmDie d f).rom = s.rom := rfl
@[simp] theorem updThmDie_bcn (d : Nat) (f : DieX → DieX) : (s.updThmDie d f).bcn = s.bcn := rfl
@[simp] theorem updThmDie_coreR (d : Nat) (f : DieX → DieX) : (s.updThmDie d f).coreR = s.coreR := rfl
@[simp] theorem updThmDie_dieR (d : Nat) (f : DieX → DieX) : (s.updThmDie d f).dieR = s.dieR := rfl
@[simp] theorem updThmDie_iodR (d : Nat) (f : DieX → DieX) : (s.updThmDie d f).iodR = s.iodR := rfl
@[simp] theorem updThmDie_cx (d : Nat) (f : DieX → DieX) : (s.updThmDie d f).cx = s.cx := rfl
@[simp] theorem updThmDie_acb (d : Nat) (f : DieX → DieX) : (s.updThmDie d f).acb = s.acb := rfl
@[simp] theorem updThmDie_stat (d : Nat) (f : DieX → DieX) : (s.updThmDie d f).stat = s.stat := rfl
@[simp] theorem updThmDie_slots (d : Nat) (f : DieX → DieX) : (s.updThmDie d f).slots = s.slots := rfl
@[simp] theorem updThmDie_mem (d : Nat) (f : DieX → DieX) : (s.updThmDie d f).mem = s.mem := rfl
@[simp] theorem updThmDie_syn (d : Nat) (f : DieX → DieX) : (s.updThmDie d f).syn = s.syn := rfl
@[simp] theorem updThmDie_poison (d : Nat) (f : DieX → DieX) : (s.updThmDie d f).poison = s.poison := rfl
@[simp] theorem updThmDie_cache (d : Nat) (f : DieX → DieX) : (s.updThmDie d f).cache = s.cache := rfl
@[simp] theorem updThmDie_sramScrub (d : Nat) (f : DieX → DieX) : (s.updThmDie d f).sramScrub = s.sramScrub := rfl
@[simp] theorem updThmDie_hostMem (d : Nat) (f : DieX → DieX) : (s.updThmDie d f).hostMem = s.hostMem := rfl
@[simp] theorem updThmDie_host (d : Nat) (f : DieX → DieX) : (s.updThmDie d f).host = s.host := rfl
@[simp] theorem updThmDie_kpr (d : Nat) (f : DieX → DieX) : (s.updThmDie d f).kpr = s.kpr := rfl
@[simp] theorem updThmDie_map (d : Nat) (f : DieX → DieX) : (s.updThmDie d f).map = s.map := rfl
@[simp] theorem updThmDie_nbu (d : Nat) (f : DieX → DieX) : (s.updThmDie d f).nbu = s.nbu := rfl
@[simp] theorem updThmDie_d2d (d : Nat) (f : DieX → DieX) : (s.updThmDie d f).d2d = s.d2d := rfl
@[simp] theorem updThmDie_cl (d : Nat) (f : DieX → DieX) : (s.updThmDie d f).cl = s.cl := rfl
@[simp] theorem updThmDie_sec (d : Nat) (f : DieX → DieX) : (s.updThmDie d f).sec = s.sec := rfl
@[simp] theorem updThmDie_pins (d : Nat) (f : DieX → DieX) : (s.updThmDie d f).pins = s.pins := rfl

@[simp] theorem updBcn_pending (f : Bcn → Bcn) : (s.updBcn f).pending = s.pending := rfl
@[simp] theorem updBcn_free (f : Bcn → Bcn) : (s.updBcn f).free = s.free := rfl
@[simp] theorem updBcn_out (f : Bcn → Bcn) : (s.updBcn f).out = s.out := rfl
@[simp] theorem updBcn_powered (f : Bcn → Bcn) : (s.updBcn f).powered = s.powered := rfl
@[simp] theorem updBcn_lateKeeper (f : Bcn → Bcn) : (s.updBcn f).lateKeeper = s.lateKeeper := rfl
@[simp] theorem updBcn_straps (f : Bcn → Bcn) : (s.updBcn f).straps = s.straps := rfl
@[simp] theorem updBcn_iodC (f : Bcn → Bcn) : (s.updBcn f).iodC = s.iodC := rfl
@[simp] theorem updBcn_rom (f : Bcn → Bcn) : (s.updBcn f).rom = s.rom := rfl
@[simp] theorem updBcn_coreR (f : Bcn → Bcn) : (s.updBcn f).coreR = s.coreR := rfl
@[simp] theorem updBcn_dieR (f : Bcn → Bcn) : (s.updBcn f).dieR = s.dieR := rfl
@[simp] theorem updBcn_iodR (f : Bcn → Bcn) : (s.updBcn f).iodR = s.iodR := rfl
@[simp] theorem updBcn_cx (f : Bcn → Bcn) : (s.updBcn f).cx = s.cx := rfl
@[simp] theorem updBcn_acb (f : Bcn → Bcn) : (s.updBcn f).acb = s.acb := rfl
@[simp] theorem updBcn_stat (f : Bcn → Bcn) : (s.updBcn f).stat = s.stat := rfl
@[simp] theorem updBcn_slots (f : Bcn → Bcn) : (s.updBcn f).slots = s.slots := rfl
@[simp] theorem updBcn_mem (f : Bcn → Bcn) : (s.updBcn f).mem = s.mem := rfl
@[simp] theorem updBcn_syn (f : Bcn → Bcn) : (s.updBcn f).syn = s.syn := rfl
@[simp] theorem updBcn_poison (f : Bcn → Bcn) : (s.updBcn f).poison = s.poison := rfl
@[simp] theorem updBcn_cache (f : Bcn → Bcn) : (s.updBcn f).cache = s.cache := rfl
@[simp] theorem updBcn_sramScrub (f : Bcn → Bcn) : (s.updBcn f).sramScrub = s.sramScrub := rfl
@[simp] theorem updBcn_hostMem (f : Bcn → Bcn) : (s.updBcn f).hostMem = s.hostMem := rfl
@[simp] theorem updBcn_host (f : Bcn → Bcn) : (s.updBcn f).host = s.host := rfl
@[simp] theorem updBcn_kpr (f : Bcn → Bcn) : (s.updBcn f).kpr = s.kpr := rfl
@[simp] theorem updBcn_map (f : Bcn → Bcn) : (s.updBcn f).map = s.map := rfl
@[simp] theorem updBcn_nbu (f : Bcn → Bcn) : (s.updBcn f).nbu = s.nbu := rfl
@[simp] theorem updBcn_d2d (f : Bcn → Bcn) : (s.updBcn f).d2d = s.d2d := rfl
@[simp] theorem updBcn_cl (f : Bcn → Bcn) : (s.updBcn f).cl = s.cl := rfl
@[simp] theorem updBcn_thm (f : Bcn → Bcn) : (s.updBcn f).thm = s.thm := rfl
@[simp] theorem updBcn_sec (f : Bcn → Bcn) : (s.updBcn f).sec = s.sec := rfl
@[simp] theorem updBcn_pins (f : Bcn → Bcn) : (s.updBcn f).pins = s.pins := rfl

@[simp] theorem emit_pending (o : Output) : (s.emit o).pending = s.pending := rfl
@[simp] theorem emit_free (o : Output) : (s.emit o).free = s.free := rfl
@[simp] theorem emit_powered (o : Output) : (s.emit o).powered = s.powered := rfl
@[simp] theorem emit_lateKeeper (o : Output) : (s.emit o).lateKeeper = s.lateKeeper := rfl
@[simp] theorem emit_straps (o : Output) : (s.emit o).straps = s.straps := rfl
@[simp] theorem emit_iodC (o : Output) : (s.emit o).iodC = s.iodC := rfl
@[simp] theorem emit_rom (o : Output) : (s.emit o).rom = s.rom := rfl
@[simp] theorem emit_bcn (o : Output) : (s.emit o).bcn = s.bcn := rfl
@[simp] theorem emit_coreR (o : Output) : (s.emit o).coreR = s.coreR := rfl
@[simp] theorem emit_dieR (o : Output) : (s.emit o).dieR = s.dieR := rfl
@[simp] theorem emit_iodR (o : Output) : (s.emit o).iodR = s.iodR := rfl
@[simp] theorem emit_cx (o : Output) : (s.emit o).cx = s.cx := rfl
@[simp] theorem emit_acb (o : Output) : (s.emit o).acb = s.acb := rfl
@[simp] theorem emit_stat (o : Output) : (s.emit o).stat = s.stat := rfl
@[simp] theorem emit_slots (o : Output) : (s.emit o).slots = s.slots := rfl
@[simp] theorem emit_mem (o : Output) : (s.emit o).mem = s.mem := rfl
@[simp] theorem emit_syn (o : Output) : (s.emit o).syn = s.syn := rfl
@[simp] theorem emit_poison (o : Output) : (s.emit o).poison = s.poison := rfl
@[simp] theorem emit_cache (o : Output) : (s.emit o).cache = s.cache := rfl
@[simp] theorem emit_sramScrub (o : Output) : (s.emit o).sramScrub = s.sramScrub := rfl
@[simp] theorem emit_hostMem (o : Output) : (s.emit o).hostMem = s.hostMem := rfl
@[simp] theorem emit_host (o : Output) : (s.emit o).host = s.host := rfl
@[simp] theorem emit_kpr (o : Output) : (s.emit o).kpr = s.kpr := rfl
@[simp] theorem emit_map (o : Output) : (s.emit o).map = s.map := rfl
@[simp] theorem emit_nbu (o : Output) : (s.emit o).nbu = s.nbu := rfl
@[simp] theorem emit_d2d (o : Output) : (s.emit o).d2d = s.d2d := rfl
@[simp] theorem emit_cl (o : Output) : (s.emit o).cl = s.cl := rfl
@[simp] theorem emit_thm (o : Output) : (s.emit o).thm = s.thm := rfl
@[simp] theorem emit_sec (o : Output) : (s.emit o).sec = s.sec := rfl
@[simp] theorem emit_pins (o : Output) : (s.emit o).pins = s.pins := rfl

@[simp] theorem bumpFree_pending : (s.bumpFree).pending = s.pending := rfl
@[simp] theorem bumpFree_out : (s.bumpFree).out = s.out := rfl
@[simp] theorem bumpFree_powered : (s.bumpFree).powered = s.powered := rfl
@[simp] theorem bumpFree_lateKeeper : (s.bumpFree).lateKeeper = s.lateKeeper := rfl
@[simp] theorem bumpFree_straps : (s.bumpFree).straps = s.straps := rfl
@[simp] theorem bumpFree_iodC : (s.bumpFree).iodC = s.iodC := rfl
@[simp] theorem bumpFree_rom : (s.bumpFree).rom = s.rom := rfl
@[simp] theorem bumpFree_bcn : (s.bumpFree).bcn = s.bcn := rfl
@[simp] theorem bumpFree_coreR : (s.bumpFree).coreR = s.coreR := rfl
@[simp] theorem bumpFree_dieR : (s.bumpFree).dieR = s.dieR := rfl
@[simp] theorem bumpFree_iodR : (s.bumpFree).iodR = s.iodR := rfl
@[simp] theorem bumpFree_cx : (s.bumpFree).cx = s.cx := rfl
@[simp] theorem bumpFree_acb : (s.bumpFree).acb = s.acb := rfl
@[simp] theorem bumpFree_stat : (s.bumpFree).stat = s.stat := rfl
@[simp] theorem bumpFree_slots : (s.bumpFree).slots = s.slots := rfl
@[simp] theorem bumpFree_mem : (s.bumpFree).mem = s.mem := rfl
@[simp] theorem bumpFree_syn : (s.bumpFree).syn = s.syn := rfl
@[simp] theorem bumpFree_poison : (s.bumpFree).poison = s.poison := rfl
@[simp] theorem bumpFree_cache : (s.bumpFree).cache = s.cache := rfl
@[simp] theorem bumpFree_sramScrub : (s.bumpFree).sramScrub = s.sramScrub := rfl
@[simp] theorem bumpFree_hostMem : (s.bumpFree).hostMem = s.hostMem := rfl
@[simp] theorem bumpFree_host : (s.bumpFree).host = s.host := rfl
@[simp] theorem bumpFree_kpr : (s.bumpFree).kpr = s.kpr := rfl
@[simp] theorem bumpFree_map : (s.bumpFree).map = s.map := rfl
@[simp] theorem bumpFree_nbu : (s.bumpFree).nbu = s.nbu := rfl
@[simp] theorem bumpFree_d2d : (s.bumpFree).d2d = s.d2d := rfl
@[simp] theorem bumpFree_cl : (s.bumpFree).cl = s.cl := rfl
@[simp] theorem bumpFree_thm : (s.bumpFree).thm = s.thm := rfl
@[simp] theorem bumpFree_sec : (s.bumpFree).sec = s.sec := rfl
@[simp] theorem bumpFree_pins : (s.bumpFree).pins = s.pins := rfl

@[simp] theorem setCr_pending (r k : Nat) (v : Word) : (s.setCr r k v).pending = s.pending := rfl
@[simp] theorem setCr_free (r k : Nat) (v : Word) : (s.setCr r k v).free = s.free := rfl
@[simp] theorem setCr_out (r k : Nat) (v : Word) : (s.setCr r k v).out = s.out := rfl
@[simp] theorem setCr_powered (r k : Nat) (v : Word) : (s.setCr r k v).powered = s.powered := rfl
@[simp] theorem setCr_lateKeeper (r k : Nat) (v : Word) : (s.setCr r k v).lateKeeper = s.lateKeeper := rfl
@[simp] theorem setCr_straps (r k : Nat) (v : Word) : (s.setCr r k v).straps = s.straps := rfl
@[simp] theorem setCr_iodC (r k : Nat) (v : Word) : (s.setCr r k v).iodC = s.iodC := rfl
@[simp] theorem setCr_rom (r k : Nat) (v : Word) : (s.setCr r k v).rom = s.rom := rfl
@[simp] theorem setCr_bcn (r k : Nat) (v : Word) : (s.setCr r k v).bcn = s.bcn := rfl
@[simp] theorem setCr_coreR (r k : Nat) (v : Word) : (s.setCr r k v).coreR = s.coreR := rfl
@[simp] theorem setCr_dieR (r k : Nat) (v : Word) : (s.setCr r k v).dieR = s.dieR := rfl
@[simp] theorem setCr_iodR (r k : Nat) (v : Word) : (s.setCr r k v).iodR = s.iodR := rfl
@[simp] theorem setCr_cx (r k : Nat) (v : Word) : (s.setCr r k v).cx = s.cx := rfl
@[simp] theorem setCr_acb (r k : Nat) (v : Word) : (s.setCr r k v).acb = s.acb := rfl
@[simp] theorem setCr_stat (r k : Nat) (v : Word) : (s.setCr r k v).stat = s.stat := rfl
@[simp] theorem setCr_slots (r k : Nat) (v : Word) : (s.setCr r k v).slots = s.slots := rfl
@[simp] theorem setCr_mem (r k : Nat) (v : Word) : (s.setCr r k v).mem = s.mem := rfl
@[simp] theorem setCr_syn (r k : Nat) (v : Word) : (s.setCr r k v).syn = s.syn := rfl
@[simp] theorem setCr_poison (r k : Nat) (v : Word) : (s.setCr r k v).poison = s.poison := rfl
@[simp] theorem setCr_cache (r k : Nat) (v : Word) : (s.setCr r k v).cache = s.cache := rfl
@[simp] theorem setCr_sramScrub (r k : Nat) (v : Word) : (s.setCr r k v).sramScrub = s.sramScrub := rfl
@[simp] theorem setCr_hostMem (r k : Nat) (v : Word) : (s.setCr r k v).hostMem = s.hostMem := rfl
@[simp] theorem setCr_kpr (r k : Nat) (v : Word) : (s.setCr r k v).kpr = s.kpr := rfl
@[simp] theorem setCr_map (r k : Nat) (v : Word) : (s.setCr r k v).map = s.map := rfl
@[simp] theorem setCr_nbu (r k : Nat) (v : Word) : (s.setCr r k v).nbu = s.nbu := rfl
@[simp] theorem setCr_d2d (r k : Nat) (v : Word) : (s.setCr r k v).d2d = s.d2d := rfl
@[simp] theorem setCr_cl (r k : Nat) (v : Word) : (s.setCr r k v).cl = s.cl := rfl
@[simp] theorem setCr_thm (r k : Nat) (v : Word) : (s.setCr r k v).thm = s.thm := rfl
@[simp] theorem setCr_sec (r k : Nat) (v : Word) : (s.setCr r k v).sec = s.sec := rfl
@[simp] theorem setCr_pins (r k : Nat) (v : Word) : (s.setCr r k v).pins = s.pins := rfl

@[simp] theorem hostWrite_pending (a : Nat) (bs : List Byte) : (s.hostWrite a bs).pending = s.pending := rfl
@[simp] theorem hostWrite_free (a : Nat) (bs : List Byte) : (s.hostWrite a bs).free = s.free := rfl
@[simp] theorem hostWrite_out (a : Nat) (bs : List Byte) : (s.hostWrite a bs).out = s.out := rfl
@[simp] theorem hostWrite_powered (a : Nat) (bs : List Byte) : (s.hostWrite a bs).powered = s.powered := rfl
@[simp] theorem hostWrite_lateKeeper (a : Nat) (bs : List Byte) : (s.hostWrite a bs).lateKeeper = s.lateKeeper := rfl
@[simp] theorem hostWrite_straps (a : Nat) (bs : List Byte) : (s.hostWrite a bs).straps = s.straps := rfl
@[simp] theorem hostWrite_iodC (a : Nat) (bs : List Byte) : (s.hostWrite a bs).iodC = s.iodC := rfl
@[simp] theorem hostWrite_rom (a : Nat) (bs : List Byte) : (s.hostWrite a bs).rom = s.rom := rfl
@[simp] theorem hostWrite_bcn (a : Nat) (bs : List Byte) : (s.hostWrite a bs).bcn = s.bcn := rfl
@[simp] theorem hostWrite_coreR (a : Nat) (bs : List Byte) : (s.hostWrite a bs).coreR = s.coreR := rfl
@[simp] theorem hostWrite_dieR (a : Nat) (bs : List Byte) : (s.hostWrite a bs).dieR = s.dieR := rfl
@[simp] theorem hostWrite_iodR (a : Nat) (bs : List Byte) : (s.hostWrite a bs).iodR = s.iodR := rfl
@[simp] theorem hostWrite_cx (a : Nat) (bs : List Byte) : (s.hostWrite a bs).cx = s.cx := rfl
@[simp] theorem hostWrite_acb (a : Nat) (bs : List Byte) : (s.hostWrite a bs).acb = s.acb := rfl
@[simp] theorem hostWrite_stat (a : Nat) (bs : List Byte) : (s.hostWrite a bs).stat = s.stat := rfl
@[simp] theorem hostWrite_slots (a : Nat) (bs : List Byte) : (s.hostWrite a bs).slots = s.slots := rfl
@[simp] theorem hostWrite_mem (a : Nat) (bs : List Byte) : (s.hostWrite a bs).mem = s.mem := rfl
@[simp] theorem hostWrite_syn (a : Nat) (bs : List Byte) : (s.hostWrite a bs).syn = s.syn := rfl
@[simp] theorem hostWrite_poison (a : Nat) (bs : List Byte) : (s.hostWrite a bs).poison = s.poison := rfl
@[simp] theorem hostWrite_cache (a : Nat) (bs : List Byte) : (s.hostWrite a bs).cache = s.cache := rfl
@[simp] theorem hostWrite_sramScrub (a : Nat) (bs : List Byte) : (s.hostWrite a bs).sramScrub = s.sramScrub := rfl
@[simp] theorem hostWrite_host (a : Nat) (bs : List Byte) : (s.hostWrite a bs).host = s.host := rfl
@[simp] theorem hostWrite_kpr (a : Nat) (bs : List Byte) : (s.hostWrite a bs).kpr = s.kpr := rfl
@[simp] theorem hostWrite_map (a : Nat) (bs : List Byte) : (s.hostWrite a bs).map = s.map := rfl
@[simp] theorem hostWrite_nbu (a : Nat) (bs : List Byte) : (s.hostWrite a bs).nbu = s.nbu := rfl
@[simp] theorem hostWrite_d2d (a : Nat) (bs : List Byte) : (s.hostWrite a bs).d2d = s.d2d := rfl
@[simp] theorem hostWrite_cl (a : Nat) (bs : List Byte) : (s.hostWrite a bs).cl = s.cl := rfl
@[simp] theorem hostWrite_thm (a : Nat) (bs : List Byte) : (s.hostWrite a bs).thm = s.thm := rfl
@[simp] theorem hostWrite_sec (a : Nat) (bs : List Byte) : (s.hostWrite a bs).sec = s.sec := rfl
@[simp] theorem hostWrite_pins (a : Nat) (bs : List Byte) : (s.hostWrite a bs).pins = s.pins := rfl

@[simp] theorem logFull_pending (y p : Nat) (q : Bool) (r : Nat) (d : List Byte) : (s.logFull y p q r d).pending = s.pending := rfl
@[simp] theorem logFull_free (y p : Nat) (q : Bool) (r : Nat) (d : List Byte) : (s.logFull y p q r d).free = s.free := rfl
@[simp] theorem logFull_out (y p : Nat) (q : Bool) (r : Nat) (d : List Byte) : (s.logFull y p q r d).out = s.out := rfl
@[simp] theorem logFull_powered (y p : Nat) (q : Bool) (r : Nat) (d : List Byte) : (s.logFull y p q r d).powered = s.powered := rfl
@[simp] theorem logFull_lateKeeper (y p : Nat) (q : Bool) (r : Nat) (d : List Byte) : (s.logFull y p q r d).lateKeeper = s.lateKeeper := rfl
@[simp] theorem logFull_straps (y p : Nat) (q : Bool) (r : Nat) (d : List Byte) : (s.logFull y p q r d).straps = s.straps := rfl
@[simp] theorem logFull_iodC (y p : Nat) (q : Bool) (r : Nat) (d : List Byte) : (s.logFull y p q r d).iodC = s.iodC := rfl
@[simp] theorem logFull_rom (y p : Nat) (q : Bool) (r : Nat) (d : List Byte) : (s.logFull y p q r d).rom = s.rom := rfl
@[simp] theorem logFull_bcn (y p : Nat) (q : Bool) (r : Nat) (d : List Byte) : (s.logFull y p q r d).bcn = s.bcn := rfl
@[simp] theorem logFull_coreR (y p : Nat) (q : Bool) (r : Nat) (d : List Byte) : (s.logFull y p q r d).coreR = s.coreR := rfl
@[simp] theorem logFull_dieR (y p : Nat) (q : Bool) (r : Nat) (d : List Byte) : (s.logFull y p q r d).dieR = s.dieR := rfl
@[simp] theorem logFull_iodR (y p : Nat) (q : Bool) (r : Nat) (d : List Byte) : (s.logFull y p q r d).iodR = s.iodR := rfl
@[simp] theorem logFull_cx (y p : Nat) (q : Bool) (r : Nat) (d : List Byte) : (s.logFull y p q r d).cx = s.cx := rfl
@[simp] theorem logFull_acb (y p : Nat) (q : Bool) (r : Nat) (d : List Byte) : (s.logFull y p q r d).acb = s.acb := rfl
@[simp] theorem logFull_stat (y p : Nat) (q : Bool) (r : Nat) (d : List Byte) : (s.logFull y p q r d).stat = s.stat := rfl
@[simp] theorem logFull_slots (y p : Nat) (q : Bool) (r : Nat) (d : List Byte) : (s.logFull y p q r d).slots = s.slots := rfl
@[simp] theorem logFull_mem (y p : Nat) (q : Bool) (r : Nat) (d : List Byte) : (s.logFull y p q r d).mem = s.mem := rfl
@[simp] theorem logFull_syn (y p : Nat) (q : Bool) (r : Nat) (d : List Byte) : (s.logFull y p q r d).syn = s.syn := rfl
@[simp] theorem logFull_poison (y p : Nat) (q : Bool) (r : Nat) (d : List Byte) : (s.logFull y p q r d).poison = s.poison := rfl
@[simp] theorem logFull_cache (y p : Nat) (q : Bool) (r : Nat) (d : List Byte) : (s.logFull y p q r d).cache = s.cache := rfl
@[simp] theorem logFull_sramScrub (y p : Nat) (q : Bool) (r : Nat) (d : List Byte) : (s.logFull y p q r d).sramScrub = s.sramScrub := rfl
@[simp] theorem logFull_hostMem (y p : Nat) (q : Bool) (r : Nat) (d : List Byte) : (s.logFull y p q r d).hostMem = s.hostMem := rfl
@[simp] theorem logFull_host (y p : Nat) (q : Bool) (r : Nat) (d : List Byte) : (s.logFull y p q r d).host = s.host := rfl
@[simp] theorem logFull_map (y p : Nat) (q : Bool) (r : Nat) (d : List Byte) : (s.logFull y p q r d).map = s.map := rfl
@[simp] theorem logFull_nbu (y p : Nat) (q : Bool) (r : Nat) (d : List Byte) : (s.logFull y p q r d).nbu = s.nbu := rfl
@[simp] theorem logFull_d2d (y p : Nat) (q : Bool) (r : Nat) (d : List Byte) : (s.logFull y p q r d).d2d = s.d2d := rfl
@[simp] theorem logFull_cl (y p : Nat) (q : Bool) (r : Nat) (d : List Byte) : (s.logFull y p q r d).cl = s.cl := rfl
@[simp] theorem logFull_thm (y p : Nat) (q : Bool) (r : Nat) (d : List Byte) : (s.logFull y p q r d).thm = s.thm := rfl
@[simp] theorem logFull_sec (y p : Nat) (q : Bool) (r : Nat) (d : List Byte) : (s.logFull y p q r d).sec = s.sec := rfl
@[simp] theorem logFull_pins (y p : Nat) (q : Bool) (r : Nat) (d : List Byte) : (s.logFull y p q r d).pins = s.pins := rfl

@[simp] theorem logEv_pending (y p : Nat) (d : List Byte) : (s.logEv y p d).pending = s.pending := rfl
@[simp] theorem logEv_free (y p : Nat) (d : List Byte) : (s.logEv y p d).free = s.free := rfl
@[simp] theorem logEv_out (y p : Nat) (d : List Byte) : (s.logEv y p d).out = s.out := rfl
@[simp] theorem logEv_powered (y p : Nat) (d : List Byte) : (s.logEv y p d).powered = s.powered := rfl
@[simp] theorem logEv_lateKeeper (y p : Nat) (d : List Byte) : (s.logEv y p d).lateKeeper = s.lateKeeper := rfl
@[simp] theorem logEv_straps (y p : Nat) (d : List Byte) : (s.logEv y p d).straps = s.straps := rfl
@[simp] theorem logEv_iodC (y p : Nat) (d : List Byte) : (s.logEv y p d).iodC = s.iodC := rfl
@[simp] theorem logEv_rom (y p : Nat) (d : List Byte) : (s.logEv y p d).rom = s.rom := rfl
@[simp] theorem logEv_bcn (y p : Nat) (d : List Byte) : (s.logEv y p d).bcn = s.bcn := rfl
@[simp] theorem logEv_coreR (y p : Nat) (d : List Byte) : (s.logEv y p d).coreR = s.coreR := rfl
@[simp] theorem logEv_dieR (y p : Nat) (d : List Byte) : (s.logEv y p d).dieR = s.dieR := rfl
@[simp] theorem logEv_iodR (y p : Nat) (d : List Byte) : (s.logEv y p d).iodR = s.iodR := rfl
@[simp] theorem logEv_cx (y p : Nat) (d : List Byte) : (s.logEv y p d).cx = s.cx := rfl
@[simp] theorem logEv_acb (y p : Nat) (d : List Byte) : (s.logEv y p d).acb = s.acb := rfl
@[simp] theorem logEv_stat (y p : Nat) (d : List Byte) : (s.logEv y p d).stat = s.stat := rfl
@[simp] theorem logEv_slots (y p : Nat) (d : List Byte) : (s.logEv y p d).slots = s.slots := rfl
@[simp] theorem logEv_mem (y p : Nat) (d : List Byte) : (s.logEv y p d).mem = s.mem := rfl
@[simp] theorem logEv_syn (y p : Nat) (d : List Byte) : (s.logEv y p d).syn = s.syn := rfl
@[simp] theorem logEv_poison (y p : Nat) (d : List Byte) : (s.logEv y p d).poison = s.poison := rfl
@[simp] theorem logEv_cache (y p : Nat) (d : List Byte) : (s.logEv y p d).cache = s.cache := rfl
@[simp] theorem logEv_sramScrub (y p : Nat) (d : List Byte) : (s.logEv y p d).sramScrub = s.sramScrub := rfl
@[simp] theorem logEv_hostMem (y p : Nat) (d : List Byte) : (s.logEv y p d).hostMem = s.hostMem := rfl
@[simp] theorem logEv_host (y p : Nat) (d : List Byte) : (s.logEv y p d).host = s.host := rfl
@[simp] theorem logEv_map (y p : Nat) (d : List Byte) : (s.logEv y p d).map = s.map := rfl
@[simp] theorem logEv_nbu (y p : Nat) (d : List Byte) : (s.logEv y p d).nbu = s.nbu := rfl
@[simp] theorem logEv_d2d (y p : Nat) (d : List Byte) : (s.logEv y p d).d2d = s.d2d := rfl
@[simp] theorem logEv_cl (y p : Nat) (d : List Byte) : (s.logEv y p d).cl = s.cl := rfl
@[simp] theorem logEv_thm (y p : Nat) (d : List Byte) : (s.logEv y p d).thm = s.thm := rfl
@[simp] theorem logEv_sec (y p : Nat) (d : List Byte) : (s.logEv y p d).sec = s.sec := rfl
@[simp] theorem logEv_pins (y p : Nat) (d : List Byte) : (s.logEv y p d).pins = s.pins := rfl

@[simp] theorem complete_pending (c : Cmd) (x y : Nat) (r : List Byte) : (s.complete c x y r).pending = s.pending := rfl
@[simp] theorem complete_free (c : Cmd) (x y : Nat) (r : List Byte) : (s.complete c x y r).free = s.free := rfl
@[simp] theorem complete_out (c : Cmd) (x y : Nat) (r : List Byte) : (s.complete c x y r).out = s.out := rfl
@[simp] theorem complete_powered (c : Cmd) (x y : Nat) (r : List Byte) : (s.complete c x y r).powered = s.powered := rfl
@[simp] theorem complete_lateKeeper (c : Cmd) (x y : Nat) (r : List Byte) : (s.complete c x y r).lateKeeper = s.lateKeeper := rfl
@[simp] theorem complete_straps (c : Cmd) (x y : Nat) (r : List Byte) : (s.complete c x y r).straps = s.straps := rfl
@[simp] theorem complete_iodC (c : Cmd) (x y : Nat) (r : List Byte) : (s.complete c x y r).iodC = s.iodC := rfl
@[simp] theorem complete_rom (c : Cmd) (x y : Nat) (r : List Byte) : (s.complete c x y r).rom = s.rom := rfl
@[simp] theorem complete_bcn (c : Cmd) (x y : Nat) (r : List Byte) : (s.complete c x y r).bcn = s.bcn := rfl
@[simp] theorem complete_coreR (c : Cmd) (x y : Nat) (r : List Byte) : (s.complete c x y r).coreR = s.coreR := rfl
@[simp] theorem complete_dieR (c : Cmd) (x y : Nat) (r : List Byte) : (s.complete c x y r).dieR = s.dieR := rfl
@[simp] theorem complete_iodR (c : Cmd) (x y : Nat) (r : List Byte) : (s.complete c x y r).iodR = s.iodR := rfl
@[simp] theorem complete_cx (c : Cmd) (x y : Nat) (r : List Byte) : (s.complete c x y r).cx = s.cx := rfl
@[simp] theorem complete_acb (c : Cmd) (x y : Nat) (r : List Byte) : (s.complete c x y r).acb = s.acb := rfl
@[simp] theorem complete_stat (c : Cmd) (x y : Nat) (r : List Byte) : (s.complete c x y r).stat = s.stat := rfl
@[simp] theorem complete_slots (c : Cmd) (x y : Nat) (r : List Byte) : (s.complete c x y r).slots = s.slots := rfl
@[simp] theorem complete_mem (c : Cmd) (x y : Nat) (r : List Byte) : (s.complete c x y r).mem = s.mem := rfl
@[simp] theorem complete_syn (c : Cmd) (x y : Nat) (r : List Byte) : (s.complete c x y r).syn = s.syn := rfl
@[simp] theorem complete_poison (c : Cmd) (x y : Nat) (r : List Byte) : (s.complete c x y r).poison = s.poison := rfl
@[simp] theorem complete_cache (c : Cmd) (x y : Nat) (r : List Byte) : (s.complete c x y r).cache = s.cache := rfl
@[simp] theorem complete_sramScrub (c : Cmd) (x y : Nat) (r : List Byte) : (s.complete c x y r).sramScrub = s.sramScrub := rfl
@[simp] theorem complete_hostMem (c : Cmd) (x y : Nat) (r : List Byte) : (s.complete c x y r).hostMem = s.hostMem := rfl
@[simp] theorem complete_host (c : Cmd) (x y : Nat) (r : List Byte) : (s.complete c x y r).host = s.host := rfl
@[simp] theorem complete_map (c : Cmd) (x y : Nat) (r : List Byte) : (s.complete c x y r).map = s.map := rfl
@[simp] theorem complete_nbu (c : Cmd) (x y : Nat) (r : List Byte) : (s.complete c x y r).nbu = s.nbu := rfl
@[simp] theorem complete_d2d (c : Cmd) (x y : Nat) (r : List Byte) : (s.complete c x y r).d2d = s.d2d := rfl
@[simp] theorem complete_cl (c : Cmd) (x y : Nat) (r : List Byte) : (s.complete c x y r).cl = s.cl := rfl
@[simp] theorem complete_thm (c : Cmd) (x y : Nat) (r : List Byte) : (s.complete c x y r).thm = s.thm := rfl
@[simp] theorem complete_sec (c : Cmd) (x y : Nat) (r : List Byte) : (s.complete c x y r).sec = s.sec := rfl
@[simp] theorem complete_pins (c : Cmd) (x y : Nat) (r : List Byte) : (s.complete c x y r).pins = s.pins := rfl

@[simp] theorem answer_pending (c : Cmd) (x : Nat) : (s.answer c x).pending = s.pending := rfl
@[simp] theorem answer_free (c : Cmd) (x : Nat) : (s.answer c x).free = s.free := rfl
@[simp] theorem answer_out (c : Cmd) (x : Nat) : (s.answer c x).out = s.out := rfl
@[simp] theorem answer_powered (c : Cmd) (x : Nat) : (s.answer c x).powered = s.powered := rfl
@[simp] theorem answer_lateKeeper (c : Cmd) (x : Nat) : (s.answer c x).lateKeeper = s.lateKeeper := rfl
@[simp] theorem answer_straps (c : Cmd) (x : Nat) : (s.answer c x).straps = s.straps := rfl
@[simp] theorem answer_iodC (c : Cmd) (x : Nat) : (s.answer c x).iodC = s.iodC := rfl
@[simp] theorem answer_rom (c : Cmd) (x : Nat) : (s.answer c x).rom = s.rom := rfl
@[simp] theorem answer_bcn (c : Cmd) (x : Nat) : (s.answer c x).bcn = s.bcn := rfl
@[simp] theorem answer_coreR (c : Cmd) (x : Nat) : (s.answer c x).coreR = s.coreR := rfl
@[simp] theorem answer_dieR (c : Cmd) (x : Nat) : (s.answer c x).dieR = s.dieR := rfl
@[simp] theorem answer_iodR (c : Cmd) (x : Nat) : (s.answer c x).iodR = s.iodR := rfl
@[simp] theorem answer_cx (c : Cmd) (x : Nat) : (s.answer c x).cx = s.cx := rfl
@[simp] theorem answer_acb (c : Cmd) (x : Nat) : (s.answer c x).acb = s.acb := rfl
@[simp] theorem answer_stat (c : Cmd) (x : Nat) : (s.answer c x).stat = s.stat := rfl
@[simp] theorem answer_slots (c : Cmd) (x : Nat) : (s.answer c x).slots = s.slots := rfl
@[simp] theorem answer_mem (c : Cmd) (x : Nat) : (s.answer c x).mem = s.mem := rfl
@[simp] theorem answer_syn (c : Cmd) (x : Nat) : (s.answer c x).syn = s.syn := rfl
@[simp] theorem answer_poison (c : Cmd) (x : Nat) : (s.answer c x).poison = s.poison := rfl
@[simp] theorem answer_cache (c : Cmd) (x : Nat) : (s.answer c x).cache = s.cache := rfl
@[simp] theorem answer_sramScrub (c : Cmd) (x : Nat) : (s.answer c x).sramScrub = s.sramScrub := rfl
@[simp] theorem answer_hostMem (c : Cmd) (x : Nat) : (s.answer c x).hostMem = s.hostMem := rfl
@[simp] theorem answer_host (c : Cmd) (x : Nat) : (s.answer c x).host = s.host := rfl
@[simp] theorem answer_map (c : Cmd) (x : Nat) : (s.answer c x).map = s.map := rfl
@[simp] theorem answer_nbu (c : Cmd) (x : Nat) : (s.answer c x).nbu = s.nbu := rfl
@[simp] theorem answer_d2d (c : Cmd) (x : Nat) : (s.answer c x).d2d = s.d2d := rfl
@[simp] theorem answer_cl (c : Cmd) (x : Nat) : (s.answer c x).cl = s.cl := rfl
@[simp] theorem answer_thm (c : Cmd) (x : Nat) : (s.answer c x).thm = s.thm := rfl
@[simp] theorem answer_sec (c : Cmd) (x : Nat) : (s.answer c x).sec = s.sec := rfl
@[simp] theorem answer_pins (c : Cmd) (x : Nat) : (s.answer c x).pins = s.pins := rfl

@[simp] theorem noteCmd_pending (c : Cmd) (n : Nat) : (s.noteCmd c n).pending = s.pending := rfl
@[simp] theorem noteCmd_free (c : Cmd) (n : Nat) : (s.noteCmd c n).free = s.free := rfl
@[simp] theorem noteCmd_out (c : Cmd) (n : Nat) : (s.noteCmd c n).out = s.out := rfl
@[simp] theorem noteCmd_powered (c : Cmd) (n : Nat) : (s.noteCmd c n).powered = s.powered := rfl
@[simp] theorem noteCmd_lateKeeper (c : Cmd) (n : Nat) : (s.noteCmd c n).lateKeeper = s.lateKeeper := rfl
@[simp] theorem noteCmd_straps (c : Cmd) (n : Nat) : (s.noteCmd c n).straps = s.straps := rfl
@[simp] theorem noteCmd_iodC (c : Cmd) (n : Nat) : (s.noteCmd c n).iodC = s.iodC := rfl
@[simp] theorem noteCmd_rom (c : Cmd) (n : Nat) : (s.noteCmd c n).rom = s.rom := rfl
@[simp] theorem noteCmd_bcn (c : Cmd) (n : Nat) : (s.noteCmd c n).bcn = s.bcn := rfl
@[simp] theorem noteCmd_coreR (c : Cmd) (n : Nat) : (s.noteCmd c n).coreR = s.coreR := rfl
@[simp] theorem noteCmd_dieR (c : Cmd) (n : Nat) : (s.noteCmd c n).dieR = s.dieR := rfl
@[simp] theorem noteCmd_iodR (c : Cmd) (n : Nat) : (s.noteCmd c n).iodR = s.iodR := rfl
@[simp] theorem noteCmd_cx (c : Cmd) (n : Nat) : (s.noteCmd c n).cx = s.cx := rfl
@[simp] theorem noteCmd_acb (c : Cmd) (n : Nat) : (s.noteCmd c n).acb = s.acb := rfl
@[simp] theorem noteCmd_stat (c : Cmd) (n : Nat) : (s.noteCmd c n).stat = s.stat := rfl
@[simp] theorem noteCmd_slots (c : Cmd) (n : Nat) : (s.noteCmd c n).slots = s.slots := rfl
@[simp] theorem noteCmd_mem (c : Cmd) (n : Nat) : (s.noteCmd c n).mem = s.mem := rfl
@[simp] theorem noteCmd_syn (c : Cmd) (n : Nat) : (s.noteCmd c n).syn = s.syn := rfl
@[simp] theorem noteCmd_poison (c : Cmd) (n : Nat) : (s.noteCmd c n).poison = s.poison := rfl
@[simp] theorem noteCmd_cache (c : Cmd) (n : Nat) : (s.noteCmd c n).cache = s.cache := rfl
@[simp] theorem noteCmd_sramScrub (c : Cmd) (n : Nat) : (s.noteCmd c n).sramScrub = s.sramScrub := rfl
@[simp] theorem noteCmd_hostMem (c : Cmd) (n : Nat) : (s.noteCmd c n).hostMem = s.hostMem := rfl
@[simp] theorem noteCmd_host (c : Cmd) (n : Nat) : (s.noteCmd c n).host = s.host := rfl
@[simp] theorem noteCmd_map (c : Cmd) (n : Nat) : (s.noteCmd c n).map = s.map := rfl
@[simp] theorem noteCmd_nbu (c : Cmd) (n : Nat) : (s.noteCmd c n).nbu = s.nbu := rfl
@[simp] theorem noteCmd_d2d (c : Cmd) (n : Nat) : (s.noteCmd c n).d2d = s.d2d := rfl
@[simp] theorem noteCmd_cl (c : Cmd) (n : Nat) : (s.noteCmd c n).cl = s.cl := rfl
@[simp] theorem noteCmd_thm (c : Cmd) (n : Nat) : (s.noteCmd c n).thm = s.thm := rfl
@[simp] theorem noteCmd_sec (c : Cmd) (n : Nat) : (s.noteCmd c n).sec = s.sec := rfl
@[simp] theorem noteCmd_pins (c : Cmd) (n : Nat) : (s.noteCmd c n).pins = s.pins := rfl

@[simp] theorem sendMsix_pending (v : Nat) : (s.sendMsix v).pending = s.pending := by unfold State.sendMsix; split <;> rfl
@[simp] theorem sendMsix_free (v : Nat) : (s.sendMsix v).free = s.free := by unfold State.sendMsix; split <;> rfl
@[simp] theorem sendMsix_powered (v : Nat) : (s.sendMsix v).powered = s.powered := by unfold State.sendMsix; split <;> rfl
@[simp] theorem sendMsix_lateKeeper (v : Nat) : (s.sendMsix v).lateKeeper = s.lateKeeper := by unfold State.sendMsix; split <;> rfl
@[simp] theorem sendMsix_straps (v : Nat) : (s.sendMsix v).straps = s.straps := by unfold State.sendMsix; split <;> rfl
@[simp] theorem sendMsix_iodC (v : Nat) : (s.sendMsix v).iodC = s.iodC := by unfold State.sendMsix; split <;> rfl
@[simp] theorem sendMsix_rom (v : Nat) : (s.sendMsix v).rom = s.rom := by unfold State.sendMsix; split <;> rfl
@[simp] theorem sendMsix_bcn (v : Nat) : (s.sendMsix v).bcn = s.bcn := by unfold State.sendMsix; split <;> rfl
@[simp] theorem sendMsix_coreR (v : Nat) : (s.sendMsix v).coreR = s.coreR := by unfold State.sendMsix; split <;> rfl
@[simp] theorem sendMsix_dieR (v : Nat) : (s.sendMsix v).dieR = s.dieR := by unfold State.sendMsix; split <;> rfl
@[simp] theorem sendMsix_iodR (v : Nat) : (s.sendMsix v).iodR = s.iodR := by unfold State.sendMsix; split <;> rfl
@[simp] theorem sendMsix_cx (v : Nat) : (s.sendMsix v).cx = s.cx := by unfold State.sendMsix; split <;> rfl
@[simp] theorem sendMsix_acb (v : Nat) : (s.sendMsix v).acb = s.acb := by unfold State.sendMsix; split <;> rfl
@[simp] theorem sendMsix_stat (v : Nat) : (s.sendMsix v).stat = s.stat := by unfold State.sendMsix; split <;> rfl
@[simp] theorem sendMsix_slots (v : Nat) : (s.sendMsix v).slots = s.slots := by unfold State.sendMsix; split <;> rfl
@[simp] theorem sendMsix_mem (v : Nat) : (s.sendMsix v).mem = s.mem := by unfold State.sendMsix; split <;> rfl
@[simp] theorem sendMsix_syn (v : Nat) : (s.sendMsix v).syn = s.syn := by unfold State.sendMsix; split <;> rfl
@[simp] theorem sendMsix_poison (v : Nat) : (s.sendMsix v).poison = s.poison := by unfold State.sendMsix; split <;> rfl
@[simp] theorem sendMsix_cache (v : Nat) : (s.sendMsix v).cache = s.cache := by unfold State.sendMsix; split <;> rfl
@[simp] theorem sendMsix_sramScrub (v : Nat) : (s.sendMsix v).sramScrub = s.sramScrub := by unfold State.sendMsix; split <;> rfl
@[simp] theorem sendMsix_hostMem (v : Nat) : (s.sendMsix v).hostMem = s.hostMem := by unfold State.sendMsix; split <;> rfl
@[simp] theorem sendMsix_kpr (v : Nat) : (s.sendMsix v).kpr = s.kpr := by unfold State.sendMsix; split <;> rfl
@[simp] theorem sendMsix_map (v : Nat) : (s.sendMsix v).map = s.map := by unfold State.sendMsix; split <;> rfl
@[simp] theorem sendMsix_nbu (v : Nat) : (s.sendMsix v).nbu = s.nbu := by unfold State.sendMsix; split <;> rfl
@[simp] theorem sendMsix_d2d (v : Nat) : (s.sendMsix v).d2d = s.d2d := by unfold State.sendMsix; split <;> rfl
@[simp] theorem sendMsix_cl (v : Nat) : (s.sendMsix v).cl = s.cl := by unfold State.sendMsix; split <;> rfl
@[simp] theorem sendMsix_thm (v : Nat) : (s.sendMsix v).thm = s.thm := by unfold State.sendMsix; split <;> rfl
@[simp] theorem sendMsix_sec (v : Nat) : (s.sendMsix v).sec = s.sec := by unfold State.sendMsix; split <;> rfl
@[simp] theorem sendMsix_pins (v : Nat) : (s.sendMsix v).pins = s.pins := by unfold State.sendMsix; split <;> rfl

@[simp] theorem raise_pending (b : Nat) : (s.raise b).pending = s.pending := by unfold State.raise; dsimp only; split <;> simp
@[simp] theorem raise_free (b : Nat) : (s.raise b).free = s.free := by unfold State.raise; dsimp only; split <;> simp
@[simp] theorem raise_powered (b : Nat) : (s.raise b).powered = s.powered := by unfold State.raise; dsimp only; split <;> simp
@[simp] theorem raise_lateKeeper (b : Nat) : (s.raise b).lateKeeper = s.lateKeeper := by unfold State.raise; dsimp only; split <;> simp
@[simp] theorem raise_straps (b : Nat) : (s.raise b).straps = s.straps := by unfold State.raise; dsimp only; split <;> simp
@[simp] theorem raise_iodC (b : Nat) : (s.raise b).iodC = s.iodC := by unfold State.raise; dsimp only; split <;> simp
@[simp] theorem raise_rom (b : Nat) : (s.raise b).rom = s.rom := by unfold State.raise; dsimp only; split <;> simp
@[simp] theorem raise_bcn (b : Nat) : (s.raise b).bcn = s.bcn := by unfold State.raise; dsimp only; split <;> simp
@[simp] theorem raise_coreR (b : Nat) : (s.raise b).coreR = s.coreR := by unfold State.raise; dsimp only; split <;> simp
@[simp] theorem raise_dieR (b : Nat) : (s.raise b).dieR = s.dieR := by unfold State.raise; dsimp only; split <;> simp
@[simp] theorem raise_iodR (b : Nat) : (s.raise b).iodR = s.iodR := by unfold State.raise; dsimp only; split <;> simp
@[simp] theorem raise_cx (b : Nat) : (s.raise b).cx = s.cx := by unfold State.raise; dsimp only; split <;> simp
@[simp] theorem raise_acb (b : Nat) : (s.raise b).acb = s.acb := by unfold State.raise; dsimp only; split <;> simp
@[simp] theorem raise_stat (b : Nat) : (s.raise b).stat = s.stat := by unfold State.raise; dsimp only; split <;> simp
@[simp] theorem raise_slots (b : Nat) : (s.raise b).slots = s.slots := by unfold State.raise; dsimp only; split <;> simp
@[simp] theorem raise_mem (b : Nat) : (s.raise b).mem = s.mem := by unfold State.raise; dsimp only; split <;> simp
@[simp] theorem raise_syn (b : Nat) : (s.raise b).syn = s.syn := by unfold State.raise; dsimp only; split <;> simp
@[simp] theorem raise_poison (b : Nat) : (s.raise b).poison = s.poison := by unfold State.raise; dsimp only; split <;> simp
@[simp] theorem raise_cache (b : Nat) : (s.raise b).cache = s.cache := by unfold State.raise; dsimp only; split <;> simp
@[simp] theorem raise_sramScrub (b : Nat) : (s.raise b).sramScrub = s.sramScrub := by unfold State.raise; dsimp only; split <;> simp
@[simp] theorem raise_hostMem (b : Nat) : (s.raise b).hostMem = s.hostMem := by unfold State.raise; dsimp only; split <;> simp
@[simp] theorem raise_kpr (b : Nat) : (s.raise b).kpr = s.kpr := by unfold State.raise; dsimp only; split <;> simp
@[simp] theorem raise_map (b : Nat) : (s.raise b).map = s.map := by unfold State.raise; dsimp only; split <;> simp
@[simp] theorem raise_nbu (b : Nat) : (s.raise b).nbu = s.nbu := by unfold State.raise; dsimp only; split <;> simp
@[simp] theorem raise_d2d (b : Nat) : (s.raise b).d2d = s.d2d := by unfold State.raise; dsimp only; split <;> simp
@[simp] theorem raise_cl (b : Nat) : (s.raise b).cl = s.cl := by unfold State.raise; dsimp only; split <;> simp
@[simp] theorem raise_thm (b : Nat) : (s.raise b).thm = s.thm := by unfold State.raise; dsimp only; split <;> simp
@[simp] theorem raise_sec (b : Nat) : (s.raise b).sec = s.sec := by unfold State.raise; dsimp only; split <;> simp
@[simp] theorem raise_pins (b : Nat) : (s.raise b).pins = s.pins := by unfold State.raise; dsimp only; split <;> simp

@[simp] theorem buoy0_pending (b : Nat) (v : Bool) : (s.buoy0 b v).pending = s.pending := by unfold State.buoy0; split <;> simp
@[simp] theorem buoy0_free (b : Nat) (v : Bool) : (s.buoy0 b v).free = s.free := by unfold State.buoy0; split <;> simp
@[simp] theorem buoy0_powered (b : Nat) (v : Bool) : (s.buoy0 b v).powered = s.powered := by unfold State.buoy0; split <;> simp
@[simp] theorem buoy0_lateKeeper (b : Nat) (v : Bool) : (s.buoy0 b v).lateKeeper = s.lateKeeper := by unfold State.buoy0; split <;> simp
@[simp] theorem buoy0_straps (b : Nat) (v : Bool) : (s.buoy0 b v).straps = s.straps := by unfold State.buoy0; split <;> simp
@[simp] theorem buoy0_iodC (b : Nat) (v : Bool) : (s.buoy0 b v).iodC = s.iodC := by unfold State.buoy0; split <;> simp
@[simp] theorem buoy0_rom (b : Nat) (v : Bool) : (s.buoy0 b v).rom = s.rom := by unfold State.buoy0; split <;> simp
@[simp] theorem buoy0_bcn (b : Nat) (v : Bool) : (s.buoy0 b v).bcn = s.bcn := by unfold State.buoy0; split <;> simp
@[simp] theorem buoy0_coreR (b : Nat) (v : Bool) : (s.buoy0 b v).coreR = s.coreR := by unfold State.buoy0; split <;> simp
@[simp] theorem buoy0_dieR (b : Nat) (v : Bool) : (s.buoy0 b v).dieR = s.dieR := by unfold State.buoy0; split <;> simp
@[simp] theorem buoy0_iodR (b : Nat) (v : Bool) : (s.buoy0 b v).iodR = s.iodR := by unfold State.buoy0; split <;> simp
@[simp] theorem buoy0_cx (b : Nat) (v : Bool) : (s.buoy0 b v).cx = s.cx := by unfold State.buoy0; split <;> simp
@[simp] theorem buoy0_acb (b : Nat) (v : Bool) : (s.buoy0 b v).acb = s.acb := by unfold State.buoy0; split <;> simp
@[simp] theorem buoy0_stat (b : Nat) (v : Bool) : (s.buoy0 b v).stat = s.stat := by unfold State.buoy0; split <;> simp
@[simp] theorem buoy0_slots (b : Nat) (v : Bool) : (s.buoy0 b v).slots = s.slots := by unfold State.buoy0; split <;> simp
@[simp] theorem buoy0_mem (b : Nat) (v : Bool) : (s.buoy0 b v).mem = s.mem := by unfold State.buoy0; split <;> simp
@[simp] theorem buoy0_syn (b : Nat) (v : Bool) : (s.buoy0 b v).syn = s.syn := by unfold State.buoy0; split <;> simp
@[simp] theorem buoy0_poison (b : Nat) (v : Bool) : (s.buoy0 b v).poison = s.poison := by unfold State.buoy0; split <;> simp
@[simp] theorem buoy0_cache (b : Nat) (v : Bool) : (s.buoy0 b v).cache = s.cache := by unfold State.buoy0; split <;> simp
@[simp] theorem buoy0_sramScrub (b : Nat) (v : Bool) : (s.buoy0 b v).sramScrub = s.sramScrub := by unfold State.buoy0; split <;> simp
@[simp] theorem buoy0_hostMem (b : Nat) (v : Bool) : (s.buoy0 b v).hostMem = s.hostMem := by unfold State.buoy0; split <;> simp
@[simp] theorem buoy0_kpr (b : Nat) (v : Bool) : (s.buoy0 b v).kpr = s.kpr := by unfold State.buoy0; split <;> simp
@[simp] theorem buoy0_map (b : Nat) (v : Bool) : (s.buoy0 b v).map = s.map := by unfold State.buoy0; split <;> simp
@[simp] theorem buoy0_nbu (b : Nat) (v : Bool) : (s.buoy0 b v).nbu = s.nbu := by unfold State.buoy0; split <;> simp
@[simp] theorem buoy0_d2d (b : Nat) (v : Bool) : (s.buoy0 b v).d2d = s.d2d := by unfold State.buoy0; split <;> simp
@[simp] theorem buoy0_cl (b : Nat) (v : Bool) : (s.buoy0 b v).cl = s.cl := by unfold State.buoy0; split <;> simp
@[simp] theorem buoy0_thm (b : Nat) (v : Bool) : (s.buoy0 b v).thm = s.thm := by unfold State.buoy0; split <;> simp
@[simp] theorem buoy0_sec (b : Nat) (v : Bool) : (s.buoy0 b v).sec = s.sec := by unfold State.buoy0; split <;> simp
@[simp] theorem buoy0_pins (b : Nat) (v : Bool) : (s.buoy0 b v).pins = s.pins := by unfold State.buoy0; split <;> simp

@[simp] theorem buoy1_pending (b : Nat) (v : Bool) : (s.buoy1 b v).pending = s.pending := by unfold State.buoy1; split <;> simp
@[simp] theorem buoy1_free (b : Nat) (v : Bool) : (s.buoy1 b v).free = s.free := by unfold State.buoy1; split <;> simp
@[simp] theorem buoy1_powered (b : Nat) (v : Bool) : (s.buoy1 b v).powered = s.powered := by unfold State.buoy1; split <;> simp
@[simp] theorem buoy1_lateKeeper (b : Nat) (v : Bool) : (s.buoy1 b v).lateKeeper = s.lateKeeper := by unfold State.buoy1; split <;> simp
@[simp] theorem buoy1_straps (b : Nat) (v : Bool) : (s.buoy1 b v).straps = s.straps := by unfold State.buoy1; split <;> simp
@[simp] theorem buoy1_iodC (b : Nat) (v : Bool) : (s.buoy1 b v).iodC = s.iodC := by unfold State.buoy1; split <;> simp
@[simp] theorem buoy1_rom (b : Nat) (v : Bool) : (s.buoy1 b v).rom = s.rom := by unfold State.buoy1; split <;> simp
@[simp] theorem buoy1_bcn (b : Nat) (v : Bool) : (s.buoy1 b v).bcn = s.bcn := by unfold State.buoy1; split <;> simp
@[simp] theorem buoy1_coreR (b : Nat) (v : Bool) : (s.buoy1 b v).coreR = s.coreR := by unfold State.buoy1; split <;> simp
@[simp] theorem buoy1_dieR (b : Nat) (v : Bool) : (s.buoy1 b v).dieR = s.dieR := by unfold State.buoy1; split <;> simp
@[simp] theorem buoy1_iodR (b : Nat) (v : Bool) : (s.buoy1 b v).iodR = s.iodR := by unfold State.buoy1; split <;> simp
@[simp] theorem buoy1_cx (b : Nat) (v : Bool) : (s.buoy1 b v).cx = s.cx := by unfold State.buoy1; split <;> simp
@[simp] theorem buoy1_acb (b : Nat) (v : Bool) : (s.buoy1 b v).acb = s.acb := by unfold State.buoy1; split <;> simp
@[simp] theorem buoy1_stat (b : Nat) (v : Bool) : (s.buoy1 b v).stat = s.stat := by unfold State.buoy1; split <;> simp
@[simp] theorem buoy1_slots (b : Nat) (v : Bool) : (s.buoy1 b v).slots = s.slots := by unfold State.buoy1; split <;> simp
@[simp] theorem buoy1_mem (b : Nat) (v : Bool) : (s.buoy1 b v).mem = s.mem := by unfold State.buoy1; split <;> simp
@[simp] theorem buoy1_syn (b : Nat) (v : Bool) : (s.buoy1 b v).syn = s.syn := by unfold State.buoy1; split <;> simp
@[simp] theorem buoy1_poison (b : Nat) (v : Bool) : (s.buoy1 b v).poison = s.poison := by unfold State.buoy1; split <;> simp
@[simp] theorem buoy1_cache (b : Nat) (v : Bool) : (s.buoy1 b v).cache = s.cache := by unfold State.buoy1; split <;> simp
@[simp] theorem buoy1_sramScrub (b : Nat) (v : Bool) : (s.buoy1 b v).sramScrub = s.sramScrub := by unfold State.buoy1; split <;> simp
@[simp] theorem buoy1_hostMem (b : Nat) (v : Bool) : (s.buoy1 b v).hostMem = s.hostMem := by unfold State.buoy1; split <;> simp
@[simp] theorem buoy1_kpr (b : Nat) (v : Bool) : (s.buoy1 b v).kpr = s.kpr := by unfold State.buoy1; split <;> simp
@[simp] theorem buoy1_map (b : Nat) (v : Bool) : (s.buoy1 b v).map = s.map := by unfold State.buoy1; split <;> simp
@[simp] theorem buoy1_nbu (b : Nat) (v : Bool) : (s.buoy1 b v).nbu = s.nbu := by unfold State.buoy1; split <;> simp
@[simp] theorem buoy1_d2d (b : Nat) (v : Bool) : (s.buoy1 b v).d2d = s.d2d := by unfold State.buoy1; split <;> simp
@[simp] theorem buoy1_cl (b : Nat) (v : Bool) : (s.buoy1 b v).cl = s.cl := by unfold State.buoy1; split <;> simp
@[simp] theorem buoy1_thm (b : Nat) (v : Bool) : (s.buoy1 b v).thm = s.thm := by unfold State.buoy1; split <;> simp
@[simp] theorem buoy1_sec (b : Nat) (v : Bool) : (s.buoy1 b v).sec = s.sec := by unfold State.buoy1; split <;> simp
@[simp] theorem buoy1_pins (b : Nat) (v : Bool) : (s.buoy1 b v).pins = s.pins := by unfold State.buoy1; split <;> simp

@[simp] theorem setKprState_pending (v : Nat) : (s.setKprState v).pending = s.pending := by unfold State.setKprState; split <;> simp
@[simp] theorem setKprState_free (v : Nat) : (s.setKprState v).free = s.free := by unfold State.setKprState; split <;> simp
@[simp] theorem setKprState_powered (v : Nat) : (s.setKprState v).powered = s.powered := by unfold State.setKprState; split <;> simp
@[simp] theorem setKprState_lateKeeper (v : Nat) : (s.setKprState v).lateKeeper = s.lateKeeper := by unfold State.setKprState; split <;> simp
@[simp] theorem setKprState_straps (v : Nat) : (s.setKprState v).straps = s.straps := by unfold State.setKprState; split <;> simp
@[simp] theorem setKprState_iodC (v : Nat) : (s.setKprState v).iodC = s.iodC := by unfold State.setKprState; split <;> simp
@[simp] theorem setKprState_rom (v : Nat) : (s.setKprState v).rom = s.rom := by unfold State.setKprState; split <;> simp
@[simp] theorem setKprState_bcn (v : Nat) : (s.setKprState v).bcn = s.bcn := by unfold State.setKprState; split <;> simp
@[simp] theorem setKprState_coreR (v : Nat) : (s.setKprState v).coreR = s.coreR := by unfold State.setKprState; split <;> simp
@[simp] theorem setKprState_dieR (v : Nat) : (s.setKprState v).dieR = s.dieR := by unfold State.setKprState; split <;> simp
@[simp] theorem setKprState_iodR (v : Nat) : (s.setKprState v).iodR = s.iodR := by unfold State.setKprState; split <;> simp
@[simp] theorem setKprState_cx (v : Nat) : (s.setKprState v).cx = s.cx := by unfold State.setKprState; split <;> simp
@[simp] theorem setKprState_acb (v : Nat) : (s.setKprState v).acb = s.acb := by unfold State.setKprState; split <;> simp
@[simp] theorem setKprState_stat (v : Nat) : (s.setKprState v).stat = s.stat := by unfold State.setKprState; split <;> simp
@[simp] theorem setKprState_slots (v : Nat) : (s.setKprState v).slots = s.slots := by unfold State.setKprState; split <;> simp
@[simp] theorem setKprState_mem (v : Nat) : (s.setKprState v).mem = s.mem := by unfold State.setKprState; split <;> simp
@[simp] theorem setKprState_syn (v : Nat) : (s.setKprState v).syn = s.syn := by unfold State.setKprState; split <;> simp
@[simp] theorem setKprState_poison (v : Nat) : (s.setKprState v).poison = s.poison := by unfold State.setKprState; split <;> simp
@[simp] theorem setKprState_cache (v : Nat) : (s.setKprState v).cache = s.cache := by unfold State.setKprState; split <;> simp
@[simp] theorem setKprState_sramScrub (v : Nat) : (s.setKprState v).sramScrub = s.sramScrub := by unfold State.setKprState; split <;> simp
@[simp] theorem setKprState_hostMem (v : Nat) : (s.setKprState v).hostMem = s.hostMem := by unfold State.setKprState; split <;> simp
@[simp] theorem setKprState_kpr (v : Nat) : (s.setKprState v).kpr = s.kpr := by unfold State.setKprState; split <;> simp
@[simp] theorem setKprState_map (v : Nat) : (s.setKprState v).map = s.map := by unfold State.setKprState; split <;> simp
@[simp] theorem setKprState_nbu (v : Nat) : (s.setKprState v).nbu = s.nbu := by unfold State.setKprState; split <;> simp
@[simp] theorem setKprState_d2d (v : Nat) : (s.setKprState v).d2d = s.d2d := by unfold State.setKprState; split <;> simp
@[simp] theorem setKprState_cl (v : Nat) : (s.setKprState v).cl = s.cl := by unfold State.setKprState; split <;> simp
@[simp] theorem setKprState_thm (v : Nat) : (s.setKprState v).thm = s.thm := by unfold State.setKprState; split <;> simp
@[simp] theorem setKprState_sec (v : Nat) : (s.setKprState v).sec = s.sec := by unfold State.setKprState; split <;> simp
@[simp] theorem setKprState_pins (v : Nat) : (s.setKprState v).pins = s.pins := by unfold State.setKprState; split <;> simp

@[simp] theorem aside_bcn (f : State → State) : (s.aside f).bcn = s.bcn := rfl
@[simp] theorem aside_sec (f : State → State) : (s.aside f).sec = s.sec := rfl
@[simp] theorem aside_iodC (f : State → State) : (s.aside f).iodC = s.iodC := rfl
@[simp] theorem aside_rom (f : State → State) : (s.aside f).rom = s.rom := rfl

/-- A core register set reads back; the others are as before. -/
theorem core_setCore (c off c' off' : Nat) (v : Word) :
    (s.setCore c off v).core c' off' = if c' = c ∧ off' = off then v else s.core c' off' := by
  by_cases h : c' = c
  · subst h
    by_cases e : off' = off
    · subst e; simp [core, setCore]
    · simp [core, setCore, e, Tbl.get_set_ne _ _ _ e]
  · simp [core, setCore, h, Tbl.get_set_ne _ _ _ h]

/-- What a core holds beyond its registers after it was changed. -/
theorem cxOf_updCx (c c' : Nat) (f : CoreX → CoreX) : (s.updCx c f).cxOf c' = if c' = c then f (s.cxOf c) else s.cxOf c' := by
  by_cases h : c' = c
  · subst h; simp [cxOf, updCx]
  · simp [cxOf, updCx, h, Tbl.get_set_ne _ _ _ h]

/-- An image slot after it was changed. -/
theorem slot_updSlot (p p' : Nat) (f : SlotX → SlotX) : (s.updSlot p f).slot p' = if p' = p then f (s.slot p) else s.slot p' := by
  by_cases h : p' = p
  · subst h; simp [slot, updSlot]
  · simp [slot, updSlot, h, Tbl.get_set_ne _ _ _ h]

/-- A near-bank controller after it was changed. -/
theorem nb_updNb (i i' : Nat) (f : NbuX → NbuX) : (s.updNb i f).nb i' = if i' = i then f (s.nb i) else s.nb i' := by
  by_cases h : i' = i
  · subst h; simp [nb, updNb]
  · simp [nb, updNb, h, Tbl.get_set_ne _ _ _ h]

/-- A register of a compute die after one was set. -/
theorem die_setDie (d off d' off' : Nat) (v : Word) (h : off < 0x100000) (h' : off' < 0x100000) :
    (s.setDie d off v).die d' off' = if d' = d ∧ off' = off then v else s.die d' off' := by
  by_cases e : d' = d ∧ off' = off
  · obtain ⟨rfl, rfl⟩ := e; simp [die, setDie]
  · rw [if_neg e]
    simp only [die, setDie]
    exact Tbl.get_set_ne _ _ _ (by omega)

/-- A register of an I/O die after one was set. -/
theorem iod_setIod (i off i' off' : Nat) (v : Word) (h : off < 0x1000000) (h' : off' < 0x1000000) :
    (s.setIod i off v).iod i' off' = if i' = i ∧ off' = off then v else s.iod i' off' := by
  by_cases e : i' = i ∧ off' = off
  · obtain ⟨rfl, rfl⟩ := e; simp [iod, setIod]
  · rw [if_neg e]
    simp only [iod, setIod]
    exact Tbl.get_set_ne _ _ _ (by omega)

/-- A command completed joins the completions that wait, and is open no longer. -/
theorem complete_kpr (c : Cmd) (x y : Nat) (r : List Byte) :
    (s.complete c x y r).kpr = { s.kpr with
      accepted := dropCmd c s.kpr.accepted
      done := s.kpr.done ++ [{ ring := c.ring, tag := c.tag, opcode := c.opcode, noint := c.flags.getLsbD 0, status := x, detail := y
                               acc := c.acc, done := s.fnWord, result := r }] } := rfl

end State
end Sys2Proof.Machine
end

