-- ==== Sys2Proof/Tests/Slice0.lean ====
section
/-!
SUPPORT. The model's own tests: an ill-formed command for each check of WellFormed, small steps against the manual, and a witness for
the hypotheses of each statement.
-/

open Sys2Proof Sys2Proof.Machine

namespace Sys2Proof.Tests

-- One theorem at a time.
set_option Elab.async false

/-! ### Small states -/

/-- A stream of ten words on core 0. -/
def testEnt : StreamEnt :=
  { core := 0, nwords := 10, imgOff := 0, loadDa := 0, descOff := 0, loopDfl := 0, loopIdx := 0, loopAt := 0, loopLen := 0 }

/-- An image whose partition is die 0. -/
def testImg : Image :=
  { digest := [], dieMask := 1, cores := 16, devId := 0, ndev := 1, mapHash := [], claims := [], margin := 0, thermal := 0
    period := 100, cpf := 2250, legacy := false, seed := 0, streams := [testEnt], d2dUsed := 0, clUsed := 0, routes := []
    credits := [], queues := [], winLog := 0, loopWin := 0, heat := [], rots := [], audit := none, digestQ := 0xFF }

/-- The image runs in slot 0 in its first flash; core 0 is in RUN, the Keeper runs, dies and stacks answer. -/
def runState : State :=
  { powered := true, bcn := { sts := 3, cpf := 2250, locked := true }, slots := [(0, { img := some testImg, sts := 3 })]
    coreR := [(0, [(R.seqSts, 2), (R.seqStream, 0x8000000000)])]
    host := { kprSts := 2, buoy0 := 0xFFFFFFFFFF03, busMaster := true, l0 := true, portUp := true, perstHigh := true }
    kpr := { coldDone := true } }

/-- ADD with every field 0 but class and opcode: one element, descriptors 0. -/
def vecAddWord : Nat := 2 * 2 ^ 100 + 2 ^ 92

/-- An ENG word with an opcode and EMASK. -/
def engWord (opc mask : Nat) : BitVec 128 := BitVec.ofNat 128 (2 ^ 100 + opc * 2 ^ 92 + mask * 2 ^ 68)

/-- The first word of core 0's stream is `w`. -/
def fetchState (w : Nat) : State := { runState with mem := Memory.sets [] (turfOf 0) (leBytes 16 w) }

/-- A CTRL word: SYNC by 5, BANK and UNBANK of all six units; event counter 3. -/
def ctrlQ (opc : Nat) : QWord :=
  { word := BitVec.ofNat 128 (opc * 2 ^ 92 + 3 * 2 ^ 85 + (if opc = 1 then 5 else if opc = 0 then 0 else 63)), rfn := 0, op := 0
    addr := 0, shift := 0 }

/-- The sequencer of core 0 has reached that word. -/
def ctrlState (opc : Nat) : State := { runState with cx := [(0, { pos := 1, ctl := some (ctrlQ opc) })] }

/-- Core 0 has a deadline operation of the flash in its vector engine's queue, and a slack of 0. -/
def dlState : State :=
  { runState with cx := [(0, { vec := { queue := [{ word := BitVec.ofNat 128 (vecAddWord + 2 ^ 91), rfn := 0, op := 0, addr := 0, shift := 0 }] }
                               slack := some 0 })] }

/-- A memory descriptor of format code f: elements at the start of core 0's SRAM, scale bytes at offset 0x100. -/
def testDesc (f : Nat) : Nat := (sramOf 0 + 0x100) * 2 ^ 208 + sramOf 0 * 2 ^ 64 + f * 2 ^ 52

/-- A VEC word of one element whose sources have descriptor 0 and whose DST has descriptor 1. -/
def vecQ (opc : Nat) : QWord :=
  { word := BitVec.ofNat 128 (2 * 2 ^ 100 + opc * 2 ^ 92 + 1), rfn := 0, op := 0, addr := 0, shift := 0 }

/-- The vector engine of core 0 can issue that word; descriptors 0 and 1 have formats f and g. -/
def vecState2 (opc f g : Nat) : State :=
  { runState with
    coreR := [(0, [(R.seqSts, 2), (R.seqStream, 0x8000000000), (R.seqDesc, 0x1000), (R.vecSts, 2)])]
    cx := [(0, { vec := { queue := [vecQ opc] } })]
    mem := Memory.sets [] (sramOf 0 + 0x1000) (leBytes 32 (testDesc f) ++ leBytes 32 (testDesc g)) }

/-- Both descriptors have format f. -/
def vecState (opc f : Nat) : State := vecState2 opc f f

/-- What the engine reads of the word and its descriptors. -/
def vecO2 (opc f g : Nat) : VecOp :=
  { w := (vecQ opc).word, rows := 1, cols := 1, imm := 0
    ds := (List.range 4).map fun k =>
      if (vecUses opc 0).any (·.1 == k) then parseDesc (testDesc (if k = 3 then g else f)) else parseDesc 0 }
def vecO (opc f : Nat) : VecOp := vecO2 opc f f

theorem vecReady_mk {s : State} {p c off opc : Nat} {q : QWord} {o : VecOp} (h : s.canIssue p c off .vec q 2 opc) (hs : s.syn = [])
    (hc : s.presented c = true ∧ s.dieUp (dieOf c) = true ∧ Memory.wf s.mem = true)
    (hl : runAcc (vecLook c q.word) (s.unitTake c .vec q) = (.ok o, s.unitTake c .vec q))
    (hf : (o.accepts opc && (vecUses opc o.imm).all (o.fits c opc)) = true) : s.vecReady p c off q opc o := by
  simp only [Bool.and_eq_true] at hf
  exact ⟨h, ⟨hc.1, hc.2.1, fun k => by rw [hs]; rfl, hc.2.2⟩, hl, hf.1, hf.2⟩

/-- An ENG word of class BF16 that names engine 0: MMUL of one row, one column, one tile, with a drain; or DRAIN. Descriptor 0. -/
def engQ (opc : Nat) : QWord :=
  { word := BitVec.ofNat 128 (2 ^ 100 + opc * 2 ^ 92 + 2 ^ 68 + 2 ^ 61), rfn := 0, op := 0, addr := 0, shift := 0 }

/-- Its descriptor: BF16 elements at the start of core 0's SRAM, rows 64 bytes apart. -/
def engD : Desc := parseDesc (sramOf 0 * 2 ^ 64 + 64 * 2 ^ 112)

/-- Engine 0 of core 0 can issue that word. -/
def engState2 (opc : Nat) : State :=
  { runState with
    coreR := [(0, [(R.seqSts, 2), (R.seqDesc, 0x1000), (0x1000 + R.engCtrl, 1), (0x1000 + R.engSts, 2)])]
    cx := [(0, { eng := [(0, { u := { queue := [engQ opc] } })] })]
    mem := Memory.sets [] (sramOf 0 + 0x1000) (leBytes 32 (sramOf 0 * 2 ^ 64 + 64 * 2 ^ 112)) }

/-- A cord queue with one cord point, at offset 100. -/
def cordDecl : QueueDecl :=
  { q := 5, kind := 1, w := 4, outq := 0, depthLog := 6, esizeLog := 6, writer := 0, ring := 0, cpoints := [100], feed := 1 }

/-- The image that runs declares it. -/
def cordState : State := { runState with slots := [(0, { img := some { testImg with queues := [cordDecl] }, sts := 3 })] }

/-- An STR word of channel 1: one row of one FP32 element, descriptors 0, to device 9 where it is an XSEND. -/
def strQ (opc : Nat) : QWord :=
  { word := BitVec.ofNat 128 (3 * 2 ^ 100 + opc * 2 ^ 92 + 2 ^ 69 + (if opc = 3 then 9 * 2 ^ 13 else 0)), rfn := 0, op := 0, addr := 0
    shift := 0 }
def strD : Desc := parseDesc (testDesc 2)

/-- It heads channel 1 of core 0; the channel's status is `sts` - 2; port 0 of the chip links is UP and leads to device 9. -/
def strState (opc sts : Nat) : State :=
  { runState with
    slots := [(0, { img := some { testImg with routes := [(9, 0, 1)] }, sts := 3 })]
    coreR := [(0, [(R.seqSts, 2), (R.seqStream, 0x8000000000), (R.seqDesc, 0x1000), (R.strChSts 1, BitVec.ofNat 64 (sts - 2))])]
    iodR := [(0x20000000 + R.lnkPortSts 0, 3)]
    cx := [(0, { strQ := [strQ opc] })]
    mem := Memory.sets [] (sramOf 0 + 0x1000) (leBytes 32 (testDesc 2)) }

/-- A request of kind k on channel 1 of core 0: 32 bytes of its SRAM, 64 bytes on. -/
def testReq (k : Nat) : Req :=
  { ch := 1, kind := k, fromDa := sramOf 0, toDa := sramOf 0 + 64, bytes := 32, half := false, dev := 9, fmt := 2 }
def reqState (k : Nat) : State := { runState with cx := [(0, { reqs := [testReq k] })] }

/-- A CHK word of context 0 with source descriptor 0, and core 0 that can issue it. -/
def chkQ (opc : Nat) : QWord := { word := BitVec.ofNat 128 (5 * 2 ^ 100 + opc * 2 ^ 92), rfn := 0, op := 0, addr := 0, shift := 0 }
def chkState (opc f : Nat) : State :=
  { runState with
    coreR := [(0, [(R.seqSts, 2), (R.seqDesc, 0x1000)])], cx := [(0, { chk := { queue := [chkQ opc] } })]
    mem := Memory.sets [] (sramOf 0 + 0x1000) (leBytes 32 (testDesc f)) }

/-- An input queue 3 and an output queue 4, entries of 64 bytes in HBM. -/
def inDecl : QueueDecl :=
  { q := 3, kind := 0, w := 4, outq := 4, depthLog := 6, esizeLog := 6, writer := 0, ring := 0x10000, cpoints := [], feed := 1 }
def outDecl : QueueDecl := { inDecl with q := 4, kind := 3, ring := 0x20000 }

/-- A QUE word on queue 3, or for OUT_WRITE of one entry on queue 4; rows of 32 bytes at the start of core 0's SRAM. -/
def queQ (opc : Nat) : QWord :=
  { word := BitVec.ofNat 128 (6 * 2 ^ 100 + opc * 2 ^ 92 + (if opc = 3 then 4 * 2 ^ 66 + 2 ^ 26 else 3 * 2 ^ 66)), rfn := 0, op := 0
    addr := 0, shift := 0 }
def queD : Desc := parseDesc (sramOf 0 * 2 ^ 64 + 32 * 2 ^ 112)
def queState (opc : Nat) : State :=
  { runState with
    slots := [(0, { img := some { testImg with queues := [inDecl, outDecl] }, sts := 3 })]
    coreR := [(0, [(R.seqSts, 2), (R.seqDesc, 0x1000)])], cx := [(0, { que := { queue := [queQ opc] } })]
    mem := Memory.sets [] (sramOf 0 + 0x1000) (leBytes 32 (sramOf 0 * 2 ^ 64 + 32 * 2 ^ 112)) }

/-- A walker word with every field 0 but class and opcode, and core 0 whose walker and vector engine can issue it. -/
def walkQ (opc : Nat) : QWord := { word := BitVec.ofNat 128 (4 * 2 ^ 100 + opc * 2 ^ 92), rfn := 0, op := 0, addr := 0, shift := 0 }
def walkState (opc : Nat) : State :=
  { runState with
    coreR := [(0, [(R.seqSts, 2), (R.seqDesc, 0x1000), (R.vecSts, 2), (R.pgwSts, 2)])]
    cx := [(0, { vec := { queue := [walkQ opc] }, pgw := { queue := [walkQ opc] } })]
    mem := Memory.sets [] (sramOf 0 + 0x1000) (leBytes 32 (testDesc 2)) }

/-- The walker list that 32 bytes of zeros hold. -/
def walkL : WList :=
  { scale := 0, cq := 0, cqEn := false, ents := [{ ctx := 0, lsrc := false, lane := 0, ntok := 1, qrow := 0, orow := 0, cmax := 0 }], err := none }

theorem walkReady_mk {opc : Nat} (h : opc = 2 ∨ opc = 3 ∨ opc = 1 ∨ opc = 4) : (walkState opc).walkReady 0 0 0 (walkQ opc) opc := by
  rcases h with rfl | rfl | rfl | rfl <;>
  exact ⟨rfl, rfl, rfl, rfl, rfl, by decide +kernel, fun _ => by decide +kernel, by decide +kernel, .inr rfl, ⟨rfl, rfl, fun _ => rfl, rfl⟩,
    ⟨by decide +kernel, by decide +kernel⟩, fun _ => by decide +kernel⟩

/-- The same with slot reservation, and a list of one entry: context 0, in state `st`, has one page of 16 slots, `fill` of them filled, and may
have 4; pool 0 holds one frame. The tables lie in core 0's SRAM, its status words in HBM. -/
def pageQ (opc : Nat) : QWord := { walkQ opc with word := BitVec.ofNat 128 (4 * 2 ^ 100 + opc * 2 ^ 92 + 2 ^ 63) }
def pageCtx (st : Nat) : Ctx := ⟨1, sramOf 0 + 0x6000, 1, 4, 0, st, 0, 0⟩
def pageFrame (fill : Nat) : Frame := { addr := (sramOf 0 + 0x20000) / 64, sz := 0, st := 2, ref := 1, fill := fill, free := 0 }
def pageState (opc st fill pool : Nat) : State :=
  { walkState opc with
    coreR := [(0, [(R.seqSts, 2), (R.seqDesc, 0x1000), (R.vecSts, 2), (R.pgwSts, 2), (R.pgwCtxBase, BitVec.ofNat 64 (sramOf 0 + 0x4000)),
      (R.pgwPftBase, BitVec.ofNat 64 (sramOf 0 + 0x10000)), (R.pgwCstatBase, 0x100000), (R.pgwPool 0, BitVec.ofNat 64 pool)])]
    cx := [(0, { vec := { queue := [pageQ opc] }, pgw := { queue := [pageQ opc] } })]
    mem := Memory.sets (Memory.sets (Memory.sets (Memory.sets (Memory.sets [] (sramOf 0 + 0x10) (leBytes 16 (2 ^ 65)))
      (sramOf 0 + 0x1000) (leBytes 32 (testDesc 2))) (sramOf 0 + 0x4000) (leBytes 32 (pageCtx st).word))
      (sramOf 0 + 0x10000) (leBytes 16 (pageFrame fill).word)) (sramOf 0 + 0x110000) (leBytes 2 7) }
def pageEnt : WEnt := { ctx := 0, lsrc := false, lane := 0, ntok := 1, qrow := 0, orow := 0, cmax := 1 }

theorem pageReady {opc fill pool : Nat} (h : opc ∈ [2, 1, 4]) (hf : fill ∈ [3, 16]) (hp : pool < 2) :
    (pageState opc 1 fill pool).walkReady 0 0 0 (pageQ opc) opc := by
  fin_cases h <;> fin_cases hf <;> interval_cases pool <;>
  exact ⟨rfl, rfl, rfl, rfl, rfl, by decide +kernel, fun _ => by decide +kernel, by decide +kernel, .inr rfl,
    ⟨rfl, rfl, fun _ => rfl, by decide +kernel⟩, ⟨by decide +kernel, by decide +kernel⟩, fun _ => by decide +kernel⟩

/-- The entry latches: its context is LIVE with that page. -/
theorem pageLatches {opc fill pool : Nat} (h : opc ∈ [2, 1, 4]) (hf : fill ∈ [3, 16]) (hp : pool < 2) :
    (pageState opc 1 fill pool).latches 0 (pageQ opc) walkL pageEnt 0 (pageCtx 1) [({ pos := 0, frame := 0 }, pageFrame fill)] := by
  fin_cases h <;> fin_cases hf <;> interval_cases pool <;>
  exact ⟨.inl ⟨rfl, rfl⟩, ⟨true, by decide +kernel⟩, by decide +kernel, rfl,
    fun i hi => by
      have : i = 0 := by have : i < 1 := hi; omega
      subst this; exact ⟨⟨true, by decide +kernel⟩, ⟨true, by decide +kernel⟩⟩,
    by decide +kernel, by simp [pageFrame], by decide +kernel, by decide, fun _ => by decide +kernel⟩

/-- A commit without records that waits on core 0, which no run holds, and its command. -/
def testCommit : Commit := { b := 0, recs := [], resBuf := 0, ring := 1, idx := 7 }
def testCmd : Cmd := { ring := 1, idx := 7, tag := 3, opcode := 0x501, flags := 0, acc := 0, args := 0, note := 0 }
def commitState : State := { cx := [(0, { commits := [testCommit] })], kpr := { accepted := [testCmd] } }

/-- A powered module with every buoy up. -/
def scrubState : State := { runState with slots := [] }
def hostState : State := scrubState

/-- The Keeper runs, and ring 1 of the mailbox has an entry waiting. -/
def mailState : State :=
  { scrubState with host := { scrubState.host with cr := [(4, 1)], prod := [(1, 1)] }, sec := { life := 2 } }
def testMbox (len args : Nat) : Mbox :=
  { ring := 1, tag := 3, len := BitVec.ofNat 16 len, flags := 0, rsv := 0, args := BitVec.ofNat 384 args }

theorem begun_host (s : State) (op : Nat) (m : Mbox) :
    (s.begun op m).hostMem = s.hostMem ∧ (s.begun op m).mayMaster = s.mayMaster := ⟨rfl, rfl⟩

/-- A buffer in host memory that holds `bs` is read as `bs`. -/
theorem bufRead_host {s : State} {a : Nat} {bs : List Byte} (h : s.hostMem = Memory.sets [] a bs) (hb : s.mayMaster = true)
    (ha : ((2 ^ 63 + a) % 64 != 0) = false) (hl : a < 2 ^ 63) : (s.bufRead (2 ^ 63 + a) bs.length).1 = .ok bs := by
  have h1 : State.bufHost (2 ^ 63 + a) = true := by
    simp only [State.bufHost, Nat.testBit_eq_decide_div_mod_eq, decide_eq_true_eq]; omega
  have h2 : State.bufAddr (2 ^ 63 + a) = a := by simp only [State.bufAddr]; omega
  simp only [State.bufRead, ha, h1, h2, hb, State.hostRead, h, Memory.gets_sets bs [] a rfl, Bool.false_eq_true, if_false, if_true]

theorem tokenRead_host {s : State} {a : Nat} {bs : List Byte} (h : s.hostMem = Memory.sets [] a bs) (hb : s.mayMaster = true)
    (ha : ((2 ^ 63 + a) % 64 != 0) = false) (hl : a < 2 ^ 63) (hn : bs.length = 320) : (s.readToken (2 ^ 63 + a)).1 = .ok bs := by
  have := bufRead_host h hb ha hl
  rw [hn] at this
  simpa only [State.readToken, show ¬ (2 ^ 63 + a = 0) by omega, if_false] using this

/-- Bytes laid at an address of an empty store, the highest first. -/
def cellsAt (a : Nat) (bs : List Byte) : List Host.Cell := bs.zipIdx.foldr (fun x m => Memory.set m (a + x.2) x.1) []

/-! ### Routes and places, from the manual's examples -/

/-- R307's example: core 300 at (12, 9) reaches IOD2 through y = 9 to 15 and the S ports of D19 and D27. -/
theorem test_route_to_iod2 : routeIod 300 2 = (List.range 7).map (fun k => ⟨12, 9 + k, 2⟩) ∧
    (routeIod 300 2).map Hop.conn = [none, none, connAt 19 2, none, none, none, connAt 27 2] := by decide
/-- R308: a request of R307 makes no reverse turn, its response one; a detour adds two. -/
theorem test_reverse_turns :
    reverseTurns (routeDims (fun _ => false) (routeCore 300 42)) = 0 ∧
    reverseTurns (routeDims (fun _ => false) (routeBack (routeCore 300 42))) = 1 ∧
    channels [true, false, true] = [0, 1, 1] ∧ channels [false, true, false, true, false] = [0, 0, 1, 1, 2] := by decide
/-- R240: consecutive lines fall in consecutive banks, and the last byte of a slice in the upper die. -/
theorem test_turf_fields : turfAt 0x7C0 = ⟨31, 0, 0, 0⟩ ∧ turfAt 0x800 = ⟨0, 0, 1, 0⟩ ∧
    turfAt 0x1FFFFFFF = ⟨31, 8191, 31, 63⟩ ∧ (turfAt 0x1FFFFFFF).offset = 0x1FFFFFFF ∧ turfUpper 31 = true ∧ turfUpper 15 = false := by decide

/-! ### WellFormed refuses what breaks each check (the bounds are the manual's: R26, R27, R156, R261, R313, R316, R326, R342) -/

/-- A test result of a die that passed. -/
def passTest (d : Die) : DieTest := { die := d, bist := 0, kat := [], onTime := true }

/-- A measurement of a die. -/
def someMeas (d : Die) : DieMeas :=
  { die := d, reqA := 0, reqB := 0, reqC := 0, roMed := 0, roMax := 0, cprCore := 0, cprPs := 0, canLo := 0, canUp := 0 }

/-- A bring-up with the given straps, tests and measurements. -/
def someBring (st : List (Die × BitVec 8)) (ts : List DieTest) (ms : List DieMeas) : Bring :=
  { perstHigh := true, straps := 0, dieStraps := st, iodOk := 15, stkOk := 255, tests := ts, meas := ms }

theorem smoke_mark : (Instr.mark 0).wellFormed = false := by decide
theorem smoke_off : (Instr.chkEnd 0 (65 * 36000)).wellFormed = false := by decide
theorem smoke_tag : (Instr.requestComplete 0 256 .ok).wellFormed = false ∧ (Instr.memoryTimeout 0 (.stream 256)).wellFormed = false ∧
    (Instr.remoteAck 0 256 .ok).wellFormed = false := by decide
theorem smoke_read : (Instr.bar2Read .bar2 0 0).wellFormed = false ∧ (Instr.bar2Read .bar0 0 4097).wellFormed = false ∧
    (Instr.bar2Read .bar4 (2 ^ 20 - 1) 2).wellFormed = false ∧ (Instr.bar2Read .bar0 (2 ^ 26) 1).wellFormed = false := by decide
theorem smoke_write : (Instr.bar2Write .bar2 0 []).wellFormed = false ∧ (Instr.bar2Write .bar2 0 (zeros 513)).wellFormed = false ∧
    (Instr.bar2Write .bar4 (2 ^ 20) [1]).wellFormed = false := by
  decide +kernel
theorem smoke_width : (Instr.fetchAdd 0 .w128 0).wellFormed = false ∧ (Instr.swap 0 .w128 0).wellFormed = false := by decide
theorem smoke_access : (Instr.accessTimeout (.read 0 0)).wellFormed = false ∧
    (Instr.accessTimeout (.write 0 [1, 2, 3, 4] 1)).wellFormed = false := by decide
theorem smoke_flit : (Instr.d2dFlit (.die 0 .n) (zeros 255) 0 0 [] 0).wellFormed = false ∧
    (Instr.clFlit 0 (zeros 257) 0 0 0 none).wellFormed = false ∧
    (Instr.clFlit 0 (zeros 256) 0 0 0 (some { dev := 1, slot := 0, da := 0, len := 257, rev := 0 })).wellFormed = false := by
  decide +kernel
theorem smoke_lane : (Instr.d2dTrainingDone (.die 0 .n) [528]).wellFormed = false := by decide
theorem smoke_tests : (Instr.resetComplete 5 [passTest 3, passTest 3]).wellFormed = false := by decide
theorem smoke_bring : (Instr.coldPowerOn (someBring [(1, 0), (1, 2)] [] [])).wellFormed = false ∧
    (Instr.coldPowerOn (someBring [] [passTest 3, passTest 3] [])).wellFormed = false ∧
    (Instr.coldPowerOn (someBring [] [] [someMeas 2, someMeas 2])).wellFormed = false := by decide
theorem smoke_measurement : (Instr.measurementComplete [someMeas 2, someMeas 2] []).wellFormed = false ∧
    (Instr.measurementComplete [] [(0, 101)]).wellFormed = false ∧
    (Instr.measurementComplete [] [(0, 1), (0, 2)]).wellFormed = false := by decide
theorem smoke_sample : (Instr.sensorSample (.module 0) 25 0).wellFormed = false := by decide
/-- Each of these checks passes a command that keeps its bound. -/
theorem smoke_passes : ([.mark 1600, .chkEnd 0 0, .requestComplete 0 255 .ok, .memoryTimeout 0 (.stream 255), .remoteAck 0 255 .ok, .bar2Read .bar2 0 4096,
      .bar2Write .bar4 (2 ^ 20 - 512) (zeros 512), .fetchAdd 0 .w32 1, .swap 0 .w64 1, .accessTimeout (.write 0 (zeros 16) 2),
      .d2dFlit (.die 0 .n) (zeros 256) 0 0 [] 0, .clFlit 0 (zeros 256) 0 0 0 none, .d2dTrainingDone (.die 0 .n) [527],
      .resetComplete 5 [passTest 3, passTest 4], .coldPowerOn (someBring [(1, 0)] [passTest 3] [someMeas 2]),
      .measurementComplete [someMeas 2] [(0, 100)], .sensorSample (.module 0) 25 1] : List Instr).all Instr.wellFormed = true := by
  decide +kernel
theorem witness_BeaconStaysLegal : Bcn.legal State.reset.bcn ∧ step State.reset = .next State.reset := by
  refine ⟨?_, rfl⟩
  unfold Bcn.legal; decide
/-! ### Witnesses -/

theorem witness_FusesStayLegal : SecX.legal State.reset.sec ∧ step State.reset = .next State.reset := by
  refine ⟨?_, rfl⟩
  unfold SecX.legal; decide
/-! ### Witnesses -/

theorem witness_FusesOnlyMoveForward : step State.reset = .next State.reset := rfl
/-! ### Witnesses -/

theorem witness_CoreWorkStaysInside : ∃ t, exec (.nop 0 0) State.reset = .next t := ⟨_, rfl⟩
/-! ### Witnesses -/

theorem witness_ClockLockAndLoss_lock :
    let s : State := { powered := true }; s.powered = true ∧ s.thm.trip = false ∧ s.bcnState = 0 := by decide
theorem witness_ClockLockAndLoss_links :
    let s : State := { powered := true, kpr := { coldDone := true }, cl := [(0, { signal := true })] }
    s.powered = true ∧ s.thm.trip = false ∧ s.bcnState = 0 ∧ s.kpr.coldDone = true ∧ s.kpr.reset = none ∧ (s.clx 0).signal = true ∧
    s.lnkState 0 = lnkDown ∧ s.map.iodFenced.getLsbD 0 = false := by decide
theorem witness_ClockLockAndLoss_loss : ({ bcn := { sts := 3 } } : State).bcnState ≠ 0 := by decide
/-! ### Witnesses -/

theorem witness_MarkByState_locked : ({ bcn := { sts := 1 } } : State).bcnState = 1 := by decide
theorem witness_MarkByState_armed : ({ bcn := { sts := 2 } } : State).bcnState = 2 := by decide
theorem witness_MarkByState_counting :
    let s : State := { bcn := { sts := 3 } }
    s.bcnState = 3 ∧ (s.bcn.phase + 100) % s.period = 0 ∧ s.markEarly 100 = false ∧ ({ s with thm := { trip := true } } : State).lateCores = [] := by
  decide +kernel
/-- Core 0's vector engine can issue the ADD at its queue's head. -/
def earlyState : State :=
  { runState with
    coreR := [(0, [(R.seqSts, 2), (R.vecSts, 2)])]
    cx := [(0, { pos := 10, vec := { queue := [{ word := BitVec.ofNat 128 vecAddWord, rfn := 0, op := 0, addr := 0, shift := 0 }], ready := true } })] }
theorem witness_MarkByState_early : earlyState.markEarly 100 = true := by decide +kernel
/-- Slot 0 in a state; its cores in READY. -/
def markState (sts : Nat) (x : SlotX) : State :=
  { runState with slots := [(0, { x with img := some { testImg with queues := [inDecl, outDecl] }, sts := BitVec.ofNat 64 sts })], coreR := [] }
theorem markState_others (sts : Nat) (x : SlotX) : ∀ q, q ≠ 0 → ((markState sts x).slot q).img = none ∧ (markState sts x).slotState q ≠ 3 := by
  intro q h
  rcases q with _ | q
  · exact absurd rfl h
  · exact ⟨rfl, by show fld (0 : Word) 1 0 ≠ 3; decide⟩
theorem witness_MarkByState_starts :
    let a := markState 2 { start := 2 }; let b := markState 2 { start := 1, prepared := true }
    a.bcnState = 3 ∧ (a.bcn.phase + 100) % a.period = 0 ∧ a.markEarly 100 = false ∧ b.markEarly 100 = false ∧ a.thm.trip = false ∧
    (a.slot 0).ending = none ∧ (a.slot 0).mute = none ∧ a.slotState 0 = 2 ∧ (a.slot 0).prepared = false ∧ a.fn + 2 = (a.slot 0).start.truncate 48 ∧
    (b.slot 0).prepared = true ∧ b.fn + 1 = (b.slot 0).start.truncate 48 := by decide +kernel
theorem witness_MarkByState_runs :
    let a := markState 3 {}; let b := markState 3 { halt := some (0, 2) }
    a.markEarly 100 = false ∧ a.slotState 0 = 3 ∧ a.lateCores = [] ∧ a.haltCause 0 (a.curRfn 0) = none ∧ a.curRfn 0 + 1 < 2 ^ 48 ∧
    b.markEarly 100 = false ∧ b.lateCores = [] ∧ b.haltCause 0 (b.curRfn 0) = some 2 ∧ dlState.lateCores ≠ [] ∧ dlState.markEarly 100 = false ∧
    dlState.haltCause 0 (dlState.curRfn 0) = none := by decide +kernel
theorem witness_MarkByState_busy : earlyState.busyUntil 0 (earlyState.curRfn 0) = true := by decide +kernel
/-! ### Witnesses -/

theorem witness_StrayMarkIgnored :
    let s : State := { bcn := { sts := 3 } }; s.bcnState = 3 ∧ (s.bcn.phase + 99) % s.period ≠ 0 := by decide
/-! ### Witnesses -/

theorem witness_AbsentMarks_one : let s : State := { bcn := { sts := 3 } }; s.bcnState = 3 ∧ s.missRun < 64 := by decide
theorem witness_AbsentMarks_stall : let s : State := { bcn := { sts := 0x400003 } }; s.bcnState = 3 ∧ s.missRun = 64 := by decide
/-! ### Witnesses -/

theorem witness_ArmAndDisarm_arm :
    let s : State := { bcn := { sts := 1 } }; s.bcnState = 1 ∧ s.anyActive = false ∧ s.periodFits = true := by decide
theorem witness_ArmAndDisarm_active : ({ slots := [(0, { sts := 3 })] } : State).anyActive = true := by decide
theorem witness_ArmAndDisarm_disarm : ({ bcn := { sts := 2 } } : State).bcnState = 2 := by decide
theorem witness_ArmAndDisarm_other : ({ bcn := { sts := 3 } } : State).bcnState ≠ 2 := by decide
/-! ### Witnesses -/

theorem witness_SlipFollowsRequests_none (c : Nat) (_ : c < 512) : State.reset.requests c = false := by
  simp [State.requests, State.core, State.reset, Tbl.get, Tbl.find?, coreDflt, R.seqSlkCur, R.seqId, R.pgwGeom, R.chkCtrl, bitAt]
theorem witness_SlipFollowsRequests_one :
    ∃ c, c < 512 ∧ ({ coreR := [(5, [(R.seqSlkCur, 0x10000)])] } : State).requests c = true := ⟨5, by decide, by decide⟩
theorem witness_SlipFollowsRequests_cutOff :
    dlState.thm.trip = false ∧ dlState.bcnState = 3 ∧ dlState.slotState 0 = 3 ∧ 0 ∈ dlState.slotCores 0 ∧
    (dlState.cxOf 0).slack.isSome = true ∧ dlState.deadlineOpen 0 0 (dlState.curRfn 0) = true ∧
    dlState.muted 0 (dlState.curRfn 0) = false :=
  ⟨by decide, by decide, by decide, List.mem_filter.2 ⟨List.mem_range.2 (by decide), by decide⟩, by decide, by decide, by decide⟩
/-! ### Witnesses -/

theorem witness_SlackIsCharged :
    dlState.thm.trip = false ∧ dlState.slotOf 0 = some 0 ∧ dlState.slotState 0 = 3 ∧
    dlState.deadlineOpen 0 0 (dlState.curRfn 0) = true ∧ (dlState.cxOf 0).slack = some 0 ∧
    (12#8).getLsbD 3 = true ∧ dlState.refreshBeyond 0 = false ∧ (∀ j, 1 ≤ j → j < 3 → (12#8).getLsbD j = true →
      (j = 1 ∧ dlState.dampLate 0 0 0 = false) ∨ (j = 2 ∧ dlState.refreshBeyond 0 = false)) ∧
    dlState.muted 0 (dlState.curRfn 0) = false ∧ dlState.requests 0 = false :=
  ⟨by decide, by decide, by decide, by decide, by decide, by decide, by decide,
    fun j _ _ h => by
      obtain rfl | rfl : j = 1 ∨ j = 2 := by omega
      · exact absurd h (by decide)
      · exact .inr ⟨rfl, by decide⟩, by decide, by decide⟩
theorem witness_SlackIsCharged_refresh :
    ({ thm := { refs := [(0, 0, 27)] } } : State).refreshBeyond 0 = true := by decide
/-! ### Witnesses -/

theorem witness_DispatchOfAWord_sent :
    let s := fetchState vecAddWord
    s.thm.trip = false ∧ s.slotOf 0 = some 0 ∧ s.streamEnt? 0 0 = some testEnt ∧ s.coreState 0 = 2 ∧ s.slotActive 0 = true ∧
    (s.cxOf 0).ctl = none ∧ State.streamNext testEnt (s.cxOf 0).pos (s.cxOf 0).rfn.toNat = some (0, 0, true) ∧
    s.removed 0 0 = false ∧ (s.slot 0).ending = none ∧
    ((s.settleRamps 0 0).tagReady 0 0 = true ∧ ((s.settleRamps 0 0).cxOf 0).granted.contains 0 = false) ∧
    turfOf 0 ≤ (s.settleRamps 0 0).wordDa 0 0 ∧ (s.settleRamps 0 0).wordDa 0 0 + 16 ≤ turfOf 0 + turfLen := by decide
theorem witness_DispatchOfAWord_read :
    let u := (fetchState vecAddWord).settleRamps 0 0
    (u.readDa (Who.fetch 0) (u.wordDa 0 0) 16).1 = .ok (leBytes 16 vecAddWord) := by decide +kernel
theorem witness_DispatchOfAWord_ok :
    let s := (fetchState vecAddWord).settleRamps 0 0; let w := BitVec.ofNat 128 (leNat (leBytes 16 vecAddWord))
    wordError s.cpf w = false ∧ s.rotPending 0 0 0 = false ∧ s.hasCredit 0 (unitsOf w (s.shiftOf 0 0)) = true := by decide
theorem witness_DispatchOfAWord_error :
    let s := fetchState (2 ^ 128 - 1); wordError s.cpf (BitVec.ofNat 128 (2 ^ 128 - 1)) = true := by decide
/-! ### Witnesses -/

theorem witness_CtrlWords_nop : (ctrlState 0).atCtrl 0 0 0 (ctrlQ 0) 0 := ⟨rfl, rfl, rfl, rfl, rfl, by decide, testEnt, rfl, by decide⟩
theorem witness_CtrlWords_sync : (ctrlState 1).atCtrl 0 0 0 (ctrlQ 1) 1 := ⟨rfl, rfl, rfl, rfl, rfl, by decide, testEnt, rfl, by decide⟩
theorem witness_CtrlWords_bank : (ctrlState 2).atCtrl 0 0 0 (ctrlQ 2) 2 := ⟨rfl, rfl, rfl, rfl, rfl, by decide, testEnt, rfl, by decide⟩
theorem witness_CtrlWords_unbank : (ctrlState 3).atCtrl 0 0 0 (ctrlQ 3) 3 := ⟨rfl, rfl, rfl, rfl, rfl, by decide, testEnt, rfl, by decide⟩
/-! ### Witnesses -/

theorem witness_WordCompletion_ready : State.reset.thm.trip = false := rfl
theorem witness_WordCompletion : runState.thm.trip = false ∧ runState.runSlot 0 = some 0 ∧ runState.wordsLeft 0 0 ∧
    runState.removed 0 0 = false ∧ (runState.slot 0).ending = none := ⟨rfl, by decide, ⟨testEnt, rfl, by decide⟩, by decide, rfl⟩
theorem witness_WordCompletion_units :
    let q : QWord := { word := BitVec.ofNat 128 vecAddWord, rfn := 0, op := 0, addr := 0, shift := 0 }
    let x : CoreX := { vec := { run := some q }, chk := { run := some q }, que := { run := some q }, pgw := { run := some q }
                       strRun := [(2, q)], eng := [] }
    let s : State := { runState with cx := [(0, x)] }
    s.runSlot 0 = some 0 ∧ (s.cxOf 0).vec.run = some q ∧ wClass q.word = 2 ∧ (s.cxOf 0).chk.run = some q ∧
    (s.cxOf 0).que.run = some q ∧ (s.cxOf 0).pgw.run = some q ∧ (s.cxOf 0).strRun.find? 2 = some q ∧
    (s.cxOf 0).strRev.find? 2 = none ∧ s.chanQuiet 0 2 = true := by decide
theorem witness_WordCompletion_busy :
    let r : Req := { ch := 2, kind := 0, fromDa := 0, toDa := 0, bytes := 256, half := false, dev := 0, fmt := 0 }
    ({ runState with cx := [(0, { reqs := [r] })] } : State).chanQuiet 0 2 = false := by decide
theorem witness_WordCompletion_eng :
    let q : QWord := { word := engWord 1 1, rfn := 0, op := 0, addr := 0, shift := 0 }
    let s : State := { runState with cx := [(0, { eng := [(0, { u := { run := some q } })] })] }
    s.runSlot 0 = some 0 ∧ wClass q.word = 1 ∧ 0 ∈ enginesOf (wEmask q.word) q.shift ∧ (s.engX 0 0).drain = none ∧
    (s.engX 0 0).u.run = some q := by decide
theorem witness_WordCompletion_beside :
    let q : QWord := { word := engWord 1 1, rfn := 0, op := 1, addr := 0, shift := 0 }
    let d : QWord := { word := engWord 2 1, rfn := 0, op := 0, addr := 0, shift := 0 }
    let s : State := { runState with cx := [(0, { eng := [(0, { drain := some d, u := { run := some q } })] })] }
    s.runSlot 0 = some 0 ∧ wClass q.word = 1 ∧ 0 ∈ enginesOf (wEmask q.word) q.shift ∧ wDrains q.word = false ∧
    (s.engX 0 0).drain = some d ∧ sameWord d q = false ∧ (s.engX 0 0).u.run = some q := by decide
/-! ### Witnesses -/

theorem witness_VecElementwise_fp32 : ∀ opc ∈ [0x01, 0x02, 0x04, 0x05, 0x03],
    (vecState opc 2).vecReady 0 0 0 (vecQ opc) opc (vecO opc 2) := by
  intro opc h
  fin_cases h <;> exact vecReady_mk ⟨rfl, rfl, rfl, rfl, rfl, rfl, rfl⟩ rfl ⟨rfl, rfl, rfl⟩ (by decide +kernel) (by decide +kernel)
theorem witness_VecElementwise_fp64 : ∀ opc ∈ [0x30, 0x31, 0x32], (vecState opc 3).vecReady 0 0 0 (vecQ opc) opc (vecO opc 3) := by
  intro opc h
  fin_cases h <;> exact vecReady_mk ⟨rfl, rfl, rfl, rfl, rfl, rfl, rfl⟩ rfl ⟨rfl, rfl, rfl⟩ (by decide +kernel) (by decide +kernel)
theorem witness_VecElementwise_int48 : (vecState 0x2C 13).vecReady 0 0 0 (vecQ 0x2C) 0x2C (vecO 0x2C 13) :=
  vecReady_mk ⟨rfl, rfl, rfl, rfl, rfl, rfl, rfl⟩ rfl ⟨rfl, rfl, rfl⟩ (by decide +kernel) (by decide +kernel)
/-! ### Witnesses -/

theorem witness_VecRowFunctions : ∀ opc ∈ [0x10, 0x11, 0x12, 0x13, 0x18, 0x19, 0x1A, 0x1B, 0x1C, 0x20],
    (vecState opc 2).vecReady 0 0 0 (vecQ opc) opc (vecO opc 2) := by
  intro opc h
  fin_cases h <;> exact vecReady_mk ⟨rfl, rfl, rfl, rfl, rfl, rfl, rfl⟩ rfl ⟨rfl, rfl, rfl⟩ (by decide +kernel) (by decide +kernel)
/-! ### Witnesses -/

theorem witness_VecConversions_cvt : (vecState 0x06 2).vecReady 0 0 0 (vecQ 0x06) 0x06 (vecO 0x06 2) := vecReady_mk ⟨rfl, rfl, rfl, rfl, rfl, rfl, rfl⟩ rfl ⟨rfl, rfl, rfl⟩ (by decide +kernel) (by decide +kernel)
theorem witness_VecConversions_quant : (vecState 0x07 7).vecReady 0 0 0 (vecQ 0x07) 0x07 (vecO 0x07 7) := vecReady_mk ⟨rfl, rfl, rfl, rfl, rfl, rfl, rfl⟩ rfl ⟨rfl, rfl, rfl⟩ (by decide +kernel) (by decide +kernel)
theorem witness_VecConversions_split : ∀ opc ∈ [0x28, 0x29], (vecState opc 0).vecReady 0 0 0 (vecQ opc) opc (vecO opc 0) := by
  intro opc h
  fin_cases h <;> exact vecReady_mk ⟨rfl, rfl, rfl, rfl, rfl, rfl, rfl⟩ rfl ⟨rfl, rfl, rfl⟩ (by decide +kernel) (by decide +kernel)
theorem witness_VecConversions_dequant : (vecState2 0x08 7 2).vecReady 0 0 0 (vecQ 0x08) 0x08 (vecO2 0x08 7 2) :=
  vecReady_mk ⟨rfl, rfl, rfl, rfl, rfl, rfl, rfl⟩ rfl ⟨rfl, rfl, rfl⟩ (by decide +kernel) (by decide +kernel)
theorem witness_VecConversions_slice : (vecState2 0x2A 3 9).vecReady 0 0 0 (vecQ 0x2A) 0x2A (vecO2 0x2A 3 9) :=
  vecReady_mk ⟨rfl, rfl, rfl, rfl, rfl, rfl, rfl⟩ rfl ⟨rfl, rfl, rfl⟩ (by decide +kernel) (by decide +kernel)
theorem witness_VecConversions_finish : (vecState2 0x2B 13 3).vecReady 0 0 0 (vecQ 0x2B) 0x2B (vecO2 0x2B 13 3) :=
  vecReady_mk ⟨rfl, rfl, rfl, rfl, rfl, rfl, rfl⟩ rfl ⟨rfl, rfl, rfl⟩ (by decide +kernel) (by decide +kernel)
/-! ### Witnesses -/

theorem witness_VecTableAndReject_load : (vecState 0x38 2).vecReady 0 0 0 (vecQ 0x38) 0x38 (vecO 0x38 2) := vecReady_mk ⟨rfl, rfl, rfl, rfl, rfl, rfl, rfl⟩ rfl ⟨rfl, rfl, rfl⟩ (by decide +kernel) (by decide +kernel)
theorem witness_VecTableAndReject_unfit :
    runAcc (vecLook 0 (vecQ 1).word) ((vecState 1 15).unitTake 0 .vec (vecQ 1)) = (.ok (vecO 1 15), (vecState 1 15).unitTake 0 .vec (vecQ 1)) ∧
    ((vecO 1 15).accepts 1 && (vecUses 1 (vecO 1 15).imm).all ((vecO 1 15).fits 0 1)) = false := by decide +kernel
/-! ### Witnesses -/

theorem witness_CheckCode : (leBytes 8 0x123456789ABCDEF0).length = 8 := by decide
theorem witness_CheckCode_weights : popCount 8 0x0A = 2 ∧ popCount 8 0x0D = 3 ∧ popCount 8 0xFE = 7 ∧ popCount 8 0x40 = 1 := by decide
/-! ### Witnesses -/

theorem witness_InterleaveHashInverts : (0x123456789 : Nat) < 2 ^ 39 := by decide
/-! ### Witnesses -/

theorem witness_NumbersSurviveTheirCodes : 0x3F8 < 2 ^ Fmt.fp16.width ∧ (Fmt.fp16.decode 0x3F8).isNan = false := by decide
theorem witness_NumbersSurviveTheirCodes_digits : -(2 ^ 54) ≤ (-123456789 : Int) ∧ (-123456789 : Int) ≤ 2 ^ 54 := by decide
/-! ### Witnesses -/

theorem witness_MmulComputes :
    let s := engState2 1; let q := engQ 1; let u := forEach [0] (s.settleRamps 0 0) fun t g => t.engTake 0 0 q g
    enginesOf (wEmask q.word) q.shift = [0] ∧ s.gangReady 0 0 0 0 q 1 ∧
    runAcc (readDesc 0 0) u = (.ok engD, u) ∧ fmtOf engD.fmt = some .bf16 ∧ runAcc (State.convOf 0 engD .bf16) u = (.ok none, u) ∧
    classAccepts (wbits q.word 67 64) .bf16 = true ∧ State.drainFmt q.word engD = true ∧ State.fitsC 0 q.word engD = true ∧
    engD.rsv = false ∧ engD.type = 0 ∧ State.fitsA 0 q.word engD .bf16 none 1 = true ∧
    descFits 0 engD .bf16 .col (wT q.word * classKt 0) (wN q.word) 1 false = true :=
  ⟨rfl, ⟨rfl, rfl, rfl, rfl, rfl, rfl, rfl, ⟨rfl, rfl, fun _ => rfl, rfl⟩, fun g h => by interval_cases g <;> exact ⟨rfl, fun _ => (by decide : (0 : BitVec 72).toNat < 2 ^ 64)⟩, rfl⟩,
    by decide +kernel, rfl, by decide +kernel, rfl, rfl, by decide +kernel, rfl, rfl, by decide +kernel, by decide +kernel⟩
/-! ### Witnesses -/

theorem witness_DrainConverts_drain :
    let s := engState2 2; let q := engQ 2; let u := forEach [0] (s.settleRamps 0 0) fun t g => t.engTake 0 0 q g
    enginesOf (wEmask q.word) q.shift = [0] ∧ s.gangReady 0 0 0 0 q 2 ∧ runAcc (readDesc 0 (wbits q.word 8 0)) u = (.ok engD, u) ∧
    fmtOf engD.fmt = some .bf16 ∧ State.drainFmt q.word engD = true ∧ State.fitsC 0 q.word engD = true :=
  ⟨rfl, ⟨rfl, rfl, rfl, rfl, rfl, rfl, rfl, ⟨rfl, rfl, fun _ => rfl, rfl⟩, fun g h => by interval_cases g <;> exact ⟨rfl, fun _ => (by decide : (0 : BitVec 72).toNat < 2 ^ 64)⟩, rfl⟩,
    by decide +kernel, rfl, rfl, by decide +kernel⟩
theorem witness_DrainConverts_ramp :
    let q := engQ 1
    let r : State := { runState with coreR := [(0, [(R.seqSts, 2), (0x1000 + R.engCtrl, 5), (0x1000 + R.engSts, 2)])], cx := [(0, { eng := [(0, { u := { queue := [q] } })] })] }
    let s := r.settleRamps 0 0
    s.removed 0 0 = false ∧ s.slotOf 0 = some 0 ∧ s.slotActive 0 = true ∧ s.coreState 0 = 2 ∧ (s.engX 0 0).u.queue.head? = some q ∧ s.engState 0 0 = engIdle ∧
    (s.engX 0 0).u.ready = true ∧ s.kndOn 0 0 = true ∧ s.slotState 0 = 3 ∧ s.issueCycle 0 q ≤ s.runCycle 0 0 + 64 := by decide +kernel
theorem witness_DrainConverts_far :
    let q : QWord := { engQ 1 with word := (engQ 1).word + 2000 * 2 ^ 104 }
    (runState.runCycle 0 0 : Int) + 64 < runState.issueCycle 0 q := by decide +kernel
/-! ### Witnesses -/

theorem witness_CordPointIssues :
    cordState.thm.trip = false ∧ cordState.queDecl? 0 5 = some cordDecl ∧ cordState.slotState 0 = 3 ∧ cordDecl.cordKind = true ∧
    cordDecl.points[0]? = some 100 := by decide
theorem witness_CordPointIssues_partial :
    let e : InEnt := { idx := 1, dl := 0, ctx := 2, len := 8, inTime := true }
    let s : State := { cordState with slots := cordState.slots.map fun p => (p.1, { p.2 with queues := [(5, { ents := [e] })] }) }
    s.queDecl? 0 5 = some cordDecl ∧ s.slotState 0 = 3 ∧ (s.que 0 5).ents = [e] ∧ s.curRfn 0 = e.dl.toNat := by decide
theorem witness_CordPointIssues_full :
    let es : List InEnt := (List.range 33).map fun i => { idx := i, dl := 1, ctx := 2, len := 8, inTime := true }
    let s : State := { cordState with slots := cordState.slots.map fun p => (p.1, { p.2 with queues := [(5, { ents := es })] }) }
    s.queDecl? 0 5 = some cordDecl ∧ s.slotState 0 = 3 ∧ 1 ≤ cordDecl.w ∧ s.curRfn 0 = 0 ∧
    32 ≤ (s.que 0 5).ents.countP fun e => e.inTime && decide (s.curRfn 0 ≤ e.dl.toNat ∧ e.dl.toNat ≤ s.curRfn 0 + cordDecl.w) := by
  decide +kernel
theorem witness_CordPointIssues_last : 0 + 1 = cordDecl.points.length := by decide
theorem witness_CordPointIssues_more :
    let d : QueueDecl := { cordDecl with cpoints := [100, 200] }; d.points[0]? = some 100 ∧ 0 + 1 < d.points.length := by decide
/-! ### Witnesses -/

theorem witness_StreamWordsIssue : ∀ opc ∈ [1, 2, 3],
    (strState opc 2).strReady 0 0 1 0 opc (strQ opc) strD strD ∧ (strState opc 2).chanHalted 0 1 = false ∧
    State.strFits (strQ opc).word strD strD = true ∧ (strReqs (strQ opc) strD strD).length = 1 ∧
    (strState opc 2).tagsOf 0 false + 1 ≤ 256 ∧ (strState opc 2).dieTags 0 + 1 ≤ 4096 := by
  intro opc h
  fin_cases h <;> exact ⟨⟨rfl, rfl, rfl, rfl, rfl, rfl, rfl, by decide +kernel, by decide +kernel⟩, rfl, by decide +kernel, by decide +kernel,
    by decide +kernel, by decide +kernel⟩
theorem witness_StreamWordsIssue_send :
    (strState 3 2).ownClean 0 ∧ ((strReqs (strQ 3) strD strD).all fun r => (ownPart 0 r.fromDa (r.fromDa + r.bytes)).isSome) = true ∧
    ∃ i, ((strState 3 2).slot 0).img = some i ∧ i.routeTo (wbits (strQ 3).word 22 13) = some 0 ∧ (strState 3 2).lnkState 0 = lnkUp :=
  ⟨⟨rfl, rfl, fun _ => rfl, rfl⟩, by decide +kernel, _, rfl, rfl, rfl⟩
theorem witness_StreamWordsIssue_wait :
    let s : State := (strState 1 2).updCx 0 fun x => { x with reqs := List.replicate 256 (testReq 0) }
    s.strReady 0 0 1 0 1 (strQ 1) strD strD ∧ s.chanHalted 0 1 = false ∧ 256 ≤ s.tagsOf 0 false :=
  ⟨⟨rfl, rfl, rfl, rfl, by decide +kernel, rfl, rfl, by decide +kernel, by decide +kernel⟩, rfl, by decide +kernel⟩
theorem witness_StreamWordsIssue_halted :
    (strState 1 3).chanHalted 0 1 = true ∧ wbits (strQ 1).word 26 23 = 0 ∧ (strState 1 3).wordsLeft 0 0 ∧ ((strState 1 3).slot 0).ending = none := ⟨rfl, rfl, ⟨testEnt, rfl, by decide⟩, rfl⟩
theorem witness_StreamWordsIssue_unfit : State.strFits (strQ 1).word strD { strD with rsv := true } = false := by decide +kernel
/-! ### Witnesses -/

theorem witness_RequestsReturn : ∀ k ∈ [0, 1, 2],
    (reqState k).thm.trip = false ∧ (reqState k).runSlot 0 = some 0 ∧ ((reqState k).cxOf 0).reqs[0]? = some (testReq k) ∧
    (reqState k).chanHalted 0 1 = false ∧ windowAt (testReq k).toDa = none := by decide
theorem witness_RequestsReturn_dead : ∀ k ∈ [0, 2],
    let s : State := (reqState k).updCx 0 fun x => { x with reqs := [{ testReq k with dead := true }] }
    s.thm.trip = false ∧ s.runSlot 0 = some 0 ∧ (s.cxOf 0).reqs[0]? = some { testReq k with dead := true } := by decide
theorem witness_RequestsReturn_late : ((queState 2).cxOf 0).que.queue.head? = some (queQ 2) ∧ wClass (queQ 2).word = 6 ∧ 2 ≤ wOpc (queQ 2).word := by
  decide +kernel
theorem witness_RequestsReturn_checks :
    let u : State := { (reqState 0).updCx 0 fun x => { x with reqs := x.reqs.eraseIdx 0 } with syn := [(sramOf 0 / 8, 1)] }
    u.wrongChecks (sramOf 0) (sramOf 0 + 64) 32 = [(sramOf 0 + 64, 1)] ∧ u.locate (sramOf 0 + 64) = some (.sram (sramOf 0 + 64) 0) ∧
    (testReq 0).fromDa = sramOf 0 ∧ (testReq 0).toDa = sramOf 0 + 64 ∧ (testReq 0).bytes = 32 := by decide +kernel
theorem witness_RequestsReturn_wait (k : Nat) : (reqState k).noneWait := by
  intro c
  rcases c with _ | c
  · exact ⟨rfl, rfl⟩
  · simp [State.noWait, State.cxOf, reqState, Tbl.get, Tbl.find?]
theorem witness_RequestsReturn_grant :
    let r := { testReq 0 with ch := 2 }
    let s : State := (reqState 0).updCx 0 fun x => { x with waiting := [r] }
    let v : State := (reqState 0).updCx 0 fun x => { x with stalled := [8] }
    r.kind ≠ 2 ∧ r.ch ≠ (testReq 0).ch ∧ (s.cxOf 0).waiting = [r] ∧ (v.cxOf 0).stalled = [8] ∧ s.chanHalted 0 1 = false ∧
    s.tagsOf 0 false ≤ 256 ∧ s.dieTags 0 ≤ 4096 := by decide +kernel
theorem witness_RequestsReturn_half :
    let u := (reqState 0).updCx 0 fun x => { x with reqs := x.reqs.eraseIdx 0 }
    ((u.readDa (.stream 0) (sramOf 0) 32).2.ownClean 0) ∧ (ownPart 0 (sramOf 0 + 64) (sramOf 0 + 64 + 32)).isSome = true :=
  ⟨⟨rfl, rfl, fun _ => rfl, rfl⟩, by decide⟩
theorem witness_RequestsReturn_window :
    let s : State := { reqState 0 with host := { buoy0 := 0xFFFFFFFFFFFF } }
    windowAt (redBase + 0x1000) = some (0, 0, 0x1000) ∧ s.hbmClean ∧ (s.readDa (.stream 0) (sramOf 0) 32).1 = .ok (zeros 32) ∧
    (s.readDa (.stream 0) (sramOf 0) 32).2.hbmClean :=
  ⟨by decide, ⟨by decide, rfl, rfl, fun _ => rfl, rfl, rfl, rfl⟩, by decide +kernel, ⟨by decide +kernel, rfl, rfl, fun _ => rfl, rfl, rfl, rfl⟩⟩
theorem witness_RequestsReturn_copy :
    let u := (reqState 0).updCx 0 fun x => { x with reqs := x.reqs.eraseIdx 0 }
    (u.readDa (.stream 0) (sramOf 0) 32).1 = .ok (zeros 32) ∧
    ((u.readDa (.stream 0) (sramOf 0) 32).2.writeDa (.stream 0) (sramOf 0 + 64) (zeros 32)).1 = none := by decide +kernel
theorem witness_RequestsReturn_walker :
    let q : QWord := { word := 0, rfn := 0, op := 0, addr := 0, shift := 0 }
    let s : State := (reqState 0).updCx 0 fun x => { x with pgw := { x.pgw with run := some q } }
    s.thm.trip = false ∧ s.runSlot 0 = some 0 ∧ (s.cxOf 0).reqs[0]? = some (testReq 0) ∧ (s.cxOf 0).pgw.run.isSome = true ∧
    bitAt (s.core 0 R.pgwSts) 11 = false := by decide
theorem witness_RequestsReturn_gather :
    let u := (reqState 1).updCx 0 fun x => { x with reqs := x.reqs.eraseIdx 0 }
    (u.readDa (.stream 0) (sramOf 0) 8).1 = .ok (zeros 8) ∧ (u.readDa (.stream 0) 0 32).1 = .ok (zeros 32) := by decide +kernel
/-! ### Witnesses -/

theorem witness_CheckUnitWords : ∀ opc ∈ [1, 2, 3, 4],
    (chkState opc 2).issues 0 0 0 .chk (chkQ opc) 5 opc ∧
    runAcc (readDesc 0 (wChkSrc (chkQ opc).word)) ((chkState opc 2).unitTake 0 .chk (chkQ opc)) =
      (.ok (parseDesc (testDesc 2)), (chkState opc 2).unitTake 0 .chk (chkQ opc)) ∧
    descPlain (parseDesc (testDesc 2)) = true ∧ spanFits 0 (parseDesc (testDesc 2)) 8 1 1 true = true ∧
    spanFits 0 (parseDesc (testDesc 2)) 4 1 1 false = true := by
  intro opc h
  fin_cases h <;> exact ⟨⟨⟨rfl, rfl, rfl, rfl, rfl, rfl, rfl⟩, ⟨rfl, rfl, fun _ => rfl, rfl⟩⟩, by decide +kernel, rfl, by decide +kernel,
    by decide +kernel⟩
theorem witness_CheckUnitWords_unfit : descPlain (parseDesc (testDesc 15)) = false := by decide +kernel
/-! ### Witnesses -/

theorem witness_QueuePortWords : ∀ opc ∈ [1, 2, 3], (queState opc).issues 0 0 0 .que (queQ opc) 6 opc := by
  intro opc h
  fin_cases h <;> exact ⟨⟨rfl, rfl, rfl, rfl, rfl, rfl, rfl⟩, ⟨rfl, rfl, fun _ => rfl, rfl⟩⟩
theorem witness_QueuePortWords_tag : ∀ opc ∈ [2, 3],
    (queState opc).tagReady 0 8 = true ∧ ((queState opc).cxOf 0).granted.contains 8 = false ∧
    ((queState opc).updCx 0 fun x => { x with reqs := List.replicate 256 (testReq 0) }).tagReady 0 8 = false := by decide +kernel
theorem witness_QueuePortWords_clean :
    ({ queState 2 with host := { buoy0 := 0xFFFFFFFFFFFF } } : State).hbmClean ∧ State.inHbm inDecl.ring (inDecl.depth * inDecl.esize) = true :=
  ⟨⟨by decide, rfl, rfl, fun _ => rfl, rfl, rfl, rfl⟩, by decide⟩
theorem witness_QueuePortWords_many :
    let r (i : Nat) : LqRec := { row := i, idx := i, ctx := 1, trunc := false, err := false }
    let w : QWord := { queQ 3 with word := (queQ 3).word - 2 ^ 26 + 3 * 2 ^ 42 }
    let s : State := ({ queState 3 with
      host := { buoy0 := 0xFFFFFFFFFFFF }
      coreR := [(0, [(R.seqSts, 2), (R.seqDesc, 0x1000), (R.pgwCstatBase, 0x100000)])] } : State).updCx 0 fun x =>
        { x with lq := [(3, [r 0, r 1])], que := { queue := [w] } }
    s.queDecl? 0 (wQ w.word) = some outDecl ∧ wOne w.word = false ∧ (s.cxOf 0).lq.get [] (wLq w.word) = [r 0, r 1] ∧
    rowsFit 0 queD 2 = true ∧ s.muted 0 0 = false ∧ ahead 0 0 + 2 ≤ outDecl.depth ∧ 32 ≤ outDecl.esize ∧ outDecl.depth ≤ 2 ^ 32 ∧ State.inHbm 0x100010 16 = true ∧
    s.canIssue 0 0 0 .que w 6 3 ∧ s.tagReady 0 8 = true :=
  ⟨rfl, rfl, rfl, by decide +kernel, by decide +kernel, by decide +kernel, by decide, by decide, by decide,
    ⟨rfl, rfl, rfl, rfl, rfl, by decide +kernel, by decide +kernel⟩, by decide +kernel⟩
theorem witness_QueuePortWords_cord :
    let k : Cord := { rfn := 0, off := 0, lanes := [] }
    k.rfn = (queQ 1).rfn ∧ k.off ≤ 0 ∧ ((queState 1).que 0 (wQ (queQ 1).word)).cord = none := by decide
theorem witness_QueuePortWords_in :
    (queState 2).queDecl? 0 3 = some inDecl ∧ inDecl.input = true ∧ inDecl.cordKind = false ∧ wQ (queQ 2).word = 3 ∧
    runAcc (readDesc 0 (wQDesc (queQ 2).word)) ((queState 2).unitTake 0 .que (queQ 2)) = (.ok queD, (queState 2).unitTake 0 .que (queQ 2)) ∧
    rowsFit 0 queD (wMax (queQ 2).word) = true ∧
    (∀ r ∈ ((queState 2).cxOf 0).lq.get [] (wLq (queQ 2).word), r.row < (((queState 2).cxOf 0).lq.get [] (wLq (queQ 2).word)).length) := by
  decide +kernel
theorem witness_QueuePortWords_inCord :
    let qd : QueueDecl := { inDecl with kind := 1 }
    let s : State := (queState 2).updCx 0 fun y => { y with cords := [(3, { rfn := 0, off := 0, lanes := [] })] }
    qd.input = true ∧ qd.cordKind = true ∧ (s.cxOf 0).cords.find? 3 = some { rfn := 0, off := 0, lanes := [] } := by decide
theorem witness_QueuePortWords_out :
    (queState 3).queDecl? 0 4 = some outDecl ∧ outDecl.kind = 3 ∧ wQ (queQ 3).word = 4 ∧ wOne (queQ 3).word = true ∧
    runAcc (readDesc 0 (wQDesc (queQ 3).word)) ((queState 3).unitTake 0 .que (queQ 3)) = (.ok queD, (queState 3).unitTake 0 .que (queQ 3)) ∧
    rowsFit 0 queD 1 = true ∧ (queState 3).muted 0 0 = false ∧ ahead 0 0 < outDecl.depth := by decide +kernel
/-! ### Witnesses -/

theorem witness_MergeRows :
    (walkState 3).walkReady 0 0 0 (walkQ 3) 3 ∧
    (∀ k < 6, runAcc (readDesc 0 (wbits (walkQ 3).word (71 - 9 * k) (63 - 9 * k))) ((walkState 3).walkTake 0 0 (walkQ 3) 3) =
      (.ok (parseDesc (testDesc 2)), (walkState 3).walkTake 0 0 (walkQ 3) 3)) ∧
    (∀ k < 6, rowsOk 0 (parseDesc (testDesc 2)) (if k % 2 = 0 then ((walkState 3).geom 0).d else 2) 1 (decide (4 ≤ k)) (· == .fp32) = true) :=
  ⟨walkReady_mk (Or.inr (Or.inl rfl)), by decide +kernel, by decide +kernel⟩
/-! ### Witnesses -/

theorem witness_WalkerListWords : ∀ opc ∈ [2, 1, 4],
    (walkState opc).walkReady 0 0 0 (walkQ opc) opc ∧
    runAcc (readDesc 0 0) ((walkState opc).walkTake 0 0 (walkQ opc) opc) =
      (.ok (parseDesc (testDesc 2)), (walkState opc).walkTake 0 0 (walkQ opc) opc) ∧
    (runAcc (readWalkList 0 (sramOf 0)) ((walkState opc).walkTake 0 0 (walkQ opc) opc)).1 = .ok (some walkL) := by
  intro opc h
  fin_cases h <;> exact ⟨walkReady_mk (by decide), by decide +kernel, by decide +kernel⟩
theorem witness_WalkerListWords_list : ∀ opc ∈ [2, 1, 4],
    (runAcc (readWalkList 0 (sramOf 0)) ((pageState opc 1 3 1).walkTake 0 0 (pageQ opc) opc)).1 = .ok (some { walkL with ents := [pageEnt] }) ∧
    runAcc (readDesc 0 0) ((pageState opc 1 3 1).walkTake 0 0 (pageQ opc) opc) =
      (.ok (parseDesc (testDesc 2)), (pageState opc 1 3 1).walkTake 0 0 (pageQ opc) opc) ∧ (pageQ 2).word.getLsbD 63 = true ∧
    (∀ y ∈ [1, 4], attnFits 0 (pageQ y).word ((pageState y 1 3 1).geom 0) { walkL with ents := [pageEnt] }
      { qd := parseDesc (testDesc 2), od := parseDesc (testDesc 2), sd := parseDesc (testDesc 2), fq := .fp32, fo := .fp32, es := [] } = true) := by
  decide +kernel
/-- The token of an APPEND, and those of an ATTN or SCORES, lie in slots in the core's SRAM. -/
theorem witness_WalkerListWords_slots : ∀ i < 16,
    slotOwn 0 ((pageState 2 1 3 1).geom 0) (pageFrame 3) (wSlot (pageQ 2).word) i := by
  intro i hi k hk
  interval_cases i <;> interval_cases k <;> exact ⟨⟨true, by decide +kernel⟩, ⟨true, by decide +kernel⟩⟩
theorem witness_WalkerListWords_append :
    (pageState 2 1 3 1).latches 0 (pageQ 2) walkL pageEnt 0 (pageCtx 1) [({ pos := 0, frame := 0 }, pageFrame 3)] ∧ (pageFrame 3).ref ≤ 1 ∧
    (pageFrame 3).fill + pageEnt.ntok ≤ slotsOf (pageFrame 3).sz ∧ (pageState 2 1 3 1).walkReady 0 0 0 (pageQ 2) 2 :=
  ⟨pageLatches (by decide) (by decide) (by decide), by decide, by decide, pageReady (by decide) (by decide) (by decide)⟩
theorem witness_WalkerListWords_grow :
    (pageState 2 1 16 1).latches 0 (pageQ 2) walkL pageEnt 0 (pageCtx 1) [({ pos := 0, frame := 0 }, pageFrame 16)] ∧
    (pageFrame 16).fill = slotsOf (pageFrame 16).sz ∧ pageEnt.ntok = 1 ∧ (pageCtx 1).npages < (pageCtx 1).cap ∧
    0 < (pageState 2 1 16 1).poolCnt 0 0 ∧ (pageState 2 1 16 1).walkReady 0 0 0 (pageQ 2) 2 ∧
    (let s := pageState 2 1 16 1
     leNat (Memory.gets s.mem (s.poolDa 0 0 0) 2) = 7 ∧ ownPart 0 (s.poolDa 0 0 0) (s.poolDa 0 0 0 + 2) = some true ∧
     ownPart 0 (s.frameDa 0 7) (s.frameDa 0 7 + 16) = some true) :=
  ⟨pageLatches (by decide) (by decide) (by decide), by decide, by decide, by decide, by decide +kernel,
    pageReady (by decide) (by decide) (by decide), by decide +kernel⟩
theorem witness_WalkerListWords_full :
    (pageState 2 1 16 0).latches 0 (pageQ 2) walkL pageEnt 0 (pageCtx 1) [({ pos := 0, frame := 0 }, pageFrame 16)] ∧
    (pageState 2 1 16 0).poolCnt 0 0 = 0 ∧ (pageState 2 1 16 0).hbmClean ∧ 0x100000 % 16 = 0 ∧ State.inHbm 0x100000 16 = true ∧
    (pageState 2 1 16 0).walkReady 0 0 0 (pageQ 2) 2 :=
  ⟨pageLatches (by decide) (by decide) (by decide), by decide +kernel,
    ⟨by decide +kernel, rfl, rfl, fun _ => rfl, rfl, rfl, by decide +kernel⟩, by decide, by decide,
    pageReady (by decide) (by decide) (by decide)⟩
/-- A shared page in a frame of 16 slots, 3 of them filled, and the frame that pool 0 gives; a context that has reserved 1 slot last. -/
def shareFrame : Frame := { pageFrame 3 with ref := 2 }
def spareFrame : Frame := { addr := (sramOf 0 + 0x40000) / 64, sz := 0, st := 1, ref := 0, fill := 0, free := 0 }
def lastCtx : Ctx := { pageCtx 1 with last := 1 }
def pageStateOf (q : QWord) (x : Ctx) (f : Frame) : State :=
  let s := pageState 2 1 3 1
  { s with
    cx := [(0, { vec := { queue := [q] }, pgw := { queue := [q] } })]
    mem := Memory.sets (Memory.sets (Memory.sets s.mem (sramOf 0 + 0x4000) (leBytes 32 x.word)) (sramOf 0 + 0x10000) (leBytes 16 f.word))
      (sramOf 0 + 0x10070) (leBytes 16 spareFrame.word) }
theorem witness_WalkerListWords_share :
    let s := pageStateOf (pageQ 2) (pageCtx 1) shareFrame
    let k := leNat (Memory.gets s.mem (s.poolDa 0 0 0) 2)
    let f : Frame := { frameAt s.mem (s.frameDa 0 k) with st := 2, ref := 1, fill := 3, free := 0 }
    s.latches 0 (pageQ 2) walkL pageEnt 0 (pageCtx 1) [({ pos := 0, frame := 0 }, shareFrame)] ∧ s.walkReady 0 0 0 (pageQ 2) 2 ∧
    1 < shareFrame.ref ∧ shareFrame.sz ≤ (s.geom 0).cow ∧ shareFrame.fill < slotsOf shareFrame.sz ∧ 0 < s.poolCnt 0 0 ∧ k = 7 ∧
    inOwn 0 (s.poolDa 0 0 0) 2 ∧ inOwn 0 (s.frameDa 0 7) 16 ∧ (s.geom 0).hs = 1 ∧
    (∀ i < 4, slotOwn 0 (s.geom 0) shareFrame 0 i ∧ slotOwn 0 (s.geom 0) f 0 i) ∧ wSlot (pageQ 2).word = 0 :=
  ⟨⟨.inl ⟨rfl, rfl⟩, ⟨true, by decide +kernel⟩, by decide +kernel, rfl,
    fun i hi => by
      have : i = 0 := by have : i < 1 := hi; omega
      subst this; exact ⟨⟨true, by decide +kernel⟩, ⟨true, by decide +kernel⟩⟩,
    by decide +kernel, by simp [pageFrame, shareFrame], by decide +kernel, by decide, fun h => absurd h (by decide)⟩,
   ⟨rfl, rfl, rfl, rfl, rfl, by decide +kernel, fun _ => by decide +kernel, by decide +kernel, .inr rfl,
    ⟨rfl, rfl, fun _ => rfl, by decide +kernel⟩, ⟨by decide +kernel, by decide +kernel⟩, fun _ => by decide +kernel⟩,
   by decide, by decide +kernel, by decide, by decide +kernel, by decide +kernel, ⟨true, by decide +kernel⟩, ⟨true, by decide +kernel⟩,
   by decide +kernel,
   fun i hi => by
    constructor <;> intro k hk <;> interval_cases i <;> interval_cases k <;> exact ⟨⟨true, by decide +kernel⟩, ⟨true, by decide +kernel⟩⟩,
   by decide⟩
theorem witness_WalkerListWords_rewrite :
    let s := pageStateOf (walkQ 2) lastCtx (pageFrame 3)
    let ps := [({ pos := 0, frame := 0 }, pageFrame 3)]
    s.latches 0 (walkQ 2) walkL pageEnt 0 lastCtx ps ∧ s.walkReady 0 0 0 (walkQ 2) 2 ∧ (walkQ 2).word.getLsbD 63 = false ∧
    lastCtx.last ≤ (tokenSlots ps).length ∧ lastCtx.last ≤ pageEnt.ntok ∧
    (∀ y ∈ (tokenSlots ps).drop 2, slotOwn 0 (s.geom 0) y.1 (wSlot (walkQ 2).word) y.2) :=
  ⟨⟨.inl ⟨rfl, rfl⟩, ⟨true, by decide +kernel⟩, by decide +kernel, rfl,
    fun i hi => by
      have : i = 0 := by have : i < 1 := hi; omega
      subst this; exact ⟨⟨true, by decide +kernel⟩, ⟨true, by decide +kernel⟩⟩,
    by decide +kernel, by simp [pageFrame], by decide +kernel, by decide, fun h => absurd h (by decide)⟩,
   ⟨rfl, rfl, rfl, rfl, rfl, by decide +kernel, fun _ => by decide +kernel, by decide +kernel, .inr rfl,
    ⟨rfl, rfl, fun _ => rfl, by decide +kernel⟩, ⟨by decide +kernel, by decide +kernel⟩, fun _ => by decide +kernel⟩,
   by decide, by decide, by decide,
   fun y hy => by
    have : y = (pageFrame 3, 2) := by simpa [tokenSlots, pageFrame, List.range, List.range.loop] using hy
    subst this; intro k hk; interval_cases k <;> exact ⟨⟨true, by decide +kernel⟩, ⟨true, by decide +kernel⟩⟩⟩
/-- A cord of one lane, which names context 0. -/
theorem witness_WalkerListWords_lanes :
    let s : State := (pageState 1 1 3 1).updCx 0 fun x => { x with cords := [(0, { rfn := 0, off := 0, lanes := [{ idx := 0, ctx := 0, len := 0 }] })] }
    let l := { walkL with cqEn := true }
    s.names 0 l { pageEnt with lsrc := true } 0 ∧ s.unfilled 0 l { pageEnt with lsrc := true, lane := 1 } :=
  ⟨.inr ⟨rfl, rfl, _, _, rfl, rfl, rfl⟩, rfl, rfl, fun k hk => by
    have : k = { rfn := 0, off := 0, lanes := [{ idx := 0, ctx := 0, len := 0 }] } := (Option.some.inj hk).symm
    subst this; rfl⟩
theorem witness_WalkerListWords_skip :
    ctxAt (pageState 2 2 3 1).mem ((pageState 2 2 3 1).ctxDa 0 0) = pageCtx 2 ∧ (pageCtx 2).st ≠ 1 ∧
    (pageState 2 2 3 1).hbmClean := ⟨by decide +kernel, by decide, by decide +kernel, rfl, rfl, fun _ => rfl, rfl, rfl, by decide +kernel⟩
theorem witness_WalkerListWords_attn : ∀ opc ∈ [1, 4],
    (pageState opc 1 3 1).latches 0 (pageQ opc) walkL pageEnt 0 (pageCtx 1) [({ pos := 0, frame := 0 }, pageFrame 3)] ∧
    (pageState opc 1 3 1).walkReady 0 0 0 (pageQ opc) opc ∧ stageLen ≤ sramLen :=
  fun opc h => ⟨pageLatches (List.mem_cons_of_mem _ h) (by decide) (by decide), pageReady (List.mem_cons_of_mem _ h) (by decide) (by decide),
    by decide⟩
theorem witness_WalkerListWords_fit :
    let d := parseDesc (testDesc 2)
    rowsOk 0 d 128 (rowsUsed walkL.ents fun e => e.qrow + e.ntok) false (fun _ => true) = true ∧
    (∀ opc ∈ [1, 4], attnFits 0 (walkQ opc).word ((walkState opc).geom 0) walkL
      { qd := d, od := d, sd := d, fq := .fp32, fo := .fp32, es := [] } = true) := by decide +kernel
/-! ### Witnesses -/

theorem witness_WalkerTablesRoundTrip :
    parseFrame (Frame.word { addr := 77, sz := 3, st := 2, ref := 5, fill := 100, free := 9 }) = { addr := 77, sz := 3, st := 2, ref := 5, fill := 100, free := 9 } := by
  decide
/-! ### Witnesses -/

theorem witness_CommitsAndReleases_commit :
    commitState.tagReady 0 2 = true ∧ (commitState.cxOf 0).granted.contains 2 = false ∧ commitState.nextCommit 0 = some testCommit ∧ commitState.mayApply 0 testCommit = true ∧
    commitState.kpr.accepted.find? (fun x => x.ring == testCommit.ring && x.idx == testCommit.idx) = some testCmd := by decide +kernel
theorem witness_CommitsAndReleases_outcomes :
    let u := commitState.updCx 0 fun x => { x with commits := x.commits.erase testCommit }
    (applyEdits 0 0 0 [] u).1 = .ok (0, []) ∧
    (applyEdits 0 0 0 [parseEdit (zeros 32)] u).1 = .error (0, Sts.badArg, none) := by decide +kernel
/-- The next commit of core 0 parks context 0, LIVE, of a table at the start of its SRAM. -/
def parkRec : List Byte := leBytes 8 (3 * 2 ^ 56) ++ zeros 24
def parkState : State :=
  { scrubState with
    coreR := [(0, [(R.pgwCtxBase, 0xC000000000)])], cx := [(0, { commits := [{ testCommit with recs := [parkRec] }] })]
    mem := Memory.sets [] 0xC000000000 (leBytes 32 (Ctx.word ⟨0, 0, 0, 1, 0, 1, 0, 0⟩))
    kpr := { scrubState.kpr with accepted := [testCmd] } }
theorem witness_CommitsAndReleases_edit :
    parkState.nextCommit 0 = some { testCommit with recs := [parkRec] } ∧ parkState.tagReady 0 2 = true ∧
    (parkState.cxOf 0).granted.contains 2 = false ∧ parkState.presented 0 = true ∧ parkState.dieUp 0 = true ∧ parkState.syn = [] ∧
    Memory.wf parkState.mem = true ∧ (parseEdit parkRec).bad = false ∧ (parseEdit parkRec).op = 3 ∧
    ownPart 0 (parkState.ctxDa 0 0) (parkState.ctxDa 0 0 + 32) = some true ∧ (ctxAt parkState.mem (parkState.ctxDa 0 0)).st = 1 := by
  decide +kernel
/-- Records in order: that PARK, a FREE of its empty list, a FRAME_TAKE of more than one frame, a SET_WM. -/
theorem witness_CommitsAndReleases_records :
    (∃ m mx n, parkState.edits 0 0 (parseEdit parkRec) m mx n) ∧
    (∃ m mx n, parkState.edits 0 0 { op := 2, ctx := 0, gen := 0, a := 0, b := 0, bad := false } m mx n) ∧
    (∃ m mx n, ({ parkState with coreR := [(0, [(R.pgwCtxBase, 0xC000000000), (R.pgwPftBase, 0xC000010000), (R.pgwPool 0, 2)])] } : State).edits 0 0
      { op := 7, ctx := 0, gen := 0, a := 0, b := 2 ^ 32, bad := false } m mx n) ∧
    (∃ m mx n, parkState.edits 0 0 { op := 8, ctx := 0, gen := 0, a := 0, b := 5 * 2 ^ 16, bad := false } m mx n) :=
  ⟨⟨_, _, _, .inl ⟨by decide +kernel, ⟨true, by decide +kernel⟩, by decide +kernel, rfl⟩⟩,
   ⟨_, _, _, .inr (.inr (.inl ⟨rfl, ⟨⟨true, by decide +kernel⟩, by decide +kernel,
     fun i hi => absurd (show i < 0 from by
       have h : (ctxAt parkState.mem (parkState.ctxDa 0 0)).npages = 0 := by decide +kernel
       exact h ▸ hi) (Nat.not_lt_zero i)⟩, rfl⟩))⟩,
   ⟨_, _, _, .inr (.inr (.inr (.inr (.inr (.inr (.inl ⟨rfl, by decide +kernel, by decide +kernel,
     fun i hi => by
       have h : i < 2 := hi
       interval_cases i <;> exact ⟨⟨true, by decide +kernel⟩, ⟨true, by decide +kernel⟩⟩, rfl⟩))))))⟩,
   ⟨_, _, _, .inr (.inr (.inr (.inr (.inr (.inr (.inr ⟨rfl, by decide +kernel, rfl⟩))))))⟩⟩
/-- PARK of a LIVE context leaves it PARKED. -/
theorem test_park :
    (match exec (.commitApply 0) parkState with
     | .next t => (ctxAt t.mem 0xC000000000).st == 2 && t.kpr.done.map (·.status) == [0]
     | _ => false) = true := by decide +kernel
theorem witness_CommitsAndReleases_release :
    (walkState 2).tagReady 0 2 = true ∧ ((walkState 2).cxOf 0).granted.contains 2 = false ∧
    (walkState 2).runSlot 0 = some 0 ∧ ((walkState 2).cxOf 0).pgw.queue.head? = some (walkQ 2) ∧
    bitAt ((walkState 2).core 0 R.pgwSts) 11 = false ∧ (runAcc (releaseFrames 0 fun f => decide (f ≤ 0)) (walkState 2)).1 = .ok () := by
  decide +kernel
/-! ### Witnesses -/

theorem witness_ScrubbersAndRefreshes :
    scrubState.powered = true ∧ scrubState.thm.trip = false ∧ scrubState.dieUp 0 = true ∧ Memory.wf scrubState.mem = true ∧ scrubState.borneBy 0 0 = some 0 ∧
    scrubState.borneBy 0 16 = none ∧ scrubState.stackUp 0 = true ∧ scrubState.stackWiping 0 = false ∧
    scrubState.hbmGroup 0 = some (0, false) ∧ scrubState.poison.contains 0 = false ∧ scrubState.fenced 0 = false ∧
    scrubState.map.hbmOut.getLsbD 0 = false ∧ scrubState.thm.turfPos.get 0 0 < 16384 := by decide +kernel
theorem witness_ScrubbersAndRefreshes_wraps :
    (let s := { scrubState with thm := { scrubState.thm with turfPos := [(0, 16383)] } }
     s.thm.turfPos.get 0 0 < 16384 ∧ s.turfRefreshAt 0 = (31, 8176)) := by decide +kernel
/-- The last groups of the sweeps. -/
theorem witness_ScrubbersAndRefreshes_last :
    (let s := scrubState.setDie 0 R.turfScrbSts (BitVec.ofNat 64 (16 * 2 ^ 27 + 2 ^ 23 - 1))
     fld (s.die 0 R.turfScrbSts) 31 27 = 16 ∧ fld (s.die 0 R.turfScrbSts) 22 0 + 1 = 2 ^ 23) ∧
    (scrubState.setIod 0 (R.scrubHSts 0) (BitVec.ofNat 64 (2 ^ 30 - 1))).hbmGroup 0 = some (2 ^ 30 - 1, false) := by decide +kernel
/-- A word of SRAM whose stored bit 0 is wrong: the scrubber corrects it. -/
theorem test_scrub_corrects :
    (let s := { scrubState with mem := [(sramOf 0, 1)], syn := [(sramOf 0 / 8, 7)] }
     match exec (.sramScrub 0 0) s with
     | .next t => t.mem == [] && t.syn == [] && fld (t.die 0 R.turfEccCnt) 31 0 == 1
     | _ => false) = true := by decide +kernel
/-! ### Witnesses -/

theorem witness_BandsFollowReadings : scrubState.powered = true ∧ scrubState.turfBand 0 false = 0 := by decide +kernel
/-! ### Witnesses -/

theorem witness_HostReachesMemory :
    hostState.hostReach = true ∧ hostState.host.d3 = false ∧ ({ hostState with host := { hostState.host with d3 := true } }).hostReach = true ∧ State.reset.hostReach = false ∧ hostState.bar2Da 64 = 64 ∧
    (hostState.readDa Who.host 64 4).1 = .ok [0, 0, 0, 0] ∧ (hostState.atomicDa Who.host 64 4 fun p => p + 1).1 = .ok 0 ∧
    hostState.linesWhole = true := by decide +kernel
theorem witness_HostReachesMemory_errors :
    (match (hostState.readDa Who.host 0xFFFFFFFFFFFF 4).1 with | .ok _ => false | _ => true) = true ∧
    (match (hostState.hostWriteCheck 0xFFFFFFFFFFF0 4).1 with | .ok _ => false | _ => true) = true ∧
    (match (State.atomicDa { hostState with host := { hostState.host with buoy0 := 2 } } Who.host 64 4 id).1 with
      | .ok _ => false | _ => true) = true := by decide +kernel
theorem witness_HostReachesMemory_own :
    (let s := { hostState with host := { hostState.host with win := 8 } }
     s.hostReach = true ∧ s.host.d3 = false ∧ s.bar2Da 64 = turfOf 0 + 64 ∧ State.ownEnd 0 (turfOf 0 + 64) = some (turfOf 0 + turfLen) ∧
     s.presented 0 = true ∧ s.dieUp 0 = true ∧ s.syn = [] ∧ Memory.wf s.mem = true) := by decide +kernel
/-! ### Witnesses -/

theorem witness_StagingAndAtomics_asked :
    (mailState.takes Op.memStage (testMbox 16 0) = true ∧ mailState.kprState = 2 ∧ argsDirty (testMbox 16 0).args [(0, 12)] = false) ∧
    (mailState.takes Op.memStage (testMbox 16 (2 ^ 64)) = true ∧ argsDirty (testMbox 16 (2 ^ 64)).args [(0, 12)] = false) ∧
    mailState.takes Op.memAtomic (testMbox 32 (4 * 2 ^ 8)) = true ∧
    argsDirty (testMbox 32 (4 * 2 ^ 8)).args [(0, 2), (8, 24)] = false ∧ mailState.kpr.accepted = [] ∧
    ((mailState.begun Op.memAtomic (testMbox 32 (4 * 2 ^ 8))).atomicDa Who.host 0 4 fun p => p % 2 ^ 32).1 = .ok 0 := by
  decide +kernel
/-- A list of one entry, 64 bytes from HBM to core 0's turf. -/
def stageE : StageEnt := { src := 0x40000, dst := turfOf 0, len := 64, hit := false }
def stageCmd : Cmd := { ring := 1, idx := 7, tag := 3, opcode := Op.memStage, flags := 0, acc := 0, args := 0, note := 1 }
def stageState : State := { mailState with kpr := { mailState.kpr with accepted := [stageCmd], stage := [stageE] } }
theorem witness_StagingAndAtomics_stage :
    stageState.kpr.accepted = [stageCmd] ∧ (State.copyEntries 0 stageState.kpr.stage stageState).1 = none ∧
    (State.copyEntries 0 stageState.kpr.stage stageState).2.kpr.accepted = [stageCmd] ∧
    (State.copyEntries 0 [{ stageE with src := 2 ^ 44 }] stageState).1 = some (Sts.addressError, 0, 2 ^ 44) ∧
    mailState.stageOk 0 stageE = true ∧ mailState.stageDown stageE = false ∧ mailState.stageBusy stageE = false ∧
    mailState.stageOk 1 stageE = false ∧ { mailState with host := { mailState.host with buoy0 := 0 } }.stageDown stageE = true ∧
    State.parseStage (leBytes 32 (0x40000 + turfOf 0 * 2 ^ 64 + 64 * 2 ^ 128)) = ([stageE], true) := by decide +kernel
/-! ### Witnesses -/

/-- ADD of rows 1 and 2 of bank 4096 into row 0, column 0, FP16. -/
def nbW (op : Nat) : BitVec 128 := BitVec.ofNat 128 (op * 2 ^ 120 + 2 ^ 118 + 2 ^ 113 + 4096 * 2 ^ 100 + 2 ^ 32 + 2 * 2 ^ 16)
def nbC (op : Nat) : NbCmd := { ring := 1, idx := 7, words := [nbW op], ran := [], table := [], raw := false, hit := false, ord := 0 }
def nbState (op : Nat) : State := { mailState with nbu := [(2, { cmds := [nbC op] })] }
theorem witness_BankOperations : ∀ op ∈ [1, 2, 3, 4],
    (nbState op).nbNext 4096 = some (nbC op, nbW op) ∧ wbits (nbW op) 127 120 = op ∧ (nbState op).nbHeld 2 (nbC op) = false ∧
    Memory.wf (nbState op).mem = true ∧ mailState.nbNext 4096 = none := by decide +kernel
/-- 1.0 + 1.0 = 2.0 in FP16 (R268, R269). -/
theorem test_nbu_add :
    (let a := aliasBase + 4096 * 2 ^ 26
     let s := { nbState 1 with mem := Memory.sets (Memory.sets [] (a + 1024) [0x00, 0x3C]) (a + 2048) [0x00, 0x3C] }
     match exec (.nbuAdd 4096) s with
     | .next t => Memory.gets t.mem a 2 == [0x00, 0x40]
     | _ => false) = true := by decide +kernel
/-! ### Witnesses -/

/-- NBU_RUN of one word in HBM at 0; the rows of bank 4096 are unprotected. -/
def nbRunState : State :=
  { mailState with
    mem := Memory.sets [] aliasBase (leBytes 16 (nbW 1).toNat)
    iodR := [(0x22000000 + R.nbuReg 0, BitVec.ofNat 64 (2 ^ 63 + 4096 * 2 ^ 43 + 65535))]
    sec := { mailState.sec with life := 1 } }
theorem witness_NearBankCommands_run :
    nbRunState.takes Op.nbuRun (testMbox 24 (2 ^ 64)) = true ∧ nbRunState.kprState = 2 ∧
    argsDirty (testMbox 24 (2 ^ 64)).args [(0, 10), (16, 8)] = false ∧ hashAt 0 = aliasAt 0 ∧
    ((nbRunState.begun Op.nbuRun (testMbox 24 (2 ^ 64))).readDa Who.host 0 16).1 = .ok (leBytes 16 (nbW 1).toNat) ∧
    nbWordOk false (nbW 1) = true ∧ (nbRows (nbW 1)).all (fun r => nbRunState.unprotected (r * 1024)) = true ∧ nbRunState.stackUp 4 = true := by decide +kernel
/-- NBU_RUN of an ACT word with its table in HBM at 2^20; NBU_REGION setting entry 1 of IOD2 to bank 4097, row 0. -/
def nbActW : BitVec 128 := BitVec.ofNat 128 (4 * 2 ^ 120 + 2 ^ 118 + 2 ^ 113 + 4096 * 2 ^ 100 + 2 ^ 32)
def nbTabState : State := { nbRunState with mem := Memory.sets [] aliasBase (leBytes 16 nbActW.toNat) }
def nbTabMbox : Mbox := testMbox 24 (2 ^ 64 + 2 ^ 20 * 2 ^ 128)
def nbSetMbox (bank : Nat) : Mbox := testMbox 16 (2 + 2 ^ 8 + 2 ^ 16 + bank * 2 ^ 32)
theorem witness_NearBankCommands_table :
    nbTabState.takes Op.nbuRun nbTabMbox = true ∧ nbTabState.kprState = 2 ∧ argsDirty nbTabMbox.args [(0, 10), (16, 8)] = false ∧
    arg nbTabMbox.args 16 8 = 2 ^ 20 ∧ nbWordOk true nbActW = true ∧
    ((nbTabState.begun Op.nbuRun nbTabMbox).readDa Who.host 0 16).1 = .ok (leBytes 16 nbActW.toNat) ∧
    (((nbTabState.begun Op.nbuRun nbTabMbox).readDa Who.host 0 16).2.readDa Who.host (2 ^ 20) 776).1 = .ok (zeros 776) := by decide +kernel
theorem witness_NearBankCommands_set :
    mailState.takes Op.nbuRegion (nbSetMbox 4097) = true ∧ argsDirty (nbSetMbox 4097).args [(0, 3), (4, 8)] = false ∧
    arg (nbSetMbox 4097).args 0 1 = 2 ∧ arg (nbSetMbox 4097).args 2 1 = 1 ∧ arg (nbSetMbox 4097).args 4 2 = 4097 ∧ mailState.sec.life ≠ 3 ∧
    (List.range 16).all (fun j => j == 1 || !State.nbMeet ⟨4097, 1, 0, 1⟩ (nbBoxOf (mailState.iod 2 (R.nbuReg j)))) = true ∧
    arg (nbSetMbox 1).args 4 2 < 2048 * 2 := by decide +kernel
theorem witness_NearBankCommands_full :
    let f : NbFence := { ring := 1, idx := 7, base := 2 ^ 38, len := 1024, ord := 0 }
    let s : State := { mailState with nbu := [(2, { fences := List.replicate 8 f })] }
    8 ≤ (s.nb 2).fences.length ∧ (s.nb 2).region = [] := by decide +kernel
theorem witness_NearBankCommands_fence :
    mailState.takes Op.nbuFence (testMbox 16 (aliasBase + 4 * 2 ^ 36 + 1024 * 2 ^ 64)) = true ∧
    argsDirty (testMbox 16 (aliasBase + 4 * 2 ^ 36 + 1024 * 2 ^ 64)).args [(0, 16)] = false ∧
    mailState.takes Op.nbuRegion (testMbox 16 2) = true ∧ argsDirty (testMbox 16 2).args [(0, 3), (4, 8)] = false ∧
    mailState.anyActive = false ∧ (∀ k ∈ [4, 5, 6, 7], mailState.stackUp k = true) := by decide +kernel
def nbEndCmd : Cmd := { ring := 1, idx := 7, tag := 3, opcode := Op.nbuRun, flags := 0, acc := 0, args := 0, note := 0 }
def nbEnd : State :=
  { mailState with
    kpr := { mailState.kpr with accepted := [nbEndCmd] }
    nbu := [(2, { cmds := [{ nbC 1 with words := [], ran := [nbW 1] }] })] }
theorem witness_NearBankCommands_ends :
    (nbEnd.nb 2).cmds.find? (fun c => c.words.isEmpty) = some { nbC 1 with words := [], ran := [nbW 1] } ∧
    nbEnd.kpr.accepted.filter (fun x => x.ring == 1 && x.idx == 7) = [nbEndCmd] ∧
    (let f : NbFence := { ring := 1, idx := 7, base := 2 ^ 38, len := 1024, ord := 0 }
     let s := { nbEnd with nbu := [(2, { fences := [f] })] }
     (s.nb 2).fences.find? s.nbFenceFree = some f ∧ (s.nb 2).cmds = [] ∧ (s.nb 3).cmds = []) := by decide +kernel
/-! ### Witnesses -/

/-- Port 1 of die 0 in a state; its connection is 0. -/
def portState_ (v : Nat) : State := { mailState with dieR := [(0x10000000 + R.d2dPortSts 1, BitVec.ofNat 64 (32 * v))] }
theorem witness_DieToDiePorts :
    (portState_ 2).portLive (portAt (.die 0 .e)) = true ∧ (portState_ 2).portState (portAt (.die 0 .e)) = portUp ∧
    (portState_ 1).portState (portAt (.die 0 .e)) = portTraining ∧ (portAt (.die 0 .e)).conn = some 0 ∧
    (portAt (.die 0 .e)).other = some ⟨false, 1, 3⟩ ∧ (portAt (.die 0 .n)).other = some ⟨true, 0, 0⟩ ∧
    (portAt (.die 4 .n)).other = some ⟨true, 1, 0⟩ ∧ trainedWidth [] = some 0 ∧ trainedWidth [0, 1] = some 2 ∧
    trainedWidth [0, 1, 264, 265] = none ∧ (∀ p < 8, (portState_ 2).slotState p ≠ 2) ∧ State.reset.portLive (portAt (.die 0 .e)) = false ∧
    (let s := { portState_ 2 with dieR := [(0x10000000 + R.d2dPortSts 1, 64), (0x10000000 + R.d2dPortSts 1 + prWin, 65 * 2 ^ 32)] }
     s.retriedOut 0 = true ∧ s.portState (portAt (.die 0 .e)) = portUp) ∧
    (portState_ 1).trains (portAt (.die 0 .e)) 0 = true ∧ (portState_ 2).trains (portAt (.die 0 .e)) 0 = false ∧
    (portState_ 3).portState (portAt (.die 0 .e)) ≠ portUp ∧ (portState_ 2).fabricReset = false ∧ ctlType 0x1000 = 1 ∧ ctlType 0x3007 = 3 ∧
    ctlSeq 0x3007 = 7 ∧ ctlType 0 = 0 ∧ flitCrc 0 [] 0x1000 ≠ flitCrc 1 [] 0x1000 ∧ (portState_ 2).resending (portAt (.die 0 .e)) = false ∧
    ((portState_ 2).updLink ⟨false, 1, 3⟩ fun y => { y with resent := [(0, [])] }).resending (portAt (.die 0 .e)) = true ∧
    ((portState_ 2).updLink (portAt (.die 0 .e)) fun y => { y with replay := [(7, [])] }).portLive (portAt (.die 0 .e)) = true := by decide +kernel
/-! ### Witnesses -/

/-- Chip-link port 0 in a state; the partner's signal is there. -/
def lnkState_ (v : Nat) : State :=
  { mailState with iodR := [(0x20000000 + R.lnkPortSts 0, BitVec.ofNat 64 v)], cl := [(0, { signal := true })] }
theorem witness_ChipLinks :
    (∀ v ∈ [0, 1, 2, 3, 4], (lnkState_ v).lnkState 0 = v) ∧ (lnkState_ 0).powered = true ∧ (lnkState_ 0).kpr.coldDone = true ∧
    ((lnkState_ 1).clx 0).signal = true ∧ (State.reset.clx 0).signal = false ∧ (lnkState_ 1).bcnState = 3 ∧ (∀ p < 8, (lnkState_ 2).slotState p ≠ 2) ∧ State.reset.powered = false ∧
    mailState.takes Op.lnkTarget (testMbox 8 (40 * 256)) = true ∧ argsDirty (testMbox 8 (40 * 256)).args [(0, 2)] = false ∧
    mailState.takes Op.lnkRetrain (testMbox 8 0) = true ∧ argsDirty (testMbox 8 0).args [(0, 1)] = false ∧
    mailState.map.iodFenced.getLsbD 0 = false ∧
    ((List.range 8).any fun q => mailState.slotActive q && mailState.usesLink q 0) = false := by decide +kernel
theorem witness_ChipLinks_nak :
    let s := { lnkState_ 3 with cl := [(0, { signal := true, replay := [(7, zeros 264)] })] }
    s.lnkState 0 = lnkUp ∧ (s.clx 0).replay.dropWhile (fun f => f.1 != 7) ≠ [] := by decide +kernel
/-- A short data flit of zeros with number 0, and its packet for device 0 in slot 0. -/
def clTrailer : BitVec 64 := BitVec.ofNat 64 (2 ^ 24 + 2 ^ 32 * crcOf clCrc (zeros 4 ++ leBytes 4 (2 ^ 24)))
theorem witness_ChipLinks_flit :
    crcOf clCrc (zeros 4 ++ leBytes 4 clTrailer.toNat) = fld clTrailer 63 32 ∧ fld clTrailer 27 24 = 1 ∧ fld clTrailer 11 0 = 0 ∧
    (let s := { lnkState_ 3 with slots := [(0, { img := some testImg, sts := 3 })] }
     (s.slot 0).img = some testImg ∧ testImg.devId = 0 ∧ s.computeReset = false ∧ s.presented 0 = true ∧ s.dieUp 0 = true ∧
     s.syn = [] ∧ Memory.wf s.mem = true ∧ State.ownEnd 0 (sramOf 0) = some (sramOf 0 + sramLen) ∧ s.lnkState 0 = lnkUp) := by
  decide +kernel
/-! ### Witnesses -/

/-- Slot 0 LOADED with queues 3 (in) and 4 (out), each bound to a ring of host memory, one entry ahead. -/
def bindState : State :=
  { mailState with
    slots := [(0, { img := some { testImg with queues := [inDecl, outDecl] }, sts := 1
                    queues := [(3, { hostRing := true, hostAddr := some 0x1000, tail := 1 }),
                               (4, { hostRing := true, hostAddr := some 0x2000, tail := 1 })] })] }
theorem witness_HostSideOfQueues :
    bindState.queDecl? 0 3 = some inDecl ∧ inDecl.input = true ∧ bindState.queDecl? 0 4 = some outDecl ∧ outDecl.input = false ∧
    bindState.queDecl? 0 9 = none ∧ bindState.hostReach = true ∧ bindState.host.d3 = false ∧ bindState.busReach = true ∧ State.reset.hostReach = false ∧
    (bindState.writeDa Who.host inDecl.ring (zeros 64)).1 = none ∧ (bindState.readDa Who.host outDecl.ring 64).1 = .ok (zeros 64) ∧
    ahead (fld (bindState.que 0 4).tail 31 0) (bindState.que 0 4).pushed = 1 ∧ bindState.slotState 0 = 1 ∧
    bindState.kpr.accepted = [] := by decide +kernel
theorem witness_HostSideOfQueues_push :
    let s : State := bindState.updQue 0 4 fun x => { x with tail := 5 }
    ahead (fld (s.que 0 4).tail 31 0) (s.que 0 4).pushed = 5 ∧ 5 ≤ outDecl.depth ∧ s.busReach = true ∧ s.hbmClean ∧
    State.inHbm outDecl.ring (outDecl.depth * outDecl.esize) = true :=
  ⟨by decide +kernel, by decide, by decide +kernel, ⟨by decide +kernel, rfl, rfl, fun _ => rfl, rfl, rfl, rfl⟩, by decide⟩
theorem witness_HostSideOfQueues_bind :
    bindState.takes Op.queueBind (testMbox 16 0x00800300) = true ∧ argsDirty (testMbox 16 0x00800300).args [(0, 4), (8, 8)] = false ∧
    bindState.takes Op.queueUnbind (testMbox 8 0x300) = true ∧ argsDirty (testMbox 8 0x300).args [(0, 2)] = false ∧
    arg (testMbox 16 0x00800300).args 1 1 = 3 := by decide +kernel
/-! ### Witnesses -/

theorem witness_EnablesOfACore :
    mailState.thm.trip = false ∧ ({ thm := { trip := true } } : State).thm.trip = true ∧
    (let s := mailState.setCore 0 R.seqSts 3
     s.coreState 0 = 3 ∧ s.coreActive 0 = false ∧ (∀ k < 4, s.engState 0 k ≠ engFault)) ∧
    (mailState.setCore 0 R.seqSts 1).coreState 0 = 1 ∧ mailState.slotOf 0 = none := by decide +kernel
/-! ### Witnesses -/

def complState : State :=
  let d : Compl := { ring := 1, tag := 3, opcode := Op.infoDevice, noint := false, status := 0, detail := 0, acc := 0, done := 0, result := [] }
  let e : LogEntry := { seq := 0, type := 0x70, conseq := false, slot := 0xFF, fn := 0, rfn := 0, primary := 0, data := zeros 32 }
  { mailState with
    kpr := { mailState.kpr with done := [d], log := [e], logBind := some (0x10000, 8) } }
theorem witness_HostPortRows :
    complState.busReach = true ∧ complState.kprState = 2 ∧ complState.kpr.done ≠ [] ∧ complState.hostReach = true ∧ complState.host.d3 = false ∧ complState.host.fresh = [] ∧
    ahead (fld complState.host.log 31 0) (fld complState.host.log 63 32) < 2 ^ 8 ∧ State.reset.busReach = false ∧
    (complState.msixEntry 1).getLsbD 96 = true ∧
    ¬ (2 ^ 31 ≤ ahead 1 (mailState.host.prod.get 0 1).toNat ∨ 256 < ahead 1 (mailState.crReg 1 3).toNat) ∧
    256 < ahead 257 (mailState.crReg 1 3).toNat ∧ complState.host.portUp = true := by decide +kernel
/-- An entry of opcode 0x7777 that lies next in ring 1. -/
theorem witness_HostPortRows_unknown :
    (let s := { mailState with host := { mailState.host with
      bar4 := Memory.sets [] (mailState.entryOff 1) [0x77, 0x77, 9], fresh := [256 + (mailState.crReg 1 3).toNat % 256] } }
     let u := { s with host := { s.host with prod := s.host.prod.set 1 (BitVec.ofNat 32 (((s.crReg 1 3).toNat + 1) % 2 ^ 32)) } }
     let b := u.entryAt 1
     leNat (b.take 2) = 0x7777 ∧ u.turnRing = some 1 ∧ u.unknownAt 1 = true) := by decide +kernel
/-- A completion lies in its ring by the layout of R356. -/
theorem test_completion_layout :
    (match exec .completionWrite complState with
     | .next t => Memory.gets t.hostMem 0 8 == [3, 0, 2, 1, 0, 0, 0, 0] && Memory.gets t.hostMem 60 4 == [1, 0, 0, 1]
     | _ => false) = true := by decide +kernel
/-! ### Witnesses -/

theorem witness_RegisterWrites :
    mailState.hostReach = true ∧ mailState.host.d3 = false ∧ (∀ k < 4, mailState.chkOpen 0 k = false) ∧ mailState.powered = true ∧ mailState.kprState = 2 ∧ mailState.presented 0 = true ∧
    mailState.dieUp (dieOf 0) = true ∧ mailState.granted 0 = false ∧ State.reset.hostReach = false ∧
    ({ mailState with kpr := { mailState.kpr with grants := [(0, 0x10000)] } } : State).granted 0 = true := by decide +kernel
/-! ### Witnesses -/

theorem witness_DebugAndManagementPorts :
    mailState.powered = true ∧ mailState.sec.life ≠ 0 ∧ mailState.sec.scope.testBit 1 = false ∧ State.reset.powered = false ∧
    (let s := { mailState with sec := { mailState.sec with life := 0 } }
     s.sec.life = 0 ∧ s.anyActive = false ∧ State.ownEnd 0 (sramOf 0) = some (sramOf 0 + sramLen) ∧ s.presented 0 = true ∧ s.syn = [] ∧
       Memory.wf s.mem = true ∧ s.extesting = false) ∧ (runState).anyActive = true ∧
    (let s := { mailState with sec := { mailState.sec with scope := 3 } }
     s.sec.scope.testBit 0 = true ∧ s.sec.scope.testBit 1 = true ∧ s.sec.scope.testBit 2 = false ∧
     ({ s with pins := { s.pins with scan := some (.extest 5) } } : State).extesting = true) := by decide +kernel
/-! ### Witnesses -/

theorem witness_SensorsAndCoolant :
    mailState.powered = true ∧ mailState.kprState = 2 ∧ State.reset.powered = false ∧ tripOf 0 = some (1888, 3) ∧
    (let s := { mailState with thm := { sns := [(0, { suspect := true, nearUs := 10000000 })], trip := true, coolUs := [(0, 1000000)] } }
     (s.sns 0).suspect = true ∧ 10000000 ≤ (s.sns 0).nearUs ∧ s.thm.trip = true ∧ s.thm.tripWritten = false ∧ s.coolState = 0) ∧
    mailState.takes Op.thmRead (testMbox 16 (2 ^ 63 + 2752 * 2 ^ 64)) = true ∧
    argsDirty (testMbox 16 (2 ^ 63 + 2752 * 2 ^ 64)).args [(0, 12)] = false ∧
    mailState.mayMaster = true ∧ mailState.takes Op.thmCoolMin (testMbox 8 50) = true ∧ argsDirty (testMbox 8 50).args [(0, 1)] = false := by decide +kernel
/-! ### Witnesses -/

theorem witness_DamperAndAgeing :
    mailState.powered = true ∧ mailState.thm.trip = false ∧ mailState.fenced 0 = false ∧ mailState.kprState = 2 ∧
    mailState.dieDemand 0 = 0 ∧ mailState.dieMode 0 = 0 ∧ (runState).runClass 0 = some 0 ∧ mailState.runClass 0 = none ∧
    mailState.kpr.coldDone = true ∧ mailState.anyActive = false ∧ mailState.measuredLately = false ∧ 1000 ≤ ({ mailState.kpr with idleMs := 1000 } : KprX).idleMs ∧ mailState.kpr.idleMs < 1000 ∧
    (runState).anyActive = true ∧
    mailState.takes Op.ageMeasure (testMbox 0 0) = true ∧ argsDirty (testMbox 0 0).args [] = false ∧ overMargin [] 0 = [] ∧
    mailState.takes Op.ageRead (testMbox 16 0) = true ∧ argsDirty (testMbox 16 0).args [(0, 12)] = false ∧
    fld (mailState.die 0 R.pwrVoff) 7 0 < 12 ∧ 12 ≤ fld ((mailState.setDie 0 R.pwrVoff 12).die 0 R.pwrVoff) 7 0 := by decide +kernel
theorem witness_DamperAndAgeing_divide :
    (let d : DieX := { d4core := true, skip := (List.range 16).map fun l => (l, 24) }
     let s := { mailState with thm := { dies := [(0, d)] } }
     s.dieDemand 0 = 2 ∧ s.dieMode 0 = 0 ∧ (∀ l < 16, (s.thmDie 0).skip.get 0 l = 24)) ∧
    ({ mailState with thm := { pendCls := some 1 } } : State).thm.pendCls = some 1 := by decide +kernel
/-! ### Witnesses -/

theorem witness_PowerAndResets_cold :
    let b : Bring := someBring [] [] []
    let s : State := { mailState with host := { mailState.host with kprSts := 1 }, kpr := { bring := some b } }
    s.powered = true ∧ s.kprState = 1 ∧ s.kpr.bring = some b ∧ s.map.hbmOut.getLsbD 0 = false ∧ s.map.iodFenced.getLsbD 0 = false ∧
    ({ s with sec := { s.sec with flashBusy := true } } : State).sec.flashBusy = true := by decide +kernel
theorem witness_PowerAndResets :
    mailState.powered = true ∧ mailState.kprState = 2 ∧ State.reset.powered = false ∧ mailState.host.portUp = true ∧
    mailState.kpr.coldDone = true ∧ mailState.kpr.reset = none ∧ mailState.kpr.bring = none ∧
    mailState.takes Op.resetWarm (testMbox 0 0) = true ∧ mailState.takes Op.resetCompute (testMbox 0 0) = true ∧
    mailState.takes Op.resetPartition (testMbox 8 0) = true ∧ argsDirty (testMbox 0 0).args [] = false ∧
    argsDirty (testMbox 8 0).args [(0, 1)] = false ∧ (mailState.slot 0).img = none ∧ (runState.slot 0).img = some testImg ∧
    (let s := { mailState with host := { mailState.host with kprSts := 1 } }
     s.kprState = 1 ∧ s.flashFault = some noImage) ∧ (∀ p < 8, mailState.slotState p ≠ 2) := by decide +kernel
/-! ### Witnesses -/

theorem witness_MailboxTurnsAway :
    (mailRows (testMbox 0 0)).length = 42 ∧ mailState.kpr.coldDone = true ∧ mailState.takes Op.infoVersion (testMbox 8 0) = true ∧
    mailState.kprState ≠ 3 ∧ (testMbox 8 0).len.toNat ≠ 0 ∧ State.reset.takes Op.infoVersion (testMbox 0 0) = false ∧
    argsDirty (testMbox 0 1).args [] = true ∧ argsDirty (testMbox 16 (2 ^ 104)).args [(0, 13)] = true := by decide +kernel
/-- An entry of opcode 0x7777 lies next in ring 1. -/
theorem witness_MailboxTurnsAway_unknown :
    (let i := 256 + (mailState.crReg 1 3).toNat % 256
     let s := { mailState with host := { mailState.host with bar4 := Memory.sets [] (mailState.entryOff 1) [0x77, 0x77, 9], fresh := [i] } }
     s.turnRing = some 1 ∧ s.unknownAt 1 = true ∧ s.takes Op.infoVersion (testMbox 8 0) = false ∧
     s.sweepRings.takes Op.infoVersion (testMbox 8 0) = false) := by decide +kernel
/-- The Keeper is in RECOVERY, and ring 0 of the mailbox has an entry waiting. -/
def recState : State :=
  { mailState with host := { mailState.host with kprSts := 3, cr := [(0, 1)], prod := [(0, 1)] } }
theorem witness_MailboxTurnsAway_recovery :
    recState.takes Op.schedInfo { testMbox 8 0 with ring := 0 } = true ∧ recState.kprState = 3 ∧
    recState.takes Op.fwRecover { testMbox 8 0 with ring := 0 } = true := by decide +kernel
/-! ### Witnesses -/

theorem witness_KeeperInformation :
    mailState.takes Op.infoVersion (testMbox 0 0) = true ∧ mailState.takes Op.infoDevice (testMbox 0 0) = true ∧
    argsDirty (testMbox 0 0).args [] = false ∧ mailState.kprState = 2 ∧ mailState.kpr.coldDone = true ∧
    mailState.takes Op.infoMap (testMbox 16 (2 ^ 63 + 1280 * 2 ^ 64)) = true ∧
    argsDirty (testMbox 16 (2 ^ 63 + 1280 * 2 ^ 64)).args [(0, 12)] = false ∧
    arg (testMbox 16 (2 ^ 63 + 1280 * 2 ^ 64)).args 8 4 = 1280 ∧
    ((mailState.begun Op.infoMap (testMbox 16 (2 ^ 63 + 1280 * 2 ^ 64))).bufWrite (2 ^ 63) []).1 = Sts.ok := by decide +kernel
theorem witness_KeeperInformation_waits :
    let s : State := { mailState with kpr := {} }
    s.kpr.coldDone = false ∧ s.takes Op.infoMap (testMbox 16 0) = true := by decide +kernel
/-- A range of one block, granted, revoked, or guarded. -/
def grantArg (block on : Nat) : Nat := 0xF000000000 + block * 0x10000 + 0x10000 * 2 ^ 64 + on * 2 ^ 96
theorem witness_KeeperInformation_grants :
    mailState.takes Op.regGrant (testMbox 16 (grantArg 0 1)) = true ∧
    argsDirty (testMbox 16 (grantArg 0 1)).args [(0, 13)] = false ∧
    (let a := arg (testMbox 16 (grantArg 0 1)).args
     a 12 1 = 1 ∧ a 8 4 = 0x10000 ∧ a 0 8 = regBase ∧ ∀ b ∈ blocksOf (a 0 8 - regBase) (a 8 4), guardedBlock b = false ∧ grantBlock b = true) ∧
    (∃ b ∈ blocksOf 0x20900000 0x10000, guardedBlock b = true) ∧
    (∃ b ∈ blocksOf 0x3000000 0x10000, grantBlock b = false ∧ guardedBlock b = false) ∧ mailState.kpr.grants.length < 16 ∧
    arg (testMbox 16 (grantArg 0 0)).args 12 1 = 0 := by decide +kernel
theorem witness_KeeperInformation_logs :
    mailState.takes Op.logBind (testMbox 16 (4096 + 8 * 2 ^ 64)) = true ∧
    argsDirty (testMbox 16 (4096 + 8 * 2 ^ 64)).args [(0, 9)] = false ∧
    mailState.takes Op.logEccRead (testMbox 16 (2 ^ 127)) = true ∧ argsDirty (testMbox 16 (2 ^ 127)).args [(0, 2), (8, 8)] = false ∧
    State.logNamed (mailState.cmdOf Op.logEccRead (testMbox 16 (2 ^ 127))) = some (.die 0) ∧
    State.logNamed (mailState.cmdOf Op.logEccRead (testMbox 16 (8 * 2 ^ 8 + 1))) = none ∧
    mailState.takes Op.logEccClear (testMbox 16 (2 ^ 64)) = true ∧ argsDirty (testMbox 16 (2 ^ 64)).args [(0, 2), (8, 4)] = false := by
  decide +kernel
/-! ### Witnesses -/

theorem witness_IdentityAndFirmware_attest :
    mailState.takes Op.secAttest (testMbox 48 (2 ^ 319 + 1408 * 2 ^ 320)) = true ∧ mailState.kprState = 2 ∧
    argsDirty (testMbox 48 (2 ^ 319 + 1408 * 2 ^ 320)).args [(0, 44)] = false ∧
    arg (testMbox 48 (2 ^ 319 + 1408 * 2 ^ 320)).args 40 4 = 1408 ∧
    mailState.takes Op.secCert (testMbox 16 0) = true ∧ argsDirty (testMbox 16 0).args [(0, 12)] = false := by decide +kernel
/-- An owner-key record with sequence number 1 for the module of `mailState`, signed by its own key. -/
def ownerFile : List Byte :=
  leBytes 48 0xf0a4f4b266abea9147edfef6d8dab4d761503893982761b5df42a7420ea7d018000000010000000152454e574f59524b ++
  leBytes 48 0x28b749ef1fbc05ba0000000000000000386f22337f40a25be5b3a1e860ac0b2d84b1bfa86294c02f ++
  leBytes 48 0xf0a4f4b266abea9147edfef6d8dab4d761503893982761b5df42a7420ea7d0180000000000000003313047495359524b ++
  leBytes 48 0x3a4348ca98edec77f96c113c606515e30000000000000000386f22337f40a25be5b3a1e860ac0b2d84b1bfa86294c02f ++
  leBytes 48 0x1bcdd5aae53bd00072cf27d4f468c28b0701fb18cacb2e3e9733768b74f3d5e800d56ff0a3d6952c214d8f744db45f75 ++
  leBytes 48 0x84bad4700034f504d57d362e850df4c62d47af42b6f6e20e0157ba9107d2f9462d6133147180a4087c48f961c802a559 ++
  leBytes 48 0x15 ++
  zeros 16
/-- A token of that key: debug scope 5. -/
def debugToken : List Byte :=
  leBytes 48 0x28b749ef1fbc05ba00000000000005024e454b4f5459524b ++
  leBytes 48 0x61503893982761b5df42a7420ea7d0180000000000000004313047495359524b00000000000000000000000000000000 ++
  leBytes 48 0x386f22337f40a25be5b3a1e860ac0b2d84b1bfa86294c02ff0a4f4b266abea9147edfef6d8dab4d7 ++
  leBytes 48 0x163b312b8fb626669d1145c76735464c1c943a16e600a9cb3ef78a215f956bed4fa4550ad1b4e087f8ed3233a47a2b4d ++
  leBytes 48 0xe1ec3edd2172b91e22ccf1af740fa50f866ee7209ad665fa9c29588fdac46dbe1a79ac966e63f80c4c83b393d39527f ++
  leBytes 48 0xd0f21f3c89cec819f1c22c2fd796446ea ++
  zeros 32
/-- In PROVISIONED with the record in host memory; in DEPLOYED with the record installed and a token in host memory. -/
def ownState : State := { mailState with sec := { life := 1 }, hostMem := Memory.sets [] 0 ownerFile }
def tokState (b : List Byte) : State :=
  { mailState with sec := { life := 2, owner := ownerFile.take 96 }, hostMem := Memory.sets [] 64 b }
theorem ownState_mem : ownState.hostMem = Memory.sets [] 0 ownerFile := by simp only [ownState]
theorem tokState_mem (b : List Byte) : (tokState b).hostMem = Memory.sets [] 64 b := by simp only [tokState]
def ownMbox : Mbox := testMbox 16 (2 ^ 63 + 352 * 2 ^ 64)
theorem witness_IdentityAndFirmware_owner :
    ownState.takes Op.secOwnerKey ownMbox = true ∧ argsDirty ownMbox.args [(0, 12)] = false ∧ ownState.sec.life = 1 ∧
    arg ownMbox.args 8 4 = 352 ∧ arg ownMbox.args 0 8 = 2 ^ 63 ∧ ownerFile.length = 352 ∧
    ownerForm (ownerFile.take 96) = true ∧ blockForm 3 (ownerFile.drop 96) = true ∧ ownerForm (zeros 96) = false := by decide +kernel
theorem witness_IdentityAndFirmware_ownerRead :
    ((ownState.begun Op.secOwnerKey ownMbox).bufRead (2 ^ 63 + 0) ownerFile.length).1 = .ok ownerFile :=
  bufRead_host (a := 0) (bs := ownerFile) ((begun_host ownState Op.secOwnerKey ownMbox).1.trans ownState_mem) ((begun_host _ _ _).2.trans rfl) (by decide) (by decide)
theorem witness_IdentityAndFirmware_ownerSigned :
    ownState.ownerStatus (ownerFile.take 96) (ownerFile.drop 96) = Sts.ok := by decide +kernel
def lifeMbox : Mbox := testMbox 16 (3 + (2 ^ 63 + 64) * 2 ^ 64)
theorem witness_IdentityAndFirmware_lifecycle :
    (tokState debugToken).takes Op.secLifecycle lifeMbox = true ∧ argsDirty lifeMbox.args [(0, 1), (8, 8)] = false ∧
    (tokState debugToken).anyActive = false ∧ (tokState debugToken).lifeStep 3 = true ∧ (tokState debugToken).kpr.coldDone = true ∧
    (tokState debugToken).thm.pendCls = none ∧ debugToken.length = 320 ∧ arg lifeMbox.args 8 8 = 2 ^ 63 + 64 ∧
    (tokState debugToken).tokenArg debugToken 1 (tokState debugToken).isOwner = none ∧
    ownState.lifeStep 2 = true ∧ ownState.anyActive = false ∧ (tokState debugToken).lifeStep 2 = false := by decide +kernel
theorem witness_IdentityAndFirmware_tokenRead :
    ((((tokState debugToken).begun Op.secLifecycle lifeMbox).readToken (2 ^ 63 + 64)).1 = .ok debugToken) ∧
    (((tokState debugToken).begun Op.secDebugUnlock (testMbox 8 (2 ^ 63 + 64))).readToken (2 ^ 63 + 64)).1 = .ok debugToken :=
  ⟨tokenRead_host (a := 64) (bs := debugToken) ((begun_host _ _ _).1.trans (tokState_mem _)) ((begun_host _ _ _).2.trans rfl) (by decide) (by decide)
      (by decide +kernel),
    tokenRead_host (a := 64) (bs := debugToken) ((begun_host _ _ _).1.trans (tokState_mem _)) ((begun_host _ _ _).2.trans rfl) (by decide) (by decide)
      (by decide +kernel)⟩
theorem witness_IdentityAndFirmware_unlock :
    (tokState debugToken).takes Op.secDebugUnlock (testMbox 8 (2 ^ 63 + 64)) = true ∧
    argsDirty (testMbox 8 (2 ^ 63 + 64)).args [(0, 8)] = false ∧
    (tokState debugToken).tokenArg debugToken 2 (tokState debugToken).isOwner = some 5 := by decide +kernel
theorem witness_IdentityAndFirmware_firmware :
    mailState.takes Op.fwUpdate (testMbox 16 (2 ^ 63)) = true ∧ argsDirty (testMbox 16 (2 ^ 63)).args [(0, 12)] = false ∧
    ((mailState.begun Op.fwUpdate (testMbox 16 (2 ^ 63))).bufRead (2 ^ 63) 0).1 = .ok [] ∧ (fwFault 0 []).isSome = true ∧
    mailState.takes Op.fwRecover (testMbox 16 0) = true ∧ argsDirty (testMbox 16 0).args [(0, 13)] = false ∧
    (let m : Mbox := { testMbox 16 0 with ring := 0 }
     recState.takes Op.fwRecover m = true ∧ recState.kprState = 3 ∧ m.len.toNat = 16 ∧ recState.mayMaster = true) := by
  decide +kernel
/-! ### Witnesses -/

/-- A schedule image: die 0, one core, a stream of one NOP, period 100, margin class A, unsigned; its digests were computed outside Lean. -/
def loadFile : List Byte :=
  leBytes 48 0xd54f6b4662eb12d020681631dd2030b0000000000000000600000000000003800000000000000003444548435359524b ++
  leBytes 48 0x5c11e0ffa4fc3cdbe0932cb9f266cbf6a045ae3d30e56ae7952378764c1be2fe2b8959bd9d412ed1e88e1f3ab37677b3 ++
  leBytes 48 0x24000000001000000020000000000000000000000000000010000000000000001400000000100000001 ++
  leBytes 48 0x200000000000000280000000010000000300000000000000000000000000000040 ++
  leBytes 48 0x30000000000000000080000000000000000000000000000000400000000000002c00000000100000007 ++
  leBytes 48 0x100000000000000300000000000000000900000000000000000000000000000000 ++
  leBytes 48 0x100000001000000010000000000000000000000000000000000000000000000000000000000000000 ++
  leBytes 48 0x2f76d56e64270cb5821bb862ea52cd3f24eb3e74eb3f3b23138da80b2bddb946 ++
  zeros 192 ++
  leBytes 48 0x8ca00640000 ++
  leBytes 48 0x80000000000000000000000340000000010000000000000000000000000000000000000000 ++
  zeros 224
/-- Die 0 presents one core, which is READY; the image lies at the start of the alias. -/
def loadState : State :=
  { mailState with
    map := { fuseOut := [(0, 0x1FFFE)] }, coreR := [(0, [(R.seqSts, 1)])], mem := cellsAt aliasBase loadFile }
def loadMbox : Mbox := testMbox 24 (aliasBase * 2 ^ 64 + 896 * 2 ^ 128)
theorem witness_ScheduleCommands_load :
    loadState.takes Op.schedLoad loadMbox = true ∧ argsDirty loadMbox.args [(0, 1), (8, 16)] = false ∧ loadState.sec.life ≠ 3 ∧
    loadState.kpr.accepted = [] ∧ loadState.slotActive 0 = false ∧ arg loadMbox.args 16 8 = 896 ∧ arg loadMbox.args 8 8 = aliasBase := by
  decide +kernel
theorem witness_ScheduleCommands_reads :
    (match (loadState.begun Op.schedLoad loadMbox).readDa Who.host aliasBase 0x60 with
      | (.ok h, u) => leAt h 0x10 8 == 896 && leAt h 0xC 4 == 0 &&
        (match u.readDa Who.host aliasBase 896 with
          | (.ok b, v) => b == loadFile && v.kpr.accepted == [loadState.cmdOf Op.schedLoad loadMbox] &&
            (match v.validate 0 b with | .ok _ => true | .error _ => false) &&
            (match v.validate 0 [] with | .ok _ => false | .error f => f.order == 2)
          | _ => false)
      | _ => false) = true := by decide +kernel
theorem witness_ScheduleCommands_complete :
    (match parseImage loadFile with
      | .ok x => x.img.margin == 0 && x.img.mapHash == shake256 32 [] && (x.img.streams.map (·.core)).Nodup
      | .error _ => false) = true ∧ mailState.thm.pendCls = none ∧ mailState.thm.cls = 0 ∧ mailState.kpr.mapRec = [] := by decide +kernel
theorem witness_ScheduleCommands_info :
    mailState.takes Op.schedInfo (testMbox 8 0) = true ∧ argsDirty (testMbox 8 0).args [(0, 1)] = false ∧
    mailState.takes Op.schedUnload (testMbox 8 0) = true ∧ mailState.slotActive 0 = false ∧ mailState.kpr.accepted = [] ∧
    ({ mailState with slots := [(0, { sts := 3 })] } : State).slotActive 0 = true := by decide +kernel
theorem witness_ScheduleCommands_map :
    State.reset.kpr.coldDone = false ∧ mailState.kpr.coldDone = true ∧ mailState.kpr.reset = none ∧ mailState.mapNow.length ≠ 0 ∧
    mailState.kpr.mapRec = [] ∧ ∀ p < 8, mailState.slotState p ≠ 2 := by decide +kernel
/-! ### Witnesses -/

/-- The Beacon in a state, for the mailbox. -/
def bcnState_ (n : Nat) : State := { mailState with bcn := { sts := BitVec.ofNat 64 n, locked := true } }
theorem witness_RunCommands_beacon :
    mailState.takes Op.bcnSetPeriod (testMbox 8 200) = true ∧ argsDirty (testMbox 8 200).args [(0, 2)] = false ∧ 2 ≤ mailState.bcnState ∧
    (bcnState_ 1).bcnState < 2 ∧ (bcnState_ 1).takes Op.bcnSetPeriod (testMbox 8 200) = true ∧
    (bcnState_ 1).takes Op.bcnArm (testMbox 8 5) = true ∧ argsDirty (testMbox 8 5).args [(0, 8)] = false ∧
    (bcnState_ 1).anyActive = false ∧ (bcnState_ 1).periodFits = true ∧ (bcnState_ 0).bcnState = 0 ∧
    (bcnState_ 2).takes Op.bcnDisarm (testMbox 0 0) = true ∧ argsDirty (testMbox 0 0).args [] = false ∧ (bcnState_ 2).bcnState = 2 ∧
    (bcnState_ 2).kpr.accepted = [] ∧ (∀ p < 8, (bcnState_ 2).slotActive p = false) ∧
    ({ mailState with bcn := { sts := 1, period := 25 } } : State).periodFits = false := by decide +kernel
/-- Slot 0 is LOADED, STARTING or RUNNING under the mailbox, at flash 5. -/
def slotMail (v : Nat) : State :=
  { mailState with bcn := { mailState.bcn with fn := 5 }, slots := [(0, { img := some testImg, sts := BitVec.ofNat 64 v })]
                   coreR := (coresOf 0).map fun c => (c, [(R.seqSts, 1)]) }
/-- RUN_START of slot 0 at FN 10; RUN_STOP of slot 0 with target 20. -/
def startMbox : Mbox := testMbox 32 (10 * 2 ^ 64)
def stopMbox : Mbox := testMbox 16 (2 ^ 8 + 20 * 2 ^ 64)
theorem witness_RunCommands_start :
    (slotMail 1).takes Op.runStart startMbox = true ∧ argsDirty startMbox.args [(0, 2), (8, 24)] = false ∧ startMbox.len.toNat = 32 ∧
    (slotMail 1).counting = true ∧ (slotMail 1).fn = 5 ∧ (slotMail 1).slotState 0 = 1 ∧ (slotMail 1).period = 100 ∧
    (slotMail 1).thm.pendCls = none ∧ (∀ c ∈ (slotMail 1).partCores testImg, (slotMail 1).coreState c = 1) ∧
    (slotMail 1).stagesInto 0 = false ∧ (slotMail 1).kpr.accepted = [] ∧ (slotMail 1).startStatus 0 10 5 = Sts.ok ∧
    (slotMail 0).startStatus 0 10 5 = Sts.slotState := by decide +kernel
theorem witness_RunCommands_stop :
    (slotMail 3).takes Op.runStop stopMbox = true ∧ argsDirty stopMbox.args [(0, 2), (8, 8)] = false ∧ (slotMail 3).curRfn 0 = 5 ∧
    (slotMail 2).slotState 0 = 2 ∧ (slotMail 3).slotState 0 = 3 ∧ ((slotMail 3).slot 0).endRfn = 0 ∧ ((slotMail 3).slot 0).halt = none ∧
    (slotMail 1).slotState 0 < 2 := by decide +kernel
theorem witness_RunCommands_trap :
    let s : State := { mailState with coreR := [(0, [(R.seqSts, 3)])] }
    s.takes Op.coreTrapClear (testMbox 8 0) = true ∧ argsDirty (testMbox 8 0).args [(0, 2)] = false ∧ s.presented 0 = true ∧ s.dieUp 0 = true ∧ State.reset.dieUp 0 = false ∧
    s.coreState 0 = 3 ∧ s.coreActive 0 = false ∧ (∀ e < 4, s.engState 0 e ≠ engFault) ∧ mailState.coreState 0 ≠ 3 := by decide +kernel
/-! ### Witnesses -/

/-- One commit record of zeros from host memory, core 0, no target. -/
def commitMbox : Mbox := testMbox 32 (2 ^ 16 + 2 ^ 191)
theorem witness_PageCommands :
    mailState.takes Op.pageCommit commitMbox = true ∧ argsDirty commitMbox.args [(0, 4), (8, 24)] = false ∧ mailState.sec.life ≠ 3 ∧
    mailState.coreStatus 0 = Sts.ok ∧ mailState.coreStatus 512 = Sts.badArg ∧ mailState.coreRunning 0 = false ∧ mailState.thm.trip = false ∧
    arg commitMbox.args 2 1 = 1 ∧ arg commitMbox.args 24 8 = 0 ∧
    ((mailState.begun Op.pageCommit commitMbox).bufRead (arg commitMbox.args 16 8) 32).1 = .ok (zeros 32) ∧
    ((mailState.begun Op.pageCommit commitMbox).bufRead (arg commitMbox.args 16 8) 32).2.kpr.accepted =
      [mailState.cmdOf Op.pageCommit commitMbox] ∧ (slotMail 3).coreRunning 0 = true ∧
    (applyEdits 0 0 0 [parseEdit (zeros 32)] mailState).1 = .error (0, Sts.badArg, none) := by decide +kernel
theorem witness_PageCommands_read :
    let s : State := { mailState with coreR := [(0, [(R.pgwCtxBase, 0x8000000000)])] }
    s.takes Op.pageRead (testMbox 8 0) = true ∧ argsDirty (testMbox 8 0).args [(0, 4)] = false ∧
    ((s.begun Op.pageRead (testMbox 8 0)).readDa Who.host (s.ctxDa 0 0) 32).1 = .ok (zeros 32) ∧
    (mailState.errStatus (((mailState.begun Op.pageRead (testMbox 8 0)).readDa Who.host 0xC000600000 32).1.casesOn id fun _ => .addr 0)) =
      Sts.addressError := by decide +kernel
/-! ### Witnesses -/

theorem witness_ArmsAndStartsRejected :
    (slotMail 3).anyActive = true ∧ (slotMail 3).takes Op.bcnArm (testMbox 8 5) = true ∧ argsDirty (testMbox 8 5).args [(0, 8)] = false ∧
    (let s : State := { slotMail 1 with bcn := { sts := 1 } }
     s.bcnState ≠ 3 ∧ s.takes Op.runStart startMbox = true ∧ argsDirty startMbox.args [(0, 2), (8, 24)] = false ∧ s.sec.life ≠ 3 ∧
     s.kpr.accepted = []) := by decide +kernel
/-! ### Witnesses -/

theorem witness_MemoriesKeepTheirForm : State.reset.memoriesWf = true ∧ State.reset.linesWhole = true ∧
    ∃ t, step { State.reset with pending := [.heartbeat] } = .next t := ⟨by decide, by decide, _, rfl⟩

end Sys2Proof.Tests
end

section
/-!
PROOFS. The statements on the scope of the register space: values at reset, the invariants there, and what register writes and host
reads of BAR0 do (R8-R10, R346-R354).
-/

namespace Sys2Proof.Machine

/-! ### The state after reset -/

/-- The identity register of a core. -/
theorem coreDflt_seqId (c : Nat) : coreDflt c R.seqId = BitVec.ofNat 64 (c * 2 ^ 16 + dieOf c * 2 ^ 8 + localOf c) := if_pos rfl

/-- Within the block of engine e only `ENG_ID` and `ENG_CTRL` have a reset value other than 0. -/
theorem coreDflt_eng (c : Nat) {e off : Nat} (he : e < 4) (ho : off < 0x100) :
    coreDflt c (0x1000 + e * 0x100 + off) =
      if off = R.engId then BitVec.ofNat 64 (c * 2 ^ 16 + e) else if off = R.engCtrl then 4 else 0 := by
  have hmod : (0x1000 + e * 0x100 + off) % 0x100 = off := by omega
  have hdiv : (0x1000 + e * 0x100 + off - 0x1000) / 0x100 = e := by omega
  rw [coreDflt, if_neg (by simp only [R.seqId]; omega), if_pos (by omega), hmod, hdiv]

/-- The turf scrub rate of a compute die. -/
theorem dieDflt_turfScrbRate (d : Nat) : dieDflt d R.turfScrbRate = 433#64 := if_pos rfl

/-- The scrub rates of the two stacks of an I/O die. -/
theorem iodDflt_scrubHRate (i : Nat) {k : Nat} (hk : k < 2) : iodDflt i (R.scrubHRate k) = 1629#64 := by
  obtain rfl | rfl : k = 0 ∨ k = 1 := by omega
  · exact if_pos (Or.inl rfl)
  · exact if_pos (Or.inr rfl)

namespace State

/-- At reset a core register reads as its reset value. -/
theorem reset_core (c off : Nat) : State.reset.core c off = coreDflt c off := rfl

/-- At reset a register of an engine reads as its reset value. -/
theorem reset_eng (c : Nat) {e off : Nat} (he : e < 4) (ho : off < 0x100) :
    State.reset.eng c e off = if off = R.engId then BitVec.ofNat 64 (c * 2 ^ 16 + e) else if off = R.engCtrl then 4 else 0 :=
  coreDflt_eng c he ho

/-- At reset a register of a compute die reads as its reset value. -/
theorem reset_die (d off : Nat) : State.reset.die d off = dieDflt d off := rfl

/-- At reset a register of an I/O die reads as its reset value. -/
theorem reset_iod (i off : Nat) : State.reset.iod i off = iodDflt i off := rfl

end State

/-- Settles O3: each register at reset is its reset value. -/
theorem resetValues : Obligations.ResetValues := by
  refine ⟨by decide, by decide, rfl, rfl, rfl, rfl, rfl, rfl, rfl, rfl, rfl, rfl, fun c _ => ?_, fun c e _ he => ?_, fun d _ => ?_,
    fun i k _ hk => ?_, fun _ => rfl⟩
  · rw [State.reset_core, coreDflt_seqId]
  · exact ⟨State.reset_eng c he (off := R.engId) (by decide), State.reset_eng c he (off := R.engCtrl) (by decide),
      State.reset_eng c he (off := R.engSts) (by decide)⟩
  · rw [State.reset_die, dieDflt_turfScrbRate]
  · rw [State.reset_iod, iodDflt_scrubHRate i hk]

/-- Settles O4: at reset the Beacon and lifecycle records and the empty memories meet their invariants. -/
theorem invariantsHoldAtReset : Obligations.InvariantsHoldAtReset :=
  ⟨by unfold Bcn.legal; decide, by unfold SecX.legal; decide, rfl, rfl⟩

/-! ### Fields after a write by access types -/

/-- A register after a write, bit by bit: set where written ones set, clear where they clear, else the new bit of a writable field or the
old one (R8, R10). -/
theorem regAfter_getLsbD (old v rw w1c w1s : Word) {i : Nat} (hi : i < 64) :
    (regAfter old v rw w1c w1s).getLsbD i =
      ((((old.getLsbD i && !rw.getLsbD i) || (v.getLsbD i && rw.getLsbD i)) && !(v.getLsbD i && w1c.getLsbD i)) ||
        (v.getLsbD i && w1s.getLsbD i)) := by
  simp [regAfter, hi]

/-- A field whose bits all are written takes the value. -/
theorem fld_regAfter_inside (old v : Word) {hi lo : Nat} (h : hi < 64) : fld (regAfter old v (fldMask hi lo) 0 0) hi lo = fld v hi lo := by
  apply Nat.eq_of_testBit_eq
  intro i
  rw [fld_testBit, fld_testBit]
  by_cases c : i < hi + 1 - lo
  · have hin : (fldMask hi lo).getLsbD (lo + i) = true := by
      rw [fldMask_getLsbD]
      simp
      omega
    rw [regAfter_getLsbD _ _ _ _ _ (show lo + i < 64 by omega), hin]
    simp
  · simp [c]

/-- A field none of whose bits is written stays. -/
theorem fld_regAfter_apart (old v : Word) {hi lo a b : Nat} (ha : a < 64) (h : hi < b ∨ a < lo) :
    fld (regAfter old v (fldMask hi lo) 0 0) a b = fld old a b := by
  apply Nat.eq_of_testBit_eq
  intro i
  rw [fld_testBit, fld_testBit]
  by_cases c : i < a + 1 - b
  · have hout : (fldMask hi lo).getLsbD (b + i) = false := by
      rw [fldMask_getLsbD, Bool.and_assoc]
      simp only [Bool.and_eq_false_imp, decide_eq_true_eq, decide_eq_false_iff_not]
      omega
    rw [regAfter_getLsbD _ _ _ _ _ (show b + i < 64 by omega), hout]
    simp
  · simp [c]

/-- A write of ones to `w1c` bits clears exactly those. -/
theorem regAfter_clears (old v m : Word) : regAfter old v 0 m 0 = old &&& ~~~(v &&& m) := by
  apply BitVec.eq_of_getLsbD_eq
  intro i hi
  rw [regAfter_getLsbD _ _ _ _ _ hi]
  simp [hi]

/-- The low half of a register as a mask cuts it out. -/
theorem and_fldMask_low (v : Word) : v &&& fldMask 31 0 = BitVec.ofNat 64 (fld v 31 0) := by
  apply BitVec.eq_of_getLsbD_eq
  intro i hi
  rw [BitVec.getLsbD_and, fldMask_getLsbD, BitVec.getLsbD_ofNat, fld_testBit]
  simp [hi, Bool.and_comm]

/-- A register that holds the low half of another reads as that half. -/
theorem fld_ofNat_fld_low (v : Word) : fld (BitVec.ofNat 64 (fld v 31 0)) 31 0 = fld v 31 0 := by
  rw [fld, BitVec.toNat_ofNat]
  have := fld_lt v 31 0
  omega

/-! ### Frames -/

namespace State

variable {s : State}

/-- Nothing but the host port's registers and the Keeper's own state differs. -/
abbrev KeeperSide (s t : State) : Prop := t = { s with host := t.host, kpr := t.kpr }

/-- Nothing but that and what has gone out on the ports differs. -/
abbrev PortSide (s t : State) : Prop := t = { s with out := t.out, host := t.host, kpr := t.kpr }

theorem KeeperSide.trans {t u : State} (h : KeeperSide s t) (k : KeeperSide t u) : KeeperSide s u := by
  rw [k, h]

/-- An error of the host port touches the host registers and the log only. -/
theorem hostErrorOf_keeperSide (low : Option Nat) (cause bar addr : Nat) : KeeperSide s (s.hostErrorOf low cause bar addr) := by
  unfold hostErrorOf
  split <;> rfl

/-- An error of the host port is recorded as R354 has it. -/
theorem hostErrs_hostError (s : State) (cause bar addr : Nat) : s.hostErrs (s.hostError cause bar addr) cause bar addr := by
  unfold hostErrs hostError hostErrorOf
  by_cases h : bitAt s.host.err 63 = true
  · rw [if_pos h, if_pos h]; exact ⟨rfl, rfl⟩
  · rw [if_neg h, if_neg h]; exact ⟨rfl, rfl⟩

/-- An access refused at the host port: its answer goes out, the error is recorded, and nothing else happens. -/
theorem hostError_emit (s : State) (cause bar addr : Nat) (o : Output) :
    ((s.hostError cause bar addr).emit o).out = s.out ++ [o] ∧ s.hostErrs ((s.hostError cause bar addr).emit o) cause bar addr ∧
    PortSide s ((s.hostError cause bar addr).emit o) := by
  have hf : KeeperSide s (s.hostError cause bar addr) := hostErrorOf_keeperSide ..
  refine ⟨?_, hostErrs_hostError s cause bar addr, ?_⟩
  · rw [hf]; rfl
  · rw [hf]; rfl

/-- A refused access is what is left of a host read. -/
theorem done_hostError_emit (s : State) (cause bar addr : Nat) (o : Output) :
    ∃ t, s.done ((s.hostError cause bar addr).emit o) = .next t ∧ t.out = s.out ++ [o] ∧ s.hostErrs t cause bar addr ∧ PortSide s t := by
  have h := hostError_emit s cause bar addr o
  exact ⟨_, by rw [h.2.2]; rfl, h⟩

/-- A refused access is what is left of a register write. -/
theorem bcnDone_hostError_emit (s : State) (cause bar addr : Nat) (o : Output) :
    ∃ t, s.bcnDone ((s.hostError cause bar addr).emit o) = .next t ∧ t.out = s.out ++ [o] ∧ s.hostErrs t cause bar addr ∧ PortSide s t := by
  have h := hostError_emit s cause bar addr o
  exact ⟨_, by rw [h.2.2]; rfl, h⟩

/-! ### Taking entries that have no row -/

/-- What taking an entry and answering it changes lies at the host port and the Keeper. -/
theorem taken_answer_keeperSide (op : Nat) (m : Mbox) (st : Nat) : KeeperSide s ((s.taken op m).2.answer (s.taken op m).1 st) := rfl

/-- Taking an entry moves the head of its ring, and no other register of a ring. -/
theorem taken_answer_crReg (op : Nat) (m : Mbox) (st r : Nat) {k : Nat} (hk : k < 3) :
    ((s.taken op m).2.answer (s.taken op m).1 st).crReg r k = s.crReg r k :=
  Tbl.get_set_ne _ _ _ (by omega)

/-- Entries taken and answered with `BAD_OPCODE` change nothing beyond the host port and the Keeper, and of the rings' registers only
`HOST_CMDr_HEAD`. -/
theorem skipUnknown_frame (n : Nat) : ∀ s : State,
    KeeperSide s (skipUnknown n s) ∧ ∀ r k, k < 3 → (skipUnknown n s).crReg r k = s.crReg r k := by
  induction n with
  | zero => exact fun s => ⟨rfl, fun _ _ _ => rfl⟩
  | succ n ih =>
    intro s
    unfold skipUnknown
    split
    · exact ⟨rfl, fun _ _ _ => rfl⟩
    · split
      · obtain ⟨hf, hr⟩ := ih ((s.taken _ _).2.answer (s.taken _ _).1 Sts.badOpcode)
        exact ⟨(taken_answer_keeperSide _ _ _).trans hf, fun r k hk => (hr r k hk).trans (taken_answer_crReg _ _ _ _ hk)⟩
      · exact ⟨rfl, fun _ _ _ => rfl⟩

theorem sweepRings_of_noFresh (h : s.host.fresh = []) : s.sweepRings = s := by
  rw [sweepRings, h]; rfl

/-! ### Reads -/

/-- A register of a compute die reads without effect but that a free value may be used up. -/
theorem readDie_frame (d off : Nat) : (s.readDie d off).2 = { s with free := (s.readDie d off).2.free } := by
  unfold readDie
  split_ifs <;> rfl

theorem readIod_frame (i off : Nat) : (s.readIod i off).2 = { s with free := (s.readIod i off).2.free } := by
  unfold readIod
  split_ifs <;> rfl

/-- A register read changes nothing but the index of the free value. -/
theorem readReg_frame {s : State} {o : Nat} {r : Except AccErr Word} {t : State} (h : s.readReg o = (r, t)) : t = { s with free := t.free } := by
  obtain rfl : (s.readReg o).2 = t := by rw [h]
  clear h
  unfold readReg
  cases regAt o with
  | none => rfl
  | some p =>
    cases p with
    | core c off =>
      dsimp only
      split
      · rfl
      · split <;> rfl
    | die d off => exact readDie_frame d off
    | iod i off => exact readIod_frame i off
    | bcn | run | kpr | sec => rfl

/-- A register read that fails changes nothing at all. -/
theorem readReg_error {s : State} {o : Nat} {e : AccErr} {u : State} (h : s.readReg o = (.error e, u)) : u = s := by
  unfold readReg at h
  split at h
  · exact (Prod.mk.inj h).2.symm
  · split at h
    · exact (Prod.mk.inj h).2.symm
    · split at h
      · exact (Prod.mk.inj h).2.symm
      · cases (Prod.mk.inj h).1
  all_goals cases (Prod.mk.inj h).1

/-! ### Host reads of BAR0 -/

/-- A host read of BAR0 while the link is up and the function in D0. -/
theorem exec_bar0Read (hr : s.hostReach = true) (hd : s.host.d3 = false) {off : Nat} (ho : off < 2 ^ 36) (n : Nat) :
    exec (.bar2Read .bar0 (BitVec.ofNat 36 off) n) s = s.done (s.bar0Read off n) := by
  have hoff : (BitVec.ofNat 36 off).toNat = off := Nat.mod_eq_of_lt ho
  change s.onRead (fun t => t.bar0Read (BitVec.ofNat 36 off).toNat n) = _
  simp [onRead, onHost, hr, hd, hoff]

/-- A whole aligned word of BAR0, outside the register window, is read with a free value used up. -/
theorem exec_bar0Read_word (hr : s.hostReach = true) (hd : s.host.d3 = false) {off : Nat} (ho : off < 0x2000000) (ha : off % 8 = 0)
    {w : Word} (hw : s.bar0Word off = w) :
    exec (.bar2Read .bar0 (BitVec.ofNat 36 off) 8) s =
      .next { s with out := s.out ++ [.data (leBytes 8 w.toNat)], free := s.free + 1 } := by
  have h1 : (off + 8 + 7) / 8 - off / 8 = 1 := by omega
  have h2 : 8 * (off / 8) = off := by omega
  have hread : s.bar0Read off 8 = (s.emit (.data (leBytes 8 w.toNat))).bumpFree := by
    rw [bar0Read, if_neg (by omega)]
    simp [h1, h2, ha, hw, leBytes]
  rw [exec_bar0Read hr hd (by omega), hread]
  rfl

/-- The host registers that R346 lists, as the host reads them. -/
theorem bar0Word_hostRegs (s : State) :
    ∀ x ∈ [(0x08, s.host.buoy0), (0x10, s.host.buoy1), (0x18, s.host.kprSts), (0x20, s.host.hb), (0x28, s.host.intSts),
      (0x30, s.host.intMask), (0x38, s.host.win), (0x40, s.host.rwin), (0x48, s.host.err), (0x50, s.host.log)],
      (x.1 < 0x2000000 ∧ x.1 % 8 = 0) ∧ s.bar0Word x.1 = x.2 := by
  simp only [List.forall_mem_cons]
  refine ⟨⟨?_, rfl⟩, ⟨?_, rfl⟩, ⟨?_, rfl⟩, ⟨?_, rfl⟩, ⟨?_, rfl⟩, ⟨?_, rfl⟩, ⟨?_, rfl⟩, ⟨?_, rfl⟩, ⟨?_, rfl⟩, ⟨?_, rfl⟩, fun _ h => nomatch h⟩
  all_goals decide

/-- Behind the host registers lie the registers of the 64 rings. -/
theorem hostWord_ring {off : Nat} (h : 0x100 ≤ off) (h' : off < 0x900) :
    s.hostWord off = s.crReg ((off - 0x100) / 0x20) (off % 0x20 / 8) := by
  unfold hostWord
  split
  case h_12 => exact if_neg (by omega)
  all_goals omega

theorem bar0Word_ring {r k : Nat} (hr : r < 64) (hk : k < 4) : s.bar0Word (0x100 + 0x20 * r + 8 * k) = s.crReg r k := by
  rw [bar0Word, if_pos (by omega), hostWord_ring (by omega) (by omega)]
  congr 1 <;> omega

/-- The doorbell of a declared queue reads as the index that the host moves. -/
theorem bar0Word_queue {p q : Nat} (hp : p < 8) (hq : q < 64) {d : QueueDecl} (hd : s.queDecl? p q = some d) :
    s.bar0Word (0x20000 + 0x200 * p + 8 * q) =
      BitVec.ofNat 64 (if d.input then fld (s.que p q).tail 31 0 else fld (s.que p q).head 31 0) := by
  have h1 : (0x20000 + 0x200 * p + 8 * q - 0x20000) / 0x200 = p := by omega
  have h2 : (0x20000 + 0x200 * p + 8 * q - 0x20000) % 0x200 / 8 = q := by omega
  rw [bar0Word, if_neg (by omega), if_neg (by omega), if_pos (by omega), h1, h2, queueIndex, hd]

/-- Behind the pending bits nothing is listed. -/
theorem bar0Word_unlisted {o : Nat} (h : 0x31020 ≤ o) : s.bar0Word o = 0 := by
  rw [bar0Word, if_neg (by omega), if_neg (by omega), if_neg (by omega), if_neg (by omega), if_neg (by omega)]

/-! ### The register window, read -/

/-- The offset in register space of offset o of the register window (R349). -/
def windowOff (s : State) (o : Nat) : Nat := fld s.host.rwin 10 0 * 0x2000000 + o

theorem exec_windowRead (hr : s.hostReach = true) (hd : s.host.d3 = false) {o : Nat} (ho : o < 0x2000000) (n : Nat) :
    exec (.bar2Read .bar0 (BitVec.ofNat 36 (0x2000000 + o)) n) s = s.done (s.windowRead o n) := by
  rw [exec_bar0Read hr hd (by omega), bar0Read, if_pos (by omega), Nat.add_sub_cancel_left]

/-- A misaligned or partial read through the window is an error of cause 7. -/
theorem windowRead_partial {o n : Nat} (h : o % 8 ≠ 0 ∨ n ≠ 8) :
    s.windowRead o n = (s.hostError 7 0 (regBase + s.windowOff o)).emit .completerAbort :=
  if_pos (by simpa using h)

theorem windowRead_ok {o : Nat} (ha : o % 8 = 0) {w : Word} {t : State} (h : s.readReg (s.windowOff o) = (.ok w, t)) :
    s.windowRead o 8 = t.emit (.data (leBytes 8 w.toNat)) := by
  rw [windowOff] at h
  rw [windowRead, if_neg (by simp [ha])]
  simp only [h]

theorem windowRead_error {o : Nat} (ha : o % 8 = 0) {e : AccErr} {u : State} (h : s.readReg (s.windowOff o) = (.error e, u)) :
    s.windowRead o 8 = (s.hostError (errHost e) 0 (regBase + s.windowOff o)).emit .completerAbort := by
  have hu := readReg_error h
  rw [windowOff] at h
  rw [windowRead, if_neg (by simp [ha])]
  simp only [h, hu, windowOff]

/-! ### Host writes of BAR0 -/

/-- A register write, whoever makes it, may reach the Beacon block. -/
theorem exec_registerWrite (s : State) (a : RegAgent) (addr : BitVec 48) (v : Word) :
    exec (.registerWrite a addr v) s = s.bcnDone (s.registerWrite a addr.toNat v) := rfl

/-- A host write to BAR0 is not taken while the link is down or the function in D3hot. -/
theorem exec_hostWrite_unreached (h : s.hostReach = false ∨ s.host.d3 = true) (n : Nat) (addr : BitVec 48) (v : Word) :
    exec (.registerWrite (.host n) addr v) s = .next s := by
  have : s.registerWrite (.host n) addr.toNat v = s := if_neg (by rcases h with h | h <;> simp [h])
  rw [exec_registerWrite, this]
  rfl

theorem exec_hostWrite (hr : s.hostReach = true) (hd : s.host.d3 = false) {off : Nat} (ho : off < 2 ^ 48) (n : Nat) (v : Word) :
    exec (.registerWrite (.host n) (BitVec.ofNat 48 off) v) s = s.bcnDone (s.bar0Write off n v) := by
  have hoff : (BitVec.ofNat 48 off).toNat = off := Nat.mod_eq_of_lt ho
  rw [exec_registerWrite, hoff, registerWrite, if_pos (by simp [hr, hd])]

/-- A whole aligned word written among the host registers. -/
theorem exec_hostRegWrite (hr : s.hostReach = true) (hd : s.host.d3 = false) {off : Nat} (ho : off < 0x10000) (ha : off % 8 = 0) (v : Word)
    {t : State} (ht : s.writeHost off v = t) (hk : KeeperSide s t) :
    exec (.registerWrite (.host 8) (BitVec.ofNat 48 off) v) s = .next t := by
  have hw : s.bar0Write off 8 v = s.aside fun s => s.writeHost off v := by
    rw [bar0Write, if_neg (by omega), if_neg (by omega), show off / 8 * 8 = off by omega]
    exact if_pos ho
  rw [exec_hostWrite hr hd (by omega), hw, aside, ht, hk]
  rfl

/-- The causes of `HOST_INT_STS` that are written with ones clear (R351). -/
theorem writeHost_intSts (v : Word) : s.writeHost 0x28 v = { s with host := { s.host with intSts := s.host.intSts &&& ~~~(v &&& 0x1FF) } } := by
  rw [← regAfter_clears]
  rfl

/-- `HOST_BAR2_WIN` takes the windows of R353 and no other. -/
theorem writeHost_win (v : Word) :
    s.writeHost 0x38 v = if 23 < fld v 4 0 ∨ fld v 4 0 = 15 then s else { s with host := { s.host with win := v &&& 0x1F } } := by
  change (if 23 < fld v 4 0 || fld v 4 0 = 15 then s else _) = _
  simp only [Bool.or_eq_true, decide_eq_true_eq]

/-- The completion head of a ring is written, and entries that its move lets the Keeper take and that have no row are taken. -/
theorem writeHost_crHead {r : Nat} (h : r < 64) (v : Word) :
    s.writeHost (0x108 + 0x20 * r) v = (s.setCr r 1 (BitVec.ofNat 64 (fld v 31 0))).sweepRings := by
  have h1 : (0x108 + 0x20 * r - 0x100) / 0x20 = r := by omega
  have h2 : (0x108 + 0x20 * r) % 0x20 = 8 := by omega
  rw [← and_fldMask_low]
  unfold writeHost
  split
  case h_7 => rw [if_neg (by omega), h1, h2]; rfl
  all_goals omega

/-- A host write of a completion head sets it, whatever the Keeper then takes; where it takes nothing, that is all (R347, R357). -/
theorem exec_crHeadWrite (hr : s.hostReach = true) (hd : s.host.d3 = false) {r : Nat} (h : r < 64) (v : Word) :
    ∃ t, exec (.registerWrite (.host 8) (BitVec.ofNat 48 (0x108 + 0x20 * r)) v) s = .next t ∧
      fld (t.crReg r 1) 31 0 = fld v 31 0 ∧ KeeperSide s t ∧
      (s.host.fresh = [] → t = s.setCr r 1 (BitVec.ofNat 64 (fld v 31 0))) := by
  obtain ⟨hf, hcr⟩ := skipUnknown_frame s.host.fresh.length (s.setCr r 1 (BitVec.ofNat 64 (fld v 31 0)))
  have hk : KeeperSide s (s.setCr r 1 (BitVec.ofNat 64 (fld v 31 0))).sweepRings := KeeperSide.trans rfl hf
  refine ⟨_, exec_hostRegWrite hr hd (by omega) (by omega) v (writeHost_crHead h v) hk, ?_, hk, fun he => sweepRings_of_noFresh he⟩
  have hset : (s.setCr r 1 (BitVec.ofNat 64 (fld v 31 0))).sweepRings.crReg r 1 = BitVec.ofNat 64 (fld v 31 0) :=
    (hcr r 1 (by decide)).trans (Tbl.get_set_same ..)
  rw [hset, fld_ofNat_fld_low]

/-! ### The register window, written -/

theorem exec_windowWrite (hr : s.hostReach = true) (hd : s.host.d3 = false) {o : Nat} (ho : o < 0x2000000) (n : Nat) (v : Word) :
    exec (.registerWrite (.host n) (BitVec.ofNat 48 (0x2000000 + o)) v) s = s.bcnDone (s.windowWrite o n v) := by
  rw [exec_hostWrite hr hd (by omega), bar0Write, if_pos (by omega), if_pos (by omega), Nat.add_sub_cancel_left]

theorem windowWrite_partial {o n : Nat} (h : o % 8 ≠ 0 ∨ n ≠ 8) (v : Word) :
    s.windowWrite o n v = (s.hostError 7 0 (regBase + s.windowOff o)).emit .dropped :=
  if_pos (by simpa using h)

theorem windowWrite_ungranted {o : Nat} (ha : o % 8 = 0) (hg : s.granted (s.windowOff o) = false) (v : Word) :
    s.windowWrite o 8 v = (s.hostError 5 0 (regBase + s.windowOff o)).emit .dropped := by
  rw [windowOff] at hg
  rw [windowWrite, if_neg (by simp [ha])]
  exact if_pos (by simp [hg])

theorem windowWrite_granted {o : Nat} (ha : o % 8 = 0) (hg : s.granted (s.windowOff o) = true) {v : Word} {t : State}
    (h : s.writeReg (s.windowOff o) v = (none, t)) : s.windowWrite o 8 v = t := by
  rw [windowOff] at hg h
  rw [windowWrite, if_neg (by simp [ha])]
  simp [hg, h]

/-! ### Writes of the Keeper -/

/-- The Keeper writes nothing while it does not run. -/
theorem exec_keeperWrite_idle (h : s.powered = false ∨ s.kprState ≠ 2) (addr : BitVec 48) (v : Word) :
    exec (.registerWrite .keeper addr v) s = .next s := by
  have : s.registerWrite .keeper addr.toNat v = s := if_neg (by rcases h with h | h <;> simp [h])
  rw [exec_registerWrite, this]
  rfl

/-- A write of the running Keeper to an aligned offset of the register space. -/
theorem exec_keeperWrite (hp : s.powered = true) (hk : s.kprState = 2) {o : Nat} (ho : o < 0x1000000000) (ha : o % 8 = 0) (v : Word) :
    exec (.registerWrite .keeper (BitVec.ofNat 48 (regBase + o)) v) s = s.bcnDone (s.writeReg o v).2 := by
  have hoff : (BitVec.ofNat 48 (regBase + o)).toNat = regBase + o :=
    Nat.mod_eq_of_lt (by simp only [regBase]; omega)
  rw [exec_registerWrite, hoff, registerWrite, if_pos (by simp [hp, hk, regBase, aliasBase]; omega), Nat.add_sub_cancel_left]

end State

/-- The blocks of the cores lie at the start of the register space, one behind the other (R238). -/
theorem regAt_core {c off : Nat} (hc : c < 512) (ho : off < 0x10000) : regAt (c * 0x10000 + off) = some (.core c off) := by
  rw [regAt, if_pos (by omega), show (c * 0x10000 + off) / 0x10000 = c by omega, show (c * 0x10000 + off) % 0x10000 = off by omega]

/-- The Keeper's block and the security block lie in that of I/O die 0. -/
theorem regAt_keeperSec {o : Nat} (ho : o < 0x110000) :
    ∃ off, regAt (0x20900000 + o) = some (.kpr off) ∨ regAt (0x20900000 + o) = some (.sec off) := by
  have hr : (0x20900000 + o) % 0x1000000 = 0x900000 + o := by omega
  have hi : (0x20900000 + o - 0x20000000) / 0x1000000 = 0 := by omega
  rw [regAt, if_neg (by omega), if_neg (by omega), if_pos (by omega), hr, hi]
  dsimp only
  rw [if_neg (by omega), if_neg (by decide), if_neg (by omega), if_neg (by omega)]
  by_cases h : o < 0x100000
  · exact ⟨_, .inl (if_pos (by omega))⟩
  · exact ⟨_, .inr (by rw [if_neg (by omega)]; exact if_pos (by omega))⟩

namespace State

variable {s : State}

/-- The Keeper's block and the security block hold nothing to write. -/
theorem writeReg_keeperSec {o : Nat} (ho : o < 0x110000) (v : Word) : s.writeReg (0x20900000 + o) v = (none, s) := by
  obtain ⟨off, h | h⟩ := regAt_keeperSec ho <;> rw [writeReg, h]

/-- The Keeper's write to a register of a core that is up, which sets registers of that core only. -/
theorem exec_keeperWrite_core (hp : s.powered = true) (hk : s.kprState = 2) {c off : Nat} (hc : c < 512) (ho : off < 0x10000)
    (ha : off % 8 = 0) (hpres : s.presented c = true) (hup : s.dieUp (dieOf c) = true) {v : Word} {t : State}
    (ht : s.writeCore c off v = t) (hf : t = { s with coreR := t.coreR }) :
    exec (.registerWrite .keeper (BitVec.ofNat 48 (regBase + c * 0x10000 + off)) v) s = .next t := by
  have hw : s.writeReg (c * 0x10000 + off) v = (none, s.aside fun s => s.writeCore c off v) := by
    rw [writeReg, regAt_core hc ho]
    simp [hpres, hup]
  rw [Nat.add_assoc, exec_keeperWrite hp hk (by omega) (by omega), hw, aside, ht, hf]
  rfl

/-- A core register set: it holds the value, and nothing else differs. -/
theorem setCore_frame (s : State) (c off : Nat) (v : Word) :
    (s.setCore c off v).core c off = v ∧ s.coreRegsKept (s.setCore c off v) c (· = off) ∧
    s.setCore c off v = { s with coreR := (s.setCore c off v).coreR } := by
  refine ⟨by simp [core_setCore], fun d o h => ?_, rfl⟩
  rw [core_setCore, if_neg (fun e => by rcases h with h | h; exacts [h e.1, h e.2])]

/-- `SEQ_STREAM` takes its 48 bits unless the core runs (R144). -/
theorem writeCore_seqStream (c : Nat) (v : Word) :
    s.writeCore c R.seqStream v = if s.coreState c = 2 then s
      else s.setCore c R.seqStream (regAfter (s.core c R.seqStream) v (fldMask 47 0) 0 0) := by
  rw [writeCore, if_neg (by decide), if_neg (by decide), if_pos rfl]
  simp only [beq_iff_eq]
  rfl

/-- `DESC_ERR_STS` of `SEQ_STS` clears where it is written with 1. -/
theorem writeCore_seqSts (c : Nat) (v : Word) :
    s.writeCore c R.seqSts v = s.setCore c R.seqSts (s.core c R.seqSts &&& ~~~(v &&& 0x80)) := by
  rw [← regAfter_clears, writeCore, if_neg (by decide), if_pos rfl]
  rfl

/-- The registers of the check unit's contexts are written by the rules of that unit. -/
theorem writeCore_chkContext {c off : Nat} (h : R.chkCtrl 0 ≤ off) (h' : off < R.chkCtrl 4) (v : Word) :
    s.writeCore c off v = s.writeCheck c off v := by
  have hlo : 0x5000 ≤ off := h
  rw [writeCore, if_neg (by simp only [R.seqCtrl]; omega), if_neg (by simp only [R.seqSts]; omega),
    if_neg (by simp only [R.seqStream]; omega), if_neg (by simp only [R.seqDesc]; omega), if_neg (by omega),
    if_neg (by simp only [R.vecSts]; omega), if_neg (by omega), if_pos (.inl ⟨h, h'⟩)]

/-- The CRC parameters of a context of the check unit that is idle keep the bits below its width (R160). -/
theorem writeCore_chkParam {c k o : Nat} (hk : k < 4) (ho : o ∈ [0x08, 0x10, 0x18]) (hidle : s.chkOpen c k = false) (v : Word) :
    s.writeCore c (R.chkCtrl k + o) v =
      s.setCore c (R.chkCtrl k + o) (v &&& fldMask (fld (s.core c (R.chkCtrl k)) 6 0 - 1) 0) := by
  have ho' : o = 0x08 ∨ o = 0x10 ∨ o = 0x18 := by simpa using ho
  have hctx : (R.chkCtrl k + o - R.chkCtrl 0) / 0x40 = k := by simp only [R.chkCtrl]; omega
  have hreg : (R.chkCtrl k + o) % 0x40 = o := by simp only [R.chkCtrl]; omega
  rw [writeCore_chkContext (by simp only [R.chkCtrl]; omega) (by simp only [R.chkCtrl]; omega), writeCheck,
    if_neg (by simp only [R.chkCtrl, R.chkSts]; omega)]
  simp only [hctx, hreg, hidle]
  rcases ho' with rfl | rfl | rfl <;> rfl

section
variable (hp : s.powered = true) (hk : s.kprState = 2) {c : Nat} (hc : c < 512) (hpres : s.presented c = true)
  (hup : s.dieUp (dieOf c) = true) (v : Word)
include hp hk hc hpres hup

/-- The Keeper's write to `SEQ_STREAM` of a core that is up (R144). -/
theorem exec_keeperWrite_seqStream :
    ∃ t, exec (.registerWrite .keeper (BitVec.ofNat 48 (regBase + c * 0x10000 + R.seqStream)) v) s = .next t ∧
      (s.coreState c = 2 → t = s) ∧
      (s.coreState c ≠ 2 → fld (t.core c R.seqStream) 47 0 = fld v 47 0 ∧
        fld (t.core c R.seqStream) 63 48 = fld (s.core c R.seqStream) 63 48 ∧ s.coreRegsKept t c (· = R.seqStream) ∧
        t = { s with coreR := t.coreR }) := by
  have hw := writeCore_seqStream (s := s) c v
  by_cases hrun : s.coreState c = 2
  · rw [if_pos hrun] at hw
    exact ⟨s, exec_keeperWrite_core hp hk hc (by decide) (by decide) hpres hup hw rfl, fun _ => rfl, fun h => absurd hrun h⟩
  · rw [if_neg hrun] at hw
    obtain ⟨hreg, hkept, hf⟩ := setCore_frame s c R.seqStream (regAfter (s.core c R.seqStream) v (fldMask 47 0) 0 0)
    refine ⟨_, exec_keeperWrite_core hp hk hc (by decide) (by decide) hpres hup hw hf, fun h => absurd h hrun, fun _ => ?_⟩
    rw [hreg]
    exact ⟨fld_regAfter_inside _ v (by decide), fld_regAfter_apart _ v (by decide) (by decide), hkept, hf⟩

/-- The Keeper's write to `SEQ_STS` of a core that is up. -/
theorem exec_keeperWrite_seqSts :
    ∃ t, exec (.registerWrite .keeper (BitVec.ofNat 48 (regBase + c * 0x10000 + R.seqSts)) v) s = .next t ∧
      bitAt (t.core c R.seqSts) 7 = (bitAt (s.core c R.seqSts) 7 && !bitAt v 7) ∧
      (∀ i < 64, i ≠ 7 → bitAt (t.core c R.seqSts) i = bitAt (s.core c R.seqSts) i) ∧ s.coreRegsKept t c (· = R.seqSts) ∧
      t = { s with coreR := t.coreR } := by
  obtain ⟨hreg, hkept, hf⟩ := setCore_frame s c R.seqSts (s.core c R.seqSts &&& ~~~(v &&& 0x80))
  have hbit : ∀ i < 64, (0x80 : Word).getLsbD i = decide (i = 7) := by decide
  refine ⟨_, exec_keeperWrite_core hp hk hc (by decide) (by decide) hpres hup (writeCore_seqSts c v) hf, ?_, fun i hi h7 => ?_, hkept, hf⟩
  · rw [hreg]
    simp [bitAt]
  · rw [hreg, bitAt, bitAt, BitVec.getLsbD_and, BitVec.getLsbD_not, BitVec.getLsbD_and, hbit i hi]
    simp [hi, h7]

/-- The Keeper's write to a CRC parameter of an idle context of a core that is up (R160). -/
theorem exec_keeperWrite_chkParam {k o : Nat} (hk4 : k < 4) (ho : o ∈ [0x08, 0x10, 0x18]) (hidle : s.chkOpen c k = false) :
    ∃ t, exec (.registerWrite .keeper (BitVec.ofNat 48 (regBase + c * 0x10000 + R.chkCtrl k + o)) v) s = .next t ∧
      t.core c (R.chkCtrl k + o) = v &&& fldMask (fld (s.core c (R.chkCtrl k)) 6 0 - 1) 0 ∧
      s.coreRegsKept t c (· = R.chkCtrl k + o) ∧ t = { s with coreR := t.coreR } := by
  have ho' : o = 0x08 ∨ o = 0x10 ∨ o = 0x18 := by simpa using ho
  obtain ⟨hreg, hkept, hf⟩ := setCore_frame s c (R.chkCtrl k + o) (v &&& fldMask (fld (s.core c (R.chkCtrl k)) 6 0 - 1) 0)
  refine ⟨_, ?_, hreg, hkept, hf⟩
  rw [Nat.add_assoc (regBase + _)]
  exact exec_keeperWrite_core hp hk hc (by simp only [R.chkCtrl]; omega) (by simp only [R.chkCtrl]; omega) hpres hup
    (writeCore_chkParam hk4 ho hidle v) hf

end

/-- The Keeper's write to its own block or the security block changes nothing. -/
theorem exec_keeperWrite_keeperSec {o : Nat} (ho : o < 0x110000) (v : Word) :
    exec (.registerWrite .keeper (BitVec.ofNat 48 (regBase + 0x20900000 + o)) v) s = .next s := by
  have hoff : (BitVec.ofNat 48 (regBase + 0x20900000 + o)).toNat = regBase + (0x20900000 + o) := by
    rw [Nat.add_assoc]
    exact Nat.mod_eq_of_lt (by simp only [regBase]; omega)
  have hw : s.registerWrite .keeper (regBase + (0x20900000 + o)) v = s := by
    rw [registerWrite, Nat.add_sub_cancel_left, writeReg_keeperSec ho, ite_self]
  rw [exec_registerWrite, hoff, hw]
  rfl

end State

/-- Settles O48, clause by clause: each access reaches one register, whose rule says what it does. -/
theorem registerWrites : Obligations.RegisterWrites := by
  intro s addr v
  refine ⟨fun h n => State.exec_hostWrite_unreached h n addr v, fun h => State.exec_keeperWrite_idle h addr v, fun hr hd => ?_,
    fun hp hk c hc hpres hup => ?_, fun o ho => ?_⟩
  · refine ⟨fun x hx => ?_, fun r hr' k hk => ?_, fun p hp q hq d hdecl => ?_, fun o h1 h2 ha => ?_, fun o ho => ?_, ?_, ?_, fun r hr' => ?_,
      fun o ho => ?_⟩
    · obtain ⟨⟨hlt, ha⟩, hw⟩ := State.bar0Word_hostRegs s x hx
      exact State.exec_bar0Read_word hr hd hlt ha hw
    · exact State.exec_bar0Read_word hr hd (by omega) (by omega) (State.bar0Word_ring hr' hk)
    · exact State.exec_bar0Read_word hr hd (by omega) (by omega) (State.bar0Word_queue hp hq hdecl)
    · exact State.exec_bar0Read_word hr hd h2 ha (State.bar0Word_unlisted h1)
    · simp only [State.exec_windowRead hr hd ho]
      refine ⟨fun n hn => ?_, fun ha w t ht => ?_, fun ha e u hu => ?_⟩
      · rw [State.windowRead_partial hn]
        exact State.done_hostError_emit ..
      · rw [State.windowRead_ok ha ht, State.readReg_frame ht]
        rfl
      · rw [State.windowRead_error ha hu]
        obtain ⟨t, ht, hout, herr, -⟩ := State.done_hostError_emit s (State.errHost e) 0 (regBase + s.windowOff o) .completerAbort
        exact ⟨t, ht, hout, herr⟩
    · exact State.exec_hostRegWrite hr hd (by decide) (by decide) v (State.writeHost_intSts v) rfl
    · exact State.exec_hostRegWrite hr hd (by decide) (by decide) v (State.writeHost_win v) (by split <;> rfl)
    · exact State.exec_crHeadWrite hr hd hr' v
    · simp only [State.exec_windowWrite hr hd ho]
      refine ⟨fun n hn => ?_, fun ha hg => ?_, fun ha hg hp hk hoff t ht => ?_⟩
      · rw [State.windowWrite_partial hn]
        exact State.bcnDone_hostError_emit ..
      · rw [State.windowWrite_ungranted ha hg]
        exact State.bcnDone_hostError_emit ..
      · rw [State.windowWrite_granted ha hg ht, State.exec_keeperWrite hp hk hoff (by omega), ht]
  · exact ⟨State.exec_keeperWrite_seqStream hp hk hc hpres hup v, State.exec_keeperWrite_seqSts hp hk hc hpres hup v,
      fun k hk4 hidle o ho => State.exec_keeperWrite_chkParam hp hk hc hpres hup v hk4 ho hidle⟩
  · exact State.exec_keeperWrite_keeperSec ho v

end Sys2Proof.Machine
end

section
/-!
PROOFS. What the commands of a chip-link port leave alone, and what its registers and its record read after a change.
-/

namespace Sys2Proof.Machine

/-! ### Loops over a state -/

/-- What holds at the start of a loop and is kept by each round holds at its end. -/
theorem forEach_keeps {σ α : Type} {P : σ → Prop} {f : σ → α → σ} (l : List α) (keep : ∀ u, ∀ a ∈ l, P u → P (f u a))
    {s : σ} (h : P s) : P (forEach l s f) := by
  induction l generalizing s with
  | nil => exact h
  | cons a l ih => exact ih (fun u b hb => keep u b (List.mem_cons_of_mem _ hb)) (keep s a List.mem_cons_self h)

/-- What the round of `a` brings about, and no other round undoes, holds at the end of a loop that has that round. -/
theorem forEach_reaches {σ α : Type} {P Q : σ → Prop} {f : σ → α → σ} {a : α} (keepQ : ∀ u b, Q u → Q (f u b))
    (reach : ∀ u, Q u → P (f u a)) (keepP : ∀ u b, b ≠ a → P u → P (f u b)) {l : List α} (ha : a ∈ l) {s : σ} (hQ : Q s) :
    P (forEach l s f) := by
  have kept : ∀ u b, Q u ∧ P u → Q (f u b) ∧ P (f u b) := fun u b ⟨q, p⟩ => by
    refine ⟨keepQ u b q, ?_⟩
    by_cases e : b = a
    · exact e ▸ reach u q
    · exact keepP u b e p
  induction l generalizing s with
  | nil => simp at ha
  | cons b l ih =>
    rcases List.mem_cons.mp ha with rfl | ha
    · exact (forEach_keeps (P := fun u => Q u ∧ P u) l (fun u b _ => kept u b) ⟨keepQ s a hQ, reach s hQ⟩).2
    · exact ih ha (keepQ s b hQ)

namespace State

variable {s : State}

/-! ### What an operation leaves alone -/

/-- What the commands of a chip-link port may change: registers of the I/O dies and cores, the host port and what has gone out, the
Keeper, the slots, the ports' records, heat, the free value, and the memory of cores. -/
abbrev LinkSide (s t : State) : Prop :=
  t = { s with iodR := t.iodR, coreR := t.coreR, host := t.host, out := t.out, kpr := t.kpr, slots := t.slots, cl := t.cl
               thm := t.thm, free := t.free, mem := t.mem, syn := t.syn }

theorem LinkSide.trans {t u : State} (h : LinkSide s t) (k : LinkSide t u) : LinkSide s u := by
  rw [k, h]

/-- The outcome of a command that keeps within reach of its port is the state that its effect gives. -/
theorem LinkSide.done {t : State} (h : LinkSide s t) : s.done t = .next t := by
  rw [h]; rfl

/-- Raising a cause touches the interrupt registers and what has gone out. -/
theorem raise_frame (s : State) (b : Nat) :
    s.raise b = { s with host := { s.host with intSts := (s.raise b).host.intSts, pba := (s.raise b).host.pba }, out := (s.raise b).out } := by
  unfold raise sendMsix
  dsimp only
  split_ifs <;> rfl

theorem raise_intSts (s : State) (b : Nat) : (s.raise b).host.intSts = setBit s.host.intSts b true := by
  unfold raise sendMsix
  dsimp only
  split_ifs <;> rfl

theorem buoy1_frame (s : State) (b : Nat) (v : Bool) :
    s.buoy1 b v = { s with host := { s.host with buoy1 := (s.buoy1 b v).host.buoy1, intSts := (s.buoy1 b v).host.intSts,
                                                 pba := (s.buoy1 b v).host.pba }, out := (s.buoy1 b v).out } := by
  unfold buoy1
  split_ifs
  · rfl
  · rw [raise_frame]

/-- A buoy reads as it was set. -/
theorem bitAt_buoy1 (s : State) {b : Nat} (hb : b < 64) (v : Bool) : bitAt (s.buoy1 b v).host.buoy1 b = v := by
  unfold buoy1
  split_ifs with h
  · exact h
  · rw [raise_frame]; exact bitAt_setBit_same _ _ _ hb

/-! ### Registers and records of chip-link ports -/

/-- A register of a chip-link port after one was changed. -/
theorem lnk_updLnk (s : State) {j k q m : Nat} (f : Word → Word) (hk : k < 0x40 := by decide) (hm : m < 0x40 := by decide) :
    (s.updLnk j k f).lnk q m = if q = j ∧ m = k then f (s.lnk j k) else s.lnk q m := by
  have hne : (q / 6 = j / 6 ∧ R.lnkPortSts (q % 6) + m = R.lnkPortSts (j % 6) + k) ↔ q = j ∧ m = k := by
    simp only [R.lnkPortSts]; omega
  simp only [lnk, updLnk, updIod]
  rw [iod_setIod _ _ _ _ _ _ (by simp only [R.lnkPortSts]; omega) (by simp only [R.lnkPortSts]; omega)]
  simp only [hne]

/-- The record of a chip-link port after one was changed. -/
theorem clx_updCl (s : State) (j q : Nat) (f : ClX → ClX) : (s.updCl j f).clx q = if q = j then f (s.clx j) else s.clx q := by
  by_cases h : q = j
  · subst h; simp [clx, updCl]
  · simp [clx, updCl, h, Tbl.get_set_ne _ _ _ h]

@[simp] theorem clx_updCl_same (s : State) (j : Nat) (f : ClX → ClX) : (s.updCl j f).clx j = f (s.clx j) := by
  rw [clx_updCl, if_pos rfl]

theorem linkSide_updCl (s : State) (j : Nat) (f : ClX → ClX) : LinkSide s (s.updCl j f) := rfl
theorem linkSide_updLnk (s : State) (j k : Nat) (f : Word → Word) : LinkSide s (s.updLnk j k f) := rfl

@[simp] theorem updCl_slots (s : State) (j : Nat) (f : ClX → ClX) : (s.updCl j f).slots = s.slots := rfl
@[simp] theorem updCl_host (s : State) (j : Nat) (f : ClX → ClX) : (s.updCl j f).host = s.host := rfl
@[simp] theorem updCl_thm (s : State) (j : Nat) (f : ClX → ClX) : (s.updCl j f).thm = s.thm := rfl
@[simp] theorem updLnk_slots (s : State) (j k : Nat) (f : Word → Word) : (s.updLnk j k f).slots = s.slots := rfl
@[simp] theorem updLnk_host (s : State) (j k : Nat) (f : Word → Word) : (s.updLnk j k f).host = s.host := rfl
@[simp] theorem clx_updLnk (s : State) (j k q : Nat) (f : Word → Word) : (s.updLnk j k f).clx q = s.clx q := rfl
@[simp] theorem lnk_updCl (s : State) (j q k : Nat) (f : ClX → ClX) : (s.updCl j f).lnk q k = s.lnk q k := rfl
@[simp] theorem lnkState_updCl (s : State) (j q : Nat) (f : ClX → ClX) : (s.updCl j f).lnkState q = s.lnkState q := rfl

/-- A change of another register than the status leaves every port's state. -/
theorem lnkState_updLnk (s : State) {j k : Nat} (q : Nat) (f : Word → Word) (hk : k < 0x40 := by decide) (h0 : 0 ≠ k := by decide) :
    (s.updLnk j k f).lnkState q = s.lnkState q := by
  rw [lnkState, lnk_updLnk s f hk, if_neg fun h => h0 h.2, ← lnkState]

/-- Setting the state of a port touches its registers and its buoy. -/
theorem setLnkState_frame (s : State) (j v : Nat) :
    s.setLnkState j v = { s with iodR := (s.setLnkState j v).iodR, out := (s.setLnkState j v).out
                                 host := { s.host with buoy1 := (s.setLnkState j v).host.buoy1, intSts := (s.setLnkState j v).host.intSts,
                                                       pba := (s.setLnkState j v).host.pba } } := by
  unfold setLnkState
  dsimp only
  rw [buoy1_frame]
  split_ifs <;> rfl

theorem setLnkState_kpr (s : State) (j v : Nat) : (s.setLnkState j v).kpr = s.kpr := by rw [setLnkState_frame]
theorem setLnkState_slots (s : State) (j v : Nat) : (s.setLnkState j v).slots = s.slots := by rw [setLnkState_frame]
theorem setLnkState_bcn (s : State) (j v : Nat) : (s.setLnkState j v).bcn = s.bcn := by rw [setLnkState_frame]
theorem setLnkState_cl (s : State) (j v : Nat) : (s.setLnkState j v).cl = s.cl := by rw [setLnkState_frame]
theorem setLnkState_thm (s : State) (j v : Nat) : (s.setLnkState j v).thm = s.thm := by rw [setLnkState_frame]

@[simp] theorem clx_setLnkState (s : State) (j v q : Nat) : (s.setLnkState j v).clx q = s.clx q := by
  rw [clx, setLnkState_cl, ← clx]

/-- The status register of a port whose state was set. -/
theorem lnk_sts_setLnkState (s : State) (j v : Nat) :
    (s.setLnkState j v).lnk j 0 = setFld (if v = lnkUp then s.lnk j 0 else setFld (s.lnk j 0) 20 16 0) 2 0 v := by
  have hb (t : State) : (t.buoy1 j (v == lnkUp)).lnk j 0 = t.lnk j 0 := by simp [lnk, iod]
  unfold setLnkState
  dsimp only
  rw [hb]
  split_ifs <;> simp [lnk_updLnk]

theorem lnkState_setLnkState (s : State) (j : Nat) {v : Nat} (hv : v < 8) : (s.setLnkState j v).lnkState j = v := by
  rw [lnkState, lnk_sts_setLnkState, fld_setFld_same _ _ _ _ (by decide)]
  exact Nat.mod_eq_of_lt hv

/-- Beyond its state and partner, the status register of a port keeps its bits. -/
theorem bitAt_sts_setLnkState (s : State) (j v : Nat) : bitAt ((s.setLnkState j v).lnk j 0) 3 = bitAt (s.lnk j 0) 3 := by
  rw [lnk_sts_setLnkState, bitAt_setFld_apart _ _ _ _ _ (by decide)]
  split_ifs
  · rfl
  · exact bitAt_setFld_apart _ _ _ _ _ (by decide)

/-- A port that is not UP names no partner. -/
theorem lnk_peer_setLnkState (s : State) (j : Nat) {v : Nat} (hv : v ≠ lnkUp) : (s.setLnkState j v).lnk j 0x10 = 0 := by
  have hb (t : State) : (t.buoy1 j (v == lnkUp)).lnk j 0x10 = t.lnk j 0x10 := by simp [lnk, iod]
  unfold setLnkState
  dsimp only
  rw [hb, if_neg hv, lnk_updLnk, if_pos ⟨rfl, rfl⟩]

/-- The other registers of a port stay when its state is set. -/
theorem lnk_setLnkState_apart (s : State) (j v q : Nat) {k : Nat} (hk : k < 0x40 := by decide) (h0 : k ≠ 0 := by decide)
    (h1 : k ≠ 0x10 := by decide) : (s.setLnkState j v).lnk q k = s.lnk q k := by
  have hb (t : State) : (t.buoy1 j (v == lnkUp)).lnk q k = t.lnk q k := by simp [lnk, iod]
  unfold setLnkState
  dsimp only
  rw [hb]
  split_ifs <;> simp [lnk_updLnk s _ (by decide : 0 < 0x40) hk, lnk_updLnk _ _ (by decide : 0x10 < 0x40) hk, h0, h1]

theorem bitAt_buoy1_setLnkState (s : State) {j : Nat} (hj : j < 64) (v : Nat) :
    bitAt (s.setLnkState j v).host.buoy1 j = (v == lnkUp) := by
  unfold setLnkState
  exact bitAt_buoy1 _ hj _

end State

end Sys2Proof.Machine
end

section
/-!
PROOFS. The runs that a lost part halts (R337), and a port that leaves service (R330).
-/

namespace Sys2Proof.Machine

namespace State

variable {s : State}

/-! ### Runs that halt -/

/-- The run of slot p halts no later than the end of flash n, and is silent from flash k on. -/
def EndsBy (t : State) (p n k : Nat) : Prop :=
  (∃ m c, (t.slot p).halt = some (m, c) ∧ m.toNat ≤ n) ∧ ∃ m, (t.slot p).mute = some m ∧ m.toNat ≤ k

/-- Which runs there are and in what flash they stand is the same. -/
def SameRuns (s t : State) : Prop :=
  t.bcn = s.bcn ∧ ∀ p, (t.slot p).sts = (s.slot p).sts ∧ (t.slot p).start = (s.slot p).start ∧ (t.slot p).ending = (s.slot p).ending

theorem SameRuns.slotState {t : State} (h : SameRuns s t) (p : Nat) : t.slotState p = s.slotState p := by
  rw [State.slotState, (h.2 p).1, ← State.slotState]

theorem SameRuns.curRfn {t : State} (h : SameRuns s t) (p : Nat) : t.curRfn p = s.curRfn p := by
  obtain ⟨-, hstart, hending⟩ := h.2 p
  rw [State.curRfn, State.curRfn, hending, h.slotState, rfnOf, rfnOf, fn, fn, h.1, hstart]

theorem SameRuns.trans {t u : State} (h : SameRuns s t) (k : SameRuns t u) : SameRuns s u :=
  ⟨k.1.trans h.1, fun p => ⟨(k.2 p).1.trans (h.2 p).1, (k.2 p).2.1.trans (h.2 p).2.1, (k.2 p).2.2.trans (h.2 p).2.2⟩⟩

/-- Silencing a run touches its slot and the meters of its cores. -/
theorem silence_frame (s : State) (p n : Nat) :
    s.silence p n = { s.muteFrom p (BitVec.ofNat 48 n) with coreR := (s.silence p n).coreR } := by
  unfold silence
  refine forEach_keeps (P := fun u : State => u = { s.muteFrom p (BitVec.ofNat 48 n) with coreR := u.coreR }) _ (fun u c _ h => ?_) rfl
  rw [h]; rfl

theorem slot_silence (s : State) (p n q : Nat) : (s.silence p n).slot q = (s.muteFrom p (BitVec.ofNat 48 n)).slot q := by
  rw [silence_frame]; rfl

/-- The round of `haltAffected` for slot p (R337). -/
def haltOne (f : Nat → Bool) (s : State) (p : Nat) : State :=
  if s.slotState p == 3 && f p then (s.haltAt p (s.curRfn p + 1) 7).silence p (s.curRfn p)
  else if s.slotState p == 2 && f p then (s.haltAt p 0 7).silence p 0
  else s

theorem haltAffected_eq (s : State) (f : Nat → Bool) : s.haltAffected f = forEach (List.range 8) s (haltOne f) := rfl

/-- A run halted and silenced: its slot alone changes, and of it the halt, the silence and what lies unpublished. -/
theorem haltSilence_frame (s : State) (p n c k : Nat) :
    (s.haltAt p n c).silence p k = { s with slots := ((s.haltAt p n c).silence p k).slots, coreR := ((s.haltAt p n c).silence p k).coreR } := by
  rw [silence_frame]; rfl

theorem haltSilence_sameRuns (s : State) (p n c k : Nat) : SameRuns s ((s.haltAt p n c).silence p k) := by
  refine ⟨by rw [haltSilence_frame], fun q => ?_⟩
  rw [slot_silence, muteFrom, haltAt, slot_updSlot]
  by_cases h : q = p
  · subst h; simp [slot_updSlot]
  · simp [h, slot_updSlot]

theorem haltSilence_endsBy (s : State) (p n c k : Nat) : EndsBy ((s.haltAt p n c).silence p k) p n k := by
  have hslot : ((s.haltAt p n c).silence p k).slot p = ((s.haltAt p n c).muteFrom p (BitVec.ofNat 48 k)).slot p := slot_silence ..
  have hle (n : Nat) : (BitVec.ofNat 48 n).toNat ≤ n := by simpa using Nat.mod_le _ _
  rw [EndsBy, hslot, muteFrom, slot_updSlot, if_pos rfl, haltAt, slot_updSlot, if_pos rfl]
  refine ⟨?_, ?_⟩
  · cases (s.slot p).halt with
    | none => exact ⟨_, _, rfl, hle n⟩
    | some h =>
      by_cases hm : h.1.toNat ≤ n
      · exact ⟨_, _, if_pos hm, hm⟩
      · exact ⟨_, _, if_neg hm, hle n⟩
  · cases (s.slot p).mute with
    | none => exact ⟨_, rfl, hle k⟩
    | some m =>
      by_cases hm : m.toNat ≤ (BitVec.ofNat 48 k).toNat
      · exact ⟨_, congrArg some (if_pos hm), hm.trans (hle k)⟩
      · exact ⟨_, congrArg some (if_neg hm), hle k⟩

theorem slot_haltSilence_ne (s : State) {p q : Nat} (h : q ≠ p) (n c k : Nat) : ((s.haltAt p n c).silence p k).slot q = s.slot q := by
  rw [slot_silence, muteFrom, haltAt, slot_updSlot, if_neg h, slot_updSlot, if_neg h]

theorem haltOne_frame (f : Nat → Bool) (s : State) (p : Nat) :
    haltOne f s p = { s with slots := (haltOne f s p).slots, coreR := (haltOne f s p).coreR } := by
  unfold haltOne
  split_ifs
  · exact haltSilence_frame ..
  · exact haltSilence_frame ..
  · rfl

theorem haltOne_sameRuns (f : Nat → Bool) (s : State) (p : Nat) : SameRuns s (haltOne f s p) := by
  unfold haltOne
  split_ifs
  · exact haltSilence_sameRuns ..
  · exact haltSilence_sameRuns ..
  · exact ⟨rfl, fun _ => ⟨rfl, rfl, rfl⟩⟩

theorem slot_haltOne_ne (f : Nat → Bool) (s : State) {p q : Nat} (h : q ≠ p) : (haltOne f s p).slot q = s.slot q := by
  unfold haltOne
  split_ifs
  · exact slot_haltSilence_ne _ h ..
  · exact slot_haltSilence_ne _ h ..
  · rfl

/-- Halting the affected runs touches their slots and the meters of their cores. -/
theorem haltAffected_frame (s : State) (f : Nat → Bool) :
    s.haltAffected f = { s with slots := (s.haltAffected f).slots, coreR := (s.haltAffected f).coreR } := by
  rw [haltAffected_eq]
  refine forEach_keeps (P := fun u : State => u = { s with slots := u.slots, coreR := u.coreR }) _ (fun u p _ h => ?_) rfl
  rw [haltOne_frame, h]

/-- Every affected run halts in time (R337). -/
theorem haltAffected_runsHalt (s : State) (f : Nat → Bool) : s.runsHalt (s.haltAffected f) f := by
  intro p hp hf
  have reaches {n k : Nat} (h : ∀ u, SameRuns s u → EndsBy (haltOne f u p) p n k) : EndsBy (s.haltAffected f) p n k := by
    refine forEach_reaches (P := fun u => EndsBy u p n k) (Q := SameRuns s) (fun u q hu => hu.trans (haltOne_sameRuns f u q)) h
      (fun u q hq hu => ?_) (List.mem_range.mpr hp) ⟨rfl, fun _ => ⟨rfl, rfl, rfl⟩⟩
    rw [EndsBy, slot_haltOne_ne f u (Ne.symm hq)]
    exact hu
  refine ⟨fun h3 => reaches fun u hu => ?_, fun h2 _ => reaches fun u hu => ?_⟩
  · rw [haltOne, if_pos (by simp [hu.slotState, h3, hf]), hu.curRfn]
    exact haltSilence_endsBy ..
  · rw [haltOne, if_neg (by simp [hu.slotState, h2]), if_pos (by simp [hu.slotState, h2, hf])]
    exact haltSilence_endsBy ..

/-! ### Completions of open commands -/

/-- Commands completed leave the open ones and join those done; nothing else changes. -/
theorem completeWhere_frame (s : State) (p : Cmd → Bool) (status detail : Nat) (result : List Byte) :
    s.completeWhere p status detail result =
      { s with kpr := { s.kpr with accepted := (s.completeWhere p status detail result).kpr.accepted,
                                   done := (s.completeWhere p status detail result).kpr.done } } := by
  unfold completeWhere
  refine forEach_keeps (P := fun u : State => u = { s with kpr := { s.kpr with accepted := u.kpr.accepted, done := u.kpr.done } }) _
    (fun u c _ h => ?_) rfl
  rw [h]; rfl

theorem retrainDone_frame (s : State) (j : Nat) :
    s.retrainDone j = { s with kpr := { s.kpr with accepted := (s.retrainDone j).kpr.accepted, done := (s.retrainDone j).kpr.done } } :=
  completeWhere_frame ..

/-! ### A port that leaves service -/

/-- What reporting a lost part touches. -/
theorem logFault_frame (s : State) (type n : Nat) :
    s.logFault type n = { s with kpr := (s.logFault type n).kpr, out := (s.logFault type n).out
                                 host := { s.host with intSts := (s.logFault type n).host.intSts, pba := (s.logFault type n).host.pba } } := by
  unfold logFault
  dsimp only
  rw [raise_frame]
  cases failKey type n <;> rfl

/-- A chip-link port leaves service for state v, which entries of a type report (R330, R337). -/
def leaveLink (s : State) (j v type : Nat) : State :=
  let t := (s.setLnkState j v).logFault type j
  t.haltAffected fun p => t.usesLink p j

theorem failLink_eq (s : State) (j : Nat) : s.failLink j = (s.leaveLink j lnkFailed 0x53).retrainDone j := rfl
theorem dropLink_eq (s : State) (j : Nat) : s.dropLink j = s.leaveLink j lnkDown 0x54 := rfl

/-- What a port that leaves service touches. -/
theorem leaveLink_frame (s : State) (j v type : Nat) :
    s.leaveLink j v type =
      { s with iodR := (s.setLnkState j v).iodR, coreR := (s.leaveLink j v type).coreR, slots := (s.leaveLink j v type).slots
               kpr := ((s.setLnkState j v).logFault type j).kpr, out := (s.leaveLink j v type).out
               host := { s.host with buoy1 := (s.setLnkState j v).host.buoy1, pba := (s.leaveLink j v type).host.pba
                                     intSts := ((s.setLnkState j v).logFault type j).host.intSts } } := by
  unfold leaveLink
  dsimp only
  rw [haltAffected_frame, logFault_frame, setLnkState_frame]

/-- A part reported lost: the cause is set, and the entry is the one that later failures name (R332, R351). -/
theorem logFault_faultShown (s : State) {type n k : Nat} (hk : failKey type n = some k) : s.faultShown (s.logFault type n) (some k) := by
  unfold logFault
  simp only [hk]
  refine ⟨fun i hi => ?_, ?_, ?_⟩
  · obtain rfl := Option.some.inj hi
    rw [raise_frame]
    exact Tbl.find?_set_same ..
  · rw [raise_intSts]
    exact bitAt_setBit_same _ _ _ (by decide)
  · rw [raise_frame]
    exact Nat.lt_succ_self _

/-- Runs that halt as from a state with the same runs. -/
theorem SameRuns.runsHalt {u t : State} {f : Nat → Bool} (h : SameRuns s u) (hh : u.runsHalt t f) : s.runsHalt t f := by
  intro p hp hf
  rw [← h.slotState, ← h.curRfn]
  exact hh p hp hf

theorem usesLink_of_slots {u : State} (h : u.slots = s.slots) (p j : Nat) : u.usesLink p j = s.usesLink p j := by
  simp only [usesLink, slot, h]

theorem sameRuns_of_slots {u : State} (hs : u.slots = s.slots) (hb : u.bcn = s.bcn) : SameRuns s u :=
  ⟨hb, fun p => by rw [slot, hs, ← slot]; exact ⟨rfl, rfl, rfl⟩⟩

/-- A loss from a state with the same runs and the same log counts from the earlier one. -/
theorem linkGone_of_same {u t : State} {j v : Nat} (hk : u.kpr = s.kpr) (hs : u.slots = s.slots) (hb : u.bcn = s.bcn)
    (h : u.linkGone t j v) : s.linkGone t j v := by
  obtain ⟨hst, hbuoy, hpeer, hshown, hhalt⟩ := h
  rw [faultShown, hk] at hshown
  refine ⟨hst, hbuoy, hpeer, hshown, (sameRuns_of_slots hs hb).runsHalt ?_⟩
  simpa only [usesLink_of_slots hs] using hhalt

/-- The runs that use a port halt where nothing has changed them since. -/
theorem haltAffected_usesLink {w : State} (hs : w.slots = s.slots) (hb : w.bcn = s.bcn) (j : Nat) :
    s.runsHalt (w.haltAffected fun p => w.usesLink p j) fun p => s.usesLink p j := by
  simpa only [usesLink_of_slots hs] using (sameRuns_of_slots hs hb).runsHalt (haltAffected_runsHalt w fun p => w.usesLink p j)

/-- Halting runs leaves the report of a loss. -/
theorem faultShown_haltAffected {w : State} {k : Option Nat} (h : s.faultShown w k) (f : Nat → Bool) :
    s.faultShown (w.haltAffected f) k := by
  have hkpr : (w.haltAffected f).kpr = w.kpr := by rw [haltAffected_frame]
  have hhost : (w.haltAffected f).host = w.host := by rw [haltAffected_frame]
  rw [faultShown, hkpr, hhost]
  exact h

/-- A port that leaves service is gone: its buoy low, no partner named, the loss reported, its runs to halt (R330, R337). -/
theorem leaveLink_linkGone (s : State) {j v type : Nat} (hj : j < 64) (hv : v < 8) (hup : v ≠ lnkUp)
    (hk : failKey type j = some (200 + j)) : s.linkGone (s.leaveLink j v type) j v := by
  have hl (k : Nat) : (s.leaveLink j v type).lnk j k = (s.setLnkState j v).lnk j k := by rw [leaveLink_frame]; rfl
  have hslots : ((s.setLnkState j v).logFault type j).slots = (s.setLnkState j v).slots := by rw [logFault_frame]
  have hbcn : ((s.setLnkState j v).logFault type j).bcn = (s.setLnkState j v).bcn := by rw [logFault_frame]
  refine linkGone_of_same (setLnkState_kpr s j v) (setLnkState_slots s j v) (setLnkState_bcn s j v) ⟨?_, ?_, ?_, ?_, ?_⟩
  · rw [lnkState, hl, ← lnkState, lnkState_setLnkState _ _ hv]
  · rw [leaveLink_frame]
    exact (bitAt_buoy1_setLnkState s hj v).trans (beq_eq_false_iff_ne.mpr hup)
  · rw [hl, lnk_peer_setLnkState _ _ hup]
  · exact faultShown_haltAffected (logFault_faultShown _ hk) _
  · exact haltAffected_usesLink hslots hbcn j

theorem linkGone_retrainDone {t : State} {j v : Nat} (h : s.linkGone t j v) : s.linkGone (t.retrainDone j) j v := by
  obtain ⟨as, ds, ht⟩ : ∃ as ds, t.retrainDone j = { t with kpr := { t.kpr with accepted := as, done := ds } } :=
    ⟨_, _, retrainDone_frame t j⟩
  rw [ht]
  exact h

theorem failLink_linkGone (s : State) {j : Nat} (hj : j < 64) : s.linkGone (s.failLink j) j lnkFailed :=
  linkGone_retrainDone (leaveLink_linkGone s hj (by decide) (by decide) rfl)

theorem dropLink_linkGone (s : State) {j : Nat} (hj : j < 64) : s.linkGone (s.dropLink j) j lnkDown :=
  leaveLink_linkGone s hj (by decide) (by decide) rfl

/-- What a port that fails touches. -/
theorem failLink_frame (s : State) (j : Nat) :
    s.failLink j = { s with iodR := (s.setLnkState j lnkFailed).iodR, coreR := (s.failLink j).coreR, slots := (s.failLink j).slots
                            kpr := (s.failLink j).kpr, out := (s.failLink j).out, host := (s.failLink j).host } := by
  rw [failLink_eq, retrainDone_frame, leaveLink_frame]

theorem linkSide_failLink (s : State) (j : Nat) : LinkSide s (s.failLink j) := by
  rw [failLink_frame]

theorem linkSide_dropLink (s : State) (j : Nat) : LinkSide s (s.dropLink j) := by
  rw [dropLink_eq, leaveLink_frame]

theorem linkSide_setLnkState (s : State) (j v : Nat) : LinkSide s (s.setLnkState j v) := by
  rw [setLnkState_frame]

theorem lnk_failLink (s : State) (j q k : Nat) : (s.failLink j).lnk q k = (s.setLnkState j lnkFailed).lnk q k := by
  have hr : (s.failLink j).iodR = (s.setLnkState j lnkFailed).iodR := by rw [failLink_frame]
  simp only [lnk, iod, hr]

theorem failLink_thm (s : State) (j : Nat) : (s.failLink j).thm = s.thm := by rw [failLink_frame]

@[simp] theorem clx_dropLink (s : State) (j q : Nat) : (s.dropLink j).clx q = s.clx q := by
  have hc : (s.dropLink j).cl = s.cl := by rw [dropLink_eq, leaveLink_frame]
  simp only [clx, hc]

end State

end Sys2Proof.Machine
end

section
/-!
PROOFS. A port from its partner's signal over training and padding to UP, and the signal's loss (R327, R330).
-/

namespace Sys2Proof.Machine

namespace State

variable {s : State}

/-! ### The map record, where no run is starting -/

/-- The round of `markStale` for slot p (R212). -/
def staleOne (cause : Nat) (s : State) (p : Nat) : State :=
  match (s.slot p).img with
  | none => s
  | some i =>
    let bad := if cause = 1 then s.badMargin i else s.badMap i
    if bitAt (s.slot p).sts 8 || !bad then s
    else
      let u := if s.slotState p == 2 then s.cancelStart p 2 else s
      let u := u.updSlot p fun y => { y with sts := setFld (setBit y.sts 8 true) 10 9 cause }
      (u.logEv 0x13 p [BitVec.ofNat 8 cause]).raise intStale

theorem markStale_eq (s : State) (cause : Nat) : s.markStale cause = forEach (List.range 8) s (staleOne cause) := rfl

/-- Nothing but slots, the Keeper, what has gone out and the interrupt registers differs. -/
abbrev ReportSide (s t : State) : Prop :=
  t = { s with slots := t.slots, kpr := t.kpr, out := t.out, host := { s.host with intSts := t.host.intSts, pba := t.host.pba } }

theorem ReportSide.trans {t u : State} (h : ReportSide s t) (k : ReportSide t u) : ReportSide s u := by
  rw [k, h]

/-- What an image that goes stale touches where its run is not starting, and that no slot changes its state. -/
theorem reportSide_staleOne (cause : Nat) {p : Nat} (h : s.slotState p ≠ 2) :
    ReportSide s (staleOne cause s p) ∧ ∀ q, (staleOne cause s p).slotState q = s.slotState q := by
  unfold staleOne
  cases (s.slot p).img with
  | none => exact ⟨rfl, fun _ => rfl⟩
  | some i =>
    dsimp only
    rw [if_neg (show ¬ (s.slotState p == 2) = true by simpa using h)]
    generalize (if cause = 1 then s.badMargin i else s.badMap i) = bad
    split_ifs
    · exact ⟨rfl, fun _ => rfl⟩
    · refine ⟨by rw [raise_frame]; rfl, fun q => ?_⟩
      rw [slotState, slot, raise_slots, logEv_slots, ← slot, slot_updSlot]
      by_cases hq : q = p
      · subst hq
        rw [if_pos rfl, fld_setFld_apart _ _ _ _ _ _ (by decide), fld_setBit_apart _ _ _ _ _ (by decide), ← slotState]
      · rw [if_neg hq, ← slotState]

/-- What a change of the map record touches where no run is starting. -/
theorem reportSide_mapChange (h : s.noneStarting) : ReportSide s s.mapChange := by
  unfold mapChange
  split_ifs
  · rfl
  · rfl
  · rw [markStale_eq]
    refine (forEach_keeps (s := { s with kpr := { s.kpr with mapRec := s.mapNow } }) (P := fun u => ReportSide s u ∧ u.noneStarting) _
      (fun u p hp ⟨hu, hn⟩ => ?_) ⟨rfl, h⟩).1
    obtain ⟨hf, hst⟩ := reportSide_staleOne 2 (hn p (List.mem_range.mp hp))
    exact ⟨hu.trans hf, fun q hq => by rw [hst]; exact hn q hq⟩

/-! ### A port that begins to train -/

theorem linkSide_trainLink (s : State) (j : Nat) : LinkSide s (s.trainLink j) := by
  unfold trainLink
  rw [setLnkState_frame]; rfl

theorem clx_trainLink (s : State) (j : Nat) : (s.trainLink j).clx j = { signal := (s.clx j).signal, padded := (s.clx j).padded } := by
  simp [trainLink]

/-- A port trains where its partner is there and its I/O die not fenced, else it is DOWN. -/
theorem lnkState_trainLink (s : State) (j : Nat) :
    (s.trainLink j).lnkState j = if (s.clx j).signal && !s.map.iodFenced.getLsbD (j / 6) then lnkTraining else lnkDown := by
  rw [trainLink, lnkState_updCl, lnkState_setLnkState]
  split_ifs <;> decide

theorem bitAt_buoy1_trainLink (s : State) {j : Nat} (hj : j < 64) : bitAt (s.trainLink j).host.buoy1 j = false := by
  refine (bitAt_buoy1_setLnkState s hj _).trans ?_
  split_ifs <;> rfl

/-- The signal of a partner: a port that may train does (R330). -/
theorem exec_partnerSignalPresent (cl : ClPort) (hp : s.powered = true) :
    ∃ t, exec (.partnerSignalPresent cl) s = .next t ∧ (t.clx cl.val).signal = true ∧ (t.clx cl.val).padded = (s.clx cl.val).padded ∧
      t.lnkState cl.val = if s.lnkState cl.val = lnkDown ∧ s.kpr.coldDone = true ∧ s.bcn.locked = true ∧
        s.map.iodFenced.getLsbD (cl.val / 6) = false then lnkTraining else s.lnkState cl.val := by
  let u := s.updCl cl.val fun x => { x with signal := true }
  have hu : u.clx cl.val = { s.clx cl.val with signal := true } := clx_updCl_same ..
  have hsig : (u.clx cl.val).signal = true := by rw [hu]
  have hmay : (s.kpr.coldDone && u.mayTrain cl.val) = true ↔ s.lnkState cl.val = lnkDown ∧ s.kpr.coldDone = true ∧ s.bcn.locked = true ∧
      s.map.iodFenced.getLsbD (cl.val / 6) = false := by
    have hl : u.lnkState cl.val = s.lnkState cl.val := rfl
    rw [mayTrain, hsig, hl]
    simp only [Bool.true_and, Bool.and_eq_true, beq_iff_eq, Bool.not_eq_true', u, updCl]
    tauto
  have hs : s.signalPresent cl.val = if s.kpr.coldDone && u.mayTrain cl.val then u.trainLink cl.val else u := by
    rw [signalPresent, hp]; rfl
  by_cases hm : (s.kpr.coldDone && u.mayTrain cl.val) = true
  · rw [if_pos hm] at hs
    have hfen : u.map.iodFenced.getLsbD (cl.val / 6) = false := (hmay.mp hm).2.2.2
    refine ⟨u.trainLink cl.val, ?_, ?_, ?_, ?_⟩
    · exact (congrArg s.done hs).trans (LinkSide.done (LinkSide.trans (t := u) rfl (linkSide_trainLink ..)))
    · rw [clx_trainLink, hsig]
    · rw [clx_trainLink, hu]
    · rw [lnkState_trainLink, hsig, hfen, if_pos (hmay.mp hm)]; rfl
  · rw [if_neg hm] at hs
    exact ⟨u, (congrArg s.done hs).trans (LinkSide.done rfl), hsig, by rw [hu], (if_neg (mt hmay.mpr hm)).symm⟩

/-! ### Training and its end -/

/-- The eye measured has entered the lifetime record, which keeps the lowest (R425, R429). -/
def EyeNoted (s t : State) (j h : Nat) : Prop :=
  t.thm.life.eye.find? j = some (match s.thm.life.eye.find? j with
    | some o => min o h
    | none => h)

theorem eyeNoted_noteEye (s : State) (j h : Nat) : EyeNoted s (s.noteEye j h) j h := Tbl.find?_set_same ..

theorem exec_chipLinkTrained (cl : ClPort) (raw : BitVec 16) (pk : Bool) (eye : Fin 101) :
    exec (.chipLinkTrained cl raw pk eye) s = s.done (s.linkTrained cl.val raw.toNat pk eye.val) := rfl

theorem exec_chipLinkTrainingTimeout (cl : ClPort) (hp : s.powered = true) (ht : s.lnkState cl.val = lnkTraining) :
    ∃ t, exec (.chipLinkTrainingTimeout cl) s = .next t ∧ s.linkGone t cl.val lnkFailed := by
  have hs : s.linkTimeout cl.val = s.failLink cl.val := if_pos (by simp [hp, ht])
  exact ⟨_, (congrArg s.done hs).trans (linkSide_failLink ..).done, failLink_linkGone s (by omega)⟩

/-- What training has measured: the raw latency in `PAD`, the eye in the lifetime record. -/
def measured (s : State) (j raw eye : Nat) : State := (s.updLnk j 8 fun w => setFld w 47 32 raw).noteEye j eye

@[simp] theorem lnk_noteEye (s : State) (j h q k : Nat) : (s.noteEye j h).lnk q k = s.lnk q k := rfl
@[simp] theorem lnkState_noteEye (s : State) (j h q : Nat) : (s.noteEye j h).lnkState q = s.lnkState q := rfl

theorem linkSide_measured (s : State) (j raw eye : Nat) : LinkSide s (s.measured j raw eye) := rfl

theorem fld_pad_measured (s : State) (j eye : Nat) (raw : BitVec 16) : fld ((s.measured j raw.toNat eye).lnk j 8) 47 32 = raw.toNat := by
  have hl : (s.measured j raw.toNat eye).lnk j 8 = setFld (s.lnk j 8) 47 32 raw.toNat := by
    rw [measured, lnk_noteEye, lnk_updLnk, if_pos ⟨rfl, rfl⟩]
  rw [hl, fld_setFld_same _ _ _ _ (by decide)]
  exact Nat.mod_eq_of_lt raw.isLt

/-- A port that trains with a partner that is there, by what it has measured (R327, R330). -/
theorem linkTrained_eq {j : Nat} (hp : s.powered = true) (ht : s.lnkState j = lnkTraining) (hsig : (s.clx j).signal = true)
    (raw : Nat) (pk : Bool) (eye : Nat) :
    s.linkTrained j raw pk eye =
      if 250 < raw then (s.measured j raw eye).failLink j
      else if (s.bcnState == 1 || s.bcnState == 3) && pk then
        ((s.measured j raw eye).setLnkState j lnkPadding).updCl j fun x => { x with target := fld (s.lnk j 8) 6 0 }
      else s.measured j raw eye := by
  rw [linkTrained, if_neg (by simp [hp, ht, hsig])]; rfl

section
variable (cl : ClPort) (hp : s.powered = true) (ht : s.lnkState cl.val = lnkTraining) (hsig : (s.clx cl.val).signal = true)
  (raw : BitVec 16) (pk : Bool) (eye : Fin 101)
include hp ht hsig

theorem exec_chipLinkTrained_fails (hraw : 250 < raw.toNat) :
    ∃ t, exec (.chipLinkTrained cl raw pk eye) s = .next t ∧ s.linkGone t cl.val lnkFailed ∧ EyeNoted s t cl.val eye.val ∧
      fld (t.lnk cl.val 8) 47 32 = raw.toNat := by
  have hs := linkTrained_eq hp ht hsig raw.toNat pk eye.val
  rw [if_pos hraw] at hs
  have hside : LinkSide s ((s.measured cl.val raw.toNat eye.val).failLink cl.val) :=
    (linkSide_measured ..).trans (linkSide_failLink ..)
  refine ⟨_, by rw [exec_chipLinkTrained, hs, hside.done], ?_, ?_, ?_⟩
  · exact linkGone_of_same (u := s.measured cl.val raw.toNat eye.val) rfl rfl rfl (failLink_linkGone _ (by omega))
  · rw [EyeNoted, failLink_thm]
    exact eyeNoted_noteEye ..
  · rw [lnk_failLink, lnk_setLnkState_apart, fld_pad_measured]

theorem exec_chipLinkTrained_pads (hraw : raw.toNat ≤ 250) (hb : s.bcnState = 1 ∨ s.bcnState = 3) (hpk : pk = true) :
    ∃ t, exec (.chipLinkTrained cl raw pk eye) s = .next t ∧ t.lnkState cl.val = lnkPadding ∧ EyeNoted s t cl.val eye.val ∧
      fld (t.lnk cl.val 8) 47 32 = raw.toNat ∧ (t.clx cl.val).target = fld (s.lnk cl.val 8) 6 0 := by
  have hs := linkTrained_eq hp ht hsig raw.toNat pk eye.val
  rw [if_neg (by omega), if_pos (by simpa [hpk] using hb)] at hs
  have hside := ((linkSide_measured s cl.val raw.toNat eye.val).trans (linkSide_setLnkState _ cl.val lnkPadding)).trans
    (linkSide_updCl _ cl.val fun x => { x with target := fld (s.lnk cl.val 8) 6 0 })
  refine ⟨_, by rw [exec_chipLinkTrained, hs, hside.done], ?_, ?_, ?_, ?_⟩
  · rw [lnkState_updCl, lnkState_setLnkState _ _ (by decide)]
  · rw [EyeNoted, updCl_thm, setLnkState_thm]
    exact eyeNoted_noteEye ..
  · rw [lnk_updCl, lnk_setLnkState_apart, fld_pad_measured]
  · rw [clx_updCl_same]

theorem exec_chipLinkTrained_stays (hraw : raw.toNat ≤ 250) (hb : (s.bcnState ≠ 1 ∧ s.bcnState ≠ 3) ∨ pk = false) :
    ∃ t, exec (.chipLinkTrained cl raw pk eye) s = .next t ∧ EyeNoted s t cl.val eye.val ∧ fld (t.lnk cl.val 8) 47 32 = raw.toNat ∧
      t.lnkState cl.val = lnkTraining ∧ t = { s with iodR := t.iodR, thm := t.thm } := by
  have hs := linkTrained_eq hp ht hsig raw.toNat pk eye.val
  rw [if_neg (by omega), if_neg (by rcases hb with ⟨h1, h3⟩ | h <;> simp [*])] at hs
  have hst : (s.measured cl.val raw.toNat eye.val).lnkState cl.val = lnkTraining := by
    rw [measured, lnkState_noteEye, lnkState_updLnk, ht]
  exact ⟨s.measured cl.val raw.toNat eye.val, by rw [exec_chipLinkTrained, hs, (linkSide_measured ..).done], eyeNoted_noteEye ..,
    fld_pad_measured .., hst, rfl⟩

end

/-! ### Padding confirmed -/

/-- The port UP with its partner named, replays at 0 and its record as padded (R330, R386). -/
def madeUp (s : State) (j : Nat) (peer : Word) (peerPort : Nat) : State :=
  ((((s.setLnkState j lnkUp).updLnk j 0 fun w => setFld w 20 16 peerPort).updLnk j 0x10 fun _ => peer).updLnk j 0x18 fun _ => 0).updCl j
    fun x => { signal := x.signal, target := x.target, padded := x.target }

theorem lnk_madeUp (s : State) (j : Nat) (peer : Word) (peerPort : Nat) :
    (s.madeUp j peer peerPort).lnk j 0 = setFld ((s.setLnkState j lnkUp).lnk j 0) 20 16 peerPort ∧
    (s.madeUp j peer peerPort).lnk j 0x10 = peer ∧ (s.madeUp j peer peerPort).lnk j 0x18 = 0 := by
  simp [madeUp, lnk_updLnk]

@[simp] theorem forgetFail_slots (s : State) (k : Nat) : (s.forgetFail k).slots = s.slots := rfl
theorem reportSide_forgetFail (s : State) (k : Nat) : ReportSide s (s.forgetFail k) := rfl

theorem linkSide_madeUp (s : State) (j : Nat) (peer : Word) (peerPort : Nat) : LinkSide s (s.madeUp j peer peerPort) := by
  unfold madeUp
  exact ((((linkSide_setLnkState ..).trans (linkSide_updLnk ..)).trans (linkSide_updLnk ..)).trans (linkSide_updLnk ..)).trans (linkSide_updCl ..)

theorem exec_paddingConfirmed_eq (cl : ClPort) (peer : BitVec 64) (pp : Fin 24) :
    exec (.paddingConfirmed cl peer pp) s = s.done (s.paddingConfirmed cl.val peer pp.val) := rfl

/-- A padding confirmed brings the port UP; the rest reports it. -/
theorem reportSide_paddingConfirmed {j : Nat} (hn : s.noneStarting) (hp : s.powered = true) (ht : s.lnkState j = lnkPadding)
    (hsig : (s.clx j).signal = true) (peer : Word) (peerPort : Nat) :
    ReportSide (s.madeUp j peer peerPort) (s.paddingConfirmed j peer peerPort) := by
  have hs : s.paddingConfirmed j peer peerPort = (((s.madeUp j peer peerPort).forgetFail (200 + j)).mapChange).retrainDone j := by
    rw [paddingConfirmed, if_neg (by simp [hp, ht, hsig])]; rfl
  have hn' : ((s.madeUp j peer peerPort).forgetFail (200 + j)).noneStarting := by
    have hslots : ((s.madeUp j peer peerPort).forgetFail (200 + j)).slots = s.slots := by
      rw [forgetFail_slots, madeUp]
      simp [setLnkState_slots]
    intro p hp
    rw [slotState, slot, hslots]
    exact hn p hp
  have hdone (t : State) : ReportSide t (t.retrainDone j) := by rw [retrainDone_frame]
  rw [hs]
  exact ((reportSide_forgetFail ..).trans (reportSide_mapChange hn')).trans (hdone _)

theorem exec_paddingConfirmed (cl : ClPort) (hn : s.noneStarting) (hp : s.powered = true) (ht : s.lnkState cl.val = lnkPadding)
    (hsig : (s.clx cl.val).signal = true) (peer : BitVec 64) (pp : Fin 24) :
    ∃ t, exec (.paddingConfirmed cl peer pp) s = .next t ∧ t.lnkState cl.val = lnkUp ∧ bitAt t.host.buoy1 cl.val = true ∧
      t.lnk cl.val 0x10 = peer ∧ fld (t.lnk cl.val 0) 20 16 = pp.val ∧ fld (t.lnk cl.val 0x18) 47 0 = 0 ∧
      (t.clx cl.val).padded = (s.clx cl.val).target ∧ (t.clx cl.val).rxSeq = 0 := by
  obtain ⟨u, hu⟩ : ∃ u, u = s.madeUp cl.val peer pp.val := ⟨_, rfl⟩
  obtain ⟨t, ht'⟩ : ∃ t, t = s.paddingConfirmed cl.val peer pp.val := ⟨_, rfl⟩
  have hf : ReportSide u t := by
    rw [hu, ht']
    exact reportSide_paddingConfirmed hn hp ht hsig peer pp.val
  have hl (k : Nat) : t.lnk cl.val k = u.lnk cl.val k := by rw [hf]; rfl
  have hx : t.clx cl.val = { signal := (s.clx cl.val).signal, target := (s.clx cl.val).target, padded := (s.clx cl.val).target } := by
    have : t.clx cl.val = u.clx cl.val := by rw [hf]; rfl
    rw [this, hu]
    simp [madeUp]
  have hbuoy : t.host.buoy1 = (s.setLnkState cl.val lnkUp).host.buoy1 := by
    have : t.host.buoy1 = u.host.buoy1 := by rw [hf]
    rw [this, hu]
    simp [madeUp]
  have hside : LinkSide s t := by
    refine LinkSide.trans (t := u) ?_ (by rw [hf])
    rw [hu]
    exact linkSide_madeUp ..
  obtain ⟨hsts, hpeer, hrpl⟩ := s.lnk_madeUp cl.val peer pp.val
  rw [← hu] at hsts hpeer hrpl
  refine ⟨t, by rw [exec_paddingConfirmed_eq, ← ht', hside.done], ?_, ?_, ?_, ?_, ?_, ?_, ?_⟩
  · rw [lnkState, hl, hsts, fld_setFld_apart _ _ _ _ _ _ (by decide), ← lnkState, lnkState_setLnkState _ _ (by decide)]
  · rw [hbuoy]
    exact bitAt_buoy1_setLnkState s (by omega) lnkUp
  · rw [hl, hpeer]
  · rw [hl, hsts, fld_setFld_same _ _ _ _ (by decide)]
    exact Nat.mod_eq_of_lt (by omega)
  · rw [hl, hrpl]; decide
  · rw [hx]
  · rw [hx]

/-! ### The signal lost -/

theorem exec_partnerSignalLost (cl : ClPort) (hp : s.powered = true) :
    ∃ t, exec (.partnerSignalLost cl) s = .next t ∧ (t.clx cl.val).signal = false ∧
      (s.lnkState cl.val = lnkUp ∨ s.lnkState cl.val = lnkPadding → s.linkGone t cl.val lnkDown) ∧
      (s.lnkState cl.val = lnkFailed → t.lnkState cl.val = lnkDown) ∧
      (s.lnkState cl.val = lnkDown ∨ s.lnkState cl.val = lnkTraining → t = { s with cl := t.cl }) := by
  let u := s.updCl cl.val fun x => { x with signal := false }
  have hsig : (u.clx cl.val).signal = false := by simp [u]
  have hs : s.signalLost cl.val = if s.lnkState cl.val == lnkUp || s.lnkState cl.val == lnkPadding then u.dropLink cl.val
      else if s.lnkState cl.val == lnkFailed then u.setLnkState cl.val lnkDown else u := by
    rw [signalLost, hp]; rfl
  by_cases hup : s.lnkState cl.val = lnkUp ∨ s.lnkState cl.val = lnkPadding
  · rw [if_pos (by simpa using hup)] at hs
    refine ⟨_, (congrArg s.done hs).trans (LinkSide.done (LinkSide.trans (t := u) rfl (linkSide_dropLink ..))), ?_, fun _ => ?_, ?_, ?_⟩
    · rw [clx_dropLink, hsig]
    · exact linkGone_of_same rfl rfl rfl (dropLink_linkGone u (by omega))
    · intro h; simp [h] at hup
    · intro h; rcases h with h | h <;> simp [h] at hup
  · rw [if_neg (by simpa using hup)] at hs
    by_cases hf : s.lnkState cl.val = lnkFailed
    · rw [if_pos (by simpa using hf)] at hs
      refine ⟨_, (congrArg s.done hs).trans (LinkSide.done (LinkSide.trans (t := u) rfl (linkSide_setLnkState ..))), ?_,
        fun h => absurd h hup, fun _ => ?_, ?_⟩
      · rw [clx_setLnkState, hsig]
      · exact lnkState_setLnkState _ _ (by decide)
      · intro h; simp [hf] at h
    · rw [if_neg (by simpa using hf)] at hs
      exact ⟨u, (congrArg s.done hs).trans (LinkSide.done rfl), hsig, fun h => absurd h hup, fun h => absurd h hf, fun _ => rfl⟩

end State

end Sys2Proof.Machine
end

section
/-!
PROOFS. Flits: those that leave, NAKs (R328), failed flits, and the good ones by type (R326).
-/

namespace Sys2Proof.Machine

/-- A counter field raised reads as the sum, up to its maximum. -/
theorem fld_incFld_same (w : Word) (hi lo n : Nat) (h : hi < 64) :
    fld (incFld w hi lo n) hi lo = min (fld w hi lo + n) (2 ^ (hi + 1 - lo) - 1) := by
  rw [incFld, fld_setFld_same _ _ _ _ h]
  refine Nat.mod_eq_of_lt ((Nat.min_le_right _ _).trans_lt ?_)
  exact Nat.sub_lt (Nat.two_pow_pos _) Nat.one_pos

/-- A counter field raised leaves every field beside it. -/
theorem fld_incFld_apart (w : Word) (hi lo n a b : Nat) (h : hi < b ∨ a < lo) : fld (incFld w hi lo n) a b = fld w a b :=
  fld_setFld_apart _ _ _ _ _ _ h

namespace State

variable {s : State}

/-! ### Flits that leave -/

/-- What sending flits that are no data flits may change: the ports' records and the free value. -/
abbrev FlitSide (s t : State) : Prop := t = { s with cl := t.cl, free := t.free }

theorem FlitSide.trans {t u : State} (h : FlitSide s t) (k : FlitSide t u) : FlitSide s u := by
  rw [k, h]

theorem FlitSide.linkSide {t : State} (h : FlitSide s t) : LinkSide s t := by
  rw [h]

theorem flitSide_updCl (s : State) (j : Nat) (f : ClX → ClX) : FlitSide s (s.updCl j f) := rfl
theorem flitSide_sendNote (s : State) (j ty ack : Nat) : FlitSide s (s.sendNote j ty ack) := rfl

theorem clx_noteFlit (s : State) (j ty ack : Nat) (content : List Byte) :
    (s.noteFlit j ty ack content).clx j = { s.clx j with flits := (s.clx j).flits ++ [content ++ flitTrailer ty (s.clx j).txSeq ack content] } := by
  rw [noteFlit, clx_updCl_same]

/-- A flit that is no data flit joins those that its port has sent. -/
theorem clx_sendNote (s : State) (j ty ack : Nat) :
    ∃ content, content.length = 256 ∧
      (s.sendNote j ty ack).clx j = { s.clx j with flits := (s.clx j).flits ++ [content ++ flitTrailer ty (s.clx j).txSeq ack content] } :=
  ⟨(List.range 256).map (Config.linkByte s.free), by simp, clx_noteFlit ..⟩

/-- A remote acknowledgement leaves in a flit of its own. -/
theorem clx_sendAck (s : State) (j : Nat) (st : ReqStatus) :
    ∃ flit, (s.sendAck j st).clx j = { s.clx j with acks := (s.clx j).acks ++ [st], flits := (s.clx j).flits ++ [flit] } := by
  obtain ⟨content, -, h⟩ := clx_sendNote (s.updCl j fun x => { x with acks := x.acks ++ [st] }) j 5 ((s.clx j).rxSeq + 4095)
  rw [clx_updCl_same] at h
  exact ⟨_, h⟩

theorem flitSide_sendAck (s : State) (j : Nat) (st : ReqStatus) : FlitSide s (s.sendAck j st) := by
  unfold sendAck
  exact (flitSide_updCl ..).trans (flitSide_sendNote ..)

/-- An acknowledgement ends the resending of the flits up to its number. -/
theorem clx_clAcked (s : State) (j a : Nat) :
    ∃ n, (s.clAcked j a).clx j =
      { s.clx j with naks := n, resent := (s.clx j).resent.filter fun f => 2048 ≤ (a + 4096 - f.1) % 4096 } :=
  ⟨_, by rw [clAcked, clx_updCl_same]⟩

theorem ackedTo_of_resent {t : State} {j a : Nat}
    (h : (t.clx j).resent = (s.clx j).resent.filter fun f => 2048 ≤ (a + 4096 - f.1) % 4096) : s.ackedTo t j a := by
  intro f
  rw [h, List.mem_filter, decide_eq_true_eq]

/-! ### Replays exhausted -/

/-- What exhausting the replays of a port leaves before it fails. -/
def exhausted (s : State) (j : Nat) : State :=
  let t := s.updLnk j 0 fun w => setBit w 3 true
  { t with thm := { t.thm with life := { t.thm.life with exh := t.thm.life.exh.upd 0 j (· + 1) } } }

theorem linkExhaust_eq (s : State) (j : Nat) : s.linkExhaust j = (s.exhausted j).failLink j := rfl

theorem linkSide_linkExhaust (s : State) (j : Nat) : LinkSide s (s.linkExhaust j) :=
  LinkSide.trans (t := s.exhausted j) rfl (linkSide_failLink ..)

theorem linkExhaust_linkGone (s : State) {j : Nat} (hj : j < 64) : s.linkGone (s.linkExhaust j) j lnkFailed :=
  linkGone_of_same (u := s.exhausted j) rfl rfl rfl (failLink_linkGone _ hj)

theorem bitAt_sts_linkExhaust (s : State) (j : Nat) : bitAt ((s.linkExhaust j).lnk j 0) 3 = true := by
  have hl : (s.exhausted j).lnk j 0 = setBit (s.lnk j 0) 3 true :=
    (lnk_updLnk s (j := j) (k := 0) (q := j) (m := 0) fun w => setBit w 3 true).trans (if_pos ⟨rfl, rfl⟩)
  rw [linkExhaust_eq, lnk_failLink, bitAt_sts_setLnkState, hl]
  exact bitAt_setBit_same _ _ _ (by decide)

/-! ### NAKs that arrive -/

/-- The record of a port that a NAK for flit sq has reached, for the nth time. -/
def nakked (s : State) (j sq n : Nat) : State :=
  s.updCl j fun y => { y with nakSeq := sq, naks := n, resent := replayFrom y.replay sq }

theorem clNak_eq {j : Nat} (hp : s.powered = true) (hup : s.lnkState j = lnkUp) (sq : Nat) :
    s.clNak j sq =
      let n := if (s.clx j).nakSeq = sq then (s.clx j).naks + 1 else 1
      if (replayFrom (s.clx j).replay sq).isEmpty then s
      else if 5 ≤ n then (s.nakked j sq n).linkExhaust j
      else (s.nakked j sq n).updLnk j 0x18 fun w => incFld w 47 0 1 := by
  rw [clNak, if_neg (by simp [hp, hup])]; rfl

theorem exec_clNak_eq (cl : ClPort) (sq : BitVec 12) : exec (.clNak cl sq) s = s.done (s.clNak cl.val sq.toNat) := rfl

section
variable (cl : ClPort) (hp : s.powered = true) (hup : s.lnkState cl.val = lnkUp) (sq : BitVec 12)
include hp hup

theorem exec_clNak_unknown (h : replayFrom (s.clx cl.val).replay sq.toNat = []) : exec (.clNak cl sq) s = .next s := by
  rw [exec_clNak_eq, clNak_eq hp hup]
  simp only [h, List.isEmpty_nil, if_true]
  rfl

variable {n : Nat} (hn : (if (s.clx cl.val).nakSeq = sq.toNat then (s.clx cl.val).naks + 1 else 1) = n)
  (hre : replayFrom (s.clx cl.val).replay sq.toNat ≠ [])
include hn hre

/-- One of the first four NAKs for a flit sends the buffer from it on again (R328). -/
theorem exec_clNak_replays (h5 : n < 5) :
    ∃ t, exec (.clNak cl sq) s = .next t ∧ (t.clx cl.val).naks = n ∧ (t.clx cl.val).nakSeq = sq.toNat ∧
      (t.clx cl.val).resent = replayFrom (s.clx cl.val).replay sq.toNat ∧
      fld (t.lnk cl.val 0x18) 47 0 = min (fld (s.lnk cl.val 0x18) 47 0 + 1) (2 ^ 48 - 1) ∧ t = { s with cl := t.cl, iodR := t.iodR } := by
  have hs := clNak_eq hp hup sq.toNat
  simp only [hn] at hs
  rw [if_neg (by simpa using hre), if_neg (by omega)] at hs
  have hx : (s.nakked cl.val sq.toNat n).clx cl.val =
      { s.clx cl.val with nakSeq := sq.toNat, naks := n, resent := replayFrom (s.clx cl.val).replay sq.toNat } := clx_updCl_same ..
  refine ⟨(s.nakked cl.val sq.toNat n).updLnk cl.val 0x18 fun w => incFld w 47 0 1, by rw [exec_clNak_eq, hs]; rfl, ?_, ?_, ?_, ?_, rfl⟩
  · rw [clx_updLnk, hx]
  · rw [clx_updLnk, hx]
  · rw [clx_updLnk, hx]
  · rw [lnk_updLnk, if_pos ⟨rfl, rfl⟩, fld_incFld_same _ _ _ _ (by decide), nakked, lnk_updCl]

/-- The fifth NAK for a flit exhausts the replays (R328). -/
theorem exec_clNak_exhausts (h5 : 5 ≤ n) :
    ∃ t, exec (.clNak cl sq) s = .next t ∧ bitAt (t.lnk cl.val 0) 3 = true ∧ s.linkGone t cl.val lnkFailed := by
  have hs := clNak_eq hp hup sq.toNat
  simp only [hn] at hs
  rw [if_neg (by simpa using hre), if_pos h5] at hs
  have hside : LinkSide s ((s.nakked cl.val sq.toNat n).linkExhaust cl.val) := (linkSide_updCl ..).trans (linkSide_linkExhaust ..)
  exact ⟨_, by rw [exec_clNak_eq, hs, hside.done], bitAt_sts_linkExhaust ..,
    linkGone_of_same (u := s.nakked cl.val sq.toNat n) rfl rfl rfl (linkExhaust_linkGone _ (by omega))⟩

end

/-! ### Flits that arrive -/

/-- The codewords that the FEC corrected and could not correct in a flit are counted. -/
def fecNoted (s : State) (j corr uncorr : Nat) : State := s.updLnk j 0x20 fun w => incFld (incFld w 63 32 uncorr) 31 0 corr

theorem lnk_fecNoted (s : State) (j corr uncorr : Nat) :
    fld ((s.fecNoted j corr uncorr).lnk j 0x20) 31 0 = min (fld (s.lnk j 0x20) 31 0 + corr) (2 ^ 32 - 1) ∧
    fld ((s.fecNoted j corr uncorr).lnk j 0x20) 63 32 = min (fld (s.lnk j 0x20) 63 32 + uncorr) (2 ^ 32 - 1) := by
  rw [fecNoted, lnk_updLnk, if_pos ⟨rfl, rfl⟩, fld_incFld_same _ _ _ _ (by decide), fld_incFld_apart _ _ _ _ _ _ (by decide),
    fld_incFld_apart _ _ _ _ _ _ (by decide), fld_incFld_same _ _ _ _ (by decide)]
  exact ⟨rfl, rfl⟩

@[simp] theorem clx_fecNoted (s : State) (j corr uncorr q : Nat) : (s.fecNoted j corr uncorr).clx q = s.clx q := rfl
theorem lnkState_fecNoted (s : State) (j corr uncorr q : Nat) : (s.fecNoted j corr uncorr).lnkState q = s.lnkState q :=
  lnkState_updLnk ..

/-- FEC and CRC of a flit are right. -/
def FlitGood (data : List Byte) (tr : BitVec 64) (uncorr : Nat) : Prop :=
  uncorr = 0 ∧ crcOf clCrc (data ++ leBytes 4 tr.toNat) = fld tr 63 32

/-- A data flit taken: what it acknowledges, the number expected next, and the ACK that answers it (R326, R328). -/
def clFlitTaken (s : State) (j : Nat) (tr : BitVec 64) : State :=
  ((s.clAcked j (fld tr 23 12)).updCl j fun x => { x with rxSeq := (x.rxSeq + 1) % 4096, fails := 0, nak := none }).sendNote j 2 (fld tr 11 0)

/-- What a flit whose FEC and CRC are right does, by its type. -/
def takeClFlit (s : State) (j : Nat) (data : List Byte) (tr : BitVec 64) (pkt : Option ClPkt) : State :=
  match fld tr 27 24 with
  | 1 =>
    if fld tr 11 0 != (s.clx j).rxSeq then s.clAcked j (fld tr 23 12)
    else match pkt with
      | some k => (s.clFlitTaken j tr).deliver j data k
      | none => s.clFlitTaken j tr
  | 0 | 2 | 4 => s.clAcked j (fld tr 23 12)
  | 3 => s.clNak j (fld tr 23 12)
  | 5 =>
    match pkt with
    | some k => (s.clAcked j (fld tr 23 12)).relayAck j data k
    | none => s.clAcked j (fld tr 23 12)
  | _ => s

section
variable {j : Nat} (hp : s.powered = true)
include hp

theorem clFlit_padding (h : s.lnkState j = lnkPadding) (data : List Byte) (tr : BitVec 64) (corr uncorr : Nat) (pkt : Option ClPkt) :
    s.clFlit j data tr corr uncorr pkt = s.fecNoted j corr uncorr := by
  rw [clFlit, if_neg (by simp [hp, h]), if_pos (by simp [h])]; rfl

variable (hup : s.lnkState j = lnkUp)
include hup

theorem clFlit_good {data : List Byte} {tr : BitVec 64} {corr uncorr : Nat} {pkt : Option ClPkt} (hg : FlitGood data tr uncorr) :
    s.clFlit j data tr corr uncorr pkt = (s.fecNoted j corr uncorr).takeClFlit j data tr pkt := by
  rw [clFlit, if_neg (by simp [hp, hup]), if_neg (by simp [hup]), if_neg (by simp [hg.1, hg.2])]; rfl

theorem clFlit_bad {data : List Byte} {tr : BitVec 64} {corr uncorr : Nat} {pkt : Option ClPkt} (hg : ¬ FlitGood data tr uncorr) :
    s.clFlit j data tr corr uncorr pkt = (s.fecNoted j corr uncorr).linkFail j tr := by
  rw [clFlit, if_neg (by simp [hp, hup]), if_neg (by simp [hup]), if_pos (by simpa [FlitGood, imp_iff_not_or] using hg)]; rfl

end

theorem exec_clFlit_eq (cl : ClPort) (data : List Byte) (tr : BitVec 64) (corr uncorr : Nat) (pkt : Option ClPkt) :
    exec (.clFlit cl data tr corr uncorr pkt) s = s.done (s.clFlit cl.val data tr corr uncorr pkt) := rfl

/-! ### A failed flit -/

/-- A failed flit is answered by a NAK; `n` failed copies of the flit expected have come (R328). -/
def nakSent (s : State) (j n : Nat) : State := (s.updCl j fun x => { x with fails := n }).sendNak j

theorem linkFail_eq {j n : Nat} {tr : BitVec 64}
    (hn : (s.clx j).fails + (decide (fld tr 27 24 = 1 ∧ fld tr 11 0 = (s.clx j).rxSeq)).toNat = n) :
    s.linkFail j tr = if (s.clx j).fails < n ∧ 5 ≤ n then (s.nakSent j n).linkExhaust j else s.nakSent j n := by
  subst hn; rfl

theorem flitSide_nakSent (s : State) (j n : Nat) : FlitSide s (s.nakSent j n) := by
  unfold nakSent sendNak
  exact ((flitSide_updCl ..).trans (flitSide_updCl ..)).trans (flitSide_sendNote ..)

theorem clx_nakSent (s : State) (j n : Nat) :
    ∃ content, content.length = 256 ∧ (s.nakSent j n).clx j =
      { s.clx j with fails := n, nak := some (s.clx j).rxSeq
                     flits := (s.clx j).flits ++ [content ++ flitTrailer 3 (s.clx j).txSeq (s.clx j).rxSeq content] } := by
  obtain ⟨content, hlen, h⟩ := clx_sendNote ((s.updCl j fun x => { x with fails := n }).updCl j fun x => { x with nak := some x.rxSeq }) j 3
    ((s.updCl j fun x => { x with fails := n }).clx j).rxSeq
  exact ⟨content, hlen, by rw [nakSent, sendNak, h]; simp only [clx_updCl_same]⟩

section
variable (cl : ClPort) (hp : s.powered = true) (hup : s.lnkState cl.val = lnkUp) {data : List Byte} {tr : BitVec 64} {corr uncorr : Nat}
  (pkt : Option ClPkt)
include hp hup

/-- A failed flit that does not exhaust the replays. -/
theorem exec_clFlit_fails (hg : ¬ FlitGood data tr uncorr)
    (h : (s.clx cl.val).fails < 4 ∨ ¬ (fld tr 27 24 = 1 ∧ fld tr 11 0 = (s.clx cl.val).rxSeq)) :
    ∃ t, exec (.clFlit cl data tr corr uncorr pkt) s = .next t ∧
      (t.clx cl.val).fails = (if fld tr 27 24 = 1 ∧ fld tr 11 0 = (s.clx cl.val).rxSeq then (s.clx cl.val).fails + 1 else (s.clx cl.val).fails) ∧
      s.sentFlit t cl.val 3 (s.clx cl.val).rxSeq ∧ (t.clx cl.val).nak = some (s.clx cl.val).rxSeq ∧
      t = { s with cl := t.cl, iodR := t.iodR, free := t.free } := by
  obtain ⟨n, hn⟩ : ∃ n, (s.clx cl.val).fails + (decide (fld tr 27 24 = 1 ∧ fld tr 11 0 = (s.clx cl.val).rxSeq)).toNat = n := ⟨_, rfl⟩
  have hcount : n = if fld tr 27 24 = 1 ∧ fld tr 11 0 = (s.clx cl.val).rxSeq then (s.clx cl.val).fails + 1 else (s.clx cl.val).fails := by
    rw [← hn]
    split_ifs with hc <;> simp [hc]
  have hs := (clFlit_bad (corr := corr) (pkt := pkt) hp hup hg).trans (linkFail_eq hn)
  rw [clx_fecNoted, if_neg (by rw [hcount]; split_ifs with hc <;> omega)] at hs
  obtain ⟨content, hlen, hx⟩ := clx_nakSent (s.fecNoted cl.val corr uncorr) cl.val n
  rw [clx_fecNoted] at hx
  refine ⟨(s.fecNoted cl.val corr uncorr).nakSent cl.val n, by rw [exec_clFlit_eq, hs]; rfl, ?_, ⟨content, hlen, ?_⟩, ?_, rfl⟩
  · rw [hx, ← hcount]
  · rw [hx]
  · rw [hx]

/-- The fifth failed copy of the flit expected exhausts the replays (R328). -/
theorem exec_clFlit_exhausts (hg : ¬ FlitGood data tr uncorr) (h4 : 4 ≤ (s.clx cl.val).fails)
    (hc : fld tr 27 24 = 1 ∧ fld tr 11 0 = (s.clx cl.val).rxSeq) :
    ∃ t, exec (.clFlit cl data tr corr uncorr pkt) s = .next t ∧ bitAt (t.lnk cl.val 0) 3 = true ∧ s.linkGone t cl.val lnkFailed := by
  have hn : (s.clx cl.val).fails + (decide (fld tr 27 24 = 1 ∧ fld tr 11 0 = (s.clx cl.val).rxSeq)).toNat = (s.clx cl.val).fails + 1 := by
    simp [hc]
  have hs := (clFlit_bad (corr := corr) (pkt := pkt) hp hup hg).trans (linkFail_eq hn)
  rw [clx_fecNoted, if_pos ⟨Nat.lt_succ_self _, by omega⟩] at hs
  obtain ⟨u, hu⟩ : ∃ u, u = (s.fecNoted cl.val corr uncorr).nakSent cl.val ((s.clx cl.val).fails + 1) := ⟨_, rfl⟩
  have hflit : FlitSide (s.fecNoted cl.val corr uncorr) u := by rw [hu]; exact flitSide_nakSent ..
  have hsame : u.kpr = s.kpr ∧ u.slots = s.slots ∧ u.bcn = s.bcn := by rw [hflit]; exact ⟨rfl, rfl, rfl⟩
  have hside : LinkSide s u := (linkSide_updLnk ..).trans hflit.linkSide
  rw [← hu] at hs
  refine ⟨_, by rw [exec_clFlit_eq, hs, (hside.trans (linkSide_linkExhaust u cl.val)).done], bitAt_sts_linkExhaust .., ?_⟩
  exact linkGone_of_same hsame.1 hsame.2.1 hsame.2.2 (linkExhaust_linkGone u (by omega))

/-! ### A good flit, by its type -/

variable (hg : FlitGood data tr uncorr)
include hg

/-- A NAK flit acts as the NAK that it carries. -/
theorem exec_clFlit_nak (hty : fld tr 27 24 = 3) :
    exec (.clFlit cl data tr corr uncorr pkt) s = exec (.clNak cl (BitVec.ofNat 12 (fld tr 23 12))) (s.fecNoted cl.val corr uncorr) := by
  have hsq : (BitVec.ofNat 12 (fld tr 23 12)).toNat = fld tr 23 12 := Nat.mod_eq_of_lt (fld_lt tr 23 12)
  have hs : s.clFlit cl.val data tr corr uncorr pkt = (s.fecNoted cl.val corr uncorr).clNak cl.val (fld tr 23 12) := by
    simp only [clFlit_good hp hup hg, takeClFlit, hty]
  rw [exec_clFlit_eq, hs, exec_clNak_eq, hsq]; rfl

/-- A flit of a type that R326 does not name does nothing. -/
theorem exec_clFlit_reserved (hty : 5 < fld tr 27 24) :
    ∃ t, exec (.clFlit cl data tr corr uncorr pkt) s = .next t ∧ t = { s with iodR := t.iodR } := by
  have hs : s.clFlit cl.val data tr corr uncorr pkt = s.fecNoted cl.val corr uncorr := by
    rw [clFlit_good hp hup hg, takeClFlit.eq_def]
    have hlt : fld tr 27 24 < 16 := fld_lt tr 27 24
    generalize fld tr 27 24 = ty at hty hlt
    interval_cases ty <;> rfl
  exact ⟨s.fecNoted cl.val corr uncorr, by rw [exec_clFlit_eq, hs]; rfl, rfl⟩

omit hp hup hg in
theorem ackedTo_clAcked_fecNoted (s : State) (j corr uncorr a : Nat) : s.ackedTo ((s.fecNoted j corr uncorr).clAcked j a) j a := by
  obtain ⟨n, hx⟩ := clx_clAcked (s.fecNoted j corr uncorr) j a
  refine ackedTo_of_resent ?_
  rw [hx, clx_fecNoted]

/-- Idle, ACK and management flits, and remote acknowledgements for nobody, acknowledge what their trailer says. -/
theorem exec_clFlit_acks (hty : fld tr 27 24 ∈ [0, 2, 4] ∨ fld tr 27 24 = 5 ∧ pkt = none) :
    ∃ t, exec (.clFlit cl data tr corr uncorr pkt) s = .next t ∧ s.ackedTo t cl.val (fld tr 23 12) ∧
      t = { s with cl := t.cl, iodR := t.iodR } := by
  have hs : s.clFlit cl.val data tr corr uncorr pkt = (s.fecNoted cl.val corr uncorr).clAcked cl.val (fld tr 23 12) := by
    rw [clFlit_good hp hup hg]
    rcases hty with h | ⟨h, rfl⟩
    · simp only [List.mem_cons, List.not_mem_nil, or_false] at h
      rcases h with h | h | h <;> simp only [takeClFlit, h]
    · simp only [takeClFlit, h]
  exact ⟨(s.fecNoted cl.val corr uncorr).clAcked cl.val (fld tr 23 12), by rw [exec_clFlit_eq, hs]; rfl,
    ackedTo_clAcked_fecNoted s cl.val corr uncorr (fld tr 23 12), rfl⟩

/-- A data flit that is not the one expected only acknowledges. -/
theorem exec_clFlit_repeated (hty : fld tr 27 24 = 1) (hsq : fld tr 11 0 ≠ (s.clx cl.val).rxSeq) :
    ∃ t, exec (.clFlit cl data tr corr uncorr pkt) s = .next t ∧ (t.clx cl.val).rxSeq = (s.clx cl.val).rxSeq ∧
      t = { s with cl := t.cl, iodR := t.iodR } := by
  have hs : s.clFlit cl.val data tr corr uncorr pkt = (s.fecNoted cl.val corr uncorr).clAcked cl.val (fld tr 23 12) := by
    rw [clFlit_good hp hup hg, takeClFlit.eq_def, hty]
    exact if_pos (by simpa using hsq)
  obtain ⟨n, hx⟩ := clx_clAcked (s.fecNoted cl.val corr uncorr) cl.val (fld tr 23 12)
  exact ⟨(s.fecNoted cl.val corr uncorr).clAcked cl.val (fld tr 23 12), by rw [exec_clFlit_eq, hs]; rfl, by rw [hx, clx_fecNoted], rfl⟩

end

end State

end Sys2Proof.Machine
end

section
/-!
PROOFS. Data flits taken: the packet that one carries goes on, is discarded, or comes in a compute reset (R329, R335).
-/

namespace Sys2Proof.Machine

namespace State

variable {s : State}

/-! ### A data flit taken -/

/-- What taking a data flit leaves of its port's record. -/
theorem clx_clFlitTaken (s : State) (j : Nat) (tr : BitVec 64) :
    ∃ n content, content.length = 256 ∧ (s.clFlitTaken j tr).clx j =
      { s.clx j with
        rxSeq := ((s.clx j).rxSeq + 1) % 4096, fails := 0, nak := none, naks := n
        resent := (s.clx j).resent.filter fun f => 2048 ≤ (fld tr 23 12 + 4096 - f.1) % 4096
        flits := (s.clx j).flits ++ [content ++ flitTrailer 2 (s.clx j).txSeq (fld tr 11 0) content] } := by
  obtain ⟨n, hn⟩ := clx_clAcked s j (fld tr 23 12)
  obtain ⟨content, hlen, h⟩ := clx_sendNote
    ((s.clAcked j (fld tr 23 12)).updCl j fun x => { x with rxSeq := (x.rxSeq + 1) % 4096, fails := 0, nak := none }) j 2 (fld tr 11 0)
  exact ⟨n, content, hlen, by rw [clFlitTaken, h]; simp only [clx_updCl_same, hn]⟩

/-- A data flit taken touches nothing but its port's record and the free value. -/
theorem flitSide_clFlitTaken (s : State) (j : Nat) (tr : BitVec 64) : FlitSide s (s.clFlitTaken j tr) := by
  unfold clFlitTaken clAcked
  exact ((flitSide_updCl ..).trans (flitSide_updCl ..)).trans (flitSide_sendNote ..)

theorem clx_noteFlit_ne (s : State) {j q : Nat} (h : q ≠ j) (ty ack : Nat) (content : List Byte) :
    (s.noteFlit j ty ack content).clx q = s.clx q := by
  rw [noteFlit, clx_updCl, if_neg h]

theorem clx_sendNote_ne (s : State) {j q : Nat} (h : q ≠ j) (ty ack : Nat) : (s.sendNote j ty ack).clx q = s.clx q :=
  clx_noteFlit_ne s h ..

theorem clx_clAcked_ne (s : State) {j q : Nat} (h : q ≠ j) (a : Nat) : (s.clAcked j a).clx q = s.clx q := by
  rw [clAcked, clx_updCl, if_neg h]

theorem clx_clFlitTaken_ne (s : State) {j q : Nat} (h : q ≠ j) (tr : BitVec 64) : (s.clFlitTaken j tr).clx q = s.clx q := by
  rw [clFlitTaken, clx_sendNote_ne _ h, clx_updCl, if_neg h, clx_clAcked_ne _ h]

theorem lnkState_clFlitTaken (s : State) (j q : Nat) (tr : BitVec 64) : (s.clFlitTaken j tr).lnkState q = s.lnkState q := by
  rw [flitSide_clFlitTaken]; rfl

/-! ### Where a packet goes -/

theorem linkSide_discardPacket (s : State) (p d j : Nat) : LinkSide s (s.discardPacket p d j) := rfl
theorem clx_discardPacket (s : State) (p d j q : Nat) : (s.discardPacket p d j).clx q = s.clx q := rfl
theorem discardPacket_mem (s : State) (p d j : Nat) : (s.discardPacket p d j).mem = s.mem := rfl

/-- A discarded packet is logged. -/
theorem discardPacket_logSeq (s : State) (p d j : Nat) : (s.discardPacket p d j).kpr.logSeq = s.kpr.logSeq + 1 := rfl

theorem sendAck_mem (s : State) (j : Nat) (st : ReqStatus) : (s.sendAck j st).mem = s.mem := rfl

theorem linkSide_sendFlit (s : State) (j : Nat) (data : List Byte) : LinkSide s (s.sendFlit j data) := rfl
theorem sendFlit_mem (s : State) (j : Nat) (data : List Byte) : (s.sendFlit j data).mem = s.mem := rfl

/-- A data flit joins the replay buffer of its port, of which the oldest go (R328). -/
theorem replay_sendFlit (s : State) (q : Nat) (data : List Byte) :
    ∃ r, ((s.sendFlit q data).clx q).replay = r ++ [((s.clx q).txSeq, s.dataFlitOf q (s.clx q).txSeq data)] := by
  have hdrop (l : List (Nat × List Byte)) (f : Nat × List Byte) : (l ++ [f]).drop (l.length + 1 - 512) = l.drop (l.length + 1 - 512) ++ [f] :=
    List.drop_append_of_le_length (by omega)
  refine ⟨(s.clx q).replay.drop ((s.clx q).replay.length + 1 - 512), ?_⟩
  rw [sendFlit, clx_updCl_same, dataFlitOf]
  dsimp only
  rw [hdrop]

theorem rxSeq_sendFlit (s : State) (q j : Nat) (data : List Byte) : ((s.sendFlit q data).clx j).rxSeq = (s.clx j).rxSeq := by
  rw [sendFlit, clx_updCl]
  split_ifs with h
  · rw [h]
  · rfl

theorem resent_noteFlit (s : State) (q j ty ack : Nat) (data : List Byte) : ((s.noteFlit q ty ack data).clx j).resent = (s.clx j).resent := by
  rw [noteFlit, clx_updCl]
  split_ifs with h
  · rw [h]
  · rfl

/-- A packet that comes in a compute reset is answered with `TARGET_RESET` where the device was reached by its ID, else discarded
(R335). -/
theorem deliver_computeReset (h : s.computeReset = true) (j : Nat) (data : List Byte) (k : ClPkt) :
    s.deliver j data k =
      if s.resetIds.contains k.dev.toNat then s.sendAck j .targetReset else s.discardPacket k.slot.val k.dev.toNat j := by
  rw [deliver, if_pos h]

section
variable {k : ClPkt} {i : Image} (himg : (s.slot k.slot.val).img = some i) (hreset : s.computeReset = false)
include himg hreset

/-- A packet for another device that no route names is discarded (R329). -/
theorem deliver_unrouted (hdev : i.devId ≠ k.dev.toNat) (hr : i.routeTo k.dev.toNat = none) (j : Nat) (data : List Byte) :
    s.deliver j data k = s.discardPacket k.slot.val k.dev.toNat j := by
  rw [deliver, if_neg (by simp [hreset])]
  simp only [himg, if_neg hdev, hr]

/-- A packet for another device goes on through the port that its run's routes name (R329). -/
theorem deliver_routed (hdev : i.devId ≠ k.dev.toNat) {q : Nat} (hr : i.routeTo k.dev.toNat = some q) (j : Nat) (data : List Byte) :
    s.deliver j data k = if s.lnkState q == lnkUp then s.sendFlit q data else s := by
  rw [deliver, if_neg (by simp [hreset])]
  simp only [himg, if_neg hdev, hr]

/-- A packet for this device is written; its event is counted, and it is acknowledged (R155, R329). -/
theorem deliver_writes (hdev : i.devId = k.dev.toNat) {j : Nat} {data : List Byte} {c : Nat} {t : State} (hc : coreOfDa k.da.toNat = some c)
    (hw : s.writeDa ⟨1, 0xFFFF⟩ k.da.toNat (data.take k.len) = (none, t)) :
    s.deliver j data k = (t.incEv c k.rev.toNat).sendAck j .ok := by
  rw [deliver, if_neg (by simp [hreset])]
  simp only [himg]
  rw [if_pos hdev, hw]
  simp only [hc]

/-- A remote acknowledgement for this device acts by `REMOTE_ACK` alone (R329). -/
theorem relayAck_own (hdev : i.devId = k.dev.toNat) (j : Nat) (data : List Byte) : s.relayAck j data k = s := by
  rw [relayAck, if_neg (by simp [hreset])]
  simp only [himg]
  rw [if_pos hdev]

/-- A remote acknowledgement for another device that no route names is discarded (R329). -/
theorem relayAck_unrouted (hdev : i.devId ≠ k.dev.toNat) (hr : i.routeTo k.dev.toNat = none) (j : Nat) (data : List Byte) :
    s.relayAck j data k = s.discardPacket k.slot.val k.dev.toNat j := by
  rw [relayAck, if_neg (by simp [hreset])]
  simp only [himg, if_neg hdev, hr]

/-- A remote acknowledgement for another device goes on through the port that its run's routes name (R329). -/
theorem relayAck_routed (hdev : i.devId ≠ k.dev.toNat) {q : Nat} (hr : i.routeTo k.dev.toNat = some q) (j : Nat) (data : List Byte) :
    s.relayAck j data k = if s.lnkState q == lnkUp then s.noteFlit q 5 ((s.clx q).rxSeq + 4095) data else s := by
  rw [relayAck, if_neg (by simp [hreset])]
  simp only [himg, if_neg hdev, hr]

end

/-! ### What a data flit that is taken does -/

section
variable (cl : ClPort) (hp : s.powered = true) (hup : s.lnkState cl.val = lnkUp) {data : List Byte} {tr : BitVec 64} {corr uncorr : Nat}
  (hg : FlitGood data tr uncorr)
include hp hup hg

variable (hty : fld tr 27 24 = 1) (hsq : fld tr 11 0 = (s.clx cl.val).rxSeq)
include hty hsq

/-- The data flit expected is taken. -/
theorem clFlit_taken :
    s.clFlit cl.val data tr corr uncorr none = (s.fecNoted cl.val corr uncorr).clFlitTaken cl.val tr := by
  simp only [clFlit_good hp hup hg, takeClFlit, hty]
  rw [if_neg (by simp [hsq])]

/-- The packet that the data flit expected carries is delivered. -/
theorem clFlit_delivers (k : ClPkt) :
    s.clFlit cl.val data tr corr uncorr (some k) = ((s.fecNoted cl.val corr uncorr).clFlitTaken cl.val tr).deliver cl.val data k := by
  simp only [clFlit_good hp hup hg, takeClFlit, hty]
  rw [if_neg (by simp [hsq])]

/-- A data flit that carries nothing is taken and acknowledged. -/
theorem exec_clFlit_taken :
    ∃ t, exec (.clFlit cl data tr corr uncorr none) s = .next t ∧ (t.clx cl.val).rxSeq = ((s.clx cl.val).rxSeq + 1) % 4096 ∧
      (t.clx cl.val).fails = 0 ∧ (t.clx cl.val).nak = none ∧ s.sentFlit t cl.val 2 (s.clx cl.val).rxSeq ∧ s.ackedTo t cl.val (fld tr 23 12) ∧
      fld (t.lnk cl.val 0x20) 31 0 = min (fld (s.lnk cl.val 0x20) 31 0 + corr) (2 ^ 32 - 1) ∧
      t = { s with cl := t.cl, iodR := t.iodR, free := t.free } := by
  have hs := clFlit_taken (corr := corr) cl hp hup hg hty hsq
  obtain ⟨n, content, hlen, hx⟩ := clx_clFlitTaken (s.fecNoted cl.val corr uncorr) cl.val tr
  rw [clx_fecNoted, hsq] at hx
  refine ⟨(s.fecNoted cl.val corr uncorr).clFlitTaken cl.val tr, by rw [exec_clFlit_eq, hs]; rfl, ?_, ?_, ?_, ⟨content, hlen, ?_⟩,
    ackedTo_of_resent ?_, ?_, rfl⟩
  · rw [hx]
  · rw [hx]
  · rw [hx]
  · rw [hx]
  · rw [hx]
  · exact (s.lnk_fecNoted cl.val corr uncorr).1

/-- A packet that comes in a compute reset. -/
theorem exec_clFlit_computeReset {k : ClPkt} {r : RstProg} (hr : s.kpr.reset = some r) (hreset : s.computeReset = true) :
    ∃ t, exec (.clFlit cl data tr corr uncorr (some k)) s = .next t ∧ (t.clx cl.val).rxSeq = ((s.clx cl.val).rxSeq + 1) % 4096 ∧
      t.mem = s.mem ∧ (r.devIds.contains k.dev.toNat = true → (t.clx cl.val).acks = (s.clx cl.val).acks ++ [.targetReset]) ∧
      (r.devIds.contains k.dev.toNat = false → (t.clx cl.val).acks = (s.clx cl.val).acks ∧ t.kpr.logSeq = s.kpr.logSeq + 1) := by
  have hs := clFlit_delivers (corr := corr) cl hp hup hg hty hsq k
  obtain ⟨n, content, hlen, hx⟩ := clx_clFlitTaken (s.fecNoted cl.val corr uncorr) cl.val tr
  rw [clx_fecNoted] at hx
  obtain ⟨u, hu⟩ : ∃ u, u = (s.fecNoted cl.val corr uncorr).clFlitTaken cl.val tr := ⟨_, rfl⟩
  have hflit : FlitSide (s.fecNoted cl.val corr uncorr) u := by rw [hu]; exact flitSide_clFlitTaken ..
  have hside : LinkSide s u := (linkSide_updLnk ..).trans hflit.linkSide
  have hkpr : u.kpr = s.kpr := by rw [hflit]; rfl
  have hmem : u.mem = s.mem := by rw [hflit]; rfl
  have hids : u.resetIds = r.devIds := by rw [resetIds, hkpr, hr]
  have hcr : u.computeReset = true := by rw [computeReset, hkpr]; exact hreset
  simp only [← hu] at hs hx
  rw [deliver_computeReset hcr, hids] at hs
  by_cases hd : r.devIds.contains k.dev.toNat = true
  · rw [if_pos hd] at hs
    obtain ⟨flit, hack⟩ := clx_sendAck u cl.val .targetReset
    refine ⟨u.sendAck cl.val .targetReset, by rw [exec_clFlit_eq, hs, (hside.trans (flitSide_sendAck ..).linkSide).done], ?_, ?_, fun _ => ?_,
      fun h => ?_⟩
    · rw [hack, hx]
    · rw [sendAck_mem, hmem]
    · rw [hack, hx]
    · exact absurd (hd.symm.trans h) (by decide)
  · rw [if_neg hd] at hs
    refine ⟨u.discardPacket k.slot.val k.dev.toNat cl.val, by rw [exec_clFlit_eq, hs, (hside.trans (linkSide_discardPacket ..)).done], ?_, ?_,
      fun h => absurd h hd, fun _ => ⟨?_, ?_⟩⟩
    · rw [clx_discardPacket, hx]
    · rw [discardPacket_mem, hmem]
    · rw [clx_discardPacket, hx]
    · rw [discardPacket_logSeq, hkpr]

/-- A packet for another device. -/
theorem exec_clFlit_forwards {k : ClPkt} {i : Image} (himg : (s.slot k.slot.val).img = some i) (hdev : i.devId ≠ k.dev.toNat)
    (hreset : s.computeReset = false) :
    ∃ t, exec (.clFlit cl data tr corr uncorr (some k)) s = .next t ∧ (t.clx cl.val).rxSeq = ((s.clx cl.val).rxSeq + 1) % 4096 ∧
      t.mem = s.mem ∧ (i.routeTo k.dev.toNat = none → t.kpr.logSeq = s.kpr.logSeq + 1) ∧
      ∀ q, q ≠ cl.val → i.routeTo k.dev.toNat = some q → s.lnkState q = lnkUp →
        ∃ r, (t.clx q).replay = r ++ [((s.clx q).txSeq, s.dataFlitOf q (s.clx q).txSeq data)] := by
  have hs := clFlit_delivers (corr := corr) cl hp hup hg hty hsq k
  obtain ⟨n, content, hlen, hx⟩ := clx_clFlitTaken (s.fecNoted cl.val corr uncorr) cl.val tr
  rw [clx_fecNoted] at hx
  have hother (q : Nat) (h : q ≠ cl.val) : ((s.fecNoted cl.val corr uncorr).clFlitTaken cl.val tr).clx q = s.clx q := by
    rw [clx_clFlitTaken_ne _ h, clx_fecNoted]
  have hstate (q : Nat) : ((s.fecNoted cl.val corr uncorr).clFlitTaken cl.val tr).lnkState q = s.lnkState q := by
    rw [lnkState_clFlitTaken, lnkState_fecNoted]
  obtain ⟨u, hu⟩ : ∃ u, u = (s.fecNoted cl.val corr uncorr).clFlitTaken cl.val tr := ⟨_, rfl⟩
  have hflit : FlitSide (s.fecNoted cl.val corr uncorr) u := by rw [hu]; exact flitSide_clFlitTaken ..
  have hside : LinkSide s u := (linkSide_updLnk ..).trans hflit.linkSide
  have hkpr : u.kpr = s.kpr := by rw [hflit]; rfl
  have hmem : u.mem = s.mem := by rw [hflit]; rfl
  have himg' : (u.slot k.slot.val).img = some i := by rw [hflit]; exact himg
  have hcr : u.computeReset = false := by rw [computeReset, hkpr]; exact hreset
  simp only [← hu] at hs hx hother hstate
  cases hroute : i.routeTo k.dev.toNat with
  | none =>
    rw [deliver_unrouted himg' hcr hdev hroute] at hs
    refine ⟨u.discardPacket k.slot.val k.dev.toNat cl.val, by rw [exec_clFlit_eq, hs, (hside.trans (linkSide_discardPacket ..)).done], ?_, ?_,
      fun _ => ?_, fun q _ h => ?_⟩
    · rw [clx_discardPacket, hx]
    · rw [discardPacket_mem, hmem]
    · rw [discardPacket_logSeq, hkpr]
    · simp at h
  | some q =>
    rw [deliver_routed himg' hcr hdev hroute, hstate] at hs
    by_cases hq : s.lnkState q = lnkUp
    · rw [if_pos (by simpa using hq)] at hs
      refine ⟨u.sendFlit q data, by rw [exec_clFlit_eq, hs, (hside.trans (linkSide_sendFlit ..)).done], ?_, ?_, fun h => ?_, fun p hne h _ => ?_⟩
      · rw [rxSeq_sendFlit, hx]
      · rw [sendFlit_mem, hmem]
      · simp at h
      · cases h
        have hflit := replay_sendFlit u q data
        rwa [dataFlitOf, hother q hne] at hflit
    · rw [if_neg (by simpa using hq)] at hs
      refine ⟨u, by rw [exec_clFlit_eq, hs, hside.done], ?_, hmem, fun h => ?_, fun p _ h hp => ?_⟩
      · rw [hx]
      · simp at h
      · cases h
        exact absurd hp hq

omit hty hsq in
/-- A remote acknowledgement. -/
theorem exec_clFlit_remoteAck (hty : fld tr 27 24 = 5) {k : ClPkt} {i : Image} (himg : (s.slot k.slot.val).img = some i)
    (hreset : s.computeReset = false) :
    ∃ t, exec (.clFlit cl data tr corr uncorr (some k)) s = .next t ∧ s.ackedTo t cl.val (fld tr 23 12) ∧ t.mem = s.mem ∧
      (i.devId = k.dev.toNat → t = { s with cl := t.cl, iodR := t.iodR }) ∧
      (i.devId ≠ k.dev.toNat → i.routeTo k.dev.toNat = none → t.kpr.logSeq = s.kpr.logSeq + 1) := by
  obtain ⟨u, hu⟩ : ∃ u, u = (s.fecNoted cl.val corr uncorr).clAcked cl.val (fld tr 23 12) := ⟨_, rfl⟩
  have hs : s.clFlit cl.val data tr corr uncorr (some k) = u.relayAck cl.val data k := by
    simp only [clFlit_good hp hup hg, takeClFlit, hty, hu]
  have hacked : s.ackedTo u cl.val (fld tr 23 12) := by rw [hu]; exact ackedTo_clAcked_fecNoted s _ _ _ _
  have hframe : u = { s with cl := u.cl, iodR := u.iodR } := by rw [hu]; rfl
  have hside : LinkSide s u := by rw [hu]; rfl
  have hkpr : u.kpr = s.kpr := by rw [hu]; rfl
  have hmem : u.mem = s.mem := by rw [hu]; rfl
  have himg' : (u.slot k.slot.val).img = some i := by rw [hu]; exact himg
  have hcr : u.computeReset = false := by rw [computeReset, hkpr]; exact hreset
  by_cases hdev : i.devId = k.dev.toNat
  · rw [relayAck_own himg' hcr hdev] at hs
    exact ⟨u, by rw [exec_clFlit_eq, hs, hside.done], hacked, hmem, fun _ => hframe, fun h => absurd hdev h⟩
  · cases hroute : i.routeTo k.dev.toNat with
    | none =>
      rw [relayAck_unrouted himg' hcr hdev hroute] at hs
      refine ⟨u.discardPacket k.slot.val k.dev.toNat cl.val, by rw [exec_clFlit_eq, hs, (hside.trans (linkSide_discardPacket ..)).done], ?_, ?_,
        fun h => absurd h hdev, fun _ _ => ?_⟩
      · exact hacked
      · rw [discardPacket_mem, hmem]
      · rw [discardPacket_logSeq, hkpr]
    | some q =>
      rw [relayAck_routed himg' hcr hdev hroute] at hs
      by_cases hq : u.lnkState q = lnkUp
      · rw [if_pos (by simpa using hq)] at hs
        have hnote : LinkSide u (u.noteFlit q 5 ((u.clx q).rxSeq + 4095) data) := rfl
        refine ⟨u.noteFlit q 5 ((u.clx q).rxSeq + 4095) data, by rw [exec_clFlit_eq, hs, (hside.trans hnote).done], ?_, hmem,
          fun h => absurd h hdev, fun _ h => ?_⟩
        · rw [ackedTo, resent_noteFlit]
          exact hacked
        · simp at h
      · rw [if_neg (by simpa using hq)] at hs
        exact ⟨u, by rw [exec_clFlit_eq, hs, hside.done], hacked, hmem, fun h => absurd h hdev, fun _ h => by simp at h⟩

end

end State

end Sys2Proof.Machine
end

section
/-!
PROOFS. A packet for this device, written to one core's own memory: the bytes laid, the pieces of a range, the event counted (R155, R156, R235).
-/

namespace Sys2Proof.Machine

/-! ### Bytes laid over a memory -/

/-- The memory `f` with the bytes `bs` laid over it from address a on. -/
def laid (f : Nat → Byte) (a : Nat) (bs : List Byte) : Nat → Byte :=
  fun y => if a ≤ y ∧ y < a + bs.length then bs.getD (y - a) 0 else f y

theorem laid_nil (f : Nat → Byte) (a : Nat) : laid f a [] = f := by
  funext y
  exact if_neg (by simp)

/-- Bytes laid in two parts, the second where the first ends. -/
theorem laid_append (f : Nat → Byte) (a : Nat) (bs cs : List Byte) : laid (laid f a bs) (a + bs.length) cs = laid f a (bs ++ cs) := by
  funext y
  simp only [laid, List.length_append, List.getD_eq_getElem?_getD]
  by_cases hbs : a ≤ y ∧ y < a + bs.length
  · rw [if_neg (by omega), if_pos hbs, if_pos (by omega), List.getElem?_append_left (by omega)]
  · by_cases hcs : a + bs.length ≤ y ∧ y < a + bs.length + cs.length
    · rw [if_pos hcs, if_pos (by omega), List.getElem?_append_right (by omega), Nat.sub_sub]
    · rw [if_neg hcs, if_neg hbs, if_neg (by omega)]

/-- Bytes that lie there already change nothing. -/
theorem laid_self {f : Nat → Byte} {a : Nat} {bs : List Byte} (h : ∀ i < bs.length, bs.getD i 0 = f (a + i)) : laid f a bs = f := by
  funext y
  by_cases hy : a ≤ y ∧ y < a + bs.length
  · rw [laid, if_pos hy, h _ (by omega)]
    congr 1
    omega
  · exact if_neg hy

theorem laid_apart {f : Nat → Byte} {a y : Nat} {bs : List Byte} (h : y < a ∨ a + bs.length ≤ y) : laid f a bs y = f y :=
  if_neg (by omega)

namespace Memory

/-- Bytes written lie over the store. -/
theorem get_sets (m : List Host.Cell) (a : Nat) (bs : List Byte) (h : wf m = true) : get (sets m a bs) = laid (get m) a bs := by
  funext y
  by_cases hy : a ≤ y ∧ y < a + bs.length
  · obtain ⟨i, rfl⟩ : ∃ i, y = a + i := ⟨y - a, by omega⟩
    rw [laid, if_pos hy, get_sets_at bs m a i h (by omega), Nat.add_sub_cancel_left, List.getD_eq_getElem]
  · rw [laid_apart (by omega), get_sets_apart bs m a y h (by omega)]

/-- Bytes that lie over a memory are read back. -/
theorem gets_of_laid {m : List Host.Cell} {f : Nat → Byte} {a : Nat} {bs : List Byte} (h : get m = laid f a bs) :
    gets m a bs.length = bs := by
  refine List.ext_getElem (by simp [gets]) fun i _ hi => ?_
  simp [gets, h, laid, hi]

/-- The word at an address, a part of it replaced, laid back is the part laid. -/
theorem laid_overlay (m : List Host.Cell) (a o : Nat) (bs : List Byte) (h : o + bs.length ≤ 8) :
    laid (get m) a (overlay (gets m a 8) o bs) = laid (get m) (a + o) bs := by
  have hlen : (gets m a 8).length = 8 := by simp [gets]
  have hat {i : Nat} (hi : i < 8) : (gets m a 8)[i]?.getD 0 = get m (a + i) := by simp [gets, hi]
  have ho : ((gets m a 8).take o).length = o := by rw [List.length_take, hlen]; omega
  have hfront : laid (get m) a ((gets m a 8).take o) = get m := laid_self fun i hi => by
    rw [List.getD_eq_getElem?_getD, List.getElem?_take_of_lt (by omega), hat (by omega)]
  have hback : laid (laid (get m) (a + o) bs) (a + o + bs.length) ((gets m a 8).drop (o + bs.length)) = laid (get m) (a + o) bs :=
    laid_self fun i hi => by
      rw [List.length_drop, hlen] at hi
      rw [List.getD_eq_getElem?_getD, List.getElem?_drop, hat (by omega), laid_apart (by omega)]
      congr 1
      omega
  rw [overlay, hlen, List.take_of_length_le (l := bs) (by omega), ← laid_append, ho, ← laid_append, hfront, hback]

end Memory

/-! ### The pieces of a range -/

/-- A list of pieces, by first address and length, that follow one another through the n bytes from address a on. -/
def tiles : Nat → Nat → List (Nat × Nat) → Prop
  | _, n, [] => n = 0
  | a, n, p :: ps => p.1 = a ∧ 0 < p.2 ∧ p.2 ≤ n ∧ tiles (a + p.2) (n - p.2) ps

/-- The piece of the range from lo to hi that lies in the bth 256 bytes. -/
def pieceAt (lo hi b : Nat) : Nat × Nat := (max lo (b * 256), min hi ((b + 1) * 256) - max lo (b * 256))

theorem pieces_eq (da n : Nat) :
    State.pieces da n = if n = 0 then [] else (List.range' (da / 256) ((da + n - 1) / 256 - da / 256 + 1)).map (pieceAt da (da + n)) := by
  rw [State.pieces, List.range'_eq_map_range, List.map_map]
  rfl

/-- From the one in the bth 256 bytes on, the pieces follow one another to the end of the range. -/
theorem tiles_pieces_from {lo hi : Nat} (hlh : lo < hi) (k b : Nat) (hlo : lo < (b + 1) * 256) (hk : (b + k) * 256 < hi)
    (hhi : hi ≤ (b + k + 1) * 256) : tiles (max lo (b * 256)) (hi - max lo (b * 256)) ((List.range' b (k + 1)).map (pieceAt lo hi)) := by
  induction k generalizing b with
  | zero =>
    rw [List.range'_one, List.map_singleton]
    simp only [tiles, pieceAt]
    lia
  | succ k ih =>
    have hnext := ih (b + 1) (by lia) (by lia) (by lia)
    have hstart : max lo (b * 256) + (min hi ((b + 1) * 256) - max lo (b * 256)) = max lo ((b + 1) * 256) := by lia
    have hrest : hi - max lo (b * 256) - (min hi ((b + 1) * 256) - max lo (b * 256)) = hi - max lo ((b + 1) * 256) := by lia
    rw [List.range'_succ, List.map_cons, tiles, pieceAt]
    refine ⟨rfl, by simp only; lia, by simp only; lia, ?_⟩
    rw [hstart, hrest]
    exact hnext

/-- The pieces of a range follow one another through it. -/
theorem tiles_pieces (da n : Nat) : tiles da n (State.pieces da n) := by
  rw [pieces_eq]
  split_ifs with h
  · exact h
  · have hd := tiles_pieces_from (lo := da) (hi := da + n) (by omega) ((da + n - 1) / 256 - da / 256) (da / 256) (by lia) (by lia) (by lia)
    have hmax : max da (da / 256 * 256) = da := by omega
    rwa [hmax, Nat.add_sub_cancel_left] at hd

namespace State

variable {s : State}

/-! ### Writes to clean memory -/

/-- No word of SRAM or turf is in error, and the store is canonical. -/
def Clean (s : State) : Prop := (∀ k, s.syn.get 0 k = 0) ∧ Memory.wf s.mem = true

/-- The bytes `bs` have been written from address a on, and nothing else has changed. -/
def Stored (s t : State) (a : Nat) (bs : List Byte) : Prop :=
  t = { s with mem := t.mem, syn := t.syn } ∧ t.Clean ∧ Memory.get t.mem = laid (Memory.get s.mem) a bs

theorem Stored.nil (h : s.Clean) (a : Nat) : Stored s s a [] := ⟨rfl, h, (laid_nil ..).symm⟩

theorem Stored.append {t u : State} {a b : Nat} {bs cs : List Byte} (h : Stored s t a bs) (hb : b = a + bs.length) (k : Stored t u b cs) :
    Stored s u a (bs ++ cs) := by
  obtain ⟨hf, -, hm⟩ := h
  obtain ⟨kf, kc, km⟩ := k
  exact ⟨by rw [kf, hf], kc, by rw [km, hm, hb, laid_append]⟩

/-- A word written whole. -/
theorem stored_writeWord (h : s.Clean) (a : Nat) (bs : List Byte) : Stored s (s.writeWord a bs) a bs := by
  refine ⟨rfl, ⟨fun k => ?_, Memory.wf_sets _ _ _ h.2⟩, Memory.get_sets _ _ _ h.2⟩
  have herase : (s.syn.erase (a / 8)).find? k = if decide (k ≠ a / 8) then s.syn.find? k else none :=
    Tbl.find?_filter (fun j => decide (j ≠ a / 8)) k s.syn
  rw [writeWord, Tbl.get, herase]
  split_ifs
  · exact h.1 k
  · rfl

/-- A word or a part of one written where no word is in error. -/
theorem stored_writePart (h : s.Clean) (w : Who) (d : Nat) (sram : Bool) (a o : Nat) (bs : List Byte) (hlen : o + bs.length ≤ 8) :
    Stored s (s.writePart w d sram a o bs false) (a + o) bs := by
  unfold writePart
  by_cases hw : o = 0 ∧ 8 ≤ bs.length ∧ false = false
  · rw [if_pos hw, hw.1, List.take_of_length_le (by omega)]
    exact stored_writeWord h a bs
  · rw [if_neg hw]
    have hcheck : checkWord (s.rawWord a) (s.syn.get 0 (a / 8)) = { data := s.rawWord a, ce := false, ue := false } := by
      rw [h.1]; rfl
    simp only [hcheck, Bool.false_eq_true, if_false]
    obtain ⟨hf, hc, hm⟩ := stored_writeWord h a (overlay (s.rawWord a) o bs)
    exact ⟨hf, hc, hm.trans (Memory.laid_overlay s.mem a o bs hlen)⟩

/-- The words of a list written one after another. -/
theorem stored_chunks (h : s.Clean) (w : Who) (d : Nat) (sram : Bool) (a : Nat) (f : Nat) (bs : List Byte) (hf : bs.length ≤ f) (i : Nat) :
    Stored s (forEach ((chunksFuel 8 f bs).zipIdx i) s fun t p => t.writePart w d sram (a + p.2 * 8) 0 p.1 false) (a + i * 8) bs := by
  induction f generalizing s bs i with
  | zero =>
    obtain rfl : bs = [] := List.length_eq_zero_iff.mp (by omega)
    exact Stored.nil h _
  | succ f ih =>
    cases bs with
    | nil => exact Stored.nil h _
    | cons b bs =>
      have hone := stored_writePart h w d sram (a + i * 8) 0 ((b :: bs).take 8) (by simp)
      have hcut : chunksFuel 8 (f + 1) (b :: bs) = (b :: bs).take 8 :: chunksFuel 8 f ((b :: bs).drop 8) := rfl
      by_cases hmore : (b :: bs).length ≤ 8
      · have hdrop : (b :: bs).drop 8 = [] := List.drop_eq_nil_of_le hmore
        have hnone : chunksFuel 8 f ([] : List Byte) = [] := by cases f <;> rfl
        rw [hcut, hdrop, hnone]
        rw [List.take_of_length_le hmore] at hone ⊢
        exact hone
      · have hrest := ih hone.2.1 ((b :: bs).drop 8) (by simp at hf ⊢; omega) (i + 1)
        have happ := hone.append (by simp at hmore ⊢; omega) hrest
        rwa [List.take_append_drop] at happ

/-- A location of a core's own memory on a die. -/
def OwnAt (s : State) (a d : Nat) : Prop := s.locate a = some (.sram a d) ∨ s.locate a = some (.turf a d)

/-- A piece of a range written to a core's own memory. -/
theorem stored_writePiece1 (h : s.Clean) (w : Who) {a d : Nat} (bs : List Byte) (hl : s.OwnAt a d) (hup : s.dieUp d = true) :
    ∃ t, s.writePiece1 w a bs false = (none, t) ∧ Stored s t a bs := by
  have hwords (sram : Bool) : Stored s
      (forEach ((chunks 8 (bs.drop (8 - a % 8))).zipIdx) (s.writePart w d sram (a / 8 * 8) (a % 8) (bs.take (8 - a % 8)) false) fun t p =>
        t.writePart w d sram (a / 8 * 8 + 8 + p.2 * 8) 0 p.1 false) a bs := by
    have hfirst := stored_writePart h w d sram (a / 8 * 8) (a % 8) (bs.take (8 - a % 8)) (by simp; omega)
    rw [Nat.div_add_mod'] at hfirst
    by_cases hmore : bs.length ≤ 8 - a % 8
    · rw [List.drop_eq_nil_of_le hmore]
      rw [List.take_of_length_le hmore] at hfirst ⊢
      exact hfirst
    · have hrest := stored_chunks hfirst.2.1 w d sram (a / 8 * 8 + 8) _ (bs.drop (8 - a % 8)) le_rfl 0
      have happ := hfirst.append (by rw [List.length_take]; omega) hrest
      rwa [List.take_append_drop] at happ
  rcases hl with hl | hl
  · exact ⟨_, by simp [writePiece1, hl, answers, hup], hwords true⟩
  · exact ⟨_, by simp [writePiece1, hl, answers, hup], hwords false⟩

theorem Stored.locate {t : State} {a b : Nat} {bs : List Byte} (h : Stored s t a bs) : t.locate b = s.locate b := by
  have hp (c : Nat) : t.presented c = s.presented c := by rw [h.1]; rfl
  simp only [State.locate, hp]

theorem Stored.ownAt {t : State} {a b d : Nat} {bs : List Byte} (h : Stored s t a bs) : t.OwnAt b d ↔ s.OwnAt b d := by
  rw [OwnAt, OwnAt, h.locate]

theorem Stored.dieUp {t : State} {a d : Nat} {bs : List Byte} (h : Stored s t a bs) : t.dieUp d = s.dieUp d := by rw [h.1]; rfl

/-- A stream write from another device takes no tag (R156). -/
theorem passTag_noCore (s : State) : s.passTag ⟨1, 0xFFFF⟩ = s := by simp [passTag]

/-- A range written to a core's own memory. -/
theorem stored_writeList (d : Nat) (ps : List (Nat × Nat)) (h : s.Clean) (hup : s.dieUp d = true) {a : Nat} {bs : List Byte}
    (ht : tiles a bs.length ps) (hown : ∀ b, a ≤ b → b < a + bs.length → s.OwnAt b d) :
    ∃ t, writeList ⟨1, 0xFFFF⟩ false s ps bs = (none, t) ∧ Stored s t a bs := by
  induction ps generalizing s a bs with
  | nil =>
    obtain rfl : bs = [] := List.length_eq_zero_iff.mp ht
    exact ⟨s, rfl, Stored.nil h a⟩
  | cons p ps ih =>
    obtain ⟨rfl, hpos, hle, hrest⟩ := ht
    obtain ⟨t, hw, hone⟩ := stored_writePiece1 h ⟨1, 0xFFFF⟩ (bs.take p.2) (hown p.1 le_rfl (by omega)) hup
    have hlen : (bs.take p.2).length = p.2 := by simpa using hle
    obtain ⟨u, hws, hmore⟩ := ih (s := t) (a := p.1 + p.2) (bs := bs.drop p.2) hone.2.1 (by rw [hone.dieUp, hup]) (by rwa [List.length_drop])
      fun b hb hlt => hone.ownAt.mpr (hown b (by omega) (by rw [List.length_drop] at hlt; omega))
    have happ := hone.append (by rw [hlen]) hmore
    rw [List.take_append_drop] at happ
    refine ⟨u, ?_, happ⟩
    rw [writeList, passTag_noCore, Bool.false_and, hw]
    exact hws

/-- An address of a core's own memory lies in its SRAM or its turf slice, which has the end given. -/
theorem ownEnd_cases {c a z : Nat} (h : ownEnd c a = some z) :
    (sramOf c ≤ a ∧ a < z ∧ z = sramOf c + sramLen) ∨ (turfOf c ≤ a ∧ a < z ∧ z = turfOf c + turfLen) := by
  unfold ownEnd at h
  by_cases hs : sramOf c ≤ a ∧ a < sramOf c + sramLen
  · rw [if_pos hs, Option.some_inj] at h
    omega
  · rw [if_neg hs] at h
    by_cases ht : turfOf c ≤ a ∧ a < turfOf c + turfLen
    · rw [if_pos ht, Option.some_inj] at h
      omega
    · rw [if_neg ht] at h
      cases h

/-- Every address below the end of a part of a core's own memory that lies above one in that part is located there (R235). -/
theorem ownAt_of_ownEnd {c a b z : Nat} (hc : c < 512) (hp : s.presented c = true) (hz : ownEnd c a = some z) (hab : a ≤ b) (hb : b < z) :
    s.OwnAt b (dieOf c) := by
  unfold OwnAt locate
  rcases ownEnd_cases hz with ⟨h0, -, rfl⟩ | ⟨h0, -, rfl⟩
  · simp only [sramOf, sramBase, sramLen] at h0 hb
    have hcore : (b - sramBase) / 0x80_0000 = c := by simp only [sramBase]; omega
    have hin : (b - sramBase) % 0x80_0000 < sramLen := by simp only [sramBase, sramLen]; omega
    left
    rw [if_neg (by omega), if_neg (by simp only [sramBase]; omega), if_pos (by omega)]
    simp only [hcore, hp, hin, and_self, if_true]
  · simp only [turfOf, turfBase, turfLen] at h0 hb
    have hcore : (b - turfBase) / turfLen = c := by simp only [turfBase, turfLen]; omega
    right
    rw [if_neg (by omega), if_pos (by simp only [sramBase]; omega)]
    simp only [hcore, hp, if_true]

theorem coreOfDa_of_ownEnd {c a z : Nat} (hc : c < 512) (hz : ownEnd c a = some z) : coreOfDa a = some c := by
  unfold coreOfDa
  rcases ownEnd_cases hz with ⟨h0, h1, rfl⟩ | ⟨h0, h1, rfl⟩
  · simp only [sramOf, sramBase, sramLen] at h0 h1
    have hcore : (a - sramBase) / 0x80_0000 = c := by simp only [sramBase]; omega
    rw [if_neg (by simp only [sramBase]; omega), if_pos (by simp only [sramBase]; omega), hcore]
  · simp only [turfOf, turfBase, turfLen] at h0 h1
    have hcore : (a - turfBase) / turfLen = c := by simp only [turfBase, turfLen]; omega
    rw [if_pos (by simp only [sramBase, turfBase]; omega), hcore]

/-- A range within one core's own memory is written (R156). -/
theorem stored_writeDa {c a z : Nat} {bs : List Byte} (hc : c < 512) (hown : s.ownClean c) (hz : ownEnd c a = some z) (hle : a + bs.length ≤ z) :
    ∃ t, s.writeDa ⟨1, 0xFFFF⟩ a bs = (none, t) ∧ Stored s t a bs := by
  obtain ⟨hp, hup, hsyn, hwf⟩ := hown
  exact stored_writeList (dieOf c) _ ⟨hsyn, hwf⟩ hup (tiles_pieces ..) fun b hb hlt => ownAt_of_ownEnd hc hp hz hb (by omega)

/-! ### Event counters -/

/-- An event counted raises its counter, and no other; event 0 names none (R138). -/
theorem evCount_incEv (s : State) (c e n : Nat) (hn : 1 ≤ n) :
    (s.incEv c e).evCount c n = if n = e then (s.evCount c n + 1) % 2 ^ 16 else s.evCount c n := by
  unfold incEv
  by_cases he : e = 0
  · rw [if_pos he, if_neg (by omega)]
  · rw [if_neg he, evCount, updCore, core_setCore]
    by_cases hreg : n / 4 = e / 4
    · rw [if_pos ⟨rfl, by rw [hreg]⟩]
      by_cases hne : n = e
      · subst hne
        rw [if_pos rfl, fld_setFld_same _ _ _ _ (by omega), show n % 4 * 16 + 15 + 1 - n % 4 * 16 = 16 by omega]
      · rw [if_neg hne, fld_setFld_apart _ _ _ _ _ _ (by omega), ← hreg, ← evCount]
    · rw [if_neg (by simp only [R.seqEv]; omega), if_neg (by omega), ← evCount]

theorem linkSide_incEv (s : State) (c e : Nat) : LinkSide s (s.incEv c e) := by
  unfold incEv
  split_ifs <;> rfl

theorem clx_incEv (s : State) (c e q : Nat) : (s.incEv c e).clx q = s.clx q := by
  unfold incEv
  split_ifs <;> rfl

theorem incEv_mem (s : State) (c e : Nat) : (s.incEv c e).mem = s.mem := by
  unfold incEv
  split_ifs <;> rfl

/-- A packet for this device within one core's own memory is written, its event counted, and it is acknowledged (R155, R329). -/
theorem exec_clFlit_writes (cl : ClPort) (hp : s.powered = true) (hup : s.lnkState cl.val = lnkUp) {data : List Byte} {tr : BitVec 64}
    {corr uncorr : Nat} (hg : FlitGood data tr uncorr) (hty : fld tr 27 24 = 1) (hsq : fld tr 11 0 = (s.clx cl.val).rxSeq)
    {k : ClPkt} {i : Image} (himg : (s.slot k.slot.val).img = some i) (hdev : i.devId = k.dev.toNat) (hreset : s.computeReset = false)
    {c z : Nat} (hc : c < 512) (hown : s.ownClean c) (hz : ownEnd c k.da.toNat = some z) (hle : k.da.toNat + (data.take k.len).length ≤ z) :
    ∃ t, exec (.clFlit cl data tr corr uncorr (some k)) s = .next t ∧ (t.clx cl.val).rxSeq = ((s.clx cl.val).rxSeq + 1) % 4096 ∧
      (t.clx cl.val).acks = (s.clx cl.val).acks ++ [.ok] ∧ (t.clx cl.val).flits.length = (s.clx cl.val).flits.length + 2 ∧
      Memory.gets t.mem k.da.toNat (data.take k.len).length = data.take k.len ∧
      (∀ a, a < k.da.toNat ∨ k.da.toNat + (data.take k.len).length ≤ a → Memory.get t.mem a = Memory.get s.mem a) ∧
      ∀ n, 1 ≤ n → n ≤ 15 → t.evCount c n = if n = k.rev.toNat then (s.evCount c n + 1) % 2 ^ 16 else s.evCount c n := by
  have hs := clFlit_delivers (corr := corr) cl hp hup hg hty hsq k
  obtain ⟨m, content, -, hx⟩ := clx_clFlitTaken (s.fecNoted cl.val corr uncorr) cl.val tr
  rw [clx_fecNoted] at hx
  obtain ⟨u, hu⟩ : ∃ u, u = (s.fecNoted cl.val corr uncorr).clFlitTaken cl.val tr := ⟨_, rfl⟩
  have hflit : FlitSide (s.fecNoted cl.val corr uncorr) u := by rw [hu]; exact flitSide_clFlitTaken ..
  have hside : LinkSide s u := (linkSide_updLnk ..).trans hflit.linkSide
  have hmem : u.mem = s.mem := by rw [hflit]; rfl
  have hev (n : Nat) : u.evCount c n = s.evCount c n := by rw [hflit]; rfl
  have hown' : u.ownClean c := by rw [hflit]; exact hown
  have himg' : (u.slot k.slot.val).img = some i := by rw [hflit]; exact himg
  have hcr : u.computeReset = false := by rw [hflit]; exact hreset
  simp only [← hu] at hs hx
  obtain ⟨v, hw, hstored⟩ := stored_writeDa hc hown' hz hle
  rw [deliver_writes himg' hcr hdev (coreOfDa_of_ownEnd hc hz) hw] at hs
  obtain ⟨hvf, -, hvm⟩ := hstored
  have hvx : v.clx cl.val = u.clx cl.val := by rw [hvf]; rfl
  have hvev (n : Nat) : v.evCount c n = s.evCount c n := by rw [← hev, hvf]; rfl
  have hvside : LinkSide u v := by rw [hvf]
  obtain ⟨flit, hack⟩ := clx_sendAck (v.incEv c k.rev.toNat) cl.val .ok
  rw [clx_incEv, hvx, hx] at hack
  refine ⟨(v.incEv c k.rev.toNat).sendAck cl.val .ok, ?_, ?_, ?_, ?_, ?_, fun a ha => ?_, fun n hn _ => ?_⟩
  · rw [exec_clFlit_eq, hs, (((hside.trans hvside).trans (linkSide_incEv ..)).trans (flitSide_sendAck ..).linkSide).done]
  · rw [hack]
  · rw [hack]
  · rw [hack]; simp
  · rw [sendAck_mem, incEv_mem]
    exact Memory.gets_of_laid hvm
  · rw [sendAck_mem, incEv_mem, hvm, laid_apart ha, hmem]
  · have hsend : ((v.incEv c k.rev.toNat).sendAck cl.val .ok).evCount c n = (v.incEv c k.rev.toNat).evCount c n := rfl
    rw [hsend, evCount_incEv _ _ _ _ hn, hvev]

end State

end Sys2Proof.Machine
end

section
/-!
PROOFS. The mailbox commands of a port, `LNK_TARGET` and `LNK_RETRAIN` (R327, R330), and ports that a command finds in another state.
-/

namespace Sys2Proof.Machine

namespace State

variable {s : State}

/-! ### Mailbox commands that are taken -/

/-- A command that joins the list, and that none before it is, leaves it again as it was. -/
theorem dropCmd_append_fresh (c : Cmd) : ∀ l : List Cmd, (∀ d ∈ l, sameCmd c d = false) → dropCmd c (l ++ [c]) = l
  | [], _ => if_pos (by simp [sameCmd])
  | d :: l, h => by
    rw [List.cons_append, dropCmd, if_neg (by simp [h d List.mem_cons_self]),
      dropCmd_append_fresh c l fun e he => h e (List.mem_cons_of_mem _ he)]

/-- An entry in order starts the body of its command (R357, R363). -/
theorem serve_asked {op len : Nat} {used : List (Nat × Nat)} {m : Mbox} (h : s.asked op len used m) (body : State → Cmd → State) :
    s.serve op len used m body = body (s.begun op m) (s.cmdOf op m) := by
  obtain ⟨htakes, hkpr, hlen, hrsv, hflags, hargs⟩ := h
  have hrun : (s.taken op m).2.kprState = 2 := hkpr
  unfold serve
  rw [if_pos htakes, if_neg (by simp [htakes])]
  change (if ((s.taken op m).2.kprState == 3 && op != Op.infoVersion && op != Op.fwRecover) = true then _ else _) = _
  rw [if_neg (by simp [hrun]), if_neg (by simp [hlen]), if_neg (by simp [hrsv, hargs, hflags])]
  rfl

theorem linkSide_begun (s : State) (op : Nat) (m : Mbox) : LinkSide s (s.begun op m) := rfl

/-- The entry taken is behind the head of its ring, and stays so while the ring indices and BAR4 do. -/
theorem headMoved_of_begun {t : State} {op : Nat} {m : Mbox} (hcr : t.host.cr = (s.begun op m).host.cr)
    (hbar : t.host.bar4 = (s.begun op m).host.bar4) : s.headMoved t op m := by
  have hsets : (s.begun op m).host.bar4 = Memory.sets s.host.bar4 (s.entryOff m.ring.val) (entryBytes op m) := by
    simp only [begun, taken, setCr]
  refine ⟨?_, by rw [hbar, hsets, entryOff]⟩
  have hset : (s.begun op m).host.cr = s.host.cr.set (4 * m.ring.val + 3) (BitVec.ofNat 64 (((s.crReg m.ring.val 3).toNat + 1) % 2 ^ 32)) := rfl
  rw [crReg, hcr, hset, Tbl.get_set_same]

/-- A taken command that answers, its ring and the Keeper's records left as they were, has replied. -/
theorem replied_answer {u : State} {op : Nat} {m : Mbox} (hcr : u.host.cr = (s.begun op m).host.cr)
    (hbar : u.host.bar4 = (s.begun op m).host.bar4) (hkpr : u.kpr = (s.begun op m).kpr) (st : Nat) :
    s.replied (u.answer (s.cmdOf op m) st) op m st 0 [] := by
  have hacc : (s.begun op m).kpr.accepted = s.kpr.accepted ++ [s.cmdOf op m] := rfl
  refine ⟨headMoved_of_begun hcr hbar, ?_, fun hfresh => ?_⟩
  · rw [answer, complete_kpr, hkpr]; rfl
  · rw [answer, complete_kpr, hkpr, hacc]
    refine dropCmd_append_fresh _ _ fun d hd => ?_
    have := hfresh d hd
    simp only [sameCmd, Bool.and_eq_false_iff, beq_eq_false_iff_ne]
    by_contra hsame
    push Not at hsame
    exact this ⟨hsame.1.symm, hsame.2.symm⟩

theorem linkSide_answer {u : State} (h : LinkSide s u) (c : Cmd) (st : Nat) : LinkSide s (u.answer c st) :=
  h.trans rfl

theorem updLnk_kpr (s : State) (j k : Nat) (f : Word → Word) : (s.updLnk j k f).kpr = s.kpr := rfl
theorem lnk_answer (s : State) (c : Cmd) (st j k : Nat) : (s.answer c st).lnk j k = s.lnk j k := rfl

section
variable {op : Nat} {m : Mbox} {st : Nat} {i : State → Host.Outcome State Fault Refusal}

/-- A taken command that answers at once. -/
theorem answersOnly (h : i s = s.done ((s.begun op m).answer (s.cmdOf op m) st)) :
    ∃ t, i s = .next t ∧ s.replied t op m st 0 [] ∧ s.onlyAnswers t :=
  ⟨(s.begun op m).answer (s.cmdOf op m) st, by rw [h]; rfl, replied_answer rfl rfl rfl st, rfl⟩

end

/-! ### The commands of a port -/

section
variable {m : Mbox} (h : s.asked Op.lnkTarget 8 [(0, 2)] m)
include h

theorem exec_lnkTarget_eq :
    exec (.lnkTarget m) s = s.done
      (if 24 ≤ arg m.args 0 1 || arg m.args 1 1 < 40 || 120 < arg m.args 1 1 then
        (s.begun Op.lnkTarget m).answer (s.cmdOf Op.lnkTarget m) Sts.badArg
      else ((s.begun Op.lnkTarget m).updLnk (arg m.args 0 1) 8 fun w => setFld w 6 0 (arg m.args 1 1)).answer (s.cmdOf Op.lnkTarget m) Sts.ok) :=
  congrArg s.done (serve_asked h _)

theorem exec_lnkTarget_badArg (hbad : 24 ≤ arg m.args 0 1 ∨ arg m.args 1 1 < 40 ∨ 120 < arg m.args 1 1) :
    ∃ t, exec (.lnkTarget m) s = .next t ∧ s.replied t Op.lnkTarget m Sts.badArg 0 [] ∧ s.onlyAnswers t := by
  have he := exec_lnkTarget_eq h
  rw [if_pos (by simpa [or_assoc] using hbad)] at he
  exact answersOnly (i := exec (.lnkTarget m)) he

/-- A target in range is kept in the port's `PAD` (R327). -/
theorem exec_lnkTarget_ok (hj : arg m.args 0 1 < 24) (hlo : 40 ≤ arg m.args 1 1) (hhi : arg m.args 1 1 ≤ 120) :
    ∃ t, exec (.lnkTarget m) s = .next t ∧ s.replied t Op.lnkTarget m Sts.ok 0 [] ∧
      fld (t.lnk (arg m.args 0 1) 8) 6 0 = arg m.args 1 1 := by
  have he := exec_lnkTarget_eq h
  rw [if_neg (by simp; omega)] at he
  obtain ⟨u, hu⟩ : ∃ u, u = (s.begun Op.lnkTarget m).updLnk (arg m.args 0 1) 8 fun w => setFld w 6 0 (arg m.args 1 1) := ⟨_, rfl⟩
  have hside : LinkSide s u := by rw [hu]; exact (linkSide_begun ..).trans (linkSide_updLnk ..)
  have hhost : u.host = (s.begun Op.lnkTarget m).host := by rw [hu, updLnk_host]
  have hkpr : u.kpr = (s.begun Op.lnkTarget m).kpr := by rw [hu, updLnk_kpr]
  have hl : u.lnk (arg m.args 0 1) 8 = setFld ((s.begun Op.lnkTarget m).lnk (arg m.args 0 1) 8) 6 0 (arg m.args 1 1) := by
    rw [hu, lnk_updLnk, if_pos ⟨rfl, rfl⟩]
  rw [← hu] at he
  refine ⟨u.answer (s.cmdOf Op.lnkTarget m) Sts.ok, by rw [he, (linkSide_answer hside ..).done],
    replied_answer (by rw [hhost]) (by rw [hhost]) hkpr _, ?_⟩
  rw [lnk_answer, hl, fld_setFld_same _ _ _ _ (by decide)]
  exact Nat.mod_eq_of_lt (by omega)

end

section
variable {m : Mbox} (h : s.asked Op.lnkRetrain 8 [(0, 1)] m)
include h

theorem exec_lnkRetrain_eq :
    exec (.lnkRetrain m) s = s.done
      (if 24 ≤ arg m.args 0 1 then (s.begun Op.lnkRetrain m).answer (s.cmdOf Op.lnkRetrain m) Sts.badArg
      else if s.map.iodFenced.getLsbD (arg m.args 0 1 / 6) then (s.begun Op.lnkRetrain m).answer (s.cmdOf Op.lnkRetrain m) Sts.dieUnavailable
      else if (List.range 8).any fun q => s.slotActive q && s.usesLink q (arg m.args 0 1) then
        (s.begun Op.lnkRetrain m).answer (s.cmdOf Op.lnkRetrain m) Sts.runActive
      else (s.begun Op.lnkRetrain m).trainLink (arg m.args 0 1)) :=
  congrArg s.done (serve_asked h _)

theorem exec_lnkRetrain_badArg (hj : 24 ≤ arg m.args 0 1) :
    ∃ t, exec (.lnkRetrain m) s = .next t ∧ s.replied t Op.lnkRetrain m Sts.badArg 0 [] ∧ s.onlyAnswers t := by
  have he := exec_lnkRetrain_eq h
  rw [if_pos hj] at he
  exact answersOnly (i := exec (.lnkRetrain m)) he

variable (hj : arg m.args 0 1 < 24)
include hj

theorem exec_lnkRetrain_dieUnavailable (hf : s.map.iodFenced.getLsbD (arg m.args 0 1 / 6) = true) :
    ∃ t, exec (.lnkRetrain m) s = .next t ∧ s.replied t Op.lnkRetrain m Sts.dieUnavailable 0 [] ∧ s.onlyAnswers t := by
  have he := exec_lnkRetrain_eq h
  rw [if_neg (by omega), if_pos hf] at he
  exact answersOnly (i := exec (.lnkRetrain m)) he

variable (hf : s.map.iodFenced.getLsbD (arg m.args 0 1 / 6) = false)
include hf

theorem exec_lnkRetrain_runActive (hb : ((List.range 8).any fun q => s.slotActive q && s.usesLink q (arg m.args 0 1)) = true) :
    ∃ t, exec (.lnkRetrain m) s = .next t ∧ s.replied t Op.lnkRetrain m Sts.runActive 0 [] ∧ s.onlyAnswers t := by
  have he := exec_lnkRetrain_eq h
  rw [if_neg (by omega), if_neg (by simp [hf]), if_pos hb] at he
  exact answersOnly (i := exec (.lnkRetrain m)) he

/-- A port that no run uses trains anew; the command stays open until the port is UP or FAILED (R330). -/
theorem exec_lnkRetrain_trains (hb : ((List.range 8).any fun q => s.slotActive q && s.usesLink q (arg m.args 0 1)) = false) :
    ∃ t, exec (.lnkRetrain m) s = .next t ∧ s.headMoved t Op.lnkRetrain m ∧ t.kpr.done = s.kpr.done ∧
      t.lnkState (arg m.args 0 1) = (if (s.clx (arg m.args 0 1)).signal then lnkTraining else lnkDown) ∧
      bitAt t.host.buoy1 (arg m.args 0 1) = false ∧ t.kpr.accepted = s.kpr.accepted ++ [s.cmdOf Op.lnkRetrain m] := by
  have he := exec_lnkRetrain_eq h
  rw [if_neg (by omega), if_neg (by simp [hf]), if_neg (by simp [hb])] at he
  obtain ⟨u, hu⟩ : ∃ u, u = s.begun Op.lnkRetrain m := ⟨_, rfl⟩
  have hside : LinkSide s u := by rw [hu]; rfl
  have hclx : u.clx (arg m.args 0 1) = s.clx (arg m.args 0 1) := by rw [hu]; rfl
  have hfen : u.map.iodFenced.getLsbD (arg m.args 0 1 / 6) = false := by rw [hu]; exact hf
  have hkpr : (u.trainLink (arg m.args 0 1)).kpr = u.kpr := setLnkState_kpr ..
  have hcr : (u.trainLink (arg m.args 0 1)).host.cr = u.host.cr := by rw [trainLink, updCl_host, setLnkState_frame]
  have hbar : (u.trainLink (arg m.args 0 1)).host.bar4 = u.host.bar4 := by rw [trainLink, updCl_host, setLnkState_frame]
  have hdone : u.kpr.done = s.kpr.done := by rw [hu]; rfl
  have hacc : u.kpr.accepted = s.kpr.accepted ++ [s.cmdOf Op.lnkRetrain m] := by rw [hu]; rfl
  rw [← hu] at he
  refine ⟨u.trainLink (arg m.args 0 1), by rw [he, (hside.trans (linkSide_trainLink ..)).done],
    headMoved_of_begun (by rw [hcr, hu]) (by rw [hbar, hu]), ?_, ?_, ?_, ?_⟩
  · rw [hkpr, hdone]
  · rw [lnkState_trainLink, hclx, hfen]
    simp
  · exact bitAt_buoy1_trainLink u (by omega)
  · rw [hkpr, hacc]

end

/-! ### Ports that a command finds in another state -/

theorem done_self (s : State) : s.done s = .next s := LinkSide.done rfl

/-- Without power nothing changes (R330). -/
theorem exec_port_unpowered (h : s.powered = false) (cl : ClPort) :
    exec (.partnerSignalPresent cl) s = .next s ∧ (∀ raw pk eye, exec (.chipLinkTrained cl raw pk eye) s = .next s) ∧
      exec (.chipLinkTrainingTimeout cl) s = .next s ∧ (∀ peer pp, exec (.paddingConfirmed cl peer pp) s = .next s) ∧
      (∀ data tr corr uncorr pkt, exec (.clFlit cl data tr corr uncorr pkt) s = .next s) ∧
      (∀ sq, exec (.clNak cl sq) s = .next s) ∧ exec (.partnerSignalLost cl) s = .next s := by
  have hpresent : s.signalPresent cl.val = s := if_pos (by simp [h])
  have htrained (raw : Nat) (pk : Bool) (eye : Nat) : s.linkTrained cl.val raw pk eye = s := if_pos (by simp [h])
  have htimeout : s.linkTimeout cl.val = s := if_neg (by simp [h])
  have hpadding (peer : Word) (pp : Nat) : s.paddingConfirmed cl.val peer pp = s := if_pos (by simp [h])
  have hflit (data : List Byte) (tr : BitVec 64) (corr uncorr : Nat) (pkt : Option ClPkt) : s.clFlit cl.val data tr corr uncorr pkt = s :=
    if_pos (by simp [h])
  have hnak (sq : Nat) : s.clNak cl.val sq = s := if_pos (by simp [h])
  have hlost : s.signalLost cl.val = s := if_pos (by simp [h])
  have same {t : State} (ht : t = s) : s.done t = .next s := ht ▸ done_self t
  exact ⟨same hpresent, fun _ _ _ => same (htrained ..), same htimeout, fun _ _ => same (hpadding ..), fun _ _ _ _ _ => same (hflit ..),
    fun _ => same (hnak _), same hlost⟩

theorem exec_chipLinkTrained_idle (cl : ClPort) (h : s.lnkState cl.val ≠ lnkTraining ∨ (s.clx cl.val).signal = false) (raw : BitVec 16)
    (pk : Bool) (eye : Fin 101) : exec (.chipLinkTrained cl raw pk eye) s = .next s := by
  have hs : s.linkTrained cl.val raw.toNat pk eye.val = s := if_pos (by rcases h with h | h <;> simp [h])
  rw [exec_chipLinkTrained, hs, done_self]

theorem exec_chipLinkTrainingTimeout_idle (cl : ClPort) (h : s.lnkState cl.val ≠ lnkTraining) :
    exec (.chipLinkTrainingTimeout cl) s = .next s := by
  have hs : s.linkTimeout cl.val = s := if_neg (by simp [h])
  exact (congrArg s.done hs).trans (done_self s)

theorem exec_paddingConfirmed_idle (cl : ClPort) (h : s.lnkState cl.val ≠ lnkPadding ∨ (s.clx cl.val).signal = false) (peer : BitVec 64)
    (pp : Fin 24) : exec (.paddingConfirmed cl peer pp) s = .next s := by
  have hs : s.paddingConfirmed cl.val peer pp.val = s := if_pos (by rcases h with h | h <;> simp [h])
  rw [exec_paddingConfirmed_eq, hs, done_self]

theorem exec_clFlit_idle (cl : ClPort) (hup : s.lnkState cl.val ≠ lnkUp) (hpad : s.lnkState cl.val ≠ lnkPadding) (data : List Byte)
    (tr : BitVec 64) (corr uncorr : Nat) (pkt : Option ClPkt) : exec (.clFlit cl data tr corr uncorr pkt) s = .next s := by
  have hs : s.clFlit cl.val data tr corr uncorr pkt = s := if_pos (by simp [hup, hpad])
  rw [exec_clFlit_eq, hs, done_self]

theorem exec_clNak_idle (cl : ClPort) (h : s.lnkState cl.val ≠ lnkUp) (sq : BitVec 12) : exec (.clNak cl sq) s = .next s := by
  have hs : s.clNak cl.val sq.toNat = s := if_pos (by simp [h])
  rw [exec_clNak_eq, hs, done_self]

/-- A flit that comes while the port pads is counted by its FEC, and nothing more. -/
theorem exec_clFlit_padding (cl : ClPort) (hp : s.powered = true) (h : s.lnkState cl.val = lnkPadding) (data : List Byte) (tr : BitVec 64)
    (corr uncorr : Nat) (pkt : Option ClPkt) :
    ∃ t, exec (.clFlit cl data tr corr uncorr pkt) s = .next t ∧
      fld (t.lnk cl.val 0x20) 31 0 = min (fld (s.lnk cl.val 0x20) 31 0 + corr) (2 ^ 32 - 1) ∧
      fld (t.lnk cl.val 0x20) 63 32 = min (fld (s.lnk cl.val 0x20) 63 32 + uncorr) (2 ^ 32 - 1) ∧ t = { s with iodR := t.iodR } := by
  obtain ⟨hcorr, huncorr⟩ := s.lnk_fecNoted cl.val corr uncorr
  exact ⟨s.fecNoted cl.val corr uncorr, by rw [exec_clFlit_eq, clFlit_padding hp h]; rfl, hcorr, huncorr, rfl⟩

end State

end Sys2Proof.Machine
end

section
/-!
PROOFS. Chip-link ports, O44.
-/

namespace Sys2Proof.Machine

/-- Settles O44, clause by clause: each command's rule for a port in each state, and those of `LNK_TARGET` and `LNK_RETRAIN`. -/
theorem chipLinks : Obligations.ChipLinks := by
  intro s cl
  refine ⟨fun hp => ?_, fun hp => ⟨State.exec_partnerSignalPresent cl hp, fun hsig => ?_, State.exec_chipLinkTrainingTimeout cl hp,
    fun ht hsig => ?_, fun ht => ?_, fun ht hsig hn peer pp => State.exec_paddingConfirmed cl hn hp ht hsig peer pp,
    fun ht => State.exec_paddingConfirmed_idle cl (.inl ht), fun data tr corr uncorr pkt => ⟨?_, ?_⟩, fun hup data tr corr uncorr pkt => ?_,
    fun hup sq => ?_, fun hup sq => State.exec_clNak_idle cl hup sq, State.exec_partnerSignalLost cl hp⟩, fun m h => ?_, fun m h => ?_⟩
  · obtain ⟨hpresent, htrained, htimeout, hpadding, hflit, hnak, hlost⟩ := State.exec_port_unpowered hp cl
    exact fun raw pk eye data tr co un pkt sq pr pp => ⟨hpresent, htrained .., htimeout, hpadding .., hflit .., hnak .., hlost⟩
  · exact fun raw pk eye pr pp => ⟨State.exec_chipLinkTrained_idle cl (.inr hsig) raw pk eye,
      State.exec_paddingConfirmed_idle cl (.inr hsig) pr pp⟩
  · exact fun raw pk eye => ⟨State.exec_chipLinkTrained_fails cl hp ht hsig raw pk eye, State.exec_chipLinkTrained_pads cl hp ht hsig raw pk eye,
      State.exec_chipLinkTrained_stays cl hp ht hsig raw pk eye⟩
  · exact fun raw pk eye => ⟨State.exec_chipLinkTrained_idle cl (.inl ht) raw pk eye, State.exec_chipLinkTrainingTimeout_idle cl ht⟩
  · exact fun hup hpad => State.exec_clFlit_idle cl hup hpad data tr corr uncorr pkt
  · exact fun hpad => State.exec_clFlit_padding cl hp hpad data tr corr uncorr pkt
  · refine ⟨fun hg hty hsq => ⟨?_, ?_, ?_, ?_⟩, fun hg hty hsq => State.exec_clFlit_repeated cl hp hup pkt hg hty hsq,
      fun hg hty => State.exec_clFlit_acks cl hp hup pkt hg hty, ?_, fun hg hty => State.exec_clFlit_nak cl hp hup pkt hg hty,
      fun hg hty => State.exec_clFlit_reserved cl hp hup pkt hg hty, fun hg hc => State.exec_clFlit_fails cl hp hup pkt hg hc,
      fun hg h4 hc => State.exec_clFlit_exhausts cl hp hup pkt hg h4 hc⟩
    · rintro rfl
      exact State.exec_clFlit_taken cl hp hup hg hty hsq
    · rintro k r rfl hr hreset
      exact State.exec_clFlit_computeReset cl hp hup hg hty hsq hr hreset
    · rintro k i rfl himg hdev hreset
      exact State.exec_clFlit_forwards cl hp hup hg hty hsq himg hdev hreset
    · rintro k i c z rfl himg hdev hreset hc hown hz hle
      exact State.exec_clFlit_writes cl hp hup hg hty hsq himg hdev hreset hc hown hz hle
    · rintro hg hty k i rfl himg hreset
      exact State.exec_clFlit_remoteAck cl hp hup hg hty himg hreset
  · exact ⟨State.exec_clNak_unknown cl hp hup sq, State.exec_clNak_replays cl hp hup sq rfl, State.exec_clNak_exhausts cl hp hup sq rfl⟩
  · exact ⟨State.exec_lnkTarget_badArg h, State.exec_lnkTarget_ok h⟩
  · exact ⟨State.exec_lnkRetrain_badArg h, State.exec_lnkRetrain_dieUnavailable h, State.exec_lnkRetrain_runActive h,
      State.exec_lnkRetrain_trains h⟩

end Sys2Proof.Machine
end

section
/-!
PROOFS. The Beacon block under work that does not reach it: accesses to memory, the walker, the queues and the end of a run leave it as
it was.
-/

namespace Sys2Proof.Machine

namespace State

variable {s : State}

/-! ### Loops, cases and units of work -/

@[simp] theorem ite_bcn (p : Prop) [Decidable p] (t u : State) : (if p then t else u).bcn = if p then t.bcn else u.bcn := apply_ite ..

/-- A loop each round of which keeps the Beacon block keeps it. -/
@[simp] theorem forEach_bcn {α : Type} {f : State → α → State} (h : ∀ u a, (f u a).bcn = u.bcn) (l : List α) :
    (forEach l s f).bcn = s.bcn :=
  forEach_keeps (P := fun u => u.bcn = s.bcn) l (fun u a _ k => (h u a).trans k) rfl

/-- Words read in order keep the Beacon block where the reading of each does. -/
@[simp] theorem readAll_bcn {f : State → Nat → Except AccErr (List Byte) × State} (h : ∀ u j, (f u j).2.bcn = u.bcn) (js : List Nat) :
    (readAll f s js).2.bcn = s.bcn := by
  induction js generalizing s with
  | nil => rfl
  | cons j js ih =>
    simp only [readAll]
    split
    next e t hf => exact (congrArg (·.2.bcn) hf).symm.trans (h s j)
    next b t hf =>
      have ht : t.bcn = s.bcn := (congrArg (·.2.bcn) hf).symm.trans (h s j)
      split <;> next hr => exact ((congrArg (·.2.bcn) hr).symm.trans ih).trans ht

/-- The Beacon block after work that gives a value beside the state. -/
theorem bcn_of_snd {α : Type} {x : α × State} {a : α} {t : State} (h : x = (a, t)) (hx : x.2.bcn = s.bcn) : t.bcn = s.bcn := by
  subst h; exact hx

/-! ### Memory

An access to memory touches the stores, the cache, registers of dies and I/O dies, the log, near-bank and staging records, the interrupts and
what goes out; of the cores and runs at most the peaks of tags held. -/

/-- Nothing but what an access to memory touches differs; of an I/O die, registers below those of its chip-link ports. -/
structure MemSide (s t : State) : Prop where
  frame : t = { s with
    free := t.free, out := t.out, dieR := t.dieR, iodR := t.iodR, mem := t.mem, syn := t.syn, poison := t.poison, cache := t.cache
    host := { s.host with intSts := t.host.intSts, pba := t.host.pba }
    kpr := { s.kpr with log := t.kpr.log, logSeq := t.kpr.logSeq, stage := t.kpr.stage }
    nbu := t.nbu }
  iod : ∀ i off, 0x60000 ≤ off → off < 0x1000000 → t.iod i off = s.iod i off

namespace MemSide

variable {t u : State}

theorem trans (h : MemSide s t) (k : MemSide t u) : MemSide s u :=
  ⟨by rw [k.frame, h.frame], fun i off lo hi => (k.iod i off lo hi).trans (h.iod i off lo hi)⟩

/-- No register of an I/O die differs. -/
theorem same (h : t = { s with
    free := t.free, out := t.out, dieR := t.dieR, mem := t.mem, syn := t.syn, poison := t.poison, cache := t.cache
    host := { s.host with intSts := t.host.intSts, pba := t.host.pba }
    kpr := { s.kpr with log := t.kpr.log, logSeq := t.kpr.logSeq, stage := t.kpr.stage }
    nbu := t.nbu }) : MemSide s t :=
  ⟨by rw [h], fun _ _ _ _ => by rw [h]; rfl⟩

theorem refl (s : State) : MemSide s s := same rfl

theorem of_snd {α : Type} {x : α × State} {a : α} (h : x = (a, t)) (hx : MemSide s x.2) : MemSide s t := by
  subst h; exact hx

theorem ite {p : Prop} [Decidable p] (h : MemSide s t) (k : MemSide s u) : MemSide s (if p then t else u) := by split <;> assumption

theorem loop {α : Type} {f : State → α → State} (h : ∀ u a, MemSide u (f u a)) (l : List α) : MemSide s (forEach l s f) :=
  forEach_keeps (P := fun u => MemSide s u) l (fun u a _ k => k.trans (h u a)) (.refl s)

theorem loop_snd {α β : Type} {f : β × State → α → β × State} (h : ∀ u a, MemSide u.2 (f u a).2) (l : List α) (r : β × State) :
    MemSide r.2 (forEach l r f).2 :=
  forEach_keeps (P := fun u => MemSide r.2 u.2) l (fun u a _ k => k.trans (h u a)) (.refl r.2)

/-- Words read in order leave alone what the reading of each does. -/
theorem readAll {f : State → Nat → Except AccErr (List Byte) × State} (h : ∀ u j, MemSide u (f u j).2) (js : List Nat) :
    MemSide s (readAll f s js).2 := by
  induction js generalizing s with
  | nil => exact .refl s
  | cons j js ih =>
    simp only [State.readAll]
    split
    next e t hf => exact of_snd hf (h s j)
    next b t hf =>
      have ht : MemSide s t := of_snd hf (h s j)
      split <;> next hr => exact ht.trans (of_snd hr ih)

end MemSide

theorem sendMsix_memSide (v : Nat) : MemSide s (s.sendMsix v) := by
  unfold sendMsix
  exact .ite (.same rfl) (.same rfl)

theorem raise_memSide (b : Nat) : MemSide s (s.raise b) := by
  have h : MemSide s { s with host := { s.host with intSts := setBit s.host.intSts b true } } := .same rfl
  unfold raise
  exact .ite (h.trans (sendMsix_memSide _)) h

theorem logEv_memSide (y p : Nat) (d : List Byte) : MemSide s (s.logEv y p d) := .same rfl

/-- A register of an I/O die changed below those of its chip-link ports. -/
theorem updIod_memSide (i : Nat) {off : Nat} (h : off < 0x60000) (f : Word → Word) : MemSide s (s.updIod i off f) :=
  ⟨rfl, fun j o lo hi => (iod_setIod _ _ _ _ _ _ (by omega) hi).trans (if_neg (by omega))⟩

theorem updLogReg_memSide (l : LogId) (d : Nat) {k : Nat → Nat} (h : ∀ p < 2, k p < 0x60000) (f : Word → Word) :
    MemSide s (s.updLogReg l d k f) := by
  cases l with
  | die d => exact .same rfl
  | stack n => exact updIod_memSide _ (h _ (Nat.mod_lt _ (by decide))) f

/-- The log's status, its counters and the record of its first uncorrectable error. -/
theorem eccSts_memSide (l : LogId) (d : Nat) (f : Word → Word) : MemSide s (s.updLogReg l d (fun _ => R.eccSts) f) :=
  updLogReg_memSide l d (fun _ _ => by decide) f

theorem eccUe_memSide (l : LogId) (d : Nat) (f : Word → Word) : MemSide s (s.updLogReg l d R.eccHUe f) :=
  updLogReg_memSide l d (fun p hp => by unfold R.eccHUe; omega) f

theorem updEccCnt_memSide (l : LogId) (b : Bool) (f : Word → Word) : MemSide s (s.updEccCnt l b f) :=
  updLogReg_memSide l _ (fun p hp => by unfold R.eccCacheCnt R.eccHCnt; split <;> omega) f

/-- The registers of an entry of the log. -/
theorem logInfo_memSide (l : LogId) (d : Nat) {j : Nat} (h : j < 32) (f : Word → Word) :
    MemSide s (s.updLogReg l d (fun p => R.eccHLogInfo p j) f) :=
  updLogReg_memSide l d (fun p hp => by unfold R.eccHLogInfo; omega) f

theorem logAddr_memSide (l : LogId) (d : Nat) {j : Nat} (h : j < 32) (f : Word → Word) :
    MemSide s (s.updLogReg l d (fun p => R.eccHLogAddr p j) f) :=
  updLogReg_memSide l d (fun p hp => by unfold R.eccHLogAddr; omega) f

theorem logLost_memSide (l : LogId) : MemSide s (s.logLost l) := by
  unfold logLost
  exact .ite (eccSts_memSide ..) ((eccSts_memSide ..).trans (logEv_memSide ..))

theorem logDepth_le (l : LogId) : s.logDepth l ≤ 32 := by
  cases l with
  | die _ => exact (by decide : 16 ≤ 32)
  | stack _ => unfold logDepth; dsimp only; split <;> decide

/-- An entry found in a log is one of its entries. -/
theorem logEntry_lt {l : LogId} {P : Nat → Bool} {j : Nat} (h : (List.range (s.logDepth l)).find? P = some j) : j < 32 :=
  (List.mem_range.mp (List.mem_of_find?_eq_some h)).trans_le (logDepth_le l)

theorem noteCe_memSide (l : LogId) (a b d : Bool) (n : Nat) (y : Byte) : MemSide s (s.noteCe l a b d n y) := by
  unfold noteCe
  dsimp only
  split
  next h => exact (updEccCnt_memSide ..).trans (logInfo_memSide _ _ (logEntry_lt h) _)
  · split
    · exact (updEccCnt_memSide ..).trans (logLost_memSide ..)
    next h =>
      have hj := logEntry_lt h
      exact (updEccCnt_memSide ..).trans (((logInfo_memSide _ _ hj _).trans (logAddr_memSide _ _ hj _)).trans (logEv_memSide ..))

theorem noteUe_memSide (l : LogId) (a b : Bool) (n : Nat) (w : Who) (k : Nat) (y : Byte) : MemSide s (s.noteUe l a b n w k y) := by
  unfold noteUe logUe
  exact (((updEccCnt_memSide ..).trans (eccUe_memSide ..)).trans (eccSts_memSide ..)).trans
    ((logEv_memSide ..).trans (raise_memSide ..))

/-- An error found at a word is noted, whichever it is. -/
theorem noted_memSide {x : Checked} {u c : State} (hu : MemSide s u) (hc : MemSide s c) :
    MemSide s (if x.ue then u else if x.ce then c else s) := .ite hu (.ite hc (.same rfl))

theorem readSlice_memSide (w : Who) (d a n : Nat) (x y : Bool) : MemSide s (s.readSlice w d a n x y).2 := by
  unfold readSlice
  dsimp only
  split
  · exact noteUe_memSide ..
  · exact .ite (noteCe_memSide ..) (.same rfl)

theorem writePart_memSide (w : Who) (d : Nat) (x : Bool) (a o : Nat) (bs : List Byte) (h : Bool) :
    MemSide s (s.writePart w d x a o bs h) := by
  have hw (v : List Byte) : MemSide s (s.writeWord a v) := .same rfl
  have hy (u : State) (y : Tbl Byte) : MemSide u { u with syn := y } := .same rfl
  unfold writePart
  exact .ite (hw _) (.ite (((hw _).trans (hy _ _)).trans (noteUe_memSide ..)) (.ite ((hw _).trans (noteCe_memSide ..)) (hw _)))

theorem checkLine_memSide (w : Who) (u j : Nat) (c : CacheLine) : MemSide s (s.checkLine w u j c).2 := by
  unfold checkLine
  exact .ite (.same rfl) (noted_memSide (noteUe_memSide ..) (noteCe_memSide ..))

theorem writeBack_memSide (u : Nat) (c : CacheLine) : MemSide s (s.writeBack u c) := by
  have hp (v : State) (y : List Nat) : MemSide v { v with poison := y } := .same rfl
  unfold writeBack
  refine .ite (.loop (fun t j => (checkLine_memSide ..).trans (.same rfl)) _) (.ite (.trans ?_ (hp _ _)) (.trans ?_ (hp _ _))) <;>
    exact .loop (fun t j => (checkLine_memSide ..).trans (.ite (.same rfl) (.same rfl))) _

theorem makeRoom_memSide (u : Nat) : MemSide s (s.makeRoom u) := by
  have hp (v : State) (y : Tbl CacheLine) : MemSide v { v.bumpFree with cache := y } := .same rfl
  unfold makeRoom
  refine .ite (.same rfl) ?_
  split
  · exact .same rfl
  · exact .trans (.ite (writeBack_memSide ..) (.same rfl)) (hp _ _)

theorem noteLookup_memSide (u : Nat) (b : Bool) : MemSide s (s.noteLookup u b) :=
  updIod_memSide _ (by split <;> decide) _

theorem fillWords_memSide (w : Who) (u : Nat) : MemSide s (s.fillWords w u).2 := by
  unfold fillWords
  dsimp only
  split
  · exact .same rfl
  · split
    · exact .same rfl
    · exact MemSide.loop_snd (fun r j => noted_memSide (noteUe_memSide ..) (noteCe_memSide ..)) _ (freshLine [], s)

theorem lineFor_memSide (w : Who) (u : Nat) : MemSide s (s.lineFor w u).2.2 := by
  have hp (v : State) (y : Tbl CacheLine) : MemSide v { v with cache := y } := .same rfl
  unfold lineFor
  split
  · exact noteLookup_memSide ..
  · exact (((noteLookup_memSide ..).trans (fillWords_memSide ..)).trans (makeRoom_memSide ..)).trans (hp _ _)

theorem readLine_memSide (w : Who) (u : Nat) (c : CacheLine) (b : Bool) (j : Nat) : MemSide s (s.readLine w u c b j).2 := by
  unfold readLine
  dsimp only
  split
  · split
    · exact .same rfl
    · exact noteUe_memSide ..
  · split
    · exact noteUe_memSide ..
    · exact .ite (noteCe_memSide ..) (.same rfl)

theorem readPiece_memSide (w : Who) (u p : Nat) : MemSide s (s.readPiece w u p).2 := by
  have hg (k : Nat) (f : Word → Word) : MemSide s (s.updIod (k / 2) (R.hbmGthCnt + k % 2 * 0x10000) f) :=
    updIod_memSide _ (by unfold R.hbmGthCnt; omega) f
  unfold readPiece
  dsimp only
  split
  · exact ((hg _ _).trans (noteLookup_memSide ..)).trans (.readAll (fun _ _ => readLine_memSide ..) _)
  · generalize hv : noteLookup _ u false = v
    have hs : MemSide s v := hv ▸ (hg _ _).trans (noteLookup_memSide ..)
    refine hs.trans ?_
    split
    · exact .same rfl
    · split
      · exact noteUe_memSide ..
      · refine .readAll (fun r j => ?_) _
        split
        · exact noteUe_memSide ..
        · exact .ite (noteCe_memSide ..) (.same rfl)

theorem readHbm_memSide (w : Who) (u o n : Nat) : MemSide s (s.readHbm w u o n).2 := by
  have hp : MemSide s (readAll (fun r p => r.readPiece w u p) s ((List.range (cdiv (o + n) 32 - o / 32)).map (o / 32 + ·))).2 :=
    .readAll (fun _ _ => readPiece_memSide ..) _
  unfold readHbm
  dsimp only
  split
  · exact (lineFor_memSide ..).trans (.readAll (fun _ _ => readLine_memSide ..) _)
  · split
    next h => exact .of_snd h hp
    · exact hp

theorem mergeHbm_memSide (w : Who) (u o : Nat) (bs : List Byte) (h : Bool) (c : CacheLine) : MemSide s (s.mergeHbm w u o bs h c) := by
  have hm (t : State) (o n : Nat) : MemSide t (t.noteMerge w u c o n) := .loop (fun _ _ => .ite (checkLine_memSide ..) (.same rfl)) _
  have hp (v : State) (y : Tbl CacheLine) : MemSide v { v with cache := y } := .same rfl
  unfold mergeHbm
  exact .trans (.ite (.ite (.trans (.ite (.same rfl) (hm ..)) (hm ..)) (.ite (.same rfl) (hm ..))) (hm ..)) (hp _ _)

theorem hitStage_memSide (w : Who) (o n : Nat) : MemSide s (s.hitStage w o n) := by
  unfold hitStage
  exact .ite (.same rfl) (.same rfl)

theorem hitNbu_memSide (o : Nat) : MemSide s (s.hitNbu o) := by
  have hs (u : State) (us : List Nat) : MemSide u (u.spoil us) :=
    .loop (fun t a => .trans (.loop (fun _ _ => .same rfl) _) (.same rfl : MemSide _ (bumpFree _))) _
  have hu (u : State) (i : Nat) (f : NbuX → NbuX) : MemSide u (u.updNb i f) := .same rfl
  unfold hitNbu
  exact .ite (.trans (.loop (fun _ _ => hs ..) _) (hu ..)) (.loop (fun _ _ => hs ..) _)

theorem writeHbm_memSide (w : Who) (u o : Nat) (bs : List Byte) (h : Bool) : MemSide s (s.writeHbm w u o bs h) := by
  have hp (v : State) (y : Tbl CacheLine) : MemSide v { v with cache := y } := .same rfl
  have hh : MemSide s ((s.hitStage w (u * 256 + o) bs.length).hitNbu (u * 256 + o)) := (hitStage_memSide ..).trans (hitNbu_memSide ..)
  unfold writeHbm
  exact .ite (hh.trans (((noteLookup_memSide ..).trans (makeRoom_memSide ..)).trans (hp _ _)))
    (hh.trans ((lineFor_memSide ..).trans (mergeHbm_memSide ..)))

theorem readPiece1_memSide (w : Who) (a n : Nat) : MemSide s (s.readPiece1 w a n).2 := by
  unfold readPiece1
  split
  · exact .same rfl
  · split
    · exact .same rfl
    · split
      · split
        next b t h =>
          have ht : MemSide s t := .of_snd h (readHbm_memSide ..)
          split
          · exact ht.trans (.same rfl)
          · exact ht
        · exact readHbm_memSide ..
      all_goals
        dsimp only
        split
        next h => exact .of_snd h (.readAll (fun _ _ => readSlice_memSide ..) _)
        · exact .readAll (fun _ _ => readSlice_memSide ..) _

theorem writePiece1_memSide (w : Who) (a : Nat) (bs : List Byte) (h : Bool) : MemSide s (s.writePiece1 w a bs h).2 := by
  unfold writePiece1
  split
  · exact .same rfl
  · split
    · exact .same rfl
    · split
      · exact writeHbm_memSide ..
      all_goals exact (writePart_memSide ..).trans (.loop (fun _ _ => writePart_memSide ..) _)

/-! ### Byte ranges -/

@[simp] theorem passTag_bcn (w : Who) : (s.passTag w).bcn = s.bcn := by
  unfold passTag; split
  · split
    · rfl
    · rw [ite_bcn, ite_bcn]; simp [noteTags]
  · rfl

@[simp] theorem readDa_bcn (w : Who) (a n : Nat) : (s.readDa w a n).2.bcn = s.bcn := by
  unfold readDa
  refine readAll_bcn (fun u j => ?_) _
  split
  · rw [(readPiece1_memSide ..).frame, passTag_bcn]
  · rfl

@[simp] theorem writeList_bcn (w : Who) (h : Bool) (ps : List (Nat × Nat)) (bs : List Byte) :
    (writeList w h s ps bs).2.bcn = s.bcn := by
  induction ps generalizing s bs with
  | nil => rfl
  | cons p ps ih =>
    have hp : ((s.passTag w).writePiece1 w p.1 (bs.take p.2) (h && ps.isEmpty)).2.bcn = s.bcn := by
      rw [(writePiece1_memSide ..).frame, passTag_bcn]
    simp only [writeList]
    split
    next e => exact bcn_of_snd e hp
    next t e => exact (ih _).trans (bcn_of_snd e hp)

@[simp] theorem writeDa_bcn (w : Who) (a : Nat) (bs : List Byte) : (s.writeDa w a bs).2.bcn = s.bcn := writeList_bcn ..

end State
end Sys2Proof.Machine
end


section
/-!
PROOFS. The Beacon block under the work of units, queues and runs: none of it reaches the block.
-/

namespace Sys2Proof.Machine

namespace State

variable {s : State}

/-! ### Units

The units of a core work on the core's registers and on its own record. -/

/-- Nothing but registers and records of cores differs. -/
abbrev CoreSide (s t : State) : Prop := t = { s with coreR := t.coreR, cx := t.cx }

namespace CoreSide

variable {t u : State}

theorem trans (h : CoreSide s t) (k : CoreSide t u) : CoreSide s u := by rw [k, h]

theorem ite {p : Prop} [Decidable p] (h : CoreSide s t) (k : CoreSide s u) : CoreSide s (if p then t else u) := by split <;> assumption

theorem loop {α : Type} {f : State → α → State} (h : ∀ u a, CoreSide u (f u a)) (l : List α) : CoreSide s (forEach l s f) :=
  forEach_keeps (P := fun u => CoreSide s u) l (fun u a _ k => k.trans (h u a)) rfl

theorem bcn (h : CoreSide s t) : t.bcn = s.bcn := by rw [h]

end CoreSide

theorem endKindle_coreSide (c e t : Nat) : CoreSide s (s.endKindle c e t) := by unfold endKindle; split <;> rfl

theorem settleEng_coreSide (c e t : Nat) : CoreSide s (s.settleEng c e t) := by
  unfold settleEng
  split
  · rfl
  · exact .ite rfl (.ite rfl rfl)

theorem settleRamps_coreSide (c off : Nat) : CoreSide s (s.settleRamps c off) := .loop (fun _ _ => settleEng_coreSide ..) _

theorem enterGap_coreSide (p c e off : Nat) : CoreSide s (s.enterGap p c e off) := by
  unfold enterGap
  refine .ite rfl ?_
  split
  · rfl
  · exact .ite rfl rfl

theorem endKindles_coreSide (c off : Nat) : CoreSide s (s.endKindles c off) :=
  (settleRamps_coreSide ..).trans (.loop (fun _ _ => endKindle_coreSide ..) _)

theorem bankUnit_coreSide (c : Nat) (u : CoreUnit) : CoreSide s (s.bankUnit c u) := by
  have hb (t : State) : CoreSide t (t.bankIfIdle c u) := by
    cases u <;> [exact .ite rfl rfl; exact .ite rfl rfl; rfl; exact .ite rfl rfl; rfl; rfl]
  unfold bankUnit
  refine .trans ?_ (hb _)
  cases u <;> rfl

theorem noteEarly_coreSide (p c : Nat) (q : QWord) : CoreSide s (s.noteEarly p c q) := by
  unfold noteEarly
  split
  · exact .ite rfl rfl
  · rfl

theorem bankIfDone_coreSide (p c off : Nat) : CoreSide s (s.bankIfDone p c off) := by
  unfold bankIfDone
  refine .ite (.loop (fun t u => ?_) _) rfl
  dsimp only
  refine .trans ?_ (bankUnit_coreSide ..)
  split
  · exact .ite ((endKindle_coreSide ..).trans rfl) rfl
  · rfl

theorem abandon_coreSide (c : Nat) : CoreSide s (s.abandon c) := by
  have hx (f : CoreX → CoreX) : CoreSide s (s.updCx c f) := rfl
  have hw (t : State) (b : Bool) (e : Nat) (f : Word → Word) : CoreSide t (when b (fun t => t.updEng c e R.engSts f) t) := by cases b <;> rfl
  have hl (t : State) : CoreSide t (forEach (List.range 4) t fun t e =>
      let t := when (bitAt (t.eng c e R.engSts) 7) (fun t : State => t.updEng c e R.engSts fun w => setBit w 7 false) t
      if 3 ≤ t.engState c e && t.engState c e < 7 then t.engToIdle c e else t) :=
    .loop (fun t e => .ite ((hw ..).trans rfl) (hw ..)) _
  have hv (t : State) (p : Prop) [Decidable p] (v : Nat) : CoreSide t (if p then t.setVecState c v else t) := .ite rfl rfl
  have hp (t : State) (p : Prop) [Decidable p] (v : Nat) : CoreSide t (if p then t.setPgwState c v else t) := .ite rfl rfl
  unfold abandon
  exact (((hx _).trans (hl _)).trans (hv ..)).trans (hp ..)

theorem incEv_coreSide (c k : Nat) : CoreSide s (s.incEv c k) := by
  unfold incEv
  exact .ite rfl rfl

/-! ### The walker's release of frames

What the walker does beside the accesses to its tables lies in registers and records of cores, and of a slot in the tags held and the flag
of a halted walker. -/

/-- Nothing but what the walker touches differs; of a slot, the tags held and the flag of a halted walker. -/
def WalkSide (s t : State) : Prop :=
  MemSide { s with coreR := t.coreR, cx := t.cx, slots := t.slots } t ∧
  ∀ p, t.slot p = { s.slot p with tag := (t.slot p).tag, walkerHalted := (t.slot p).walkerHalted }

namespace WalkSide

variable {t u : State}

theorem trans (h : WalkSide s t) (k : WalkSide t u) : WalkSide s u :=
  ⟨⟨by rw [k.1.frame, h.1.frame], fun i off lo hi => (k.1.iod i off lo hi).trans (h.1.iod i off lo hi)⟩, fun p => by rw [k.2 p, h.2 p]⟩

theorem of_mem (h : MemSide s t) : WalkSide s t := ⟨⟨by rw [h.frame], h.iod⟩, fun p => by rw [slot, h.frame]; rfl⟩

theorem of_core (h : CoreSide s t) : WalkSide s t := ⟨.same (by rw [h]), fun p => by rw [slot, h]; rfl⟩

theorem refl (s : State) : WalkSide s s := of_mem (.refl s)

theorem of_slot (p : Nat) {f : SlotX → SlotX} (h : ∀ y, f y = { y with tag := (f y).tag, walkerHalted := (f y).walkerHalted }) :
    WalkSide s (s.updSlot p f) := by
  refine ⟨.same rfl, fun q => ?_⟩
  by_cases e : q = p
  · subst e; rw [slot_updSlot, if_pos rfl]; exact h _
  · rw [slot_updSlot, if_neg e]

theorem ite {p : Prop} [Decidable p] (h : WalkSide s t) (k : WalkSide s u) : WalkSide s (if p then t else u) := by split <;> assumption

theorem loop {α : Type} {f : State → α → State} (h : ∀ u a, WalkSide u (f u a)) (l : List α) : WalkSide s (forEach l s f) :=
  forEach_keeps (P := fun u => WalkSide s u) l (fun u a _ k => k.trans (h u a)) (refl s)

theorem bcn (h : WalkSide s t) : t.bcn = s.bcn := by rw [h.1.frame]

theorem of_snd {α : Type} {x : α × State} {a : α} (h : x = (a, t)) (hx : WalkSide s x.2) : WalkSide s t := by
  subst h; exact hx

theorem slotState (h : WalkSide s t) (p : Nat) : t.slotState p = s.slotState p := by rw [State.slotState, h.2 p]; rfl

end WalkSide

theorem passTag_walkSide (w : Who) : WalkSide s (s.passTag w) := by
  have ht (p c n : Nat) : WalkSide s (s.noteTags p c n) := by
    have hc (f : Word → Word) : WalkSide s (s.updCore c R.strTag f) := .of_core rfl
    unfold noteTags
    exact (hc _).trans (.of_slot _ fun y => by split <;> rfl)
  unfold passTag
  refine .ite ?_ (.refl s)
  split
  · exact .refl s
  · exact .ite (.refl s) (.ite (ht ..) (.refl s))

theorem readAll_walkSide {f : State → Nat → Except AccErr (List Byte) × State} (h : ∀ u j, WalkSide u (f u j).2) (js : List Nat) :
    WalkSide s (readAll f s js).2 := by
  induction js generalizing s with
  | nil => exact .refl s
  | cons j js ih =>
    simp only [readAll]
    split
    next e t hf => exact .of_snd hf (h s j)
    next b t hf =>
      have ht : WalkSide s t := .of_snd hf (h s j)
      split <;> next hr => exact ht.trans (.of_snd hr ih)

theorem readDa_walkSide (w : Who) (a n : Nat) : WalkSide s (s.readDa w a n).2 := by
  unfold readDa
  refine readAll_walkSide (fun u j => ?_) _
  split
  · exact (passTag_walkSide w).trans (.of_mem (readPiece1_memSide ..))
  · exact .refl u

theorem writeList_walkSide (w : Who) (h : Bool) (ps : List (Nat × Nat)) (bs : List Byte) : WalkSide s (writeList w h s ps bs).2 := by
  induction ps generalizing s bs with
  | nil => exact .refl s
  | cons p ps ih =>
    have hp : WalkSide s ((s.passTag w).writePiece1 w p.1 (bs.take p.2) (h && ps.isEmpty)).2 :=
      (passTag_walkSide w).trans (.of_mem (writePiece1_memSide ..))
    simp only [writeList]
    split
    next e => exact .of_snd e hp
    next t e => exact (WalkSide.of_snd e hp).trans (ih _)

theorem writeDa_walkSide (w : Who) (a : Nat) (bs : List Byte) : WalkSide s (s.writeDa w a bs).2 := writeList_walkSide ..

end State

/-- Work of a unit that does no more than the walker may, whatever it ends in. -/
structure WalkWork {α : Type} (x : Acc α) : Prop where
  side : ∀ s : State, s.WalkSide (runAcc x s).2

namespace WalkWork

open State

variable {α β : Type}

theorem pure (a : α) : WalkWork (Pure.pure a : Acc α) := ⟨.refl⟩

theorem get : WalkWork (MonadState.get : Acc State) := ⟨.refl⟩

theorem step {f : State → State} (h : ∀ s : State, s.WalkSide (f s)) : WalkWork (step_ f) := ⟨h⟩

theorem bind {x : Acc α} {f : α → Acc β} (hx : WalkWork x) (hf : ∀ a, WalkWork (f a)) : WalkWork (x >>= f) := ⟨fun s => by
  have e : runAcc (x >>= f) s = match runAcc x s with
      | (.ok a, t) => runAcc (f a) t
      | (.error e, t) => (.error e, t) := by
    simp only [runAcc, ExceptT.run, Bind.bind, ExceptT.bind, ExceptT.mk, StateT.bind, ExceptT.bindCont]
    rcases x s with ⟨_ | _, t⟩ <;> rfl
  rw [e]
  have := hx.side s
  rcases hr : runAcc x s with ⟨_ | a, t⟩ <;> rw [hr] at this
  · exact this
  · exact this.trans ((hf a).side t)⟩

theorem forM {f : α → Acc PUnit} (h : ∀ a, WalkWork (f a)) (l : List α) : WalkWork (l.forM f) := by
  induction l with
  | nil => exact pure _
  | cons a l ih => exact bind (h a) fun _ => ih

theorem rdAt (w : Who) (a n : Nat) : WalkWork (rdAt w a n) := ⟨fun s => by
  have h : s.WalkSide (s.readDa w a n).2 := readDa_walkSide ..
  change s.WalkSide (match s.readDa w a n with | (.ok b, t) => (Except.ok b, t) | (.error e, t) => (.error (errAt a e), t)).2
  rcases hr : s.readDa w a n with ⟨_ | _, t⟩ <;> rw [hr] at h <;> exact h⟩

theorem wr (w : Who) (a : Nat) (bs : List Byte) : WalkWork (wr w a bs) := ⟨fun s => by
  have h : s.WalkSide (s.writeDa w a bs).2 := writeDa_walkSide ..
  change s.WalkSide (match s.writeDa w a bs with | (none, t) => (Except.ok (), t) | (some e, t) => (.error e, t)).2
  rcases hr : s.writeDa w a bs with ⟨_ | _, t⟩ <;> rw [hr] at h <;> exact h⟩

end WalkWork

namespace State

variable {s : State}

theorem walkerHalt_walkSide (c k a : Nat) : WalkSide s (s.walkerHalt c k a) := by
  have hc (u : State) (off : Nat) (v : Word) : WalkSide u (u.setCore c off v) := .of_core rfl
  have hl (u : State) (y p : Nat) (d : List Byte) : WalkSide u (u.logEv y p d) := .of_mem (.same rfl)
  unfold walkerHalt
  refine .ite (.refl s) (.trans ?_ (hl ..))
  split
  · exact ((hc ..).trans (hc ..)).trans (.of_slot _ fun _ => rfl)
  · exact (hc ..).trans (hc ..)

theorem walkerRun_walkSide {x : Acc Unit} (h : WalkWork x) (c : Nat) : WalkSide s (walkerRun c x s) := by
  have := h.side s
  unfold walkerRun
  rcases hr : runAcc x s with ⟨_ | _, t⟩ <;> rw [hr] at this
  · exact this.trans (walkerHalt_walkSide ..)
  · exact this

theorem setPoolCnt_coreSide (c z n : Nat) : CoreSide s (s.setPoolCnt c z n) := by
  unfold setPoolCnt
  exact .ite rfl rfl

theorem releaseFrames_walkWork (c : Nat) (due : Nat → Bool) : WalkWork (releaseFrames c due) :=
  have push (z f : Nat) : WalkWork (poolPush c z f) :=
    .bind .get fun _ => .bind (.wr ..) fun _ => .step fun _ => .of_core (setPoolCnt_coreSide ..)
  .bind .get fun s => .forM (fun f => by
    dsimp only
    split
    · exact .bind (.bind .get fun _ => .bind (.rdAt ..) fun _ => .pure _) fun _ =>
        .bind (.bind .get fun _ => .wr ..) fun _ => push ..
    · exact .pure _) _

/-- A core that leaves its run does no more than the walker may. -/
theorem releaseCore_walkSide (c off : Nat) : WalkSide s (s.releaseCore c off) := by
  have hc (u : State) (v : Nat) : WalkSide u (u.setCoreState c v) := .of_core rfl
  have hl (u : State) : WalkSide u (forEach (List.range 8) u fun t k => t.updCore c (R.strChSts k) fun w => setBit w 0 false) :=
    .of_core (.loop (fun _ _ => rfl) _)
  have hw (u : State) (p : Prop) [Decidable p] : WalkSide u (if p then u else walkerRun c (releaseFrames c fun _ => true) u) :=
    .ite (.refl u) (walkerRun_walkSide (releaseFrames_walkWork ..) c)
  have ha : WalkSide s ((s.endKindles c off).abandon c) := .of_core ((endKindles_coreSide c off).trans (abandon_coreSide c))
  unfold releaseCore
  exact .ite (((ha.trans (hl _)).trans (hw ..)).trans (hc ..)) ((ha.trans (hl _)).trans (hw ..))

/-! ### Queues and the end of a run

What the end of a flash or of a run touches: the queues and the rest of its slot, its cores, memory, the Keeper's records, interrupts. -/

/-- Nothing but what runs touch differs; of an I/O die, registers below those of its chip-link ports. -/
structure RunSide (s t : State) : Prop where
  frame : t = { s with
    free := t.free, out := t.out, coreR := t.coreR, dieR := t.dieR, iodR := t.iodR, cx := t.cx, slots := t.slots, mem := t.mem, syn := t.syn
    poison := t.poison, cache := t.cache, host := { s.host with intSts := t.host.intSts, pba := t.host.pba }, kpr := t.kpr, nbu := t.nbu }
  iod : ∀ i off, 0x60000 ≤ off → off < 0x1000000 → t.iod i off = s.iod i off

namespace RunSide

variable {t u : State}

theorem trans (h : RunSide s t) (k : RunSide t u) : RunSide s u :=
  ⟨by rw [k.frame, h.frame], fun i off lo hi => (k.iod i off lo hi).trans (h.iod i off lo hi)⟩

theorem of_walk (h : WalkSide s t) : RunSide s t := ⟨by rw [h.1.frame], h.1.iod⟩

theorem of_mem (h : MemSide s t) : RunSide s t := .of_walk (.of_mem h)

/-- Slots and the Keeper's records alone differ. -/
theorem same (h : t = { s with slots := t.slots, kpr := t.kpr }) : RunSide s t := ⟨by rw [h], fun _ _ _ _ => by rw [h]; rfl⟩

theorem refl (s : State) : RunSide s s := same rfl

theorem ite {p : Prop} [Decidable p] (h : RunSide s t) (k : RunSide s u) : RunSide s (if p then t else u) := by split <;> assumption

theorem loop {α : Type} {f : State → α → State} (h : ∀ u a, RunSide u (f u a)) (l : List α) : RunSide s (forEach l s f) :=
  forEach_keeps (P := fun u => RunSide s u) l (fun u a _ k => k.trans (h u a)) (refl s)

theorem of_snd {α : Type} {x : α × State} {a : α} (h : x = (a, t)) (hx : RunSide s x.2) : RunSide s t := by
  subst h; exact hx

theorem bcn (h : RunSide s t) : t.bcn = s.bcn := by rw [h.frame]

end RunSide

theorem updSlot_runSide (p : Nat) (f : SlotX → SlotX) : RunSide s (s.updSlot p f) := .same rfl

theorem updQue_runSide (p q : Nat) (f : QueueX → QueueX) : RunSide s (s.updQue p q f) := .same rfl

theorem putEntry_runSide (w : Who) (p q r : Nat) (d : QueueDecl) (h : Nat → Bool → List Byte) (l : List Byte) :
    RunSide s (s.putEntry w p q r d h l) := by
  have hw : RunSide s (s.writeDa w (d.entryDa (s.que p q).wtail) (h (s.que p q).wtail (s.que p q).gap ++ l)).2 :=
    .of_walk (writeDa_walkSide ..)
  unfold putEntry
  refine .ite (updQue_runSide ..) (.ite (updQue_runSide ..) ?_)
  split
  next e => exact (RunSide.of_snd e hw).trans (updQue_runSide ..)
  next e => exact (RunSide.of_snd e hw).trans (updQue_runSide ..)

theorem putOut_runSide (w : Who) (p q : Nat) (d : QueueDecl) (k x r f n a : Nat) (l : List Byte) :
    RunSide s (s.putOut w p q d k x r f n a l) := .ite (.refl s) (putEntry_runSide ..)

theorem answerEnts_runSide (p q r f : Nat) (l : List InEnt) : RunSide s (s.answerEnts p q r f l) := .same rfl

theorem closeEntries_runSide (p q n : Nat) (d : QueueDecl) : RunSide s (s.closeEntries p q n d) :=
  .ite ((answerEnts_runSide ..).trans (answerEnts_runSide ..))
    (((answerEnts_runSide ..).trans (answerEnts_runSide ..)).trans (updQue_runSide ..))

theorem writeNotices_runSide (p o : Nat) (d : QueueDecl) : RunSide s (s.writeNotices p o d) := .loop (fun _ _ => putOut_runSide ..) _

theorem publish_runSide (p q : Nat) (d : QueueDecl) : RunSide s (s.publish p q d) :=
  .ite ((updQue_runSide ..).trans (.of_mem (sendMsix_memSide _))) (updQue_runSide ..)

theorem closeFlash_runSide (p n : Nat) : RunSide s (s.closeFlash p n) := by
  have entries (u : State) (q : Nat) : RunSide u (match u.queDecl? p q with
      | some d => if d.input then u.closeEntries p q n d else u
      | none => u) := by
    split
    · exact .ite (closeEntries_runSide ..) (.refl u)
    · exact .refl u
  have notices (u : State) (q : Nat) : RunSide u (match u.queDecl? p q with
      | some d => if d.kind == 3 then u.writeNotices p q d else u
      | none => u) := by
    split
    · exact .ite (writeNotices_runSide ..) (.refl u)
    · exact .refl u
  unfold closeFlash
  refine ((RunSide.loop entries _).trans (.loop notices _)).trans ((updSlot_runSide ..).trans (.loop (fun u q => ?_) _))
  split
  next d _ =>
    have hp : RunSide u (if 2 ≤ d.kind then u.publish p q d else u) := .ite (publish_runSide ..) (.refl u)
    exact .ite (hp.trans (updQue_runSide ..)) hp
  · exact .refl u

theorem completeWhere_runSide (p : Cmd → Bool) (x y : Nat) (r : List Byte) : RunSide s (s.completeWhere p x y r) :=
  .same (by rw [completeWhere_frame])

theorem releaseCore_runSide (c off : Nat) : RunSide s (s.releaseCore c off) := .of_walk (releaseCore_walkSide ..)

theorem finish_runSide (p off k n : Nat) : RunSide s (s.finish p off k n) := by
  have log (d : List Byte) : RunSide s (s.logEv 0x11 p d) := .same rfl
  have idle (u : State) : RunSide u { u with kpr := { u.kpr with idleMs := 0 } } := .same rfl
  unfold finish
  exact (((((log _).trans (.loop (fun _ _ => releaseCore_runSide ..) _)).trans (updSlot_runSide ..)).trans (idle _)).trans
    (completeWhere_runSide ..)).trans (.of_mem (raise_memSide _))

theorem endAt_runSide (p off n k : Nat) : RunSide s (s.endAt p off n k) := by
  have slack (u : State) (c : Nat) : RunSide u (u.updCx c fun x => { x with slack := none }) := .of_walk (.of_core rfl)
  unfold endAt
  exact .ite ((RunSide.loop slack _).trans (updSlot_runSide ..)) ((closeFlash_runSide ..).trans (finish_runSide ..))

theorem endIfQuiet_runSide (p off : Nat) : RunSide s (s.endIfQuiet p off) := by
  unfold endIfQuiet
  split
  · exact endAt_runSide ..
  · exact .refl s

theorem endMeter_coreSide (c f : Nat) : CoreSide s (s.endMeter c f) := by
  unfold endMeter
  dsimp only
  split
  · rfl
  · exact .ite rfl rfl

theorem endFlash_runSide (p : Nat) : RunSide s (s.endFlash p) := by
  have meters (n : Nat) : RunSide s (forEach (s.slotCores p) s fun t c => t.endMeter c n) :=
    .loop (fun _ _ => .of_walk (.of_core (endMeter_coreSide ..))) _
  unfold endFlash
  refine .ite (endIfQuiet_runSide ..) ?_
  dsimp only
  split
  · exact (meters _).trans (endAt_runSide ..)
  · exact (meters _).trans (closeFlash_runSide ..)

theorem endHalted_runSide : RunSide s s.endHalted := .ite (.refl s) (.loop (fun u _ => .ite (endFlash_runSide _) (.refl u)) _)

@[simp] theorem loseEntry_bcn (p q : Nat) : (s.loseEntry p q).bcn = s.bcn := rfl

@[simp] theorem updQue_bcn (p q : Nat) (f : QueueX → QueueX) : (s.updQue p q f).bcn = s.bcn := rfl

@[simp] theorem queFlag_bcn (p q b : Nat) : (s.queFlag p q b).bcn = s.bcn := rfl

@[simp] theorem putEntry_bcn (w : Who) (p q r : Nat) (d : QueueDecl) (h : Nat → Bool → List Byte) (l : List Byte) :
    (s.putEntry w p q r d h l).bcn = s.bcn := (putEntry_runSide w p q r d h l).bcn

@[simp] theorem putOut_bcn (w : Who) (p q : Nat) (d : QueueDecl) (k x r f n a : Nat) (l : List Byte) :
    (s.putOut w p q d k x r f n a l).bcn = s.bcn := (putOut_runSide w p q d k x r f n a l).bcn

@[simp] theorem answerEnts_bcn (p q r f : Nat) (l : List InEnt) : (s.answerEnts p q r f l).bcn = s.bcn := rfl

@[simp] theorem completeWhere_bcn (p : Cmd → Bool) (x y : Nat) (r : List Byte) : (s.completeWhere p x y r).bcn = s.bcn :=
  (completeWhere_runSide p x y r).bcn

@[simp] theorem releaseCore_bcn (c off : Nat) : (s.releaseCore c off).bcn = s.bcn := (releaseCore_walkSide c off).bcn

@[simp] theorem endIfQuiet_bcn (p off : Nat) : (s.endIfQuiet p off).bcn = s.bcn := (endIfQuiet_runSide p off).bcn

@[simp] theorem endFlash_bcn (p : Nat) : (s.endFlash p).bcn = s.bcn := (endFlash_runSide p).bcn

@[simp] theorem endHalted_bcn : s.endHalted.bcn = s.bcn := endHalted_runSide.bcn

/-! ### What a completed word leads to -/

@[simp] theorem settleRamps_bcn (c off : Nat) : (s.settleRamps c off).bcn = s.bcn := (settleRamps_coreSide c off).bcn

@[simp] theorem enterGap_bcn (p c e off : Nat) : (s.enterGap p c e off).bcn = s.bcn := (enterGap_coreSide p c e off).bcn

@[simp] theorem noteEarly_bcn (p c : Nat) (q : QWord) : (s.noteEarly p c q).bcn = s.bcn := (noteEarly_coreSide p c q).bcn

@[simp] theorem bankIfDone_bcn (p c off : Nat) : (s.bankIfDone p c off).bcn = s.bcn := (bankIfDone_coreSide p c off).bcn

@[simp] theorem incEv_bcn (c k : Nat) : (s.incEv c k).bcn = s.bcn := (incEv_coreSide c k).bcn

@[simp] theorem updEngX_bcn (c e : Nat) (f : EngX → EngX) : (s.updEngX c e f).bcn = s.bcn := rfl

@[simp] theorem addKnd_bcn (c e n : Nat) : (s.addKnd c e n).bcn = s.bcn := rfl

@[simp] theorem setVecState_bcn (c v : Nat) : (s.setVecState c v).bcn = s.bcn := rfl

@[simp] theorem setPgwState_bcn (c v : Nat) : (s.setPgwState c v).bcn = s.bcn := rfl

end State
end Sys2Proof.Machine
end


section
/-!
PROOFS. The registers of the Beacon block, and what keeps it legal (R27, R35).
-/

namespace Sys2Proof.Machine

/-! ### Registers -/

/-- A field replaced below bit hi + 1 leaves a register that lies below it below it. -/
theorem toNat_setFld_lt {w : Word} {hi : Nat} (lo v : Nat) (h : w.toNat < 2 ^ (hi + 1)) : (setFld w hi lo v).toNat < 2 ^ (hi + 1) := by
  refine Nat.lt_pow_two_of_testBit _ fun i hi' => ?_
  have hw : w.toNat.testBit i = false := Nat.testBit_lt_two_pow (h.trans_le (Nat.pow_le_pow_right (by decide) hi'))
  have := setFld_getLsbD w hi lo v i
  rw [if_neg (by omega)] at this
  exact this.trans hw

/-- Bits that a write of ones clears lie in no field apart from them. -/
theorem fld_regAfter_clear_apart (old v : Word) {hi lo a b : Nat} (h : hi < b ∨ a < lo) :
    fld (regAfter old v 0 (fldMask hi lo) 0) a b = fld old a b := by
  apply Nat.eq_of_testBit_eq
  intro i
  rw [fld_testBit, fld_testBit, regAfter_clears]
  by_cases c : i < a + 1 - b
  · have : (fldMask hi lo).getLsbD (b + i) = false := by
      rw [fldMask_getLsbD]
      rcases h with h | h
      · simp [show ¬ b + i < hi + 1 by omega]
      · simp [show ¬ lo ≤ b + i by omega]
    by_cases hb : b + i < 64
    · simp only [BitVec.getLsbD_and, BitVec.getLsbD_not, this, hb, Bool.and_false, decide_true, Bool.not_false, Bool.and_true, c]
    · simp [BitVec.getLsbD_of_ge _ _ (Nat.le_of_not_lt hb)]
  · simp [c]

namespace Bcn.legal

variable {b : Bcn}

/-- The bits of `BCN_STS` that are reserved read alike. -/
def SameRsv (v w : Word) : Prop := fld w 63 24 = fld v 63 24 ∧ fld w 15 14 = fld v 15 14 ∧ fld w 7 3 = fld v 7 3

theorem SameRsv.trans {u v w : Word} (h : SameRsv u v) (k : SameRsv v w) : SameRsv u w :=
  ⟨k.1.trans h.1, k.2.1.trans h.2.1, k.2.2.trans h.2.2⟩

/-- A field or a flag written outside the reserved bits leaves them. -/
theorem setFld_sameRsv (w : Word) {hi lo : Nat} (v : Nat) (h : hi ≤ 2 ∨ (8 ≤ lo ∧ hi ≤ 13) ∨ (16 ≤ lo ∧ hi ≤ 23)) :
    SameRsv w (setFld w hi lo v) := by
  refine ⟨?_, ?_, ?_⟩ <;> exact fld_setFld_apart _ _ _ _ _ _ (by omega)

theorem empty : Bcn.legal {} := by unfold Bcn.legal; decide

theorem locked (h : b.legal) (h0 : fld b.sts 2 0 ≠ 0) : b.locked = true := by
  obtain ⟨-, -, -, -, l, -⟩ := h
  simpa using fun x => h0 (l.mp x)

theorem locked_eq (h : b.legal) : b.locked = decide (fld b.sts 2 0 ≠ 0) := by
  obtain ⟨-, -, -, -, l, -⟩ := h
  by_cases e : fld b.sts 2 0 = 0
  · simp [l.mpr e, e]
  · simpa [e] using l

/-- The Beacon block moved to state v with m missing marks, `ARM` and the lock as these ask. -/
theorem move (h : b.legal) {c : Bcn} {v m : Nat} (ok : v ≤ 3 ∧ m ≤ 65 ∧ (v = 3 → m ≤ 64)) (hs : fld c.sts 2 0 = v)
    (hn : fld c.sts 23 16 = m) (hr : SameRsv b.sts c.sts) (hc : c.ctrl.toNat < 2 ∧ (bitAt c.ctrl 0 = true ↔ v = 2))
    (hl : c.locked = decide (v ≠ 0)) (hp : c.period = b.period) (hf : c.fn.toNat < 2 ^ 48 ∧ c.armFn.toNat < 2 ^ 48) : c.legal := by
  obtain ⟨-, p0, p1, -, -, -, -, -, -, -, p, q0, q1, q2⟩ := h
  obtain ⟨r0, r1, r2⟩ := hr
  subst hs hn
  unfold Bcn.legal
  rw [hl, hp]
  exact ⟨ok.1, p0, p1, hc.2, by simp, hf.1, hf.2, ok.2.1, ok.2.2, hc.1, p, r0.trans q0, r1.trans q1, r2.trans q2⟩

/-- `ARM` as a legal block has it once it has been written. -/
theorem arm (h : b.legal) (a : Bool) {p : Prop} (ha : a = true ↔ p) :
    (setBit b.ctrl 0 a).toNat < 2 ∧ (bitAt (setBit b.ctrl 0 a) 0 = true ↔ p) := by
  obtain ⟨-, -, -, -, -, -, -, -, -, k, -⟩ := h
  exact ⟨toNat_setFld_lt 0 _ k, by rwa [bitAt_setBit_same _ _ _ (by decide)]⟩

/-- FN and load value of a legal block. -/
theorem numbers (h : b.legal) : b.fn.toNat < 2 ^ 48 ∧ b.armFn.toNat < 2 ^ 48 := by
  obtain ⟨-, -, -, -, -, f, g, -⟩ := h
  exact ⟨f, g⟩

/-- The missing marks of a legal block. -/
theorem missing (h : b.legal) : fld b.sts 23 16 ≤ 65 ∧ (fld b.sts 2 0 = 3 → fld b.sts 23 16 ≤ 64) := by
  obtain ⟨-, -, -, -, -, -, -, m, m3, -⟩ := h
  exact ⟨m, m3⟩

/-- `ARM` and the state of a legal block. -/
theorem arm_iff (h : b.legal) : b.ctrl.toNat < 2 ∧ (bitAt b.ctrl 0 = true ↔ fld b.sts 2 0 = 2) := by
  obtain ⟨-, -, -, a, -, -, -, -, -, k, -⟩ := h
  exact ⟨k, a⟩

/-- The Beacon moved from a state in which it is locked to LOCKED or ARMED, its missing marks as they were. -/
theorem toState (h : b.legal) {c : Bcn} {v : Nat} {a : Bool} (h0 : fld b.sts 2 0 ≠ 0) (hv : 0 < v ∧ v ≤ 2)
    (hs : c.sts = setFld b.sts 2 0 v) (ha : a = true ↔ v = 2) (hc : c.ctrl = setBit b.ctrl 0 a) (hl : c.locked = b.locked)
    (hp : c.period = b.period) (hf : c.fn.toNat < 2 ^ 48 ∧ c.armFn.toNat < 2 ^ 48) : c.legal := by
  refine h.move (v := v) (m := fld b.sts 23 16) ⟨by omega, h.missing.1, by omega⟩ ?_ ?_ ?_ (hc ▸ h.arm a ha) ?_ hp hf
  · rw [hs, fld_setFld_same _ _ _ _ (by decide), Nat.mod_eq_of_lt (by omega)]
  · rw [hs]; exact fld_setFld_apart _ _ _ _ _ _ (by decide)
  · rw [hs]; exact setFld_sameRsv _ _ (by decide)
  · rw [hl, h.locked h0]; simp; omega

/-- Status bits other than state, missing marks and reserved ones leave the block legal. -/
theorem sts (h : b.legal) {w : Word} (hs : fld w 2 0 = fld b.sts 2 0) (hn : fld w 23 16 = fld b.sts 23 16) (hr : SameRsv b.sts w) :
    Bcn.legal { b with sts := w } := by
  obtain ⟨r0, r1, r2⟩ := hr
  unfold Bcn.legal at h ⊢
  dsimp only
  rwa [hs, hn, r0, r1, r2]

/-- A fault flag, or that of the slip line, set or cleared leaves the block legal. -/
theorem flag (h : b.legal) {i : Nat} (x : Bool) (lo : 8 ≤ i) (hi : i ≤ 13) : Bcn.legal { b with sts := setBit b.sts i x } :=
  h.sts (fld_setBit_apart _ _ _ _ _ (by omega)) (fld_setBit_apart _ _ _ _ _ (by omega)) (setFld_sameRsv _ _ (.inr (.inl ⟨lo, hi⟩)))

end Bcn.legal

end Sys2Proof.Machine
end


section
/-!
PROOFS. The Beacon's own operations keep its block legal.
-/

namespace Sys2Proof.Machine

namespace State

variable {s : State}

/-! ### The Beacon's own operations keep it legal -/

theorem periodSet_legal (h : s.bcn.legal) {n : Nat} (lo : 25 ≤ n) (hi : n ≤ 1600) :
    ((s.updBcn fun b => { b with period := setFld b.period 10 0 n }).refreshCpf).bcn.legal := by
  obtain ⟨v, -, -, a, l, f, g, m, m3, c, p, r⟩ := h
  have e : fld (setFld s.bcn.period 10 0 n) 10 0 = n := by
    rw [fld_setFld_same _ _ _ _ (by decide), Nat.mod_eq_of_lt (by omega)]
  exact ⟨v, lo.trans_eq e.symm, e.trans_le hi, a, l, f, g, m, m3, c, toNat_setFld_lt 0 n p, r⟩

theorem armWith_legal (h : s.bcn.legal) (load : BitVec 48) (h0 : s.bcnState ≠ 0) : (s.armWith load).bcn.legal := by
  refine h.toState (v := 2) (a := true) h0 (by decide) rfl (by simp) rfl rfl rfl ⟨h.numbers.1, ?_⟩
  have := load.isLt
  simp only [armWith, updBcn, BitVec.toNat_ofNat]
  omega

/-- The Beacon leaves ARMED, or COUNTING, for LOCKED, and `ARM` is cleared. -/
theorem toLocked_legal (h : s.bcn.legal) (h0 : s.bcnState ≠ 0) : (s.setBcnState 1).clearArm.bcn.legal :=
  h.toState (v := 1) (a := false) h0 (by decide) rfl (by simp) rfl rfl rfl h.numbers

theorem mayArm_ne (h : s.mayArm = true) : s.bcnState ≠ 0 := by
  intro e
  simp [mayArm, e] at h

theorem disarm_legal (h : s.bcn.legal) : s.disarm.bcn.legal := by
  unfold disarm
  split
  next e => exact toLocked_legal h (by simp at e; omega)
  · exact h

theorem clkLock_legal (h : s.bcn.legal) : s.clkLock.bcn.legal := by
  unfold clkLock
  split
  · exact h
  · dsimp only
    split
    next e =>
      have e : fld s.bcn.sts 2 0 = 0 := by simpa [bcnState] using e
      refine h.move (v := 1) (m := fld s.bcn.sts 23 16) ⟨by decide, h.missing.1, by simp⟩
        (fld_setFld_same _ _ _ _ (by decide)) (fld_setFld_apart _ _ _ _ _ _ (by decide)) (Bcn.legal.setFld_sameRsv _ _ (by decide))
        ⟨h.arm_iff.1, ?_⟩ rfl rfl h.numbers
      exact h.arm_iff.2.trans (by simp [e])
    next e =>
      have e : fld s.bcn.sts 2 0 ≠ 0 := by simpa [bcnState] using e
      exact h.move ⟨h.1, h.missing⟩ rfl rfl ⟨rfl, rfl, rfl⟩ h.arm_iff (by simp [e]; rfl) rfl h.numbers

theorem beaconLoss_legal (h : s.bcn.legal) : s.beaconLoss.bcn.legal := by
  unfold beaconLoss
  split
  · exact h
  · refine h.move (v := 0) (m := fld s.bcn.sts 23 16) ⟨by decide, h.missing.1, by simp⟩ ?_ ?_
      (.trans (Bcn.legal.setFld_sameRsv _ _ (by decide)) (Bcn.legal.setFld_sameRsv _ _ (by decide))) (h.arm false (by simp)) rfl rfl h.numbers
    · change fld (setBit (setFld s.bcn.sts 2 0 0) 8 true) 2 0 = 0
      rw [fld_setBit_apart _ _ _ _ _ (by decide), fld_setFld_same _ _ _ _ (by decide)]; rfl
    · change fld (setBit (setFld s.bcn.sts 2 0 0) 8 true) 23 16 = _
      rw [fld_setBit_apart _ _ _ _ _ (by decide), fld_setFld_apart _ _ _ _ _ _ (by decide)]

theorem lockedMark_legal (h : s.bcn.legal) (n : Nat) : (s.lockedMark n).bcn.legal := by
  have rest (u : State) (f : State → State) (k : u.bcn.legal) :
      ((u.updBcn fun b => { b with hasMark := true, phase := 0 }).aside f).bcn.legal := k
  unfold lockedMark
  dsimp only
  refine rest _ _ ?_
  split
  · exact h.flag (i := 10) true (by decide) (by decide)
  · exact h

theorem armingMark_legal (h : s.bcn.legal) (e : s.bcnState = 2) : s.armingMark.bcn.legal := by
  have hm : fld (setFld (setFld s.bcn.sts 23 16 0) 2 0 3) 23 16 = 0 :=
    (fld_setFld_apart _ _ _ _ _ _ (by decide)).trans (fld_setFld_same _ _ _ _ (by decide))
  exact h.move (v := 3) (m := 0) (by decide) (fld_setFld_same _ _ _ _ (by decide)) hm
    (.trans (Bcn.legal.setFld_sameRsv _ _ (by decide)) (Bcn.legal.setFld_sameRsv _ _ (by decide))) (h.arm false (by simp))
    (h.locked (by rw [show fld s.bcn.sts 2 0 = 2 from e]; decide)) rfl ⟨h.numbers.2, h.numbers.2⟩

theorem overrun_legal (h : s.bcn.legal) : s.overrun.bcn.legal := by
  unfold overrun
  split
  · exact h
  · exact h.flag true (by decide) (by decide)

theorem nextFlash_legal (h : s.bcn.legal) : s.nextFlash.bcn.legal := by
  have k := overrun_legal h
  refine k.move (v := fld s.overrun.bcn.sts 2 0) (m := 0) ⟨k.1, by decide, fun _ => by decide⟩
    (fld_setFld_apart _ _ _ _ _ _ (by decide)) (fld_setFld_same _ _ _ _ (by decide)) (Bcn.legal.setFld_sameRsv _ _ (by decide))
    k.arm_iff k.locked_eq rfl ⟨?_, k.numbers.2⟩
  change (BitVec.ofNat 64 ((fld s.overrun.bcn.fn 47 0 + 1) % 2 ^ 48)).toNat < 2 ^ 48
  rw [BitVec.toNat_ofNat]
  omega

theorem strayMark_legal (h : s.bcn.legal) (n : Nat) : (s.strayMark n).bcn.legal := h.flag true (by decide) (by decide)

theorem mark_legal (h : s.bcn.legal) (n : Nat) : (s.mark n).bcn.legal := by
  unfold mark
  split
  · exact lockedMark_legal h n
  next e => exact armingMark_legal h e
  · dsimp only
    split
    · exact nextFlash_legal (s := s.updBcn fun b => { b with phase := 0 }) h
    · exact strayMark_legal h _
  · exact h

theorem occult_legal (h : s.bcn.legal) : s.occult.bcn.legal := by
  unfold occult
  split
  · exact h
  next e =>
    simp only [Bool.or_eq_true, bne_iff_ne, ne_eq, not_or, Decidable.not_not] at e
    have e : fld s.bcn.sts 2 0 = 3 ∧ fld s.bcn.sts 23 16 < 64 := ⟨e.1, Nat.not_le.mp fun x => e.2 (decide_eq_true x)⟩
    have hm : fld (incFld s.bcn.sts 23 16 1) 23 16 = fld s.bcn.sts 23 16 + 1 := by
      rw [fld_incFld_same _ _ _ _ (by decide)]; omega
    exact h.move (v := 3) (m := fld s.bcn.sts 23 16 + 1) (by omega) ((fld_incFld_apart _ _ _ _ _ _ (by decide)).trans e.1) hm
      (Bcn.legal.setFld_sameRsv _ _ (by decide)) (e.1 ▸ h.arm_iff) (h.locked (by omega)) rfl h.numbers

theorem beaconStall_legal (h : s.bcn.legal) : s.beaconStall.bcn.legal := by
  unfold beaconStall
  split
  · exact h
  next e =>
    simp [bcnState, missRun] at e
    have hb {a b : Nat} (k : 9 < b ∨ a < 9) : fld (setBit s.bcn.sts 9 true) a b = fld s.bcn.sts a b := fld_setBit_apart _ _ _ _ _ k
    have hm : fld (incFld (setBit s.bcn.sts 9 true) 23 16 1) 23 16 = 65 := by
      rw [fld_incFld_same _ _ _ _ (by decide), hb (by decide), e.2]; rfl
    exact h.move (v := 1) (m := 65) (by decide) (fld_setFld_same _ _ _ _ (by decide)) ((fld_setFld_apart _ _ _ _ _ _ (by decide)).trans hm)
      (.trans (.trans (Bcn.legal.setFld_sameRsv _ _ (by decide)) (Bcn.legal.setFld_sameRsv _ _ (by decide)))
        (Bcn.legal.setFld_sameRsv _ _ (by decide)))
      ⟨h.arm_iff.1, h.arm_iff.2.trans (by omega)⟩ (h.locked (by omega)) rfl h.numbers

theorem slipRelease_legal (h : s.bcn.legal) : s.slipRelease.bcn.legal := by
  unfold slipRelease
  split
  · exact h
  · exact h.flag false (by decide) (by decide)

theorem request_legal (h : s.bcn.legal) (p c k : Nat) : (s.request p c k).bcn.legal := by
  unfold request
  split
  · exact h
  · exact h.flag true (by decide) (by decide)

theorem charge_legal (h : s.bcn.legal) (p c k : Nat) : (s.charge p c k).bcn.legal := by
  unfold charge
  split
  · dsimp only
    split
    · exact h
    · refine request_legal ?_ ..
      exact h
  · exact h

theorem slackCharge_legal (h : s.bcn.legal) (c off : Nat) (x : BitVec 8) (n : Nat) : (s.slackCharge c off x n).bcn.legal := by
  unfold slackCharge
  split
  · exact h
  · split
    · exact h
    · split
      · exact charge_legal h ..
      · exact h

theorem cutOff_legal (h : s.bcn.legal) : s.cutOff.bcn.legal := by
  unfold cutOff
  split
  · exact h
  · refine forEach_keeps (P := fun u : State => u.bcn.legal) _ (fun u p _ hu => ?_) h
    dsimp only
    split
    · refine forEach_keeps (P := fun u : State => u.bcn.legal) _ (fun u c _ hu => ?_) hu
      split
      · exact request_legal hu ..
      · exact hu
    · exact hu

end State
end Sys2Proof.Machine
end


section
/-!
PROOFS. The Beacon's commands and registers keep its block legal.
-/

namespace Sys2Proof.Machine

namespace State

variable {s : State}

theorem legal_ite {p : Prop} [Decidable p] {t u : State} (ht : t.bcn.legal) (hu : u.bcn.legal) : (if p then t else u).bcn.legal := by
  split <;> assumption

/-! ### The mailbox -/

@[simp] theorem sweepRings_bcn : s.sweepRings.bcn = s.bcn := by
  unfold sweepRings
  rw [(skipUnknown_frame s.host.fresh.length s).1]

@[simp] theorem hostError_bcn (k b a : Nat) : (s.hostError k b a).bcn = s.bcn := by
  unfold hostError
  rw [hostErrorOf_keeperSide]

/-- A command leaves the Beacon block legal where its own part does. -/
theorem serve_legal (h : s.bcn.legal) {op len : Nat} {used : List (Nat × Nat)} {m : Mbox} {body : State → Cmd → State}
    (hb : ∀ t c, t.bcn.legal → (body t c).bcn.legal) : (s.serve op len used m body).bcn.legal := by
  unfold serve
  dsimp only
  have hs : (if s.takes op m then s else s.sweepRings).bcn.legal := by simpa using h
  generalize (if s.takes op m then s else s.sweepRings) = u at hs
  exact legal_ite hs (legal_ite hs (legal_ite hs (legal_ite hs (hb _ _ hs))))

theorem bcnSetPeriod_legal (h : s.bcn.legal) (c : Cmd) : (s.bcnSetPeriod c).bcn.legal := by
  unfold bcnSetPeriod
  dsimp only
  split
  · exact h
  next hn =>
    simp only [Bool.or_eq_true, decide_eq_true_eq, not_or, Nat.not_lt] at hn
    split
    · exact h
    · exact periodSet_legal h hn.1 hn.2

theorem bcnArm_legal (h : s.bcn.legal) (c : Cmd) : (s.bcnArm c).bcn.legal := by
  unfold bcnArm
  split
  · exact h
  · split
    · exact h
    · split
      · exact h
      next e =>
        split
        · exact h
        · exact armWith_legal h _ fun e0 => e (by simp [e0])

theorem bcnDisarm_legal (h : s.bcn.legal) (c : Cmd) : (s.bcnDisarm c).bcn.legal := by
  unfold bcnDisarm
  split
  · exact h
  · exact disarm_legal h

/-! ### Registers -/

theorem writeBcn_legal (h : s.bcn.legal) (off : Nat) (v : Word) : (s.writeBcn off v).bcn.legal := by
  unfold writeBcn
  split
  · have arm (t : State) (ht : t.bcn.legal) :
        (if bitAt v 0 && t.mayArm then t.armWith (t.bcn.armFn.truncate 48) else t).bcn.legal := by
      split
      next e => exact armWith_legal ht _ (mayArm_ne (by simp only [Bool.and_eq_true] at e; exact e.2))
      · exact ht
    exact arm _ (legal_ite (disarm_legal h) h)
  · dsimp only
    split
    · exact h
    next hn =>
      simp only [Bool.or_eq_true, decide_eq_true_eq, not_or, Nat.not_lt] at hn
      exact periodSet_legal h hn.1.1 hn.1.2
  · refine h.sts (fld_regAfter_clear_apart _ _ (by decide)) (fld_regAfter_clear_apart _ _ (by decide)) ⟨?_, ?_, ?_⟩ <;>
      exact fld_regAfter_clear_apart _ _ (by decide)
  · split
    · exact h
    · obtain ⟨w, p0, p1, a, l, f, g, r⟩ := h
      refine ⟨w, p0, p1, a, l, f, ?_, r⟩
      change (v &&& fldMask 47 0).toNat < 2 ^ 48
      rw [BitVec.toNat_and, show (fldMask 47 0).toNat = 2 ^ 48 - 1 by decide, Nat.and_two_pow_sub_one_eq_mod]
      exact Nat.mod_lt _ (by decide)
  · exact h

end State
end Sys2Proof.Machine
end


section
/-!
PROOFS. The completion of a word keeps the Beacon block legal: of that work only a late charge reaches it.
-/

namespace Sys2Proof.Machine

namespace State

variable {s : State}

/-! ### The completion of a word -/

@[simp] theorem engFinish_bcn (c e t : Nat) (q : QWord) : (s.engFinish c e t q).bcn = s.bcn := by
  unfold engFinish; dsimp only
  simp

@[simp] theorem freeWalkerUnits_bcn (p c off : Nat) (q : QWord) : (s.freeWalkerUnits p c off q).bcn = s.bcn := by
  unfold freeWalkerUnits; dsimp only
  rw [forEach_bcn fun t e => by simp]
  simp

@[simp] theorem signalRemote_bcn (c ch : Nat) (q : QWord) : (s.signalRemote c ch q).bcn = s.bcn := by
  unfold signalRemote; split <;> simp

theorem legacyPause_legal (h : s.bcn.legal) (p c : Nat) (es : List Nat) (b t : Nat) : (s.legacyPause p c es b t).bcn.legal := by
  have k (f : Nat → EngX → EngX) : (forEach es s fun u e => u.updEngX c e (f e)).bcn.legal := by
    rwa [forEach_bcn fun u e => updEngX_bcn (s := u) ..]
  unfold legacyPause
  split
  · exact h
  · exact legal_ite h (legal_ite (forEach_keeps (P := fun u : State => u.bcn.legal) _ (fun u _ _ hu => charge_legal hu ..) (k _)) (k _))

theorem engComplete_legal (h : s.bcn.legal) (p c off : Nat) (q : QWord) : (s.engComplete p c off q).bcn.legal := by
  unfold engComplete
  dsimp only
  rw [forEach_bcn fun t e => by simp]
  split
  · rwa [forEach_bcn fun t e => engFinish_bcn ..]
  · exact legacyPause_legal (by rwa [forEach_bcn fun t e => engFinish_bcn ..]) ..

theorem retire_legal (h : s.bcn.legal) (p c off : Nat) (u : CoreUnit) (q : QWord) : (s.retire p c off u q).bcn.legal := by
  cases u <;> unfold retire <;> dsimp only
  case eng => split <;> [exact engComplete_legal h ..; exact h]
  case vec => split <;> exact h
  case pgw => simpa using h
  case str => simpa using h
  all_goals exact h

theorem wordComplete_legal (h : s.bcn.legal) (c off : Nat) (u : CoreUnit) (b : Bool) : (s.wordComplete c off u b).bcn.legal := by
  have k (p : Nat) (q : QWord) : (((((s.settleRamps c off).retire p c off u q).noteEarly p c q).incEv c (wSigEv q.word)).bankIfDone p c off
      |>.endIfQuiet p off).bcn.legal := by
    simpa using retire_legal (s := s.settleRamps c off) (by simpa using h) p c off u q
  unfold wordComplete
  split
  · exact legal_ite (k ..) h
  · exact h

end State
end Sys2Proof.Machine
end


section
/-!
PROOFS. Writes in register space keep the Beacon block legal.
-/

namespace Sys2Proof.Machine

namespace State

variable {s : State}


theorem writeReg_legal (h : s.bcn.legal) (o : Nat) (v : Word) : (s.writeReg o v).2.bcn.legal := by
  have ha (f : State → State) : (s.aside f).bcn.legal := h
  unfold writeReg
  split
  · exact h
  · rw [apply_ite Prod.snd, apply_ite Prod.snd]
    exact legal_ite h (legal_ite h (ha _))
  · exact ha _
  · exact ha _
  · exact writeBcn_legal h ..
  · exact ha _
  · exact h
  · exact h

theorem windowWrite_legal (h : s.bcn.legal) (o n : Nat) (v : Word) : (s.windowWrite o n v).bcn.legal := by
  have hw := writeReg_legal h (fld s.host.rwin 10 0 * 0x200_0000 + o) v
  have he (u : State) (hu : u.bcn.legal) (k a : Nat) : ((u.hostError k 0 a).emit .dropped).bcn.legal := by simpa using hu
  unfold windowWrite
  refine legal_ite (he _ h ..) (legal_ite (he _ h ..) ?_)
  split
  next e => rw [e] at hw; exact hw
  next e => rw [e] at hw; exact he _ hw ..

theorem ringDoorbell_legal (h : s.bcn.legal) (r v : Nat) : (s.ringDoorbell r v).bcn.legal := by
  unfold ringDoorbell
  exact legal_ite (by simpa using h) (by simpa using h)

theorem bar0Write_legal (h : s.bcn.legal) (off n : Nat) (v : Word) : (s.bar0Write off n v).bcn.legal := by
  have ha (f : State → State) : (s.aside f).bcn.legal := h
  unfold bar0Write
  exact legal_ite (legal_ite (windowWrite_legal h ..) h)
    (legal_ite h (legal_ite (ha _) (legal_ite (ringDoorbell_legal h ..) (legal_ite (ha _) (legal_ite (ha _) h)))))

theorem registerWrite_legal (h : s.bcn.legal) (a : RegAgent) (addr : Nat) (v : Word) : (s.registerWrite a addr v).bcn.legal := by
  unfold registerWrite
  cases a
  case host => exact legal_ite (bar0Write_legal h ..) h
  case keeper => exact legal_ite (writeReg_legal h ..) h

theorem debugWrite_legal (h : s.bcn.legal) (a : Nat) (v : Word) : (s.debugWrite a v).bcn.legal := by
  have hw := writeReg_legal h (a - regBase) v
  have ha (f : State → State) : (s.aside f).bcn.legal := h
  unfold debugWrite
  refine legal_ite h (legal_ite h (legal_ite ?_ (ha _)))
  split <;> next e => rw [e] at hw; exact hw

end State
end Sys2Proof.Machine
end


section
/-!
PROOFS. Margin plans and class changes keep the Beacon block legal.
-/

namespace Sys2Proof.Machine

namespace State

variable {s : State}


/-! ### Margins -/

theorem setClass_legal (h : s.bcn.legal) (c : Nat) : (s.setClass c).bcn.legal := by
  have cpf (u : State) (hu : u.bcn.legal) : u.refreshCpf.bcn.legal := hu
  unfold setClass
  refine cpf _ ?_
  rw [aside_bcn]
  exact h

/-- A Beacon that a class change takes out of ARMED or COUNTING stays legal. -/
theorem leaves_legal (h : s.bcn.legal) :
    (if 2 ≤ s.bcnState && !s.periodFits then
      let u := (s.bcnFlag 10).setBcnState 1
      u.clearArm.aside fun u => u.armDone Sts.bcnState
    else s).bcn.legal := by
  split
  next e =>
    rw [aside_bcn]
    refine toLocked_legal (s := s.bcnFlag 10) (h.flag true (by decide) (by decide)) ?_
    have : (s.bcnFlag 10).bcnState = s.bcnState := fld_setBit_apart _ _ _ _ _ (by decide)
    simp only [Bool.and_eq_true, decide_eq_true_eq] at e
    omega
  · exact h

theorem changeClass_legal (h : s.bcn.legal) (c : Nat) : (s.changeClass c).bcn.legal := by
  have ht : ((s.aside fun u => u.buoy0 2 false).setClass c).bcn.legal := setClass_legal (by rwa [aside_bcn]) c
  unfold changeClass
  exact legal_ite (by rw [aside_bcn]; exact leaves_legal ht) (leaves_legal ht)

theorem applyClass_legal (h : s.bcn.legal) (c : Nat) : (s.applyClass c).bcn.legal := by
  unfold applyClass
  rw [aside_bcn]
  exact changeClass_legal h c

theorem marginPlan_legal (h : s.bcn.legal) (k : Nat) (ms : List DieMeas) (es : List (ClPort × Nat)) : (s.marginPlan k ms es).bcn.legal := by
  have rest (u : State) (f : State → State) (hu : u.bcn.legal) : (u.aside f).bcn.legal := hu
  unfold marginPlan
  refine rest _ _ ?_
  have ht : ({ (s.aside fun t => (forEach ms t fun t m => t.measureDie k m).noteEyes es) with
    thm := { (s.aside fun t => (forEach ms t fun t m => t.measureDie k m).noteEyes es).thm with
      plan := (s.aside fun t => (forEach ms t fun t m => t.measureDie k m).noteEyes es).thm.plan + 1
      lastMeas := some (s.aside fun t => (forEach ms t fun t m => t.measureDie k m).noteEyes es).thm.life.secs, measuring := none } } :
      State).bcn.legal := h
  exact legal_ite ht (legal_ite (rest _ _ (changeClass_legal ht _)) (rest _ _ ht))

theorem measureDone_legal (h : s.bcn.legal) (ms : List DieMeas) (es : List (ClPort × Nat)) : (s.measureDone ms es).bcn.legal := by
  unfold measureDone
  split
  · exact h
  · exact marginPlan_legal h ..

theorem marginChange_legal (h : s.bcn.legal) : s.marginChange.bcn.legal := by
  unfold marginChange
  split
  · exact legal_ite (applyClass_legal h _) h
  · exact h

end State
end Sys2Proof.Machine
end


section
/-!
PROOFS. Power, resets and the Keeper's start keep the Beacon block legal.
-/

namespace Sys2Proof.Machine

namespace State

variable {s : State}


/-! ### Power and resets -/

@[simp] theorem refreshPins_bcn : s.refreshPins.bcn = s.bcn := by
  unfold refreshPins
  dsimp only
  split <;> rfl

theorem powerOff_legal : s.powerOff.bcn.legal := Bcn.legal.empty

@[simp] theorem romStart_bcn : s.romStart.bcn = s.bcn := rfl

theorem aside_legal (h : s.bcn.legal) (f : State → State) : (s.aside f).bcn.legal := h

theorem dieFault_legal (h : s.bcn.legal) (e : PortAt) (b : Bool) : (s.dieFault e b).bcn.legal := by
  unfold dieFault
  refine legal_ite h ?_
  split
  · exact legal_ite (aside_legal h _) (legal_ite (aside_legal h _) (legal_ite powerOff_legal (aside_legal h _)))
  · exact h

theorem beaconLock_legal (h : s.bcn.legal) : s.beaconLock.bcn.legal := by
  unfold beaconLock
  exact legal_ite (aside_legal (clkLock_legal h) _) (clkLock_legal h)

theorem clearBeacon_legal (h : s.bcn.legal) (c : Nat) : (s.clearBeacon c).bcn.legal := by
  unfold clearBeacon
  exact legal_ite Bcn.legal.empty h

theorem applyPending_legal (h : s.bcn.legal) :
    (match s.thm.pendCls with
      | some c => s.applyClass c
      | none => s).bcn.legal := by
  split
  · exact applyClass_legal h _
  · exact h

theorem beginReset_legal (h : s.bcn.legal) (code slot : Nat) (cmd : Option Cmd) : (s.beginReset code slot cmd).bcn.legal := by
  have rest (u : State) (r : Option RstProg) (hu : u.bcn.legal) : ({ u with kpr := { u.kpr with reset := r } } : State).bcn.legal := hu
  have clear (u : State) (x : ThmX) (hu : u.bcn.legal) : (({ u with nbu := [], thm := x } : State).clearBeacon code).bcn.legal := by
    refine clearBeacon_legal ?_ _
    exact hu
  unfold beginReset
  refine rest _ _ (legal_ite ?_ (applyPending_legal ?_))
  · rw [aside_bcn]; exact h
  · rw [aside_bcn]
    refine clear _ _ ?_
    rw [aside_bcn]; exact h

theorem coldComplete_legal (h : s.bcn.legal) (b : Bring) (us : BitVec 32) (ts : List DieTest) : (s.coldComplete b us ts).bcn.legal :=
  aside_legal (marginPlan_legal h ..) _

theorem resetDone_legal (h : s.bcn.legal) (r : RstProg) (us : BitVec 32) (ts : List DieTest) : (s.resetDone r us ts).bcn.legal :=
  aside_legal h _

theorem resetComplete_legal (h : s.bcn.legal) (us : BitVec 32) (ts : List DieTest) : (s.resetComplete us ts).bcn.legal := by
  have rest (u : State) (k : KprX) (hu : u.bcn.legal) : ({ u with kpr := k } : State).bcn.legal := hu
  unfold resetComplete
  refine legal_ite (aside_legal h _) (legal_ite h ?_)
  split
  · exact legal_ite h (resetDone_legal (rest _ _ (coldComplete_legal h ..)) ..)
  · exact legal_ite h (resetDone_legal h ..)
  · exact coldComplete_legal h ..
  · exact h

theorem answer_legal (h : s.bcn.legal) (c : Cmd) (n : Nat) : (s.answer c n).bcn.legal := h

theorem resetPart_legal (h : s.bcn.legal) (c : Cmd) : (s.resetPart c).bcn.legal := by
  unfold resetPart
  exact legal_ite (answer_legal h ..) (legal_ite (answer_legal h ..) (beginReset_legal h ..))

theorem whenCold_legal {t : State} (h : s.bcn.legal) (k : t.bcn.legal) : (s.whenCold t).bcn.legal := by
  unfold whenCold
  exact legal_ite k h

theorem coldPowerOn_legal (h : s.bcn.legal) (b : Bring) : (s.coldPowerOn b).bcn.legal := by
  have rest (u : State) (hu : u.bcn.legal) : (u.romStart.setKprState 1).bcn.legal := by simpa using hu
  unfold coldPowerOn
  exact legal_ite h (legal_ite (rest _ (aside_legal Bcn.legal.empty _)) (aside_legal Bcn.legal.empty _))

theorem perstFall_legal (h : s.bcn.legal) : s.perstFall.bcn.legal := by
  have ht (x : HostX) : ({ s with host := x } : State).bcn.legal := h
  have rest (u : State) (hu : u.bcn.legal) : (u.romStart.setKprState 1).bcn.legal := by simpa using hu
  have low (u : State) (hu : u.bcn.legal) : (u.buoy0 0 false).bcn.legal := by simpa using hu
  unfold perstFall
  exact legal_ite (ht _) (legal_ite (rest _ (beginReset_legal (ht _) ..)) (low _ (ht _)))

theorem againOrReset_legal (h : s.bcn.legal) :
    (match s.kpr.reset with
      | some r => { s with kpr := { s.kpr with reset := some { r with again := true } } }
      | none => s.beginReset rstWarm 0 none).bcn.legal := by
  split
  · exact h
  · exact beginReset_legal h ..

theorem keeperRestart_legal (h : s.bcn.legal) : s.keeperRestart.bcn.legal := by
  have rest (u : State) (hu : u.bcn.legal) : ((u.setKprState 4).buoy0 1 false).romStart.bcn.legal := by simpa using hu
  unfold keeperRestart
  refine legal_ite h (againOrReset_legal (rest _ ?_))
  exact h

@[simp] theorem startFirmware_bcn (b : List Byte) : (s.startFirmware b).bcn = s.bcn := by
  unfold startFirmware
  simp

@[simp] theorem enterRecovery_bcn (k : Nat) : (s.enterRecovery k).bcn = s.bcn := by simp [enterRecovery]

theorem resetAgain_legal (h : s.bcn.legal) :
    (match s.kpr.reset with
      | some r => if r.again then s.beginReset rstWarm 0 none else s
      | none => s).bcn.legal := by
  split
  · exact legal_ite (beginReset_legal h ..) h
  · exact h

theorem firmwareDone_legal (h : s.bcn.legal) : s.firmwareDone.bcn.legal := by
  have run (u : State) (hu : u.bcn.legal) (b : List Byte) : (u.startFirmware b).sweepRings.bcn.legal := by simpa using hu
  have log (u : State) (hu : u.bcn.legal) : (u.logEv 0x71 0xFF []).bcn.legal := by simpa using hu
  have ht : (if s.kpr.bring.isSome then s.aside raiseStacks else s).bcn.legal := legal_ite (by rwa [aside_bcn]) h
  unfold firmwareDone
  generalize (if s.kpr.bring.isSome then s.aside raiseStacks else s) = t at ht
  refine legal_ite h ?_
  split
  · rw [sweepRings_bcn, enterRecovery_bcn]
    exact legal_ite (by rwa [bumpFree_bcn]) ht
  · exact legal_ite (run _ ht _) (resetAgain_legal (log _ (run _ ht _)))

@[simp] theorem bufRead_bcn (a n : Nat) : (s.bufRead a n).2.bcn = s.bcn := by
  unfold bufRead
  split
  · rfl
  · split
    · split <;> rfl
    · split <;> rfl

@[simp] theorem readToken_bcn (a : Nat) : (s.readToken a).2.bcn = s.bcn := by
  unfold readToken
  split <;> simp

theorem lifeMove_legal (h : s.bcn.legal) (c : Cmd) (n : Nat) : (s.lifeMove c n).bcn.legal := by
  have sec (u : State) (x : SecX) (hu : u.bcn.legal) : ({ u with sec := x } : State).bcn.legal := hu
  have log (u : State) (hu : u.bcn.legal) (d : List Byte) : (u.logEv 0x72 0xFF d).bcn.legal := by simpa using hu
  have erase (u : State) (hu : u.bcn.legal) : u.eraseOwner.bcn.legal := hu
  unfold lifeMove
  exact beginReset_legal (log _ (legal_ite (sec _ _ (legal_ite (erase _ (sec _ _ h)) (sec _ _ h)))
    (legal_ite (erase _ (sec _ _ h)) (sec _ _ h))) _) ..

theorem secLifecycle_legal (h : s.bcn.legal) (c : Cmd) : (s.secLifecycle c).bcn.legal := by
  have hr : (s.readToken (arg c.args 8 8)).2.bcn.legal := by simpa using h
  unfold secLifecycle
  refine legal_ite (answer_legal h ..) (legal_ite (answer_legal h ..) (legal_ite (answer_legal h ..) (legal_ite (lifeMove_legal h ..) ?_)))
  generalize s.readToken (arg c.args 8 8) = x at hr
  rcases x with ⟨e | b, t⟩
  · exact answer_legal hr ..
  · exact legal_ite (lifeMove_legal hr ..) (answer_legal hr ..)

end State
end Sys2Proof.Machine
end


section
/-!
PROOFS. Every step keeps the Beacon block legal.
-/

namespace Sys2Proof.Machine

namespace State

variable {s t u : State}

theorem done_legal (hs : s.bcn.legal) (h : s.done u = .next t) : t.bcn.legal := (done_keeps h).1 ▸ hs

theorem coreDone_legal (hs : s.bcn.legal) (h : s.coreDone u = .next t) : t.bcn.legal := (coreDone_keeps h).1 ▸ hs

theorem secDone_legal (hs : s.bcn.legal) (h : s.secDone u = .next t) : t.bcn.legal := by
  injection h with h; subst h; exact hs

theorem bcnDone_legal (hu : u.bcn.legal) (h : s.bcnDone u = .next t) : t.bcn.legal := by
  injection h with h; subst h; exact hu

theorem wideDone_legal (hu : u.bcn.legal) (h : s.wideDone u = .next t) : t.bcn.legal := by
  injection h with h; subst h; exact hu

end State

open State in
/-- Whatever the command, a legal Beacon block stays legal. Most commands end in an outcome that leaves the block as it was. -/
theorem exec_legal {s t : State} (hs : s.bcn.legal) (i : Instr) (h : exec i s = .next t) : t.bcn.legal := by
  have pins (u : State) (hu : u.bcn.legal) : u.refreshPins.bcn.legal := by rwa [refreshPins_bcn]
  cases i
  case bcnClkLock => exact bcnDone_legal (beaconLock_legal hs) h
  case beaconLoss => exact bcnDone_legal (beaconLoss_legal hs) h
  case mark n =>
    change (if s.markEarly n then .next s else s.bcnDone (s.mark n)) = _ at h
    split at h
    · injection h with h; exact h ▸ hs
    · exact bcnDone_legal (mark_legal hs n) h
  case occultation => exact bcnDone_legal (occult_legal hs) h
  case beaconStall => exact bcnDone_legal (beaconStall_legal hs) h
  case arm load =>
    refine bcnDone_legal (u := if s.mayArm then s.armWith load else s) ?_ h
    split
    next e => exact armWith_legal hs _ (mayArm_ne e)
    · exact hs
  case disarm => exact bcnDone_legal (disarm_legal hs) h
  case slackCharge c off x n => exact bcnDone_legal (legal_ite hs (slackCharge_legal hs ..)) h
  case cutOff => exact bcnDone_legal (legal_ite hs (cutOff_legal hs)) h
  case slipRelease => exact bcnDone_legal (slipRelease_legal hs) h
  case wordComplete c u off b => exact bcnDone_legal (legal_ite hs (wordComplete_legal hs ..)) h
  case measurementComplete ms es => exact bcnDone_legal (pins _ (measureDone_legal hs ..)) h
  case marginChange => exact bcnDone_legal (marginChange_legal hs) h
  case dieFault p b => exact wideDone_legal (dieFault_legal hs ..) h
  case bcnSetPeriod m => exact bcnDone_legal (serve_legal hs fun _ c ht => bcnSetPeriod_legal ht c) h
  case bcnArm m => exact bcnDone_legal (serve_legal hs fun _ c ht => bcnArm_legal ht c) h
  case bcnDisarm m => exact bcnDone_legal (serve_legal hs fun _ c ht => bcnDisarm_legal ht c) h
  case registerWrite a n v => exact bcnDone_legal (registerWrite_legal hs ..) h
  case debugWrite a v => exact bcnDone_legal (debugWrite_legal hs ..) h
  case completionWrite => exact secDone_legal hs h
  case resetWarm m => exact bcnDone_legal (pins _ (whenCold_legal hs (serve_legal hs fun _ c ht => beginReset_legal ht ..))) h
  case resetCompute m => exact bcnDone_legal (pins _ (whenCold_legal hs (serve_legal hs fun _ c ht => beginReset_legal ht ..))) h
  case resetPartition m => exact bcnDone_legal (pins _ (whenCold_legal hs (serve_legal hs fun _ c ht => resetPart_legal ht c))) h
  case resetComplete us ts => exact bcnDone_legal (pins _ (resetComplete_legal hs ..)) h
  case coldPowerOn b => exact wideDone_legal (pins _ (coldPowerOn_legal hs b)) h
  case powerLoss => exact wideDone_legal (pins _ powerOff_legal) h
  case inputCurrentLimit => exact wideDone_legal (pins _ powerOff_legal) h
  case perstFall => exact wideDone_legal (pins _ (perstFall_legal hs)) h
  case keeperRestart => exact wideDone_legal (pins _ (keeperRestart_legal hs)) h
  case firmwareAuthenticated => exact wideDone_legal (pins _ (firmwareDone_legal hs)) h
  case secOwnerKey m => exact secDone_legal hs h
  case secLifecycle m => exact wideDone_legal (pins _ (whenCold_legal hs (serve_legal hs fun _ c ht => secLifecycle_legal ht c))) h
  case secDebugUnlock m => exact secDone_legal hs h
  case fwUpdate m => exact secDone_legal hs h
  case fwRecover m => exact secDone_legal hs h
  all_goals first | exact done_legal hs h | exact coreDone_legal hs h

/-- Settles O5: each command either leaves the Beacon block or works on it by one of the Beacon's own operations, all of which keep it
legal. -/
theorem beaconStaysLegal : Obligations.BeaconStaysLegal := by
  unfold Obligations.BeaconStaysLegal
  intro s t hs h
  unfold step at h
  split at h
  · injection h with h
    rw [← h, State.endHalted_bcn]
    exact hs
  next c cs hp => exact exec_legal (s := { s with pending := cs }) hs c h

end Sys2Proof.Machine
end


section
/-!
PROOFS. Arming and disarming the Beacon (R35, R36), marks that are ignored (R30), and the commands that a run keeps out.
-/

namespace Sys2Proof.Machine

namespace State

variable {s : State}

/-! ### Arming -/

theorem bcnDone_self (s : State) : s.bcnDone s = .next s := rfl

theorem exec_arm (load : BitVec 48) (s : State) : exec (.arm load) s = s.bcnDone (if s.mayArm then s.armWith load else s) := rfl

/-- No arm command acts while a run is active. -/
theorem mayArm_of_active (h : s.anyActive = true) : s.mayArm = false := by simp [mayArm, h]

theorem exec_arm_active (load : BitVec 48) (h : s.anyActive = true) : exec (.arm load) s = .next s := by
  rw [exec_arm, mayArm_of_active h]
  rfl

/-- Work of which a frame is known, done aside. -/
theorem aside_of_frame {f : State → State} {t : State} (h : f s = t) :
    s.aside f = { t with bcn := s.bcn, sec := s.sec, iodC := s.iodC, rom := s.rom } := by rw [aside, h]

theorem exec_disarm (s : State) : exec .disarm s = s.bcnDone s.disarm := rfl

/-- The open arm commands complete, and nothing else changes. -/
theorem armDone_frame (n : Nat) : s.armDone n = { s with kpr := (s.armDone n).kpr } := by
  unfold armDone
  rw [completeWhere_frame]

end State

/-- Settles O13: an arm command acts where `mayArm` allows it, and only ARMED is disarmed. -/
theorem armAndDisarm : Obligations.ArmAndDisarm := by
  unfold Obligations.ArmAndDisarm
  intro s load
  refine ⟨fun hs ha hp => ?_, State.exec_arm_active load, fun h2 => ?_, fun h2 => ?_⟩
  · have hm : s.mayArm = true := by
      unfold State.mayArm
      rw [ha, hp]
      rcases hs with hs | hs <;> rw [hs] <;> rfl
    rw [State.exec_arm, hm]
    rfl
  · have hd : s.disarm = (s.setBcnState 1).clearArm.aside fun u => u.armDone Sts.bcnState := by
      unfold State.disarm
      rw [h2]
      rfl
    rw [State.aside_of_frame (State.armDone_frame _)] at hd
    rw [State.exec_disarm, hd]
    exact ⟨_, rfl, fld_setFld_same _ _ _ _ (by decide), bitAt_setBit_same _ _ _ (by decide), rfl, rfl⟩
  · have hd : s.disarm = s := by
      unfold State.disarm
      rw [if_neg (by simpa using h2)]
    rw [State.exec_disarm, hd]
    rfl

end Sys2Proof.Machine
end


section
/-!
PROOFS. While the Beacon does not count no run starts (R36, R217): what the commands that wait for their turn do to the slots' states.
-/

namespace Sys2Proof.Machine

namespace State

variable {s : State}

/-- The Beacon block stands, and no slot is STARTING that was not before. -/
def NoStart (s t : State) : Prop := t.bcn = s.bcn ∧ ∀ p, t.slotState p = 2 → s.slotState p = 2

namespace NoStart

variable {t u : State}

theorem trans (h : NoStart s t) (k : NoStart t u) : NoStart s u := ⟨k.1.trans h.1, fun p e => h.2 p (k.2 p e)⟩

theorem of_slots (hb : t.bcn = s.bcn) (hs : t.slots = s.slots) : NoStart s t :=
  ⟨hb, fun p e => by rwa [slotState, slot, hs] at e⟩

theorem of_walk (h : WalkSide s t) : NoStart s t := ⟨h.bcn, fun p e => (h.slotState p).symm.trans e⟩

theorem refl (s : State) : NoStart s s := of_slots rfl rfl

theorem ite {p : Prop} [Decidable p] (h : NoStart s t) (k : NoStart s u) : NoStart s (if p then t else u) := by split <;> assumption

/-- A slot changed, its state to none but STARTING or kept. -/
theorem of_slot (p : Nat) {f : SlotX → SlotX} (h : ∀ y : SlotX, fld (f y).sts 1 0 = 2 → fld y.sts 1 0 = 2) : NoStart s (s.updSlot p f) := by
  refine ⟨rfl, fun q e => ?_⟩
  rw [slotState, slot_updSlot] at e
  split at e
  next hq => subst hq; exact h _ e
  · exact e

theorem of_snd {α : Type} {x : α × State} {a : α} (h : x = (a, t)) (hx : NoStart s x.2) : NoStart s t := by
  subst h; exact hx

end NoStart

theorem noStart_readDa (w : Who) (a n : Nat) : NoStart s (s.readDa w a n).2 := .of_walk (readDa_walkSide ..)

theorem noStart_answer (c : Cmd) (n : Nat) : NoStart s (s.answer c n) := .of_slots rfl rfl

theorem noStart_completeWhere (p : Cmd → Bool) (x y : Nat) (r : List Byte) : NoStart s (s.completeWhere p x y r) := by
  rw [completeWhere_frame]; exact .of_slots rfl rfl

theorem noStart_beginLoad (c : Cmd) : NoStart s (s.beginLoad c) := by
  have fail (u : State) (f : ImgFail) : NoStart u (u.failLoad c f) := .of_slots rfl rfl
  have note (u : State) (b : List Byte) : NoStart u { u.noteCmd c 1 with kpr := { (u.noteCmd c 1).kpr with loading := b } } :=
    .of_slots rfl rfl
  unfold beginLoad
  refine .ite (fail ..) (.ite (fail ..) ?_)
  split
  next h => exact (NoStart.of_snd h (noStart_readDa ..)).trans (noStart_answer ..)
  next h =>
    refine .trans (.of_snd h (noStart_readDa ..)) (.ite (fail ..) ?_)
    split
    next k => exact (NoStart.of_snd k (noStart_readDa ..)).trans (noStart_answer ..)
    next k =>
      refine .trans (.of_snd k (noStart_readDa ..)) ?_
      split
      · exact fail ..
      · exact note ..

theorem noStart_beginUnload (c : Cmd) : NoStart s (s.beginUnload c) := by
  have empty (p : Nat) : NoStart s (s.emptySlot p) := by
    refine ⟨rfl, fun q e => ?_⟩
    rcases eq_or_ne q p with rfl | hq
    · rw [slotState, slot, emptySlot, Tbl.get_set_same] at e
      exact absurd e (by decide)
    · rw [slotState, slot, emptySlot, Tbl.get_set_ne _ _ _ hq] at e
      exact e
  unfold beginUnload
  exact .ite (noStart_answer ..) ((empty _).trans (noStart_answer ..))

theorem noStart_beginStage (c : Cmd) : NoStart s (s.beginStage c) := by
  unfold beginStage
  split
  next h => exact (NoStart.of_snd h (noStart_readDa ..)).trans (noStart_answer ..)
  next h =>
    refine .trans (.of_snd h (noStart_readDa ..)) (.ite (noStart_answer ..) (.ite (noStart_answer ..) (.ite (noStart_answer ..) ?_)))
    exact .of_slots rfl rfl

/-- Outside COUNTING a start is refused (R36, R217). -/
theorem startStatus_of_not_counting (h : s.bcnState ≠ 3) (p n a : Nat) : s.startStatus p n a = Sts.notCounting := by
  unfold startStatus
  rw [if_pos (by simp [counting, h])]

theorem beginStart_of_not_counting (h : s.bcnState ≠ 3) (c : Cmd) : s.beginStart c = s.answer c Sts.notCounting := by
  unfold beginStart
  dsimp only
  rw [startStatus_of_not_counting h]
  exact if_pos rfl

/-- A cancelled start leaves its slot LOADED. -/
theorem noStart_cancelStart (p why : Nat) : NoStart s (s.cancelStart p why) := by
  have release (u : State) (cs : List Nat) (off : Nat) : NoStart u (forEach cs u fun t c => t.releaseCore c off) :=
    .of_walk (.loop (fun _ _ => releaseCore_walkSide ..) _)
  have loaded (u : State) : NoStart u (u.updSlot p fun y => { y with
      sts := setFld y.sts 1 0 1, prepared := false, endRfn := 0, halt := none, mute := none, ending := none }) :=
    .of_slot p fun y e => absurd ((fld_setFld_same y.sts 1 0 1 (by decide)).symm.trans e) (by decide)
  have idle (u : State) : NoStart u { u with kpr := { u.kpr with idleMs := 0 } } := .of_slots rfl rfl
  have log (u : State) (d : List Byte) : NoStart u (u.logEv 0x12 p d) := .of_slots rfl rfl
  have bump : NoStart s s.bumpFree := .of_slots rfl rfl
  unfold cancelStart
  exact ((((bump.trans (release ..)).trans (loaded _)).trans (idle _)).trans (noStart_completeWhere ..)).trans (log ..)

theorem noStart_beginStop (c : Cmd) : NoStart s (s.beginStop c) := by
  have halt (p n k : Nat) : NoStart s (s.haltAt p n k) := .of_slot p fun _ => id
  have done (u : State) (b : List Byte) : NoStart u (u.complete c Sts.ok 0 b) := .of_slots rfl rfl
  unfold beginStop
  exact .ite ((noStart_cancelStart ..).trans (done ..))
    (.ite (noStart_answer ..) (.ite (noStart_answer ..) (.ite (noStart_answer ..) (halt ..))))

theorem noStart_updQue (p q : Nat) (f : QueueX → QueueX) : NoStart s (s.updQue p q f) := .of_slot p fun _ => id

theorem noStart_beginBind (c : Cmd) : NoStart s (s.beginBind c) := by
  unfold beginBind
  refine .ite (noStart_answer ..) ?_
  split
  · exact noStart_answer ..
  · exact (noStart_updQue ..).trans (noStart_answer ..)

theorem noStart_beginUnbind (c : Cmd) : NoStart s (s.beginUnbind c) := by
  unfold beginUnbind
  dsimp only
  split
  · exact noStart_answer ..
  · exact (noStart_updQue ..).trans (noStart_answer ..)

theorem noStart_begin (h : s.bcnState ≠ 3) (c : Cmd) : NoStart s (s.begin_ c) := by
  have start : NoStart s (s.beginStart c) := by rw [beginStart_of_not_counting h]; exact noStart_answer ..
  unfold begin_
  exact .ite (noStart_beginLoad c) (.ite (noStart_beginUnload c) (.ite (noStart_beginStage c) (.ite start
    (.ite (noStart_beginStop c) (.ite (noStart_beginBind c) (noStart_beginUnbind c))))))

theorem noStart_turns (n : Nat) : ∀ {s : State}, s.bcnState ≠ 3 → NoStart s (turns n s) := by
  induction n with
  | zero => exact fun _ => .refl _
  | succ n ih =>
    intro s h
    unfold turns
    split
    · exact .refl s
    next c _ =>
      have hb : NoStart s ((s.noteCmd c 0).begin_ { c with note := 0 }) :=
        .trans (t := s.noteCmd c 0) (.of_slots rfl rfl) (noStart_begin (s := s.noteCmd c 0) h _)
      exact hb.trans (ih (by rw [bcnState, hb.1]; exact h))

theorem noStart_order (h : s.bcnState ≠ 3) (c : Cmd) : NoStart s (s.order c) :=
  .trans (t := s.noteCmd c held) (.of_slots rfl rfl) (noStart_turns _ h)

/-! ### Serving a command -/

/-- What a command that is served comes to: Keeper and host registers alone, or its own work on a state that differs in these. -/
theorem serve_cases (op len : Nat) (used : List (Nat × Nat)) (m : Mbox) (body : State → Cmd → State) :
    KeeperSide s (s.serve op len used m body) ∨ ∃ t c, KeeperSide s t ∧ s.serve op len used m body = body t c := by
  have hs : KeeperSide s (if s.takes op m then s else s.sweepRings) := by
    split
    · rfl
    · exact (skipUnknown_frame ..).1
  have ht (u : State) : KeeperSide u (u.taken op m).2 := rfl
  have ha (u : State) (c : Cmd) (n : Nat) : KeeperSide u (u.answer c n) := rfl
  unfold serve
  generalize (if s.takes op m then s else s.sweepRings) = u at hs
  dsimp only
  split
  · exact .inl hs
  · split
    · exact .inl ((hs.trans (ht u)).trans (ha ..))
    · split
      · exact .inl ((hs.trans (ht u)).trans (ha ..))
      · split
        · exact .inl ((hs.trans (ht u)).trans (ha ..))
        · exact .inr ⟨_, _, hs.trans (ht u), rfl⟩

theorem noStart_runStart (h : s.bcnState ≠ 3) (c : Cmd) : NoStart s (s.runStart c) := by
  unfold runStart
  exact .ite (noStart_answer ..) (.ite (noStart_answer ..) (noStart_order h c))

theorem noStart_serve_runStart (h : s.bcnState ≠ 3) (m : Mbox) :
    NoStart s (s.serve Op.runStart 32 [(0, 2), (8, 24)] m State.runStart) := by
  rcases serve_cases (s := s) Op.runStart 32 [(0, 2), (8, 24)] m State.runStart with hk | ⟨t, c, hk, he⟩
  · exact .of_slots (by rw [hk]) (by rw [hk])
  · have ht : NoStart s t := .of_slots (by rw [hk]) (by rw [hk])
    exact he ▸ ht.trans (noStart_runStart (by rw [bcnState, ht.1]; exact h) c)

/-! ### Arm commands during a run -/

/-- With a run active `BCN_ARM` is answered, and the Beacon block stands. -/
theorem bcnArm_of_active (h : s.anyActive = true) (c : Cmd) :
    s.bcnArm c = s.answer c (if 2 ^ 48 ≤ arg c.args 0 8 then Sts.badArg else Sts.runActive) := by
  unfold bcnArm
  rw [if_pos h]
  split <;> rfl

theorem bcnArm_in_range (h : s.anyActive = true) {c : Cmd} (hn : arg c.args 0 8 < 2 ^ 48) : s.bcnArm c = s.answer c Sts.runActive := by
  rw [bcnArm_of_active h, if_neg (Nat.not_le.mpr hn)]

theorem serve_bcnArm_bcn (h : s.anyActive = true) (m : Mbox) : (s.serve Op.bcnArm 8 [(0, 8)] m State.bcnArm).bcn = s.bcn := by
  rcases serve_cases (s := s) Op.bcnArm 8 [(0, 8)] m State.bcnArm with hk | ⟨t, c, hk, he⟩
  · rw [hk]
  · have ht : t.anyActive = true := by rw [hk]; exact h
    rw [he, bcnArm_of_active ht, answer_bcn, hk]

/-! ### Orderly commands -/

/-- A command that no other is open with begins at once. -/
theorem order_alone {c : Cmd} (h : s.kpr.accepted = [c]) :
    s.order c = ((s.noteCmd c held).noteCmd { c with note := held } 0).begin_ { c with note := 0 } := by
  have hheld : (s.noteCmd c held).kpr.accepted = [{ c with note := held }] := by
    simp [noteCmd, h, replaceCmd, sameCmd]
  rw [order, pump, hheld]
  simp only [List.length_singleton, turns, hheld, firstReady, beq_self_eq_true, List.any_nil, Bool.not_false, Bool.and_self, if_true]

theorem begin_runStart {c : Cmd} (h : c.opcode = Op.runStart) : s.begin_ c = s.beginStart c := by
  unfold begin_
  rw [h]
  rfl

/-- Alone, a command that answers at its turn might have answered at once. -/
theorem answer_noted {c : Cmd} (h : s.kpr.accepted = [c]) (st : Nat) :
    ((s.noteCmd c held).noteCmd { c with note := held } 0).answer { c with note := 0 } st = s.answer c st := by
  have hdone : ((s.noteCmd c held).noteCmd { c with note := held } 0).fnWord = s.fnWord := rfl
  unfold answer complete
  rw [hdone]
  simp [noteCmd, h, replaceCmd, dropCmd, sameCmd]

/-- An orderly start, alone and outside COUNTING, is answered NOT_COUNTING (R217). -/
theorem runStart_alone {c : Cmd} (hb : s.bcnState ≠ 3) (hacc : s.kpr.accepted = [c]) (hop : c.opcode = Op.runStart)
    (hp : arg c.args 0 1 < 8) (hf : arg c.args 1 1 < 2) (hs : arg c.args 8 8 < 2 ^ 48) (he : arg c.args 24 8 < 2 ^ 48)
    (hl : s.sec.life ≠ 3) :
    s.runStart c = s.answer c Sts.notCounting := by
  unfold runStart
  rw [if_neg (by simp only [Bool.or_eq_true, decide_eq_true_eq]; omega), if_neg (by simpa [retired] using hl), order_alone hacc]
  exact ((begin_runStart (c := { c with note := 0 }) hop).trans
    (beginStart_of_not_counting (s := (s.noteCmd c held).noteCmd _ 0) hb _)).trans (answer_noted hacc _)

end State

/-- Settles O59: an arm command finds the run active, and a start that does not count the flashes. -/
theorem armsAndStartsRejected : Obligations.ArmsAndStartsRejected := by
  unfold Obligations.ArmsAndStartsRejected
  intro s m
  refine ⟨fun h => ⟨fun load => State.exec_arm_active load h, ⟨_, rfl, State.serve_bcnArm_bcn h m⟩, fun hm hn => ?_⟩,
    fun h => ⟨⟨_, rfl, fun p _ => (State.noStart_serve_runStart h m).2 p⟩, fun hm hp hf hs he hl ha => ?_⟩⟩
  · have hserve := (State.serve_asked hm State.bcnArm).trans (State.bcnArm_in_range (s := s.begun Op.bcnArm m) (c := s.cmdOf Op.bcnArm m) h hn)
    exact ⟨(s.begun Op.bcnArm m).answer (s.cmdOf Op.bcnArm m) Sts.runActive, congrArg s.bcnDone hserve, State.replied_answer rfl rfl rfl _, rfl⟩
  · have hacc : (s.begun Op.runStart m).kpr.accepted = [s.cmdOf Op.runStart m] := congrArg (· ++ [s.cmdOf Op.runStart m]) ha
    have hserve := (State.serve_asked hm State.runStart).trans
      (State.runStart_alone (s := s.begun Op.runStart m) (c := s.cmdOf Op.runStart m) h hacc rfl hp hf hs he hl)
    exact State.answersOnly (i := exec (.runStart m)) (congrArg s.done hserve)

end Sys2Proof.Machine
end


section
/-!
PROOFS. Marks and absent marks that leave the runs alone (R30, R49).
-/

namespace Sys2Proof.Machine

namespace State

variable {s : State}

theorem exec_mark_of_late {edges : Nat} (h : s.markEarly edges = false) : exec (.mark edges) s = s.bcnDone (s.mark edges) := by
  change execMark edges s = _
  unfold execMark
  rw [if_neg (by simp [h])]

/-- A mark off the phase is stray (R30). -/
theorem mark_stray {edges : Nat} (h3 : s.bcnState = 3) (he : (s.bcn.phase + edges) % s.period ≠ 0) :
    s.mark edges = s.strayMark ((s.bcn.phase + edges) % s.period) := by
  unfold mark
  rw [h3]
  exact if_neg he

theorem markEarly_of_stray {edges : Nat} (he : (s.bcn.phase + edges) % s.period ≠ 0) : s.markEarly edges = false := by
  simp [markEarly, he]

end State

/-- Settles O11: a mark off the phase is counted, flagged and logged. -/
theorem strayMarkIgnored : Obligations.StrayMarkIgnored := by
  unfold Obligations.StrayMarkIgnored
  intro s edges h3 he
  have hexec := State.exec_mark_of_late (State.markEarly_of_stray he)
  rw [State.mark_stray h3 he] at hexec
  refine ⟨s.strayMark ((s.bcn.phase + edges) % s.period), hexec, rfl, ?_, ?_, rfl, ?_, rfl, rfl⟩
  · exact fld_setBit_apart s.bcn.sts 11 23 16 true (by decide)
  · exact (fld_setBit_apart s.bcn.sts 11 2 0 true (by decide)).trans h3
  · exact bitAt_setBit_same s.bcn.sts 11 true (by decide)

end Sys2Proof.Machine
end


section
/-!
PROOFS. The slack meter: requests for an occultation, the cut-off, and the charge of a late cycle (R40-R49).
-/

namespace Sys2Proof.Machine

namespace State

variable {s t u : State}

/-! ### What depends on neither the meter nor the Beacon's flags -/

/-- Only the Beacon block, registers of cores and pins differ, and of these neither the flash number nor where a stream lies. -/
structure MeterSide (s t : State) : Prop where
  frame : t = { s with bcn := t.bcn, coreR := t.coreR, pins := t.pins }
  fn : t.bcn.fn = s.bcn.fn
  stream : ∀ c, t.core c R.seqStream = s.core c R.seqStream

namespace MeterSide

theorem refl (s : State) : MeterSide s s := ⟨rfl, rfl, fun _ => rfl⟩

theorem trans (h : MeterSide s t) (k : MeterSide t u) : MeterSide s u :=
  ⟨by rw [k.frame, h.frame], k.fn.trans h.fn, fun c => (k.stream c).trans (h.stream c)⟩

theorem slot (h : MeterSide s t) (p : Nat) : t.slot p = s.slot p := by rw [h.frame]; rfl
theorem slotState (h : MeterSide s t) (p : Nat) : t.slotState p = s.slotState p := by rw [h.frame]; rfl
theorem cxOf (h : MeterSide s t) (c : Nat) : t.cxOf c = s.cxOf c := by rw [h.frame]; rfl
theorem slotCores (h : MeterSide s t) (p : Nat) : t.slotCores p = s.slotCores p := by rw [h.frame]; rfl

theorem peek (h : MeterSide s t) (a n : Nat) : t.peek a n = s.peek a n := by
  have hp (c : Nat) : t.presented c = s.presented c := by rw [h.frame]; rfl
  have hl : t.locate a = s.locate a := by simp only [State.locate, hp]
  have hb : t.peekByte = s.peekByte := by rw [h.frame]; rfl
  rw [State.peek, hl, hb]
  rfl

theorem muted (h : MeterSide s t) (p f : Nat) : t.muted p f = s.muted p f := by
  unfold State.muted; rw [h.slot]

theorem curRfn (h : MeterSide s t) (p : Nat) : t.curRfn p = s.curRfn p := by
  unfold State.curRfn State.rfnOf State.fn; rw [h.slot, h.slotState, h.fn]

theorem wordDa (h : MeterSide s t) (c n : Nat) : t.wordDa c n = s.wordDa c n := by
  unfold State.wordDa; rw [h.stream]

theorem aheadFrom (h : MeterSide s t) (c f : Nat) (e : StreamEnt) (k : Nat) :
    ∀ pos rfn, t.aheadFrom c f e k pos rfn = s.aheadFrom c f e k pos rfn := by
  induction k with
  | zero => exact fun _ _ => rfl
  | succ k ih =>
    intro pos rfn
    unfold State.aheadFrom
    simp only [h.wordDa, h.peek, ih]

theorem deadlineOpen (h : MeterSide s t) (p c f : Nat) : t.deadlineOpen p c f = s.deadlineOpen p c f := by
  unfold State.deadlineOpen State.openWords State.streamEnt?
  simp only [h.cxOf, h.slot, h.aheadFrom]

end MeterSide

/-! ### Requests -/

/-- `SLIP_L` is driven low, and `SLIP_STS` shows it. -/
def slipLow (s : State) : Prop := s.pins.slip = true ∧ bitAt s.bcn.sts 13 = true

/-- Requests for an occultation have come up, and with each `SLIP_L` is driven low. -/
structure AddsRequests (s t : State) : Prop extends MeterSide s t where
  stand : ∀ c, s.requests c = true → t.requests c = true
  slip : s.slipLow → t.slipLow
  drives : ∀ c, s.requests c = false → t.requests c = true → t.slipLow

namespace AddsRequests

theorem refl (s : State) : AddsRequests s s := ⟨.refl s, fun _ => id, id, fun c h k => by simp [h] at k⟩

theorem trans (h : AddsRequests s t) (k : AddsRequests t u) : AddsRequests s u := by
  refine ⟨h.toMeterSide.trans k.toMeterSide, fun c r => k.stand c (h.stand c r), fun d => k.slip (h.slip d), fun c hs hu => ?_⟩
  cases ht : t.requests c with
  | false => exact k.drives c ht hu
  | true => exact k.slip (h.drives c hs ht)

end AddsRequests

variable (p c k : Nat)

/-- A request that is not kept back sets the core's bit and drives `SLIP_L` (R45, R46). -/
theorem request_of_free (hr : s.requests c = false) (hm : s.muted p (s.curRfn p) = false) :
    ∃ v w, bitAt v 16 = true ∧ s.request p c k =
      { (s.setCore c R.seqSlkCur v).setCore c R.seqSlkSlip w with
        bcn := { s.bcn with sts := setBit s.bcn.sts 13 true }, pins := { s.pins with slip := true } } := by
  refine ⟨setBit (s.core c R.seqSlkCur) 16 true,
    setFld (incFld (setFld ((s.setCore c R.seqSlkCur (setBit (s.core c R.seqSlkCur) 16 true)).core c R.seqSlkSlip) 50 48 k) 47 16 1)
      15 0 (s.curRfn p), bitAt_setBit_same (s.core c R.seqSlkCur) 16 true (by decide), ?_⟩
  unfold request
  rw [if_neg (by simp [hr, hm])]
  rfl

theorem request_of_kept (h : (s.requests c || s.muted p (s.curRfn p)) = true) : s.request p c k = s := if_pos h

theorem requests_request : (s.request p c k).requests c = (s.requests c || !s.muted p (s.curRfn p)) := by
  cases hr : s.requests c with
  | true => rw [request_of_kept _ _ _ (by simp [hr]), hr, Bool.true_or]
  | false =>
    cases hm : s.muted p (s.curRfn p) with
    | true => rw [request_of_kept _ _ _ (by simp [hm]), hr]; rfl
    | false =>
      obtain ⟨v, w, hv, he⟩ := request_of_free p c k hr hm
      rw [he]
      change bitAt (((s.setCore c R.seqSlkCur v).setCore c R.seqSlkSlip w).core c R.seqSlkCur) 16 = _
      rw [core_setCore, if_neg (fun e => absurd e.2 (by decide)), core_setCore, if_pos ⟨rfl, rfl⟩, hv]
      rfl

theorem core_request {c' off : Nat} (h : off ≠ R.seqSlkCur) (h' : off ≠ R.seqSlkSlip) :
    (s.request p c k).core c' off = s.core c' off := by
  unfold request
  split
  · rfl
  · change (((s.setCore c R.seqSlkCur _).setCore c R.seqSlkSlip _).core c' off) = _
    rw [core_setCore, if_neg fun e => h' e.2, core_setCore, if_neg (fun e => h e.2)]

theorem request_addsRequests : AddsRequests s (s.request p c k) := by
  by_cases hk : (s.requests c || s.muted p (s.curRfn p)) = true
  · rw [request_of_kept _ _ _ hk]; exact .refl s
  · simp only [Bool.or_eq_true, not_or, Bool.not_eq_true] at hk
    obtain ⟨v, w, hv, he⟩ := request_of_free p c k hk.1 hk.2
    have hd : (s.request p c k).slipLow := by
      rw [he]; exact ⟨rfl, bitAt_setBit_same s.bcn.sts 13 true (by decide)⟩
    refine ⟨⟨by rw [he]; rfl, by rw [he], fun c' => core_request p c k (by decide) (by decide)⟩, fun c' hc => ?_, fun _ => hd, fun _ _ _ => hd⟩
    rw [he]
    change bitAt (((s.setCore c R.seqSlkCur v).setCore c R.seqSlkSlip w).core c' R.seqSlkCur) 16 = true
    rw [core_setCore, if_neg (fun e => absurd e.2 (by decide)), core_setCore]
    split
    · exact hv
    · exact hc

/-! ### The cut-off -/

/-- A core may request at the cut-off: it has a slack, and a deadline operation of the flash is incomplete (R45). -/
def slackOpen (s : State) (p c : Nat) : Bool := (s.cxOf c).slack.isSome && s.deadlineOpen p c (s.curRfn p)

/-- The request of one core at the cut-off. -/
def cutCore (p : Nat) (s : State) (c : Nat) : State :=
  if s.slackOpen p c then s.request p c (if (s.cxOf c).firstPast = 0 then s.topCause c else (s.cxOf c).firstPast) else s

/-- The requests of one run at the cut-off. -/
def cutSlot (s : State) (p : Nat) : State := if s.slotState p == 3 then forEach (s.slotCores p) s (cutCore p) else s

theorem cutOff_eq (h : s.bcnState = 3) : s.cutOff = forEach (List.range 8) s cutSlot := by
  unfold cutOff
  rw [if_neg (by simp [h])]
  rfl

theorem MeterSide.slackOpen (h : MeterSide s t) : t.slackOpen p c = s.slackOpen p c := by
  unfold State.slackOpen
  rw [h.cxOf, h.curRfn, h.deadlineOpen]

theorem cutCore_addsRequests : AddsRequests s (cutCore p s c) := by
  unfold cutCore
  split
  · exact request_addsRequests ..
  · exact .refl s

theorem cutSlot_addsRequests : AddsRequests s (s.cutSlot p) := by
  unfold cutSlot
  split
  · exact forEach_keeps (P := AddsRequests s) _ (fun u c _ h => h.trans (cutCore_addsRequests p c)) (.refl s)
  · exact .refl s

theorem cutOff_addsRequests (h : s.bcnState = 3) : AddsRequests s s.cutOff := by
  rw [cutOff_eq h]
  exact forEach_keeps (P := AddsRequests s) _ (fun u q _ h => h.trans (cutSlot_addsRequests q)) (.refl s)

/-- A core that may, whose run is not silenced, requests in its turn. -/
theorem requests_cutCore (h : s.slackOpen p c = true) (hm : s.muted p (s.curRfn p) = false) : (cutCore p s c).requests c = true := by
  rw [cutCore, if_pos h, requests_request, hm]
  simp

theorem requests_cutOff {p c : Nat} (h3 : s.bcnState = 3) (hp : p < 8) (hrun : s.slotState p = 3) (hc : c ∈ s.slotCores p)
    (ho : s.slackOpen p c = true) (hm : s.muted p (s.curRfn p) = false) : s.cutOff.requests c = true := by
  have inner (u : State) (hu : AddsRequests s u) : (u.cutSlot p).requests c = true := by
    rw [cutSlot, if_pos (by rw [hu.slotState, hrun]; rfl), hu.slotCores]
    refine forEach_reaches (P := fun v => v.requests c = true) (Q := AddsRequests s) (a := c)
      (fun v b hv => hv.trans (cutCore_addsRequests p b)) (fun v hv => ?_) (fun v b _ hv => (cutCore_addsRequests p b).stand c hv) hc hu
    exact requests_cutCore p c (by rw [hv.toMeterSide.slackOpen, ho]) (by rw [hv.muted, hv.curRfn, hm])
  rw [cutOff_eq h3]
  exact forEach_reaches (P := fun v => v.requests c = true) (Q := AddsRequests s) (a := p)
    (fun v b hv => hv.trans (cutSlot_addsRequests b)) inner (fun v b _ hv => (cutSlot_addsRequests b).stand c hv) (List.mem_range.mpr hp)
    (.refl s)

theorem exec_cutOff (h : s.thm.trip = false) : exec .cutOff s = s.bcnDone s.cutOff := by
  change s.bcnDone (if s.thm.trip then s else s.cutOff) = _
  rw [if_neg (by simp [h])]

theorem exec_slipRelease (s : State) : exec .slipRelease s = s.bcnDone s.slipRelease := rfl

end State

/-- Settles O14: the cores' requests at the cut-off only add up, each core's turn makes its own, and the release asks whether one stands. -/
theorem slipFollowsRequests : Obligations.SlipFollowsRequests := by
  unfold Obligations.SlipFollowsRequests
  refine ⟨fun s => ⟨fun hnone => ?_, fun ⟨c, hc, hr⟩ => ?_⟩, fun s p c htrip h3 hp hrun hc hslack hopen hm => ?_⟩
  · rw [State.exec_slipRelease, State.slipRelease, if_neg (by simpa using hnone)]
    rfl
  · rw [State.exec_slipRelease, State.slipRelease, if_pos (List.any_eq_true.mpr ⟨c, List.mem_range.mpr hc, hr⟩), State.bcnDone_self]
  · have hside := State.cutOff_addsRequests h3
    have hreq : s.cutOff.requests c = true := State.requests_cutOff h3 hp hrun hc (by rw [State.slackOpen, hslack, hopen]; rfl) hm
    refine ⟨s.cutOff, ?_, hreq, fun hn => hside.drives c hn hreq, hside.fn, hside.frame⟩
    rw [State.exec_cutOff htrip, hside.frame]
    rfl

end Sys2Proof.Machine
end


section
/-!
PROOFS. The charge of a late cycle (R41, R42, R45).
-/

namespace Sys2Proof.Machine

/-- The first number that a predicate holds of heads those that it holds of. -/
theorem filter_range_first {P : Nat → Bool} {k : Nat} (hk : P k = true) (hlt : ∀ j < k, P j = false) :
    ∀ n, k < n → ∃ l, (List.range n).filter P = k :: l
  | n + 1, h => by
    rw [List.range_succ, List.filter_append]
    rcases Nat.lt_succ_iff_lt_or_eq.mp h with h | rfl
    · obtain ⟨l, hl⟩ := filter_range_first hk hlt n h
      exact ⟨l ++ [n].filter P, by rw [hl]; rfl⟩
    · have hnone : (List.range k).filter P = [] := by simpa using fun j hj => hlt j hj
      exact ⟨[], by simp [hnone, hk]⟩

namespace State

variable {s : State} {p c k off place : Nat} {causes : BitVec 8}

/-- The lowest cause that may be charged is the first. -/
theorem lateCauses_first (h1 : 1 ≤ k) (h8 : k < 8) (hk : causes.getLsbD k = true) (hd : k = 1 → s.dampLate p c off = true)
    (hr : k = 2 → s.refreshBeyond place = true)
    (hlow : ∀ j, 1 ≤ j → j < k → causes.getLsbD j = true →
      (j = 1 ∧ s.dampLate p c off = false) ∨ (j = 2 ∧ s.refreshBeyond place = false)) :
    ∃ l, s.lateCauses p c off place causes = k :: l := by
  refine filter_range_first ?_ (fun j hj => ?_) 8 h8
  · simp only [Bool.and_eq_true, Bool.or_eq_true, bne_iff_ne]
    exact ⟨⟨⟨by omega, hk⟩, (em (k = 1)).symm.imp_right hd⟩, (em (k = 2)).symm.imp_right hr⟩
  · rcases Nat.eq_zero_or_pos j with rfl | h
    · rfl
    · cases hc : causes.getLsbD j with
      | false => simp
      | true => rcases hlow j h hj hc with ⟨rfl, hf⟩ | ⟨rfl, hf⟩ <;> simp [hf]

/-- The cycle entered in the core's own record, in the counter of its cause and in `SEQ_SLK_CUR`. -/
def charged (s : State) (c k : Nat) : State :=
  let t := s.updCx c fun x => { x with charges := x.charges.upd 0 k (· + 1) }
  let u := t.updCore c (R.seqSlkCause k) fun w => incFld w 47 0 1
  u.updCore c R.seqSlkCur fun w => setFld (setFld w 15 0 (min (t.lateness c) 65535)) 50 48 (u.topCause c)

/-- The cause of the first charge past the slack noted. -/
def notePast (s : State) (c n : Nat) : State := s.updCx c fun x => { x with firstPast := n }

/-- A charge within the slack, and one past it, with which the core requests (R45). -/
theorem charge_eq {slack : Nat} (h : (s.cxOf c).slack = some slack) :
    s.charge p c k = if (s.charged c k).lateness c ≤ slack then s.charged c k
      else
        let first := if ((s.charged c k).cxOf c).firstPast = 0 then k else ((s.charged c k).cxOf c).firstPast
        ((s.charged c k).notePast c first).request p c first := by
  unfold charge
  rw [h]
  rfl

theorem seqSlkCause_ne {j : Nat} (h1 : 1 ≤ j) (h8 : j < 8) : R.seqSlkCause j ≠ R.seqSlkCur ∧ R.seqSlkCause j ≠ R.seqSlkSlip := by
  unfold R.seqSlkCause R.seqSlkCur R.seqSlkSlip
  omega

theorem seqSlkCause_inj {j : Nat} (h1 : 1 ≤ j) (hk : 1 ≤ k) (h : R.seqSlkCause j = R.seqSlkCause k) : j = k := by
  unfold R.seqSlkCause at h
  omega

/-- A charge counts for its own cause (R42). -/
theorem core_charged_cause {j : Nat} (h1 : 1 ≤ j) (h8 : j < 8) (hk : 1 ≤ k) : (s.charged c k).core c (R.seqSlkCause j) =
    if j = k then incFld (s.core c (R.seqSlkCause k)) 47 0 1 else s.core c (R.seqSlkCause j) := by
  unfold charged updCore
  rw [core_setCore, if_neg fun e => (seqSlkCause_ne h1 h8).1 e.2, core_setCore]
  by_cases h : j = k
  · rw [if_pos ⟨rfl, by rw [h]⟩, if_pos h]; rfl
  · rw [if_neg fun e => h (seqSlkCause_inj h1 hk e.2), if_neg h]; rfl

/-- Late cycles reach neither memory nor the Keeper nor slots. -/
abbrev ChargeSide (s t : State) : Prop := t = { s with bcn := t.bcn, coreR := t.coreR, cx := t.cx, pins := t.pins }

theorem chargeSide_charged (s : State) (c k : Nat) : ChargeSide s (s.charged c k) := rfl

theorem ChargeSide.notePast {t : State} (n : Nat) (h : ChargeSide s t) : ChargeSide s (t.notePast c n) := by
  rw [h]; rfl

theorem ChargeSide.request {t : State} (h : ChargeSide s t) : ChargeSide s (t.request p c k) := by
  rw [(request_addsRequests p c k).frame, h]

theorem core_notePast (s : State) (c n c' off : Nat) : (s.notePast c n).core c' off = s.core c' off := rfl

theorem requests_charged (h1 : 1 ≤ k) (h8 : k < 8) : (s.charged c k).requests c = s.requests c := by
  unfold charged requests updCore
  rw [core_setCore, if_pos ⟨rfl, rfl⟩, bitAt_setFld_apart _ _ _ _ _ (by decide), bitAt_setFld_apart _ _ _ _ _ (by decide), core_setCore,
    if_neg fun e => (seqSlkCause_ne h1 h8).1 e.2.symm]
  rfl

/-- What a charge comes to: the meter with the cycle entered, and past the slack a request of the core. -/
theorem charge_cases {slack : Nat} (h : (s.cxOf c).slack = some slack) :
    (s.charge p c k = s.charged c k ∧ (s.charged c k).lateness c ≤ slack) ∨
      ∃ n, s.charge p c k = ((s.charged c k).notePast c n).request p c n := by
  rw [charge_eq h]
  split
  next hle => exact .inl ⟨rfl, hle⟩
  · exact .inr ⟨_, rfl⟩

theorem charge_frame {slack : Nat} (h : (s.cxOf c).slack = some slack) : ChargeSide s (s.charge p c k) := by
  rcases charge_cases h with ⟨he, -⟩ | ⟨n, he⟩
  · rw [he]; rfl
  · rw [he]
    exact ((chargeSide_charged s c k).notePast n).request

theorem core_charge_cause {slack j : Nat} (h : (s.cxOf c).slack = some slack) (h1 : 1 ≤ j) (h8 : j < 8) (hk : 1 ≤ k) :
    (s.charge p c k).core c (R.seqSlkCause j) =
      if j = k then incFld (s.core c (R.seqSlkCause k)) 47 0 1 else s.core c (R.seqSlkCause j) := by
  rcases charge_cases h with ⟨he, -⟩ | ⟨n, he⟩
  · rw [he, core_charged_cause h1 h8 hk]
  · rw [he, core_request _ _ _ (seqSlkCause_ne h1 h8).1 (seqSlkCause_ne h1 h8).2, core_notePast,
      core_charged_cause h1 h8 hk]

/-- Past its slack a core requests, its run not silenced, and its first request drives `SLIP_L` low (R45, R46). -/
theorem requests_charge {slack : Nat} (h : (s.cxOf c).slack = some slack) (h1 : 1 ≤ k) (h8 : k < 8)
    (hlate : slack < (s.charge p c k).lateness c) (hm : s.muted p (s.curRfn p) = false) :
    (s.charge p c k).requests c = true ∧ (s.requests c = false → (s.charge p c k).pins.slip = true) := by
  rcases charge_cases h with ⟨he, hle⟩ | ⟨n, he⟩
  · rw [he] at hlate
    omega
  · have hside := request_addsRequests (s := (s.charged c k).notePast c n) p c n
    have hreq : (s.charge p c k).requests c = true := by
      have hm' : ((s.charged c k).notePast c n).muted p (((s.charged c k).notePast c n).curRfn p) = false := hm
      rw [he, requests_request, hm']
      simp
    refine ⟨hreq, fun hs => ?_⟩
    rw [he] at hreq ⊢
    exact (hside.drives c ((requests_charged h1 h8).trans hs) hreq).1

theorem exec_slackCharge (h : s.thm.trip = false) (core : Core) (off : Nat) (causes : BitVec 8) (place : Fin 8256) :
    exec (.slackCharge core off causes place) s = s.bcnDone (s.slackCharge core.val off causes place.val) := by
  change s.bcnDone (if s.thm.trip then s else s.slackCharge core.val off causes place.val) = _
  rw [if_neg (by simp [h])]

theorem slackCharge_eq (hslot : s.slotOf c = some p) (hrun : s.slotState p = 3) (ho : s.deadlineOpen p c (s.curRfn p) = true) {l : List Nat}
    (hl : s.lateCauses p c off place causes = k :: l) : s.slackCharge c off causes place = s.charge p c k := by
  unfold slackCharge
  rw [hslot]
  dsimp only
  rw [hl]
  exact if_pos (by rw [hrun, ho]; rfl)

end State

/-- Settles O15: the first cause that may be charged is the lowest, and its charge counts once. -/
theorem slackIsCharged : Obligations.SlackIsCharged := by
  unfold Obligations.SlackIsCharged
  intro s core off causes place p k slack htrip hslot hrun hopen hslack h1 h8 hk hd hr hlow
  obtain ⟨l, hl⟩ := State.lateCauses_first h1 h8 hk hd hr hlow
  have hframe := State.charge_frame (p := p) (k := k) hslack
  refine ⟨s.charge p core.val k, ?_, ?_, fun j hj1 hj8 hj => ?_, State.requests_charge hslack h1 h8, ?_, ?_, ?_⟩
  · rw [State.exec_slackCharge htrip, State.slackCharge_eq hslot hrun hopen hl, hframe]
    rfl
  · rw [State.core_charge_cause hslack h1 h8 h1, if_pos rfl]
  · rw [State.core_charge_cause hslack hj1 hj8 h1, if_neg hj]
  all_goals rw [hframe]

end Sys2Proof.Machine
end


section
/-!
PROOFS. The reference clock locks and is lost (R34, R35, R51, R372, R375).
-/

namespace Sys2Proof.Machine

namespace State

variable {s : State}

/-! ### Buoys -/

theorem bitAt_buoy0 (s : State) {b : Nat} (hb : b < 64) (v : Bool) : bitAt (s.buoy0 b v).host.buoy0 b = v := by
  unfold buoy0
  split_ifs with h
  · exact h
  · rw [raise_frame]; exact bitAt_setBit_same _ _ _ hb

theorem setLnkState_buoy0 (s : State) (j v : Nat) : (s.setLnkState j v).host.buoy0 = s.host.buoy0 := by rw [setLnkState_frame]

/-! ### Chip links that wait for the lock -/

/-- Port j sees its partner, its I/O die is in service, and it is DOWN with the Beacon locked, or trains already. -/
structure Waits (s : State) (j : Nat) : Prop where
  signal : (s.clx j).signal = true
  locked : s.bcn.locked = true
  unfenced : s.map.iodFenced.getLsbD (j / 6) = false
  state : s.lnkState j = lnkDown ∨ s.lnkState j = lnkTraining

/-- One port's turn. -/
def trainTurn (s : State) (j : Nat) : State := if s.mayTrain j then s.trainLink j else s

theorem trainLinks_eq (s : State) : s.trainLinks = forEach (List.range 24) s trainTurn := rfl

theorem trainLink_bcn (j : Nat) : (s.trainLink j).bcn = s.bcn := by rw [linkSide_trainLink]
theorem trainLink_map (j : Nat) : (s.trainLink j).map = s.map := by rw [linkSide_trainLink]

theorem clx_trainLink_ne {j k : Nat} (h : k ≠ j) : (s.trainLink j).clx k = s.clx k := by
  rw [trainLink, clx_updCl, if_neg h, clx_setLnkState]

theorem trainTurn_buoy0 (j : Nat) : (s.trainTurn j).host.buoy0 = s.host.buoy0 := by
  unfold trainTurn
  split
  · exact setLnkState_buoy0 ..
  · rfl

theorem trainLinks_buoy0 : s.trainLinks.host.buoy0 = s.host.buoy0 := by
  rw [trainLinks_eq]
  exact forEach_keeps (P := fun u : State => u.host.buoy0 = s.host.buoy0) (f := trainTurn) (s := s) (List.range 24)
    (fun _ j _ h => (trainTurn_buoy0 j).trans h) rfl

/-- The state of a port set leaves that of the others. -/
theorem lnk_setLnkState_ne {j q : Nat} (h : q ≠ j) (v : Nat) : (s.setLnkState j v).lnk q 0 = s.lnk q 0 := by
  have hb (t : State) : (t.buoy1 j (v == lnkUp)).lnk q 0 = t.lnk q 0 := by simp [lnk, iod]
  unfold setLnkState
  dsimp only
  rw [hb]
  split_ifs <;> simp [lnk_updLnk, h]

theorem lnkState_trainLink_ne {j q : Nat} (h : q ≠ j) : (s.trainLink j).lnkState q = s.lnkState q := by
  rw [trainLink, lnkState_updCl, lnkState, lnk_setLnkState_ne h, ← lnkState]

/-- A port that waits begins to train in its turn. -/
theorem Waits.trains {j : Nat} (h : s.Waits j) : (s.trainTurn j).lnkState j = lnkTraining := by
  unfold trainTurn
  rcases h.state with hd | ht
  · rw [if_pos (by simp [mayTrain, h.signal, h.locked, h.unfenced, hd]), lnkState_trainLink, h.signal, h.unfenced]
    rfl
  · rw [if_neg (by simp [mayTrain, ht]), ht]

theorem Waits.trainTurn {j : Nat} (h : s.Waits j) (k : Nat) : (s.trainTurn k).Waits j := by
  have hside : (s.trainTurn k).bcn = s.bcn ∧ (s.trainTurn k).map = s.map := by
    unfold State.trainTurn
    split
    · exact ⟨trainLink_bcn k, trainLink_map k⟩
    · exact ⟨rfl, rfl⟩
  refine ⟨?_, by rw [hside.1]; exact h.locked, by rw [hside.2]; exact h.unfenced, ?_⟩
  · unfold State.trainTurn
    split
    · rcases eq_or_ne j k with rfl | hjk
      · rw [clx_trainLink]; exact h.signal
      · rw [clx_trainLink_ne hjk]; exact h.signal
    · exact h.signal
  · rcases eq_or_ne j k with rfl | hjk
    · exact .inr h.trains
    · unfold State.trainTurn
      split
      · rw [lnkState_trainLink_ne hjk]; exact h.state
      · exact h.state

theorem trains_trainLinks {j : Nat} (hj : j < 24) (h : s.Waits j) : s.trainLinks.lnkState j = lnkTraining := by
  rw [trainLinks_eq]
  refine forEach_reaches (P := fun u : State => u.lnkState j = lnkTraining) (Q := fun u => u.Waits j) (fun u k hu => hu.trainTurn k)
    (fun u hu => hu.trains) (fun u k hk hu => ?_) (List.mem_range.mpr hj) h
  unfold trainTurn
  split
  · rw [lnkState_trainLink_ne hk.symm]; exact hu
  · exact hu

/-! ### The lock -/

/-- NO_CLOCK becomes LOCKED. -/
def enterLocked (s : State) : State :=
  (((s.setBcnState 1).updBcn fun b => { b with locked := true, hasMark := false, phase := 0 }).updBcn fun b => { b with locked := true }).refreshCpf

theorem enterLocked_bcn (s : State) : s.enterLocked.bcnState = 1 ∧ s.enterLocked.bcn.locked = true ∧ s.enterLocked.bcn.fn = s.bcn.fn ∧
    s.enterLocked.bcn.period = s.bcn.period ∧ s.enterLocked.bcn.armFn = s.bcn.armFn :=
  ⟨fld_setFld_same s.bcn.sts 2 0 1 (by decide), rfl, rfl, rfl, rfl⟩

/-- Out of NO_CLOCK the lock ends the flash in which runs halt, enters LOCKED and raises its buoy (R34, R35). -/
theorem clkLock_eq (hp : s.powered = true) (ht : s.thm.trip = false) (h0 : s.bcnState = 0) :
    s.clkLock = (s.aside endHalted).enterLocked.aside fun u => u.buoy0 2 true := by
  have h0' : (s.aside endHalted).bcnState = 0 := h0
  unfold clkLock
  rw [if_neg (by simp [hp, ht])]
  dsimp only
  rw [h0']
  rfl

/-- The reset in progress trains the links at its end (R387). -/
def trainsLater (s : State) : Bool :=
  match s.kpr.reset with
  | some r => r.code == rstPcie || r.code == rstWarm
  | none => false

/-- The lock with the links that begin to train by it (R372). -/
theorem beaconLock_eq (s : State) : s.beaconLock =
    if s.powered && !s.thm.trip && s.kpr.coldDone && !s.trainsLater then s.clkLock.aside trainLinks else s.clkLock := rfl

theorem beaconLock_cases (s : State) : s.beaconLock = s.clkLock.aside trainLinks ∨ s.beaconLock = s.clkLock := by
  rw [beaconLock_eq]
  exact ite_eq_or_eq ..

theorem beaconLock_trains (hp : s.powered = true) (ht : s.thm.trip = false) (hc : s.kpr.coldDone = true) (hr : s.kpr.reset = none) :
    s.beaconLock = s.clkLock.aside trainLinks := by
  rw [beaconLock_eq, if_pos (by simp [hp, ht, hc, trainsLater, hr])]

theorem aside_iodR (s : State) (f : State → State) : (s.aside f).iodR = (f s).iodR := rfl
theorem lnkState_aside (s : State) (f : State → State) (j : Nat) : (s.aside f).lnkState j = (f s).lnkState j := rfl
theorem aside_cl (s : State) (f : State → State) : (s.aside f).cl = (f s).cl := rfl
theorem aside_map (s : State) (f : State → State) : (s.aside f).map = (f s).map := rfl
theorem aside_host (s : State) (f : State → State) : (s.aside f).host = (f s).host := rfl
theorem enterLocked_iodR (s : State) : s.enterLocked.iodR = s.iodR := rfl
theorem enterLocked_cl (s : State) : s.enterLocked.cl = s.cl := rfl
theorem enterLocked_map (s : State) : s.enterLocked.map = s.map := rfl

theorem beaconLock_bcn (s : State) : s.beaconLock.bcn = s.clkLock.bcn := by
  rcases s.beaconLock_cases with h | h
  · rw [h, aside_bcn]
  · rw [h]

theorem beaconLock_buoy0 (s : State) : s.beaconLock.host.buoy0 = s.clkLock.host.buoy0 := by
  rcases s.beaconLock_cases with h | h
  · rw [h, aside_host, trainLinks_buoy0]
  · rw [h]

/-- Neither the end of a flash nor the lock touches a chip link: a port that waits for the lock waits no longer. -/
theorem waits_clkLock {j : Nat} (hp : s.powered = true) (ht : s.thm.trip = false) (h0 : s.bcnState = 0)
    (hs : (s.clx j).signal = true) (hd : s.lnkState j = lnkDown) (hf : s.map.iodFenced.getLsbD (j / 6) = false) : s.clkLock.Waits j := by
  have hrun : RunSide s s.endHalted := endHalted_runSide
  have hlnk : s.endHalted.lnk j 0 = s.lnk j 0 := hrun.iod _ _ (by unfold R.lnkPortSts; omega) (by unfold R.lnkPortSts; omega)
  have hiod : s.clkLock.iodR = s.endHalted.iodR := by
    rw [clkLock_eq hp ht h0, aside_iodR, buoy0_iodR, enterLocked_iodR, aside_iodR]
  have hcl : s.clkLock.cl = s.cl := by rw [clkLock_eq hp ht h0, aside_cl, buoy0_cl, enterLocked_cl, aside_cl, hrun.frame]
  have hmap : s.clkLock.map = s.map := by rw [clkLock_eq hp ht h0, aside_map, buoy0_map, enterLocked_map, aside_map, hrun.frame]
  have hb : s.clkLock.bcn = (s.aside endHalted).enterLocked.bcn := by rw [clkLock_eq hp ht h0, aside_bcn]
  have hlocked := (s.aside endHalted).enterLocked_bcn.2.1
  refine ⟨by rw [clx, hcl]; exact hs, by rw [hb, hlocked], by rw [hmap, hf], .inl ?_⟩
  rw [lnkState, lnk, iod, hiod, ← iod, ← lnk, hlnk, ← lnkState, hd]

/-! ### The loss -/

/-- The loss of the clock as the block sees it (R51). -/
theorem beaconLoss_bcn (h0 : s.bcnState ≠ 0) : s.beaconLoss.bcn = { s.bcn with
    sts := setBit (setFld s.bcn.sts 2 0 0) 8 true, ctrl := setBit s.bcn.ctrl 0 false, locked := false, hasMark := false } := by
  unfold beaconLoss
  rw [if_neg (by simpa using h0)]
  rfl

theorem beaconLoss_buoy0 (h0 : s.bcnState ≠ 0) : bitAt s.beaconLoss.host.buoy0 2 = false := by
  unfold beaconLoss
  rw [if_neg (by simpa using h0)]
  dsimp only
  rw [aside_host]
  exact bitAt_buoy0 _ (by decide) false

end State

/-- Settles O9: the lock and the loss of the reference clock. -/
theorem clockLockAndLoss : Obligations.ClockLockAndLoss := by
  unfold Obligations.ClockLockAndLoss
  refine fun s => ⟨fun hp ht h0 => ?_, fun h0 => ?_⟩
  · have hb : s.beaconLock.bcn = (s.aside State.endHalted).enterLocked.bcn := by
      rw [s.beaconLock_bcn, State.clkLock_eq hp ht h0, State.aside_bcn]
    obtain ⟨hst, hlocked, hfn, hper, harm⟩ := (s.aside State.endHalted).enterLocked_bcn
    refine ⟨_, rfl, ?_⟩
    change fld s.beaconLock.bcn.sts 2 0 = 1 ∧ s.beaconLock.bcn.locked = true ∧ bitAt s.beaconLock.host.buoy0 2 = true ∧
      s.beaconLock.bcn.fn = s.bcn.fn ∧ s.beaconLock.bcn.period = s.bcn.period ∧ s.beaconLock.bcn.armFn = s.bcn.armFn ∧
      (s.kpr.coldDone = true → s.kpr.reset = none → ∀ j < 24, (s.clx j).signal = true → s.lnkState j = lnkDown →
          s.map.iodFenced.getLsbD (j / 6) = false → s.beaconLock.lnkState j = lnkTraining)
    rw [hb, s.beaconLock_buoy0]
    refine ⟨hst, hlocked, ?_, hfn, hper, harm, fun hc hr j hj hs hd hf => ?_⟩
    · rw [State.clkLock_eq hp ht h0, State.aside_host]
      exact State.bitAt_buoy0 _ (by decide) true
    · rw [State.beaconLock_trains hp ht hc hr, State.lnkState_aside]
      exact State.trains_trainLinks hj (State.waits_clkLock hp ht h0 hs hd hf)
  · refine ⟨_, rfl, ?_⟩
    change fld s.beaconLoss.bcn.sts 2 0 = 0 ∧ bitAt s.beaconLoss.bcn.sts 8 = true ∧ s.beaconLoss.bcn.locked = false ∧
      bitAt s.beaconLoss.bcn.ctrl 0 = false ∧ bitAt s.beaconLoss.host.buoy0 2 = false ∧ s.beaconLoss.bcn.fn = s.bcn.fn ∧
      s.beaconLoss.bcn.period = s.bcn.period
    rw [State.beaconLoss_bcn h0]
    refine ⟨?_, bitAt_setBit_same _ _ _ (by decide), rfl, bitAt_setBit_same _ _ _ (by decide), State.beaconLoss_buoy0 h0, rfl, rfl⟩
    exact (fld_setBit_apart _ 8 2 0 true (by decide)).trans (fld_setFld_same s.bcn.sts 2 0 0 (by decide))

end Sys2Proof.Machine
end


section
/-!
PROOFS. A mark that prepares a start (R138, R186, R216): it clears the counters of a core and then loads the walker's rotary table, and the
read of that table takes a transfer tag, which is counted after the counters were cleared.
-/

namespace Sys2Proof.Machine

/-- An image of flashes of 1 us whose partition is die 0, without streams and queues. -/
def bareImage : Image :=
  { digest := [], dieMask := 1, cores := 1, devId := 0, ndev := 1, mapHash := [], claims := [], margin := 0, thermal := 0, period := 100
    cpf := 2250, legacy := false, seed := 0, streams := [], d2dUsed := 0, clUsed := 0, routes := [], credits := [], queues := [], winLog := 0
    loopWin := 0, heat := [], rots := [], audit := none, digestQ := 0xFF }

/-- Slot 0 is STARTING, and its first flash is the next but one. Its partition is core 0, whose walker is on and has one word of its rotary
table in memory; its status table lies where no memory is. -/
def taggedStart : State :=
  { powered := true, bcn := { sts := 3, cpf := 2250, locked := true }, map := { fuseOut := [(0, 0x1FFFE)] }
    slots := [(0, { img := some bareImage, sts := 2, start := 2 })], mem := Memory.sets [] (sramOf 0) [1]
    coreR := [(0, [(R.seqSts, 1), (R.pgwSts, 1), (R.pgwCstatBase, 2 ^ 47)])] }

namespace State

/-- The peak of transfer tags of a core that a mark leaves. -/
def tagAfterMark (s : State) (edges c : Nat) : Word :=
  match exec (.mark edges) s with
  | .next t => t.core c R.strTag
  | _ => 0

theorem tagAfterMark_of_next {s t : State} {edges : Nat} (h : exec (.mark edges) s = .next t) (c : Nat) :
    s.tagAfterMark edges c = t.core c R.strTag := by
  rw [tagAfterMark, h]

/-- The mark leaves a tag counted. -/
theorem tagAfterMark_taggedStart : taggedStart.tagAfterMark 100 0 = 65536 := by decide +kernel

theorem taggedStart_mark : taggedStart.bcnState = 3 ∧ (taggedStart.bcn.phase + 100) % taggedStart.period = 0 ∧
    taggedStart.markEarly 100 = false := by decide +kernel

theorem taggedStart_slot : (taggedStart.slot 0).ending = none ∧ (taggedStart.slot 0).mute = none ∧ taggedStart.slotState 0 = 2 ∧
    (taggedStart.slot 0).prepared = false ∧ taggedStart.fn + 2 = (taggedStart.slot 0).start.truncate 48 := by decide +kernel

theorem taggedStart_others : ∀ q, q ≠ 0 → (taggedStart.slot q).img = none ∧ taggedStart.slotState q ≠ 3
  | 0, h => absurd rfl h
  | _ + 1, _ => ⟨rfl, by change fld (0 : Word) 1 0 ≠ 3; decide⟩

theorem taggedStart_core : 0 ∈ taggedStart.slotCores 0 ∧ R.strTag ∈ clearedAtStart ∧ R.strTag ≠ R.pgwErrAddr := by decide +kernel

end State

/-- Refutes O10: the mark of flash s - 1 clears the counters of a core and then, in `taggedStart`, reads a word of the rotary table; the tag
of that read is counted in `STR_TAG`, which the statement has at 0. -/
theorem not_markByState : ¬ Obligations.MarkByState := by
  unfold Obligations.MarkByState
  intro h
  obtain ⟨h3, hphase, hearly⟩ := State.taggedStart_mark
  obtain ⟨hending, hmute, hstate, hprep, hfirst⟩ := State.taggedStart_slot
  obtain ⟨hc, htag, hne⟩ := State.taggedStart_core
  obtain ⟨-, -, -, -, hcount⟩ := h taggedStart 100
  obtain ⟨t, hexec, -, -, -, -, -, hruns⟩ := hcount h3 hphase hearly
  obtain ⟨hstart, -⟩ := hruns 0 _ rfl (by decide) rfl hending hmute State.taggedStart_others
  obtain ⟨-, -, hcores⟩ := hstart hstate hprep hfirst
  obtain ⟨hcleared, -⟩ := hcores 0 hc
  have hcount := State.tagAfterMark_of_next hexec 0
  rw [hcleared _ htag hne, State.tagAfterMark_taggedStart] at hcount
  exact absurd hcount (by decide)

end Sys2Proof.Machine
end


section
/-!
PROOFS. A start cancelled beside a slot that shares its die (R216, R219): the cores of the start return their frames, and the walker that
meets an error there halts in the name of the lower slot.
-/

namespace Sys2Proof.Machine

/-- Two slots hold images for die 0, of which core 0 is in service: slot 0 LOADED, slot 1 STARTING and prepared. The frame table of core 0
ends its SRAM, so that the rings of its pools lie where no memory is, and its first frame is PINNED. Ring 0 of the mailbox has an entry
waiting. -/
def sharedDie : State :=
  { powered := true, bcn := { sts := 3, cpf := 2250, locked := true }, map := { fuseOut := [(0, 0x1FFFE)] }
    slots := [(0, { img := some bareImage, sts := 1 }), (1, { img := some bareImage, sts := 2, prepared := true, start := 9 })]
    mem := Memory.sets [] (sramOf 0 + sramLen - 6) [3]
    coreR := [(0, [(R.seqSts, 2), (R.pgwSts, 2), (R.pgwPftBase, BitVec.ofNat 64 (sramOf 0 + sramLen - 16))])]
    host := { kprSts := 2, buoy0 := 0xFFFFFFFFFF03, cr := [(0, 1)], prod := [(0, 1)] }, kpr := { coldDone := true } }

/-- `RUN_STOP` of slot 1. -/
def stopSlot1 : Mbox := { ring := 0, tag := 0, len := 16, flags := 0, rsv := 0, args := 1 }

namespace State

/-- Whether the walker of a slot has halted once a command has run. -/
def haltedAfter (s : State) (i : Instr) (p : Nat) : Bool :=
  match exec i s with
  | .next t => (t.slot p).walkerHalted
  | _ => false

theorem haltedAfter_of_next {s t : State} {i : Instr} (h : exec i s = .next t) (p : Nat) : s.haltedAfter i p = (t.slot p).walkerHalted := by
  rw [haltedAfter, h]

theorem haltedAfter_sharedDie : sharedDie.haltedAfter (.runStop stopSlot1) 0 = true := by decide +kernel

theorem sharedDie_takes : sharedDie.takes Op.runStop stopSlot1 = true ∧ argsDirty stopSlot1.args [(0, 2), (8, 8)] = false ∧
    sharedDie.kprState = 2 ∧ stopSlot1.len.toNat = 16 ∧ stopSlot1.flags.toNat < 4 := by
  decide +kernel

theorem sharedDie_starting : sharedDie.slotState (arg stopSlot1.args 0 1) = 2 := by decide +kernel

theorem stopSlot1_args : 0 ≠ arg stopSlot1.args 0 1 ∧ arg stopSlot1.args 0 1 < 8 ∧ arg stopSlot1.args 1 1 < 2 ∧
    arg stopSlot1.args 8 8 < 2 ^ 48 := by decide +kernel

end State

/-- Refutes O57: the cancelled start of slot 1 in `sharedDie` marks slot 0 as that of a halted walker. -/
theorem not_runCommands : ¬ Obligations.RunCommands := by
  unfold Obligations.RunCommands
  intro h
  obtain ⟨htakes, hargs, hkpr, hlen, hflag⟩ := State.sharedDie_takes
  obtain ⟨-, -, -, -, -, hstop, -⟩ := h sharedDie stopSlot1
  obtain ⟨-, hruns⟩ := hstop ⟨htakes, hkpr, hlen, rfl, hflag, hargs⟩
  obtain ⟨hother, hslot, hflags, hfn⟩ := State.stopSlot1_args
  have hnone : sharedDie.kpr.accepted = [] := rfl
  obtain ⟨-, hcancel, -⟩ := hruns hslot hflags hfn hnone
  obtain ⟨t, hexec, -, -, -, hothers⟩ := hcancel State.sharedDie_starting
  have hhalt := State.haltedAfter_of_next hexec 0
  rw [hothers 0 hother, State.haltedAfter_sharedDie] at hhalt
  exact absurd hhalt (by decide)

end Sys2Proof.Machine
end


section
/-!
PROOFS. What the work of a core's units leaves alone: other cores, the registers below the slack meter's, and of an engine the operations it
runs (R115-R119, R138, R161).
-/

namespace Sys2Proof.Machine

namespace State

variable {s t u : State} {c e : Nat}

/-! ### Work on one core -/

/-- Work on core c: no other core and no slot differs, nor a register of the core below the slack meter's, nor its place in the stream. -/
structure OnCore (c : Nat) (s t : State) : Prop where
  others : s.othersKept t c
  slots : t.slots = s.slots
  pos : (t.cxOf c).pos = (s.cxOf c).pos
  low : ∀ off < 0x400, t.core c off = s.core c off

namespace OnCore

theorem refl (c : Nat) (s : State) : OnCore c s s := ⟨fun _ _ => ⟨rfl, fun _ => rfl⟩, rfl, rfl, fun _ _ => rfl⟩

theorem trans (h : OnCore c s t) (k : OnCore c t u) : OnCore c s u :=
  ⟨fun d hd => ⟨((k.others d hd).1).trans (h.others d hd).1, fun off => ((k.others d hd).2 off).trans ((h.others d hd).2 off)⟩,
    k.slots.trans h.slots, k.pos.trans h.pos, fun off ho => (k.low off ho).trans (h.low off ho)⟩

theorem ite {p : Prop} [Decidable p] (h : OnCore c s t) (k : OnCore c s u) : OnCore c s (if p then t else u) := by split <;> assumption

theorem loop {α : Type} {f : State → α → State} (h : ∀ u a, OnCore c u (f u a)) (l : List α) : OnCore c s (forEach l s f) :=
  forEach_keeps (P := OnCore c s) l (fun u a _ k => k.trans (h u a)) (refl c s)

theorem evCount (h : OnCore c s t) {n : Nat} (hn : n ≤ 15) : t.evCount c n = s.evCount c n := by
  unfold State.evCount
  rw [h.low _ (by unfold R.seqEv; omega)]

/-- The word's event counted, and nothing else of the core's counters. -/
theorem signalled (h : OnCore c s t) (w : BitVec 128) : s.signalled (t.incEv c (wSigEv w)) c w := fun n h1 h15 => by
  rw [evCount_incEv _ _ _ _ h1, h.evCount h15]

end OnCore

theorem updCx_onCore {f : CoreX → CoreX} (h : ∀ x, (f x).pos = x.pos) : OnCore c s (s.updCx c f) :=
  ⟨fun _ hd => ⟨(cxOf_updCx ..).trans (if_neg hd), fun _ => rfl⟩, rfl, by rw [cxOf_updCx, if_pos rfl, h], fun _ _ => rfl⟩

theorem setCore_onCore {off : Nat} (h : 0x400 ≤ off) (v : Word) : OnCore c s (s.setCore c off v) :=
  ⟨fun _ hd => ⟨rfl, fun _ => (core_setCore ..).trans (if_neg fun k => hd k.1)⟩, rfl, rfl,
    fun _ ho => (core_setCore ..).trans (if_neg fun k => by omega)⟩

theorem updEngX_onCore (e : Nat) (f : EngX → EngX) : OnCore c s (s.updEngX c e f) := updCx_onCore fun _ => rfl

theorem updEng_onCore (e : Nat) (off : Nat) (f : Word → Word) : OnCore c s (s.updEng c e off f) := setCore_onCore (by omega) _

theorem othersKept_incEv (k : Nat) : s.othersKept (s.incEv c k) c := by
  unfold incEv
  split
  · exact (OnCore.refl c s).others
  · exact fun d hd => ⟨rfl, fun _ => (core_setCore ..).trans (if_neg fun h => hd h.1)⟩

theorem othersKept_trans (h : s.othersKept t c) (k : t.othersKept u c) : s.othersKept u c :=
  fun d hd => ⟨((k d hd).1).trans (h d hd).1, fun off => ((k d hd).2 off).trans ((h d hd).2 off)⟩

theorem cxOf_incEv (k d : Nat) : (s.incEv c k).cxOf d = s.cxOf d := by
  unfold incEv
  split <;> rfl

/-- The event counters lie below the slack meter's registers. -/
theorem core_incEv {k off : Nat} (hk : k < 16) (ho : 0x400 ≤ off) (d : Nat) : (s.incEv c k).core d off = s.core d off := by
  unfold incEv
  split
  · rfl
  · exact (core_setCore ..).trans (if_neg fun h => by unfold R.seqEv at h; omega)

/-! ### Engines -/

theorem engX_updEngX (f : EngX → EngX) (e' : Nat) : (s.updEngX c e f).engX c e' = if e' = e then f (s.engX c e) else s.engX c e' := by
  unfold engX updEngX
  rw [cxOf_updCx, if_pos rfl]
  by_cases h : e' = e
  · subst h; rw [if_pos rfl, Tbl.upd, Tbl.get_set_same]
  · rw [if_neg h, Tbl.upd, Tbl.get_set_ne _ _ _ h]

/-- Engine e of core c runs and drains what it did, and its count of operations stands. -/
structure EngKept (c e : Nat) (s t : State) : Prop where
  run : (t.engX c e).u.run = (s.engX c e).u.run
  drain : (t.engX c e).drain = (s.engX c e).drain
  ops : t.eng c e R.engOpsCnt = s.eng c e R.engOpsCnt

namespace EngKept

theorem refl (c e : Nat) (s : State) : EngKept c e s s := ⟨rfl, rfl, rfl⟩

theorem trans (h : EngKept c e s t) (k : EngKept c e t u) : EngKept c e s u :=
  ⟨k.run.trans h.run, k.drain.trans h.drain, k.ops.trans h.ops⟩

theorem of_cx (he : ∀ e, t.engX c e = s.engX c e) (h : ∀ off, 0x1000 ≤ off → t.core c off = s.core c off) : EngKept c e s t :=
  ⟨by rw [he], by rw [he], h _ (by omega)⟩

end EngKept

/-- Work on the engines of core c beyond the operations they run: kindling, ramps and power states. -/
structure EngSide (c : Nat) (s t : State) : Prop extends OnCore c s t where
  cx : t.cxOf c = { s.cxOf c with eng := (t.cxOf c).eng }
  high : ∀ off, 0x1400 ≤ off → t.core c off = s.core c off
  kept : ∀ e, EngKept c e s t

namespace EngSide

theorem refl (c : Nat) (s : State) : EngSide c s s := ⟨.refl c s, rfl, fun _ _ => rfl, fun e => .refl c e s⟩

theorem trans (h : EngSide c s t) (k : EngSide c t u) : EngSide c s u :=
  ⟨h.toOnCore.trans k.toOnCore, by rw [k.cx, h.cx], fun off ho => (k.high off ho).trans (h.high off ho), fun e => (h.kept e).trans (k.kept e)⟩

theorem ite {p : Prop} [Decidable p] (h : EngSide c s t) (k : EngSide c s u) : EngSide c s (if p then t else u) := by split <;> assumption

end EngSide

/-- A register of an engine set that does not count its operations. -/
theorem updEng_engSide (he : e < 4) {off : Nat} (ho : off < 0x100) (hne : off ≠ R.engOpsCnt) (f : Word → Word) :
    EngSide c s (s.updEng c e off f) := by
  refine ⟨updEng_onCore e off f, rfl, fun o h => (core_setCore ..).trans (if_neg fun k => by omega), fun e' => ⟨rfl, rfl, ?_⟩⟩
  refine (core_setCore ..).trans (if_neg fun k => ?_)
  have hops : R.engOpsCnt = 0x40 := rfl
  omega

/-- An engine's record changed but for what it runs and drains. -/
theorem updEngX_engSide (e : Nat) {f : EngX → EngX} (hr : ∀ x, (f x).u.run = x.u.run) (hd : ∀ x, (f x).drain = x.drain) :
    EngSide c s (s.updEngX c e f) := by
  refine ⟨updEngX_onCore e f, ?_, fun _ _ => rfl, fun e' => ⟨?_, ?_, rfl⟩⟩
  · unfold updEngX
    rw [cxOf_updCx, if_pos rfl]
  · rw [engX_updEngX]; split
    next h => rw [hr, h]
    · rfl
  · rw [engX_updEngX]; split
    next h => rw [hd, h]
    · rfl

theorem setEngState_engSide (he : e < 4) (v : Nat) : EngSide c s (s.setEngState c e v) :=
  updEng_engSide he (by decide) (by decide) _

theorem beginKindle_engSide (he : e < 4) (n : Nat) : EngSide c s (s.beginKindle c e n) :=
  (setEngState_engSide he _).trans (updEngX_engSide e (fun _ => rfl) fun _ => rfl)

theorem rampDown_engSide (he : e < 4) (n : Nat) : EngSide c s (s.rampDown c e n) :=
  ((updEng_engSide he (by decide) (by decide) _).trans (setEngState_engSide he _)).trans (updEngX_engSide e (fun _ => rfl) fun _ => rfl)

theorem settleEng_engSide (he : e < 4) (n : Nat) : EngSide c s (s.settleEng c e n) := by
  unfold settleEng
  split
  · exact .refl c s
  · exact .ite (.refl c s) (.ite (beginKindle_engSide he _)
      ((setEngState_engSide he _).trans (updEngX_engSide e (fun _ => rfl) fun _ => rfl)))

theorem settleRamps_engSide (off : Nat) : EngSide c s (s.settleRamps c off) :=
  forEach_keeps (P := EngSide c s) _ (fun _ _ he h => h.trans (settleEng_engSide (List.mem_range.mp he) _)) (.refl c s)

theorem enterGap_engSide (p : Nat) (he : e < 4) (off : Nat) : EngSide c s (s.enterGap p c e off) := by
  unfold enterGap
  refine .ite (setEngState_engSide he _) ?_
  split
  · exact beginKindle_engSide he _
  · exact .ite (rampDown_engSide he _) (beginKindle_engSide he _)

/-! ### The end of a word -/

/-- Where the word counts for a flash that has not begun, that flash is kept, and nothing else of the core's record differs. -/
theorem cxOf_noteEarly (p : Nat) (q : QWord) :
    (s.noteEarly p c q).cxOf c = { s.cxOf c with early := (s.cxOf c).early ++ s.earlyFor p q } := by
  unfold noteEarly earlyFor
  cases q.due with
  | none => simp
  | some d =>
    dsimp only
    split
    next h => rw [cxOf_updCx, if_pos rfl]; simp [h]
    next h => simp [h]

theorem noteEarly_onCore (p : Nat) (q : QWord) : OnCore c s (s.noteEarly p c q) := by
  unfold noteEarly
  split
  · exact .ite (updCx_onCore fun _ => rfl) (.refl c s)
  · exact .refl c s

theorem core_noteEarly (p : Nat) (q : QWord) (d off : Nat) : (s.noteEarly p c q).core d off = s.core d off := by
  unfold noteEarly
  split
  · split <;> rfl
  · rfl

/-- A core with words left to dispatch does not bank at the end of its stream (R205). -/
theorem bankIfDone_of_wordsLeft {p : Nat} (h : s.wordsLeft p c) (off : Nat) : s.bankIfDone p c off = s := by
  obtain ⟨x, hx, hpos⟩ := h
  have hdone : s.streamDone p c = false := by
    unfold streamDone
    rw [hx]
    simp [streamNext, hpos]
  unfold bankIfDone
  rw [if_neg (by simp [hdone])]

theorem endIfQuiet_of_none {p : Nat} (h : (s.slot p).ending = none) (off : Nat) : s.endIfQuiet p off = s := by
  unfold endIfQuiet
  rw [h]

end State
end Sys2Proof.Machine
end


section
/-!
PROOFS. The completion of a word by each unit (R107, R138, R155, R161).
-/

namespace Sys2Proof.Machine

namespace State

variable {s t u : State} {p c e off : Nat} {q : QWord}

/-! ### What a completion comes to -/

/-- A unit is free: what its word counts for is kept, and its event counted. -/
def wordEnds (s : State) (p c : Nat) (q : QWord) : State := (s.noteEarly p c q).incEv c (wSigEv q.word)

theorem slots_incEv (k : Nat) : (s.incEv c k).slots = s.slots := by
  unfold incEv
  split <;> rfl

theorem wordEnds_coreSide : CoreSide s (s.wordEnds p c q) := (noteEarly_coreSide ..).trans (incEv_coreSide ..)

theorem wordEnds_signalled (h : OnCore c s t) : s.signalled (t.wordEnds p c q) c q.word := (h.trans (noteEarly_onCore p q)).signalled q.word

theorem wordEnds_othersKept (h : OnCore c s t) : s.othersKept (t.wordEnds p c q) c :=
  othersKept_trans (h.trans (noteEarly_onCore p q)).others (othersKept_incEv _)

/-- Of the core's record only the flashes that it keeps differ. -/
theorem cxOf_wordEnds : (s.wordEnds p c q).cxOf c = { s.cxOf c with early := (s.cxOf c).early ++ s.earlyFor p q } := by
  rw [wordEnds, cxOf_incEv, cxOf_noteEarly]

theorem wSigEv_lt (w : BitVec 128) : wSigEv w < 16 := by
  unfold wSigEv wbits
  exact Nat.mod_lt _ (by decide)

theorem core_wordEnds {r : Nat} (h : 0x400 ≤ r) (d : Nat) : (s.wordEnds p c q).core d r = s.core d r := by
  rw [wordEnds, core_incEv (wSigEv_lt _) h, core_noteEarly]

/-- Of registers only event counters differ. -/
theorem coreRegsKept_wordEnds : s.coreRegsKept (s.wordEnds p c q) c isEvReg := by
  intro d r hd
  have hev := wSigEv_lt q.word
  have he : (s.wordEnds p c q).core d r = (s.noteEarly p c q).core d r := by
    unfold wordEnds incEv
    split
    · rfl
    · refine (core_setCore ..).trans (if_neg fun k => ?_)
      rcases hd with hd | hd
      · exact hd k.1
      · exact hd ⟨_, by omega, k.2⟩
  rw [he, core_noteEarly]

theorem coreRegsKept_of_updCx {f : CoreX → CoreX} {r : Nat → Prop} (h : (s.updCx c f).coreRegsKept t c r) : s.coreRegsKept t c r :=
  fun d off hd => h d off hd

/-- In a run that goes on and whose stream has not ended, nothing more comes of it. -/
theorem wordEnds_rest (h : OnCore c s t) (hend : (s.slot p).ending = none) (hleft : s.wordsLeft p c) :
    ((t.wordEnds p c q).bankIfDone p c off).endIfQuiet p off = t.wordEnds p c q := by
  have hon := h.trans (noteEarly_onCore p q)
  have hslots : (t.wordEnds p c q).slots = s.slots := (slots_incEv _).trans hon.slots
  have hleft' : (t.wordEnds p c q).wordsLeft p c := by
    obtain ⟨x, hx, hpos⟩ := hleft
    refine ⟨x, ?_, ?_⟩
    · rw [streamEnt?, slot, hslots]; exact hx
    · rw [wordEnds, cxOf_incEv, hon.pos]; exact hpos
  rw [bankIfDone_of_wordsLeft hleft', endIfQuiet_of_none (by rw [slot, hslots]; exact hend)]

/-- The core's units, but for a stream channel with requests outstanding, complete their words. -/
def quietAt (s : State) (c : Nat) : CoreUnit → Bool
  | .str ch => s.chanQuiet c ch.val
  | _ => true

theorem wordComplete_done {y : CoreUnit} {beside : Bool} (hrun : s.runSlot c = some p) (hq : s.completing c beside y = some q)
    (hat : completesAt y q = true) (hquiet : s.quietAt c y = true) (hrem : s.removed c off = false) :
    s.wordComplete c off y beside =
      ((((s.settleRamps c off).retire p c off y q).wordEnds p c q).bankIfDone p c off).endIfQuiet p off := by
  unfold wordComplete
  rw [hrun, hq]
  refine if_pos ?_
  rw [hat, hrem]
  cases y with
  | str ch => simpa [quietAt] using hquiet
  | _ => rfl

theorem wordComplete_eq {y : CoreUnit} {beside : Bool} (hrun : s.runSlot c = some p) (hq : s.completing c beside y = some q)
    (hat : completesAt y q = true) (hquiet : s.quietAt c y = true) (hrem : s.removed c off = false)
    (hend : (s.slot p).ending = none) (hleft : s.wordsLeft p c) (hside : OnCore c s ((s.settleRamps c off).retire p c off y q)) :
    s.wordComplete c off y beside = ((s.settleRamps c off).retire p c off y q).wordEnds p c q := by
  rw [wordComplete_done hrun hq hat hquiet hrem, wordEnds_rest hside hend hleft]

theorem exec_wordComplete (h : s.thm.trip = false) (core : Core) (y : CoreUnit) (off : Nat) (beside : Bool) :
    exec (.wordComplete core y off beside) s = s.bcnDone (s.wordComplete core.val off y beside) := by
  change s.bcnDone (if s.thm.trip then s else s.wordComplete core.val off y beside) = _
  rw [if_neg (by simp [h])]

theorem updCx_coreSide (c : Nat) (f : CoreX → CoreX) : CoreSide s (s.updCx c f) := rfl

theorem coreSide_frame (h : CoreSide s t) : t = { s with cx := t.cx, coreR := t.coreR } := h

theorem bcnDone_next (s t : State) : s.bcnDone t = .next { t with pending := s.pending, sec := s.sec, iodC := s.iodC, rom := s.rom } := rfl

/-- The outcome of work on registers and records of cores. -/
theorem CoreSide.bcnDone (h : CoreSide s t) : s.bcnDone t = .next t := by
  rw [h]; rfl

/-! ### Units that only let go of their word -/

/-- The ramps settled, and the core's record changed where no flash is kept and no engine's record lies. -/
theorem cxOf_settled {f : CoreX → CoreX} (hf : ∀ x, (f x).early = x.early) :
    (((s.settleRamps c off).updCx c f).wordEnds p c q).cxOf c =
      { f ((s.settleRamps c off).cxOf c) with early := (s.cxOf c).early ++ s.earlyFor p q } := by
  have hside := settleRamps_coreSide (s := s) c off
  have hcx := (settleRamps_engSide (s := s) (c := c) off).cx
  generalize s.settleRamps c off = u at hside hcx ⊢
  have hearly : (u.updCx c f).earlyFor p q = s.earlyFor p q := by rw [hside]; rfl
  rw [cxOf_wordEnds, hearly, cxOf_updCx, if_pos rfl, hf, hcx]

/-- A unit whose word leaves its record, and nothing more. -/
theorem wordComplete_updCx {y : CoreUnit} {beside : Bool} {core : Core} {f : CoreX → CoreX} (htrip : s.thm.trip = false)
    (hrun : s.runSlot core.val = some p) (hq : s.completing core.val beside y = some q) (hat : completesAt y q = true)
    (hquiet : s.quietAt core.val y = true) (hrem : s.removed core.val off = false) (hend : (s.slot p).ending = none)
    (hleft : s.wordsLeft p core.val)
    (hret : (s.settleRamps core.val off).retire p core.val off y q = (s.settleRamps core.val off).updCx core.val f) (hpos : ∀ x, (f x).pos = x.pos)
    (hearly : ∀ x, (f x).early = x.early) :
    ∃ t, exec (.wordComplete core y off beside) s = .next t ∧
      t.cxOf core.val = { f ((s.settleRamps core.val off).cxOf core.val) with early := (s.cxOf core.val).early ++ s.earlyFor p q } ∧
      s.signalled t core.val q.word ∧ (s.settleRamps core.val off).coreRegsKept t core.val isEvReg ∧ s.othersKept t core.val ∧
      t = { s with cx := t.cx, coreR := t.coreR } := by
  have hon : OnCore core.val s ((s.settleRamps core.val off).updCx core.val f) :=
    (settleRamps_engSide off).toOnCore.trans (updCx_onCore hpos)
  have hside : CoreSide s (((s.settleRamps core.val off).updCx core.val f).wordEnds p core.val q) :=
    ((settleRamps_coreSide ..).trans (updCx_coreSide ..)).trans wordEnds_coreSide
  have hcx := cxOf_settled (s := s) (p := p) (c := core.val) (off := off) (q := q) hearly
  have hregs : (s.settleRamps core.val off).coreRegsKept (((s.settleRamps core.val off).updCx core.val f).wordEnds p core.val q) core.val isEvReg :=
    coreRegsKept_of_updCx coreRegsKept_wordEnds
  refine ⟨_, ?_, hcx, wordEnds_signalled hon, hregs, wordEnds_othersKept hon, coreSide_frame hside⟩
  rw [exec_wordComplete htrip, wordComplete_eq hrun hq hat hquiet hrem hend hleft (by rw [hret]; exact hon), hret, hside.bcnDone]

theorem retire_chk (s : State) : s.retire p c off .chk q = s.updCx c fun x => { x with chk := { x.chk with run := none } } := rfl

theorem retire_que (s : State) : s.retire p c off .que q = s.updCx c fun x => { x with que := { x.que with run := none } } := rfl

/-- A channel whose word names no other core's counter lets go of it (R155). -/
theorem retire_str {ch : Chan} (h : (s.cxOf c).strRev.find? ch.val = none) :
    s.retire p c off (.str ch) q = s.updCx c fun x => { x with strRun := x.strRun.erase ch.val } := by
  change (s.updCx c fun x => { x with strRun := x.strRun.erase ch.val }).signalRemote c ch.val q = _
  unfold signalRemote
  rw [cxOf_updCx, if_pos rfl, h]

/-- A channel that waits for a request keeps its word. -/
theorem wordComplete_of_busy {ch : Chan} {beside : Bool} (hrun : s.runSlot c = some p) (hq : (s.cxOf c).strRun.find? ch.val = some q)
    (hbusy : s.chanQuiet c ch.val = false) : s.wordComplete c off (.str ch) beside = s := by
  have hc : s.completing c beside (.str ch) = some q := hq
  unfold wordComplete
  rw [hrun, hc]
  exact if_neg (by simp [hbusy])

/-! ### The vector engine -/

/-- The vector engine's word taken from it, its state and its count of operations (R161). -/
def vecRetired (s : State) (c : Nat) : State :=
  ((s.updCx c fun x => { x with vec := { x.vec with run := none } }).setVecState c
    (if (s.cxOf c).vec.bank then unitBanked else unitIdle)).updCore c R.vecOpsCnt fun w => incFld w 47 0 1

theorem retire_vec (h : wClass q.word = 2) : s.retire p c off .vec q = s.vecRetired c := by
  unfold retire
  exact if_pos (by rw [h]; rfl)

theorem vecRetired_onCore : OnCore c s (s.vecRetired c) := by
  have h : OnCore c s (s.updCx c fun x => { x with vec := { x.vec with run := none } }) := updCx_onCore fun _ => rfl
  exact (h.trans (setCore_onCore (off := R.vecSts) (by decide) _)).trans (setCore_onCore (off := R.vecOpsCnt) (by decide) _)

theorem vecRetired_coreSide : CoreSide s (s.vecRetired c) := rfl

theorem cxOf_vecRetired : (s.vecRetired c).cxOf c = { s.cxOf c with vec := { (s.cxOf c).vec with run := none } } :=
  (cxOf_updCx s c c fun x => { x with vec := { x.vec with run := none } }).trans (if_pos rfl)

theorem core_vecRetired_ops : (s.vecRetired c).core c R.vecOpsCnt = incFld (s.core c R.vecOpsCnt) 47 0 1 := by
  unfold vecRetired setVecState updCore
  rw [core_setCore, if_pos ⟨rfl, rfl⟩, core_setCore, if_neg fun h => absurd h.2 (by decide)]
  rfl

theorem vecState_vecRetired : (s.vecRetired c).vecState c = if (s.cxOf c).vec.bank then unitBanked else unitIdle := by
  unfold vecRetired setVecState vecState updCore
  rw [core_setCore, if_neg fun h => absurd h.2 (by decide), core_setCore, if_pos ⟨rfl, rfl⟩, fld_setFld_same _ _ _ _ (by decide)]
  split <;> rfl

/-! ### The walker -/

/-- Work on core c that leaves its walker alone. -/
structure BesideWalker (c : Nat) (s t : State) : Prop extends OnCore c s t where
  pgw : (t.cxOf c).pgw = (s.cxOf c).pgw

namespace BesideWalker

theorem refl (c : Nat) (s : State) : BesideWalker c s s := ⟨.refl c s, rfl⟩

theorem trans (h : BesideWalker c s t) (k : BesideWalker c t u) : BesideWalker c s u :=
  ⟨h.toOnCore.trans k.toOnCore, k.pgw.trans h.pgw⟩

theorem ite {p : Prop} [Decidable p] (h : BesideWalker c s t) (k : BesideWalker c s u) : BesideWalker c s (if p then t else u) := by
  split <;> assumption

theorem of_engSide (h : EngSide c s t) : BesideWalker c s t := ⟨h.toOnCore, by rw [h.cx]⟩

theorem of_updCx {f : CoreX → CoreX} (hpos : ∀ x, (f x).pos = x.pos) (h : ∀ x, (f x).pgw = x.pgw) : BesideWalker c s (s.updCx c f) :=
  ⟨updCx_onCore hpos, by rw [cxOf_updCx, if_pos rfl, h]⟩

end BesideWalker

/-- A unit holds the word. -/
def holds (q : QWord) : Option QWord → Bool
  | some a => sameWord a q
  | none => false

theorem holds_self (q : QWord) : holds q (some q) = true := by simp [holds, sameWord]

/-- The walker's own word taken from it (R172). -/
def pgwRetired (s : State) (c : Nat) : State :=
  (s.updCx c fun x => { x with pgw := { x.pgw with run := none } }).setPgwState c (if bitAt (s.core c R.pgwCtrl) 1 then unitBanked else unitIdle)

/-- The vector engine's part of a word of class 4. -/
def vecFreed (s : State) (c : Nat) : State :=
  (s.updCx c fun x => { x with vec := { x.vec with run := none } }).setVecState c (if (s.cxOf c).vec.bank then unitBanked else unitIdle)

/-- An engine's part of it. -/
def engFreed (s : State) (p c off e : Nat) : State :=
  let t := s.updEngX c e fun x => { x with u := { x.u with run := none } }
  if (t.engX c e).drain.isNone then t.enterGap p c e off else t

theorem freeWalkerUnits_eq (h : (s.cxOf c).pgw.run = some q) : s.freeWalkerUnits p c off q =
    forEach (List.range 4) (if holds q ((s.pgwRetired c).cxOf c).vec.run then (s.pgwRetired c).vecFreed c else s.pgwRetired c)
      fun t e => if holds q (t.engX c e).u.run then t.engFreed p c off e else t := by
  have hmine : holds q (s.cxOf c).pgw.run = true := by rw [h, holds_self]
  have hfirst : (if holds q (s.cxOf c).pgw.run then s.pgwRetired c else s) = s.pgwRetired c := if_pos hmine
  rw [← hfirst]
  rfl

theorem pgwRetired_onCore : OnCore c s (s.pgwRetired c) := by
  have h : OnCore c s (s.updCx c fun x => { x with pgw := { x.pgw with run := none } }) := updCx_onCore fun _ => rfl
  exact h.trans (setCore_onCore (off := R.pgwSts) (by decide) _)

theorem run_pgwRetired : ((s.pgwRetired c).cxOf c).pgw.run = none := by
  have h : (s.pgwRetired c).cxOf c = (s.updCx c fun x => { x with pgw := { x.pgw with run := none } }).cxOf c := rfl
  rw [h, cxOf_updCx, if_pos rfl]

theorem vecFreed_besideWalker : BesideWalker c s (s.vecFreed c) := by
  have h : BesideWalker c s (s.updCx c fun x => { x with vec := { x.vec with run := none } }) := .of_updCx (fun _ => rfl) fun _ => rfl
  exact h.trans ⟨setCore_onCore (off := R.vecSts) (by decide) _, rfl⟩

theorem engFreed_besideWalker (he : e < 4) : BesideWalker c s (s.engFreed p c off e) := by
  have h : BesideWalker c s (s.updEngX c e fun x => { x with u := { x.u with run := none } }) := .of_updCx (fun _ => rfl) fun _ => rfl
  exact .ite (h.trans (.of_engSide (enterGap_engSide p he off))) h

/-- A word of class 4 leaves every unit that holds it, the walker first (R172). -/
theorem freeWalkerUnits_free (h : (s.cxOf c).pgw.run = some q) :
    OnCore c s (s.freeWalkerUnits p c off q) ∧ ((s.freeWalkerUnits p c off q).cxOf c).pgw.run = none := by
  have hrest : BesideWalker c (s.pgwRetired c) (s.freeWalkerUnits p c off q) := by
    rw [freeWalkerUnits_eq h]
    exact forEach_keeps (P := BesideWalker c (s.pgwRetired c)) _
      (fun u e he hu => hu.trans (.ite (engFreed_besideWalker (List.mem_range.mp he)) (.refl c u))) (.ite vecFreed_besideWalker (.refl c _))
  exact ⟨pgwRetired_onCore.trans hrest.toOnCore, by rw [hrest.pgw, run_pgwRetired]⟩

/-! ### The engines -/

/-- Work on core c beyond the operations that its engines run. -/
structure KeepsWords (c : Nat) (s t : State) : Prop extends OnCore c s t where
  kept : ∀ e, EngKept c e s t

namespace KeepsWords

theorem refl (c : Nat) (s : State) : KeepsWords c s s := ⟨.refl c s, fun e => .refl c e s⟩

theorem trans (h : KeepsWords c s t) (k : KeepsWords c t u) : KeepsWords c s u :=
  ⟨h.toOnCore.trans k.toOnCore, fun e => (h.kept e).trans (k.kept e)⟩

theorem ite {p : Prop} [Decidable p] (h : KeepsWords c s t) (k : KeepsWords c s u) : KeepsWords c s (if p then t else u) := by
  split <;> assumption

theorem of_engSide (h : EngSide c s t) : KeepsWords c s t := ⟨h.toOnCore, h.kept⟩

theorem loop {α : Type} {f : State → α → State} (l : List α) (h : ∀ u, ∀ a ∈ l, KeepsWords c u (f u a)) : KeepsWords c s (forEach l s f) :=
  forEach_keeps (P := KeepsWords c s) l (fun u a ha k => k.trans (h u a ha)) (.refl c s)

/-- A register of the slack meter set. -/
theorem of_setCore {off : Nat} (lo : 0x400 ≤ off) (hi : off < 0x1000) (v : Word) : KeepsWords c s (s.setCore c off v) :=
  ⟨setCore_onCore lo v, fun e => .of_cx (fun _ => rfl) fun o ho => (core_setCore ..).trans (if_neg fun k => by omega)⟩

theorem of_updCx {f : CoreX → CoreX} (hpos : ∀ x, (f x).pos = x.pos) (h : ∀ x, (f x).eng = x.eng) : KeepsWords c s (s.updCx c f) :=
  ⟨updCx_onCore hpos, fun e => .of_cx (fun e => by rw [engX, cxOf_updCx, if_pos rfl, h]; rfl) fun _ _ => rfl⟩

end KeepsWords

theorem request_keepsWords (p k : Nat) : KeepsWords c s (s.request p c k) := by
  by_cases hk : (s.requests c || s.muted p (s.curRfn p)) = true
  · rw [request_of_kept _ _ _ hk]; exact .refl c s
  · simp only [Bool.or_eq_true, not_or, Bool.not_eq_true] at hk
    obtain ⟨v, w, -, he⟩ := request_of_free p c k hk.1 hk.2
    have hset : KeepsWords c s ((s.setCore c R.seqSlkCur v).setCore c R.seqSlkSlip w) :=
      (KeepsWords.of_setCore (by decide) (by decide) v).trans (.of_setCore (by decide) (by decide) w)
    rw [he]
    exact ⟨⟨hset.others, hset.slots, hset.pos, hset.low⟩, fun e => ⟨(hset.kept e).run, (hset.kept e).drain, (hset.kept e).ops⟩⟩

theorem charge_keepsWords (p : Nat) {k : Nat} (h1 : 1 ≤ k) (h8 : k < 8) : KeepsWords c s (s.charge p c k) := by
  cases hs : (s.cxOf c).slack with
  | none =>
    unfold charge
    rw [hs]
    exact .refl c s
  | some slack =>
    have hcx : KeepsWords c s (s.updCx c fun x => { x with charges := x.charges.upd 0 k (· + 1) }) := .of_updCx (fun _ => rfl) fun _ => rfl
    have hcharged : KeepsWords c s (s.charged c k) :=
      (hcx.trans (.of_setCore (by unfold R.seqSlkCause; omega) (by unfold R.seqSlkCause; omega) _)).trans
        (.of_setCore (off := R.seqSlkCur) (by decide) (by decide) _)
    rcases charge_cases (p := p) hs with ⟨he, -⟩ | ⟨n, he⟩
    · rw [he]; exact hcharged
    · have hpast : KeepsWords c (s.charged c k) ((s.charged c k).notePast c n) := .of_updCx (fun _ => rfl) fun _ => rfl
      rw [he]
      exact (hcharged.trans hpast).trans (request_keepsWords p n)

theorem legacyPause_keepsWords (p : Nat) (es : List Nat) (b n : Nat) : KeepsWords c s (s.legacyPause p c es b n) := by
  unfold legacyPause
  split
  · exact .refl c s
  · have pause (k : Nat) : KeepsWords c s (forEach es s fun u e => u.updEngX c e fun x => { x with pauseTo := k }) :=
      .loop es fun u e _ => .of_engSide (updEngX_engSide e (fun _ => rfl) fun _ => rfl)
    refine .ite (.refl c s) (.ite (KeepsWords.trans (pause _) (.loop _ fun u k _ => ?_)) (pause _))
    exact charge_keepsWords p (by decide) (by decide)

/-- The engine's record once the word has left it. -/
def wordLeft (s : State) (c e : Nat) (q : QWord) : State :=
  s.updEngX c e fun y =>
    if s.drainsNow c e q then { y with drain := none, drainReject := false } else { y with u := { y.u with run := none }, reject := false }

/-- Registers of engine e change but for its count of operations, which goes up by 1. -/
theorem engFinish_steps (he : e < 4) (n : Nat) : ∃ v,
    EngSide c (s.wordLeft c e q) v ∧ EngSide c (v.updEng c e R.engOpsCnt fun w => incFld w 47 0 1) (s.engFinish c e n q) := by
  have knd (k : Nat) : EngSide c (s.wordLeft c e q) ((s.wordLeft c e q).addKnd c e k) := updEng_engSide he (by decide) (by decide) _
  refine ⟨if (s.issuedAt c e q).2 then (s.wordLeft c e q).addKnd c e (n - (s.issuedAt c e q).1)
    else if wOpc q.word == 1 then (s.wordLeft c e q).addKnd c e (lateRows e (s.issuedAt c e q).1 n q) else s.wordLeft c e q,
    .ite (knd _) (.ite (knd _) (.refl c _)), ?_⟩
  exact updEng_engSide he (off := R.engSts) (by decide) (by decide) _

theorem engFinish_onCore (he : e < 4) (n : Nat) : OnCore c s (s.engFinish c e n q) := by
  obtain ⟨v, h1, h2⟩ := engFinish_steps (s := s) (c := c) (q := q) he n
  exact (((updEngX_onCore e _).trans h1.toOnCore).trans (updEng_onCore e _ _)).trans h2.toOnCore

theorem eng_updEng_ops {e' : Nat} (f : Word → Word) : (s.updEng c e' R.engOpsCnt f).eng c e R.engOpsCnt =
    if e = e' then f (s.eng c e R.engOpsCnt) else s.eng c e R.engOpsCnt := by
  unfold updEng eng updCore
  rw [core_setCore]
  by_cases h : e = e'
  · subst h; rw [if_pos ⟨rfl, rfl⟩, if_pos rfl]
  · rw [if_neg fun k => h (by omega), if_neg h]

/-- The other engines go on. -/
theorem engFinish_engKept_ne {e' : Nat} (he : e' < 4) (hne : e ≠ e') (n : Nat) : EngKept c e s (s.engFinish c e' n q) := by
  obtain ⟨v, h1, h2⟩ := engFinish_steps (s := s) (c := c) (q := q) he n
  have hx : EngKept c e s (s.wordLeft c e' q) := by
    refine ⟨?_, ?_, rfl⟩ <;> rw [wordLeft, engX_updEngX, if_neg hne]
  have hops : EngKept c e v (v.updEng c e' R.engOpsCnt fun w => incFld w 47 0 1) :=
    ⟨rfl, rfl, by rw [eng_updEng_ops, if_neg hne]⟩
  exact ((hx.trans (h1.kept e)).trans hops).trans (h2.kept e)

/-- The engine on which the word runs, another draining there or none, is free and has counted it (R100). -/
theorem engFinish_of_runs (he : e < 4) (hd : s.drainsNow c e q = false) (n : Nat) :
    ((s.engFinish c e n q).engX c e).u.run = none ∧ ((s.engFinish c e n q).engX c e).drain = (s.engX c e).drain ∧
      (s.engFinish c e n q).eng c e R.engOpsCnt = incFld (s.eng c e R.engOpsCnt) 47 0 1 := by
  obtain ⟨v, h1, h2⟩ := engFinish_steps (s := s) (c := c) (q := q) he n
  have hx : (s.wordLeft c e q).engX c e = { s.engX c e with u := { (s.engX c e).u with run := none }, reject := false } := by
    rw [wordLeft, engX_updEngX, if_pos rfl, hd]
    rfl
  have hrun := (h2.kept e).run.trans ((h1.kept e).run.trans (congrArg (·.u.run) hx))
  have hdrain := (h2.kept e).drain.trans ((h1.kept e).drain.trans (congrArg (·.drain) hx))
  have hops := (h2.kept e).ops.trans ((eng_updEng_ops _).trans ((if_pos rfl).trans (congrArg (incFld · 47 0 1) (h1.kept e).ops)))
  exact ⟨hrun, hdrain, hops⟩

/-- What the end of the word comes to on engine e, of a list of engines that names it once. -/
theorem engFinish_loop {es : List Nat} (hes : ∀ e ∈ es, e < 4) (hnd : es.Nodup) (he : e ∈ es) (hd : s.drainsNow c e q = false) (n : Nat) :
    ((forEach es s fun u e => u.engFinish c e n q).engX c e).u.run = none ∧
      ((forEach es s fun u e => u.engFinish c e n q).engX c e).drain = (s.engX c e).drain ∧
      (forEach es s fun u e => u.engFinish c e n q).eng c e R.engOpsCnt = incFld (s.eng c e R.engOpsCnt) 47 0 1 := by
  obtain ⟨l, r, rfl⟩ := List.append_of_mem he
  have hl : e ∉ l := fun h => (List.disjoint_of_nodup_append hnd) h List.mem_cons_self
  have hr : e ∉ r := (List.nodup_cons.mp (List.nodup_append.mp hnd).2.1).1
  have part (l : List Nat) (u : State) (h4 : ∀ x ∈ l, x < 4) (hx : e ∉ l) : EngKept c e u (forEach l u fun u e => u.engFinish c e n q) :=
    forEach_keeps (P := EngKept c e u) l
      (fun v x hm hv => hv.trans (engFinish_engKept_ne (h4 x hm) (ne_of_mem_of_not_mem hm hx).symm n)) (.refl c e u)
  have hbefore := part l s (fun x hx => hes x (by simp [hx])) hl
  have hd' : (forEach l s fun u e => u.engFinish c e n q).drainsNow c e q = false := by
    rw [drainsNow, hbefore.drain]; exact hd
  obtain ⟨hrun, hdrain, hops⟩ := engFinish_of_runs (hes e he) hd' n
  have hafter := part r ((forEach l s fun u e => u.engFinish c e n q).engFinish c e n q) (fun x hx => hes x (by simp [hx])) hr
  have hsplit : (forEach (l ++ e :: r) s fun u e => u.engFinish c e n q) =
      forEach r ((forEach l s fun u e => u.engFinish c e n q).engFinish c e n q) fun u e => u.engFinish c e n q := by
    unfold forEach
    rw [List.foldl_append, List.foldl_cons]
  rw [hsplit]
  exact ⟨hafter.run.trans hrun, hafter.drain.trans (hdrain.trans hbefore.drain), hafter.ops.trans (hops.trans (by rw [hbefore.ops]))⟩

/-- The engines that run or drain the word. -/
def wordEngines (s : State) (c : Nat) (q : QWord) : List Nat :=
  (enginesOf (wEmask q.word) q.shift).filter fun e => s.drainsNow c e q || s.runsNow c e q

theorem enginesOf_lt {m k e : Nat} (h : e ∈ enginesOf m k) : e < 4 := by
  obtain ⟨a, -, rfl⟩ := List.mem_map.mp h
  exact Nat.mod_lt _ (by decide)

theorem enginesOf_nodup (m k : Nat) : (enginesOf m k).Nodup := by
  refine List.Nodup.map_on (fun a ha b hb h => ?_) (List.nodup_range.filter _)
  have ha := List.mem_range.mp (List.mem_filter.mp ha).1
  have hb := List.mem_range.mp (List.mem_filter.mp hb).1
  omega

theorem wordEngines_lt {x : Nat} (h : x ∈ s.wordEngines c q) : x < 4 := enginesOf_lt (List.mem_filter.mp h).1

/-- The engines' records, the pause of a legacy image, and the gap that follows (R100, R115, R406). -/
theorem engComplete_after : KeepsWords c (forEach (s.wordEngines c q) s fun u e => u.engFinish c e (s.ran c off) q)
    (s.engComplete p c off q) := by
  have gap (u : State) : KeepsWords c u (forEach (s.wordEngines c q) u fun u e =>
      if (u.engX c e).u.run.isNone && (u.engX c e).drain.isNone then u.enterGap p c e off else u) :=
    .loop _ fun u x hx => .ite (.of_engSide (enterGap_engSide p (wordEngines_lt hx) off)) (.refl c u)
  unfold engComplete
  dsimp only
  refine KeepsWords.trans ?_ (gap _)
  split
  next h => rw [wordEngines, h]; exact .refl c _
  next h => rw [wordEngines, h]; exact legacyPause_keepsWords ..

theorem engComplete_onCore : OnCore c s (s.engComplete p c off q) :=
  (forEach_keeps (P := OnCore c s) _ (fun _ _ he h => h.trans (engFinish_onCore (wordEngines_lt he) _)) (.refl c s)).trans
    engComplete_after.toOnCore

/-- An ENG word that engine e runs, while another drains there or none, leaves it (R100, R138). -/
theorem engComplete_of_runs (he : e ∈ enginesOf (wEmask q.word) q.shift) (hd : s.drainsNow c e q = false)
    (hr : (s.engX c e).u.run = some q) :
    ((s.engComplete p c off q).engX c e).u.run = none ∧ ((s.engComplete p c off q).engX c e).drain = (s.engX c e).drain ∧
      (s.engComplete p c off q).eng c e R.engOpsCnt = incFld (s.eng c e R.engOpsCnt) 47 0 1 := by
  have hmem : e ∈ s.wordEngines c q := List.mem_filter.mpr ⟨he, by simp [runsNow, hr, sameWord]⟩
  obtain ⟨hrun, hdrain, hops⟩ := engFinish_loop (fun _ => wordEngines_lt) ((enginesOf_nodup ..).filter _) hmem hd (s.ran c off)
  have hafter := (engComplete_after (s := s) (p := p) (c := c) (off := off) (q := q)).kept e
  exact ⟨hafter.run.trans hrun, hafter.drain.trans hdrain, hafter.ops.trans hops⟩

theorem retire_eng (e : Fin 4) (h : wClass q.word = 1) : s.retire p c off (.eng e) q = s.engComplete p c off q := by
  unfold retire
  exact if_pos (by rw [h]; rfl)

/-- The word ended, the engine stands as its release left it. -/
theorem engKept_wordEnds : EngKept c e s (s.wordEnds p c q) := by
  refine .of_cx (fun x => ?_) fun off ho => core_wordEnds (by omega) c
  rw [engX, engX, cxOf_wordEnds]

/-- The completion of an ENG word through one of its engines. -/
theorem wordComplete_eng {core : Core} {e : Fin 4} {beside : Bool} (htrip : s.thm.trip = false) (hrun : s.runSlot core.val = some p)
    (hleft : s.wordsLeft p core.val) (hrem : s.removed core.val off = false) (hend : (s.slot p).ending = none) (hclass : wClass q.word = 1)
    (he : e.val ∈ enginesOf (wEmask q.word) q.shift) (hd : s.drainsNow core.val e.val q = false) (hr : (s.engX core.val e.val).u.run = some q)
    (hq : s.completing core.val beside (.eng e) = some q) :
    ∃ t, exec (.wordComplete core (.eng e) off beside) s = .next t ∧ (t.engX core.val e.val).u.run = none ∧
      (t.engX core.val e.val).drain = (s.engX core.val e.val).drain ∧
      t.eng core.val e.val R.engOpsCnt = incFld (s.eng core.val e.val R.engOpsCnt) 47 0 1 ∧ s.signalled t core.val q.word ∧
      s.othersKept t core.val := by
  have hu := settleRamps_engSide (s := s) (c := core.val) off
  have hon : OnCore core.val s ((s.settleRamps core.val off).engComplete p core.val off q) := hu.toOnCore.trans engComplete_onCore
  have heq := wordComplete_eq (q := q) (y := .eng e) hrun hq (by rw [completesAt, hclass]; rfl) rfl hrem hend hleft
    (by rw [retire_eng e hclass]; exact hon)
  rw [retire_eng e hclass] at heq
  have hd' : (s.settleRamps core.val off).drainsNow core.val e.val q = false := by rw [drainsNow, (hu.kept e.val).drain]; exact hd
  obtain ⟨hfree, hdrain, hops⟩ := engComplete_of_runs (p := p) (off := off) he hd' ((hu.kept e.val).run.trans hr)
  have hk := engKept_wordEnds (s := (s.settleRamps core.val off).engComplete p core.val off q) (p := p) (c := core.val) (q := q) (e := e.val)
  refine ⟨_, (exec_wordComplete htrip ..).trans ((congrArg s.bcnDone heq).trans (bcnDone_next ..)), ?_⟩
  exact ⟨hk.run.trans hfree, hk.drain.trans (hdrain.trans (hu.kept e.val).drain), hk.ops.trans (hops.trans (by rw [(hu.kept e.val).ops])),
    wordEnds_signalled hon, wordEnds_othersKept hon⟩

/-- That of a word of the vector engine. -/
theorem wordComplete_vec {core : Core} {beside : Bool} (htrip : s.thm.trip = false) (hrun : s.runSlot core.val = some p)
    (hleft : s.wordsLeft p core.val) (hrem : s.removed core.val off = false) (hend : (s.slot p).ending = none)
    (hr : (s.cxOf core.val).vec.run = some q) (hclass : wClass q.word = 2) :
    ∃ t, exec (.wordComplete core .vec off beside) s = .next t ∧
      (t.cxOf core.val).vec.run = none ∧ t.core core.val R.vecOpsCnt = incFld (s.core core.val R.vecOpsCnt) 47 0 1 ∧
      t.vecState core.val = (if (s.cxOf core.val).vec.bank then unitBanked else unitIdle) ∧ s.signalled t core.val q.word ∧
      s.othersKept t core.val ∧ t = { s with cx := t.cx, coreR := t.coreR } := by
  have hu := settleRamps_engSide (s := s) (c := core.val) off
  have hon : OnCore core.val s ((s.settleRamps core.val off).vecRetired core.val) := hu.toOnCore.trans vecRetired_onCore
  have heq := wordComplete_eq (q := q) (y := .vec) (beside := beside) hrun hr (by rw [completesAt, hclass]; rfl) rfl hrem hend hleft
    (by rw [retire_vec hclass]; exact hon)
  rw [retire_vec hclass] at heq
  have hside : CoreSide s (((s.settleRamps core.val off).vecRetired core.val).wordEnds p core.val q) :=
    ((settleRamps_coreSide ..).trans vecRetired_coreSide).trans wordEnds_coreSide
  have hvec : ((s.settleRamps core.val off).cxOf core.val).vec = (s.cxOf core.val).vec := by rw [hu.cx]
  refine ⟨_, (exec_wordComplete htrip ..).trans (by rw [heq, hside.bcnDone]), ?_, ?_, ?_, wordEnds_signalled hon, wordEnds_othersKept hon,
    coreSide_frame hside⟩
  · rw [cxOf_wordEnds, cxOf_vecRetired]
  · have hops := core_vecRetired_ops (s := s.settleRamps core.val off) (c := core.val)
    rw [hu.high R.vecOpsCnt (by decide)] at hops
    exact (core_wordEnds (by decide) _).trans hops
  · have hstate := vecState_vecRetired (s := s.settleRamps core.val off) (c := core.val)
    rw [hvec] at hstate
    exact (congrArg (fld · 1 0) (core_wordEnds (by decide) _)).trans hstate

theorem pgw_wordEnds : ((s.wordEnds p c q).cxOf c).pgw = (s.cxOf c).pgw := by rw [cxOf_wordEnds]

/-- That of a word of the walker. -/
theorem wordComplete_pgw {core : Core} {beside : Bool} (htrip : s.thm.trip = false) (hrun : s.runSlot core.val = some p)
    (hleft : s.wordsLeft p core.val) (hrem : s.removed core.val off = false) (hend : (s.slot p).ending = none)
    (hr : (s.cxOf core.val).pgw.run = some q) :
    ∃ t, exec (.wordComplete core .pgw off beside) s = .next t ∧
      (t.cxOf core.val).pgw.run = none ∧ s.signalled t core.val q.word ∧ s.othersKept t core.val := by
  have hu := settleRamps_engSide (s := s) (c := core.val) off
  obtain ⟨hfree, hnone⟩ := freeWalkerUnits_free (s := s.settleRamps core.val off) (p := p) (off := off) (q := q) (c := core.val)
    (by rw [hu.cx]; exact hr)
  have hon : OnCore core.val s ((s.settleRamps core.val off).freeWalkerUnits p core.val off q) := hu.toOnCore.trans hfree
  have heq : s.wordComplete core.val off .pgw beside = ((s.settleRamps core.val off).freeWalkerUnits p core.val off q).wordEnds p core.val q :=
    wordComplete_eq hrun hr rfl rfl hrem hend hleft hon
  refine ⟨_, (exec_wordComplete htrip ..).trans ((congrArg s.bcnDone heq).trans (bcnDone_next ..)), ?_⟩
  exact ⟨(congrArg UnitX.run pgw_wordEnds).trans hnone, wordEnds_signalled hon, wordEnds_othersKept hon⟩

/-- A unit is ready (R119, R161). -/
theorem exec_unitReady (htrip : s.thm.trip = false) (core : Core) (y : CoreUnit) :
    exec (.unitReady core y) s = .next (s.updCx core.val fun x => x.setUnit y fun z => { z with ready := true }) := by
  change s.coreDone _ = _
  unfold coreDone
  rw [if_neg (by simp [htrip])]
  rfl

theorem unit_setUnit_ready (x : CoreX) (y : CoreUnit) :
    (x.setUnit y fun z => { z with ready := true }).unit y = { x.unit y with ready := true } := by
  cases y with
  | eng e => simp [CoreX.setUnit, CoreX.unit, Tbl.upd]
  | _ => rfl

end State

/-- Settles O18: each unit lets go of its word, its event is counted, and what follows the end of a stream or of a run does not come about. -/
theorem wordCompletion : Obligations.WordCompletion := by
  unfold Obligations.WordCompletion
  refine ⟨fun s core y htrip => ?_, fun s core off p beside q htrip hrun hleft hrem hend => ?_⟩
  · refine ⟨_, State.exec_unitReady htrip core y, ?_, (fun d hd => ⟨(State.cxOf_updCx ..).trans (if_neg hd), fun _ => rfl⟩), rfl⟩
    rw [State.cxOf_updCx, if_pos rfl, State.unit_setUnit_ready]
  have hu := State.settleRamps_engSide (s := s) (c := core.val) off
  refine ⟨State.wordComplete_vec htrip hrun hleft hrem hend, fun hr => ?_, fun hr => ?_, fun ch hr hrev => ⟨fun hquiet => ?_, fun hbusy => ?_⟩,
    State.wordComplete_pgw htrip hrun hleft hrem hend, fun e hclass he hd hr => ?_, fun e d hclass he hdr hd hsame hr => ?_⟩
  · obtain ⟨t, hexec, hcx, hrest⟩ := State.wordComplete_updCx (y := .chk) (beside := beside) htrip hrun hr rfl rfl hrem hend hleft
      (State.retire_chk _) (fun _ => rfl) fun _ => rfl
    have hchk : ((s.settleRamps core.val off).cxOf core.val).chk = (s.cxOf core.val).chk := by rw [hu.cx]
    exact ⟨t, hexec, by rw [hcx, hchk], hrest⟩
  · obtain ⟨t, hexec, hcx, hrest⟩ := State.wordComplete_updCx (y := .que) (beside := beside) htrip hrun hr rfl rfl hrem hend hleft
      (State.retire_que _) (fun _ => rfl) fun _ => rfl
    have hque : ((s.settleRamps core.val off).cxOf core.val).que = (s.cxOf core.val).que := by rw [hu.cx]
    exact ⟨t, hexec, by rw [hcx, hque], hrest⟩
  · have hrun' : ((s.settleRamps core.val off).cxOf core.val).strRun = (s.cxOf core.val).strRun := by rw [hu.cx]
    have hrev' : ((s.settleRamps core.val off).cxOf core.val).strRev.find? ch.val = none := by rw [hu.cx]; exact hrev
    obtain ⟨t, hexec, hcx, hsig, -, hrest⟩ := State.wordComplete_updCx (y := .str ch) (beside := beside) htrip hrun hr rfl hquiet hrem hend
      hleft (State.retire_str hrev') (fun _ => rfl) fun _ => rfl
    exact ⟨t, hexec, by rw [hcx, hrun'], hsig, hrest⟩
  · rw [State.exec_wordComplete htrip, State.wordComplete_of_busy hrun hr hbusy, State.bcnDone_self]
  · have hdrains : s.drainsNow core.val e.val q = false := by rw [State.drainsNow, hd]
    have hq : s.completing core.val beside (.eng e) = some q := by rw [State.completing, hd]; exact hr
    obtain ⟨t, hexec, hfree, -, hrest⟩ := State.wordComplete_eng htrip hrun hleft hrem hend hclass he hdrains hr hq
    exact ⟨t, hexec, hfree, hrest⟩
  · have hdrains : s.drainsNow core.val e.val q = false := by rw [State.drainsNow, hd]; exact hsame
    have hq : s.completing core.val true (.eng e) = some q := by
      rw [State.completing, hd]
      simp [hr, hdr]
    obtain ⟨t, hexec, hfree, hdrain, hrest⟩ := State.wordComplete_eng htrip hrun hleft hrem hend hclass he hdrains hr hq
    exact ⟨t, hexec, hfree, hdrain.trans hd, hrest⟩

end Sys2Proof.Machine
end


section
/-!
PROOFS. An OUT_WRITE of a silenced run (R143, R226, R232): it writes no entry, but it still reads its row, and that read takes a transfer
tag, whose peak the record of the slot keeps.
-/

namespace Sys2Proof.Machine

/-- An internal cord queue of entries of 64 bytes. -/
def mutedDecl : QueueDecl :=
  { q := 4, kind := 3, w := 4, outq := 4, depthLog := 6, esizeLog := 6, writer := 0, ring := 0x20000, cpoints := [], feed := 1 }

/-- An OUT_WRITE of one entry on that queue, with descriptor 0. -/
def mutedWord : QWord :=
  { word := BitVec.ofNat 128 (6 * 2 ^ 100 + 3 * 2 ^ 92 + 4 * 2 ^ 66 + 2 ^ 26), rfn := 0, op := 0, addr := 0, shift := 0 }

/-- Rows of 32 bytes at the start of core 0's SRAM. -/
def mutedDesc : Desc := parseDesc (sramOf 0 * 2 ^ 64 + 32 * 2 ^ 112)

/-- Slot 0 is RUNNING and silenced from RFN 0 on; its core 0 can issue the OUT_WRITE. -/
def mutedRun : State :=
  { powered := true, bcn := { sts := 3, cpf := 2250, locked := true }, host := { buoy0 := 0xFFFFFFFFFF03 }
    slots := [(0, { img := some { bareImage with queues := [mutedDecl] }, sts := 3, mute := some 0 })]
    coreR := [(0, [(R.seqSts, 2), (R.seqDesc, 0x1000)])], cx := [(0, { que := { queue := [mutedWord] } })]
    mem := Memory.sets [] (sramOf 0 + 0x1000) (leBytes 32 (sramOf 0 * 2 ^ 64 + 32 * 2 ^ 112)) }

namespace State

/-- The largest number of transfer tags that a die held in the run of slot p, as an OUT_WRITE leaves it. -/
def tagPeakAfterOut (s : State) (core : Core) (off p : Nat) : Nat :=
  match exec (.outWrite core off) s with
  | .next t => fld (t.slot p).tag 12 0
  | _ => 0

theorem tagPeakAfterOut_of_next {s t : State} {core : Core} {off : Nat} (h : exec (.outWrite core off) s = .next t) (p : Nat) :
    s.tagPeakAfterOut core off p = fld (t.slot p).tag 12 0 := by
  rw [tagPeakAfterOut, h]

theorem tagPeakAfterOut_mutedRun : mutedRun.tagPeakAfterOut 0 0 0 = 1 := by decide +kernel

theorem mutedRun_issues : mutedRun.issues 0 0 0 .que mutedWord 6 3 :=
  ⟨⟨rfl, rfl, rfl, rfl, rfl, by decide +kernel, rfl⟩, by decide +kernel, rfl, fun _ => rfl, by decide +kernel⟩

theorem mutedRun_tagFree : mutedRun.tagFree 0 8 ∧ (mutedRun.cxOf 0).late = [] :=
  ⟨⟨by decide +kernel, rfl⟩, rfl⟩

theorem mutedRun_queue : mutedRun.queDecl? 0 (wQ mutedWord.word) = some mutedDecl ∧ 2 ≤ mutedDecl.kind ∧ wOne mutedWord.word = true ∧
    mutedRun.muted 0 mutedWord.rfn.toNat = true := by decide +kernel

theorem mutedRun_desc : runAcc (readDesc 0 (wQDesc mutedWord.word)) (mutedRun.unitTake 0 .que mutedWord) =
    (.ok mutedDesc, mutedRun.unitTake 0 .que mutedWord) ∧ rowsFit 0 mutedDesc 1 = true := by decide +kernel

/-- No tag is counted before the word works. -/
theorem mutedRun_tag : fld ((mutedRun.unitTake 0 .que mutedWord).slot 0).tag 12 0 = 0 := by decide +kernel

end State

/-- Refutes O32: in `mutedRun` the entry of a silenced run is not written, but its row is read, and the tag of that read is the run's peak
of tags, in a record of the slot that the statement has unchanged. -/
theorem not_queuePortWords : ¬ Obligations.QueuePortWords := by
  unfold Obligations.QueuePortWords
  intro h
  obtain ⟨hready, hlate⟩ := State.mutedRun_tagFree
  obtain ⟨hdecl, hkind, hone, hmute⟩ := State.mutedRun_queue
  obtain ⟨hdesc, hfit⟩ := State.mutedRun_desc
  obtain ⟨-, -, hfree⟩ := h mutedRun 0 0 0 mutedWord
  obtain ⟨-, hout, -⟩ := hfree hready hlate
  obtain ⟨hsilent, -⟩ := hout mutedDecl mutedDesc _ State.mutedRun_issues hdecl hkind hdesc hfit (.inl ⟨hone, rfl⟩) _ _
    (fun _ => ⟨rfl, rfl⟩) (fun h' => absurd (hone.symm.trans h') (by decide))
  obtain ⟨t, hexec, hslots, -⟩ := hsilent hmute
  have hpeak := State.tagPeakAfterOut_of_next hexec 0
  rw [State.tagPeakAfterOut_mutedRun, State.slot, hslots] at hpeak
  exact absurd (hpeak.trans State.mutedRun_tag) (by decide)

end Sys2Proof.Machine
end


section
/-!
PROOFS. A Beacon stall that loses its own log entry (R51, R144, R198, R290, R366, R367). The stall cancels the starts of all eight slots; each
of the 512 cores of each start lets go of its frames, and finds an uncorrectable error in its frame table, which is logged. The entry of the
stall is then more than 4,096 entries back, and the log holds no more.
-/

namespace Sys2Proof.Machine

/-- The start of core 0's turf slice: the frame table of every core. -/
abbrev floodDa : Nat := turfOf 0

/-- Frame 0 of that table is PINNED. -/
def floodMem : List Host.Cell := [(floodDa + 10, 3)]

/-- Its first word is in error, in two bits. -/
def floodSyn : Tbl Byte := [(floodDa / 8, 3)]

/-- An image whose partition is every die. -/
def floodImage : Image := { bareImage with dieMask := 2 ^ 32 - 1 }

namespace State

/-- Every slot below 8 holds an image, those from k on are STARTING and prepared; every walker is on and has the table in error; the log is
full, and has taken n entries and 4,096 more. -/
structure Flooded (k n : Nat) (s : State) : Prop where
  mem : s.mem = floodMem
  syn : s.syn = floodSyn
  map : s.map = {}
  die : s.dieUp 0 = true
  trip : s.thm.trip = false
  walkers : ∀ c < 512, s.pgwState c ≠ unitOff ∧ s.core c R.pgwPftBase = BitVec.ofNat 64 floodDa
  images : ∀ p < 8, (s.slot p).img = some floodImage
  starting : ∀ p < 8, k ≤ p → s.slotState p = 2 ∧ (s.slot p).prepared = true
  full : s.kpr.log.map (·.seq) = List.range' (s.kpr.logSeq - 4096) 4096
  count : n + 4096 ≤ s.kpr.logSeq

theorem readAll_cons_error {f : State → Nat → Except AccErr (List Byte) × State} {s t : State} {j : Nat} {js : List Nat} {e : AccErr}
    (h : f s j = (.error e, t)) : readAll f s (j :: js) = (.error e, t) := by
  rw [readAll, h]

theorem runAcc_bind_error {α β : Type} {x : Acc α} {f : α → Acc β} {s t : State} {e : AccErr} (h : runAcc x s = (.error e, t)) :
    runAcc (x >>= f) s = (.error e, t) := by
  have hx : x s = (.error e, t) := h
  simp only [runAcc, ExceptT.run, Bind.bind, ExceptT.bind, ExceptT.mk, StateT.bind, ExceptT.bindCont, hx]
  rfl

theorem runAcc_get_bind {α : Type} (f : State → Acc α) (s : State) : runAcc (get >>= f) s = runAcc (f s) s := rfl

theorem runAcc_forM_singleton {α : Type} (a : α) (f : α → Acc PUnit) (s : State) :
    runAcc ([a].forM f) s = runAcc (f a >>= fun _ => pure ⟨⟩) s := rfl

namespace Flooded

variable {s : State} {k n : Nat}

theorem le {m : Nat} (h : Flooded k n s) (hm : m ≤ n) : Flooded k m s := { h with count := by have := h.count; omega }

theorem loop {α : Type} {f : State → α → State} (h : ∀ u a, Flooded k n u → Flooded k n (f u a)) (l : List α) (hs : Flooded k n s) :
    Flooded k n (forEach l s f) := forEach_keeps l (fun u a _ => h u a) hs

/-- A loop whose every round logs an entry. -/
theorem loop_count {α : Type} {f : State → α → State} {l : List α} (h : ∀ u, ∀ a ∈ l, ∀ n, Flooded k n u → Flooded k (n + 1) (f u a))
    (hs : Flooded k n s) : Flooded k (n + l.length) (forEach l s f) := by
  induction l generalizing s n with
  | nil => exact hs
  | cons a l ih =>
    have hl := ih (fun u b hb => h u b (List.mem_cons_of_mem _ hb)) (h s a List.mem_cons_self n hs)
    rw [List.length_cons, Nat.add_comm l.length, ← Nat.add_assoc]
    exact hl

theorem ite {p : Prop} [Decidable p] {t u : State} (ht : Flooded k n t) (hu : Flooded k n u) : Flooded k n (if p then t else u) := by
  split <;> assumption

/-! ### What leaves the flood as it is -/

theorem updCx (h : Flooded k n s) (c : Nat) (f : CoreX → CoreX) : Flooded k n (s.updCx c f) :=
  ⟨h.mem, h.syn, h.map, h.die, h.trip, h.walkers, h.images, h.starting, h.full, h.count⟩

theorem updEngX (h : Flooded k n s) (c e : Nat) (f : EngX → EngX) : Flooded k n (s.updEngX c e f) := h.updCx c _

theorem updDie (h : Flooded k n s) (d off : Nat) (f : Word → Word) : Flooded k n (s.updDie d off f) :=
  ⟨h.mem, h.syn, h.map, h.die, h.trip, h.walkers, h.images, h.starting, h.full, h.count⟩

theorem updBcn (h : Flooded k n s) (f : Bcn → Bcn) : Flooded k n (s.updBcn f) :=
  ⟨h.mem, h.syn, h.map, h.die, h.trip, h.walkers, h.images, h.starting, h.full, h.count⟩

theorem bumpFree (h : Flooded k n s) : Flooded k n s.bumpFree :=
  ⟨h.mem, h.syn, h.map, h.die, h.trip, h.walkers, h.images, h.starting, h.full, h.count⟩

theorem aside {f : State → State} (h : Flooded k n (f s)) : Flooded k n (s.aside f) :=
  ⟨h.mem, h.syn, h.map, h.die, h.trip, h.walkers, h.images, h.starting, h.full, h.count⟩

theorem idle (h : Flooded k n s) (m : Nat) : Flooded k n { s with kpr := { s.kpr with idleMs := m } } :=
  ⟨h.mem, h.syn, h.map, h.die, h.trip, h.walkers, h.images, h.starting, h.full, h.count⟩

theorem completeWhere (h : Flooded k n s) (p : Cmd → Bool) (x d : Nat) (r : List Byte) : Flooded k n (s.completeWhere p x d r) := by
  rw [completeWhere_frame]
  exact ⟨h.mem, h.syn, h.map, h.die, h.trip, h.walkers, h.images, h.starting, h.full, h.count⟩

theorem raise (h : Flooded k n s) (b : Nat) : Flooded k n (s.raise b) := by
  rw [raise_frame]
  exact ⟨h.mem, h.syn, h.map, h.die, h.trip, h.walkers, h.images, h.starting, h.full, h.count⟩

/-- A register of a core that is neither the walker's status nor its table. -/
theorem setCore (h : Flooded k n s) {off : Nat} (hsts : off ≠ R.pgwSts) (hpft : off ≠ R.pgwPftBase) (c : Nat) (v : Word) :
    Flooded k n (s.setCore c off v) :=
  ⟨h.mem, h.syn, h.map, h.die, h.trip, fun d hd => by
    rw [pgwState, core_setCore, if_neg fun e => hsts e.2.symm, core_setCore, if_neg fun e => hpft e.2.symm]
    exact h.walkers d hd, h.images, h.starting, h.full, h.count⟩

/-- The walker's status, where it stays on. -/
theorem setSts (h : Flooded k n s) {c : Nat} {v : Word} (hv : fld v 1 0 ≠ unitOff) : Flooded k n (s.setCore c R.pgwSts v) :=
  ⟨h.mem, h.syn, h.map, h.die, h.trip, fun d hd => by
    rw [pgwState, core_setCore, core_setCore, if_neg (c := _ ∧ R.pgwPftBase = _) fun e => absurd e.2 (by decide)]
    refine ⟨?_, (h.walkers d hd).2⟩
    split
    · exact hv
    · exact (h.walkers d hd).1, h.images, h.starting, h.full, h.count⟩

/-- A slot's record but for its image, its state and whether it is prepared. -/
theorem updSlot (h : Flooded k n s) (p : Nat) {f : SlotX → SlotX} (himg : ∀ y, (f y).img = y.img) (hsts : ∀ y, (f y).sts = y.sts)
    (hprep : ∀ y, (f y).prepared = y.prepared) : Flooded k n (s.updSlot p f) := by
  have hslot (q : Nat) : ((s.updSlot p f).slot q).img = (s.slot q).img ∧ (s.updSlot p f).slotState q = s.slotState q ∧
      ((s.updSlot p f).slot q).prepared = (s.slot q).prepared := by
    unfold slotState
    rw [slot_updSlot]
    split
    next e => subst e; exact ⟨himg _, by rw [hsts], hprep _⟩
    · exact ⟨rfl, rfl, rfl⟩
  exact ⟨h.mem, h.syn, h.map, h.die, h.trip, h.walkers, fun q hq => (hslot q).1.trans (h.images q hq), fun q hq hk => by
    rw [(hslot q).2.1, (hslot q).2.2]; exact h.starting q hq hk, h.full, h.count⟩

/-- A window of numbers moves on by one. -/
theorem range'_shift (m a b : Nat) (hb : b = a + (m + 1)) : (List.range' a (m + 1)).drop 1 ++ [b] = List.range' (a + 1) (m + 1) := by
  rw [List.range'_succ, List.drop_one, List.tail_cons, List.range'_concat, hb]
  congr 2
  omega

/-- An entry of the log: the oldest one goes. -/
theorem logEv (h : Flooded k n s) (y p : Nat) (d : List Byte) : Flooded k (n + 1) (s.logEv y p d) := by
  have hc := h.count
  have hlen : s.kpr.log.length = 4096 := by
    have := congrArg List.length h.full
    rwa [List.length_map, List.length_range'] at this
  refine ⟨h.mem, h.syn, h.map, h.die, h.trip, h.walkers, h.images, h.starting, ?_, by
    change n + 1 + 4096 ≤ s.kpr.logSeq + 1
    omega⟩
  have hlog : (s.logEv y p d).kpr.log.map (·.seq) = (s.kpr.log.drop 1).map (·.seq) ++ [s.kpr.logSeq] := by
    unfold State.logEv logFull
    dsimp only
    rw [if_pos hlen.ge, List.map_append, List.map_singleton]
  rw [hlog, List.map_drop, h.full]
  have hnext : s.kpr.logSeq - 4096 + 1 = s.kpr.logSeq + 1 - 4096 := by omega
  have hshift := range'_shift 4095 (s.kpr.logSeq - 4096) s.kpr.logSeq (by omega)
  rw [hnext] at hshift
  exact hshift

/-! ### A core lets go of its frames -/

/-- A register of an engine. -/
theorem updEng (h : Flooded k n s) {e : Nat} (he : e ∈ List.range 4) {o : Nat} (ho : o < 0x100) (c : Nat) (f : Word → Word) :
    Flooded k n (s.updEng c e o f) := by
  have := List.mem_range.mp he
  exact h.setCore (by unfold R.pgwSts; omega) (by unfold R.pgwPftBase; omega) _ _

theorem setEngState (h : Flooded k n s) {e : Nat} (he : e ∈ List.range 4) (c v : Nat) : Flooded k n (s.setEngState c e v) :=
  h.updEng he (by decide) c _

theorem endKindles (h : Flooded k n s) (c off : Nat) : Flooded k n (s.endKindles c off) := by
  unfold State.endKindles settleRamps
  refine forEach_keeps _ (fun t e he ht => ?_) (forEach_keeps _ (fun t e he ht => ?_) h)
  · unfold endKindle
    split
    · exact ht
    · exact (ht.updEng he (o := R.engKndCnt) (by decide) c _).updEngX c e _
  · unfold settleEng
    split
    · exact ht
    · refine ite ht (ite ?_ ?_)
      · exact (ht.setEngState he c engKindle).updEngX c e _
      · exact (ht.setEngState he c _).updEngX c e _

theorem abandon (h : Flooded k n s) (c : Nat) : Flooded k n (s.abandon c) := by
  have setPgw {t : State} (ht : Flooded k n t) {v : Nat} (hv : v = unitBanked ∨ v = unitIdle) : Flooded k n (t.setPgwState c v) :=
    ht.setSts (by dsimp only; rw [fld_setFld_same _ 1 0 _ (by omega)]; rcases hv with rfl | rfl <;> decide)
  have hloop {u : State} (hu : Flooded k n u) := forEach_keeps (P := Flooded k n) (List.range 4) (f := fun t e =>
      let t := when (bitAt (t.eng c e R.engSts) 7) (fun t : State => t.updEng c e R.engSts fun w => setBit w 7 false) t
      if 3 ≤ t.engState c e && t.engState c e < 7 then t.engToIdle c e else t) (fun t e he ht => by
    have hw : Flooded k n (when (bitAt (t.eng c e R.engSts) 7) (fun t : State => t.updEng c e R.engSts fun w => setBit w 7 false) t) :=
      ite (ht.updEng he (o := R.engSts) (by decide) c _) ht
    exact ite (hw.setEngState he c _) hw) hu
  have hvec {u : State} (hu : Flooded k n u) (v : Nat) : Flooded k n (if u.vecState c == unitActive then u.setVecState c v else u) :=
    ite (hu.setCore (by decide) (by decide) c _) hu
  have hpgw {u : State} (hu : Flooded k n u) : Flooded k n (if u.pgwState c == unitActive then
      u.setPgwState c (if bitAt (u.core c R.pgwCtrl) 1 then unitBanked else unitIdle) else u) :=
    ite (setPgw hu (by split <;> simp)) hu
  exact hpgw (hvec (hloop (h.updCx c _)) _)

theorem passTag (h : Flooded k n s) (w : Who) : Flooded k n (s.passTag w) := by
  have hn (p c m : Nat) : Flooded k n (s.noteTags p c m) := by
    unfold noteTags
    exact (h.setCore (by decide) (by decide) _ _).updSlot _ (fun y => by split <;> rfl) (fun y => by split <;> rfl)
      (fun y => by split <;> rfl)
  unfold State.passTag
  refine ite ?_ h
  split
  · exact h
  · exact ite h (ite (hn ..) h)

theorem noteUe (h : Flooded k n s) (d : Nat) (a b : Bool) (m : Nat) (w : Who) (x : Nat) (y : Byte) :
    Flooded k (n + 1) (s.noteUe (.die d) a b m w x y) := by
  unfold State.noteUe logUe
  exact ((((h.updDie ..).updDie ..).updDie ..).logEv ..).raise _

theorem walkerHalt (h : Flooded k n s) {c : Nat} (hc : c < 512) (x a : Nat) : Flooded k n (s.walkerHalt c x a) := by
  have hsts : Flooded k n (s.updCore c R.pgwSts fun w => setBit w 11 true) :=
    h.setSts (by dsimp only; rw [fld_setBit_apart _ 11 1 0 _ (by omega)]; exact (h.walkers c hc).1)
  unfold State.walkerHalt
  refine ite h ?_
  refine ((?_ : Flooded k n _).logEv ..).le (Nat.le_succ n)
  split
  · exact (hsts.setCore (by decide) (by decide) _ _).updSlot _ (fun _ => rfl) (fun _ => rfl) fun _ => rfl
  · exact hsts.setCore (by decide) (by decide) _ _

/-- A die with nothing fused out presents every core. -/
theorem presented (h : Flooded k n s) (c : Nat) : s.presented c = true := by
  unfold State.presented bearer outOf
  rw [h.map, if_pos (by simp [Tbl.get, Tbl.find?])]
  rfl

theorem locate (h : Flooded k n s) : s.locate floodDa = some (.turf floodDa 0) := by
  unfold State.locate
  rw [if_neg (by decide), if_pos (by decide)]
  exact if_pos (h.presented _)

/-- The first word of the table is in error. -/
theorem readPiece1 (h : Flooded k n s) (w : Who) :
    s.readPiece1 w floodDa 16 = (.error (.ue floodDa 3 1), s.noteUe (.die 0) false false 1 w floodDa 3) := by
  have hword : s.readSlice w 0 floodDa floodDa false false = (.error (.ue floodDa 3 1), s.noteUe (.die 0) false false 1 w floodDa 3) := by
    unfold readSlice rawWord
    rw [h.syn, h.mem]
    rfl
  unfold State.readPiece1
  rw [h.locate]
  dsimp only
  rw [if_neg (by rw [answers, h.die]; decide)]
  rw [show List.range (cdiv (floodDa + 16 - floodDa / 8 * 8) 8) = [0, 1] from by decide, readAll_cons_error (by exact hword)]

theorem readDa (h : Flooded k n s) (w : Who) :
    s.readDa w floodDa 16 = (.error (.ue floodDa 3 1), (s.passTag w).noteUe (.die 0) false false 1 w floodDa 3) := by
  unfold State.readDa
  rw [show List.range (pieces floodDa 16).length = [0] from by decide]
  exact readAll_cons_error ((h.passTag w).readPiece1 w)

theorem frameDa (h : Flooded k n s) {c : Nat} (hc : c < 512) : s.frameDa c 0 = floodDa := by
  unfold State.frameDa pftBase
  rw [(h.walkers c hc).2]
  decide

/-- The one byte of memory lies in the only frame of the table. -/
theorem frameNums (h : Flooded k n s) {c : Nat} (hc : c < 512) :
    ((s.mem.filter fun e => s.frameDa c 0 ≤ e.1 && e.1 < s.frameDa c (s.frames c)).map fun e => (e.1 - s.pftBase c) / 16).eraseDups = [0] := by
  unfold State.frameDa pftBase frames
  rw [(h.walkers c hc).2, h.mem]
  decide

theorem pinned (h : Flooded k n s) {c : Nat} (hc : c < 512) : (parseFrame (s.peek (s.frameDa c 0) 16)).st = 3 := by
  unfold peek
  rw [h.frameDa hc, h.locate]
  have hbyte (i : Nat) : s.peekByte (.turf floodDa 0) i = Memory.get floodMem (floodDa + i) := by rw [← h.mem]; rfl
  dsimp only
  rw [funext hbyte]
  decide

theorem rdFrame (h : Flooded k n s) {c : Nat} (hc : c < 512) : runAcc (rdFrame c 0) s =
    (.error (errAt floodDa (.ue floodDa 3 1)), (s.passTag (.walker c)).noteUe (.die 0) false false 1 (.walker c) floodDa 3) := by
  have hat : runAcc (rdAt (.walker c) (s.frameDa c 0) 16) s =
      (.error (errAt floodDa (.ue floodDa 3 1)), (s.passTag (.walker c)).noteUe (.die 0) false false 1 (.walker c) floodDa 3) := by
    rw [h.frameDa hc]
    change (match s.readDa (.walker c) floodDa 16 with | (.ok b, t) => (Except.ok b, t) | (.error e, t) => (.error (errAt floodDa e), t)) = _
    rw [h.readDa]
  unfold Machine.rdFrame
  rw [runAcc_get_bind]
  exact runAcc_bind_error hat

/-- The release of frames finds the PINNED frame and cannot read it. -/
theorem releaseFrames (h : Flooded k n s) {c : Nat} (hc : c < 512) : Flooded k (n + 1) (walkerRun c (releaseFrames c fun _ => true) s) := by
  have hrun : runAcc (Machine.releaseFrames c fun _ => true) s =
      (.error (errAt floodDa (.ue floodDa 3 1)), (s.passTag (.walker c)).noteUe (.die 0) false false 1 (.walker c) floodDa 3) := by
    unfold Machine.releaseFrames
    rw [runAcc_get_bind, h.frameNums hc, runAcc_forM_singleton]
    refine runAcc_bind_error ?_
    dsimp only
    rw [if_pos (by rw [h.pinned hc]; rfl)]
    exact runAcc_bind_error (h.rdFrame hc)
  unfold walkerRun
  rw [hrun]
  exact ((h.passTag _).noteUe ..).walkerHalt hc _ _

/-- A core that leaves its run logs an error. -/
theorem releaseCore (h : Flooded k n s) {c : Nat} (hc : c < 512) (off : Nat) :
    Flooded k (n + 1) (s.releaseCore c off) := by
  have hon : (s.pgwState c == unitOff) = false := by simpa using (h.walkers c hc).1
  have hfree : Flooded k n (forEach (List.range 8) ((s.endKindles c off).abandon c) fun t k =>
      t.updCore c (R.strChSts k) fun w => setBit w 0 false) :=
    forEach_keeps _ (fun u ch hch hu => by
      have := List.mem_range.mp hch
      exact hu.setCore (by unfold R.strChSts R.pgwSts; omega) (by unfold R.strChSts R.pgwPftBase; omega) c _) ((h.endKindles c off).abandon c)
  unfold State.releaseCore
  rw [hon, h.trip, Bool.or_false]
  dsimp only
  rw [if_neg Bool.false_ne_true]
  exact ite ((hfree.releaseFrames hc).setCore (by decide) (by decide) c _) (hfree.releaseFrames hc)

/-! ### The starts are cancelled -/

theorem slotCores (h : Flooded k n s) {p : Nat} (hp : p < 8) : s.slotCores p = List.range 512 := by
  unfold State.slotCores
  rw [h.images p hp]
  refine List.filter_eq_self.mpr fun c hc => ?_
  rw [h.presented, Bool.and_true]
  have : dieOf c < 32 := by have := List.mem_range.mp hc; unfold dieOf; omega
  change (2 ^ 32 - 1).testBit _ = true
  rw [Nat.testBit_two_pow_sub_one]
  exact decide_eq_true this

/-- The slot of the first start that is left is STARTING no more. -/
theorem endStart (h : Flooded k n s) {f : SlotX → SlotX} (himg : ∀ y, (f y).img = y.img) : Flooded (k + 1) n (s.updSlot k f) := by
  have hne {q : Nat} (hq : k + 1 ≤ q) : (s.updSlot k f).slot q = s.slot q := (slot_updSlot ..).trans (if_neg (by omega))
  refine ⟨h.mem, h.syn, h.map, h.die, h.trip, h.walkers, fun q hq => ?_, fun q hq hk => ?_, h.full, h.count⟩
  · rw [slot_updSlot]
    split
    next e => subst e; exact (himg _).trans (h.images q hq)
    · exact h.images q hq
  · rw [slotState, hne hk]
    exact h.starting q hq (by omega)

theorem cancelStart (h : Flooded k n s) (hk : k < 8) (why : Nat) : Flooded (k + 1) (n + 512) (s.cancelStart k why) := by
  have hcores := (h.bumpFree).loop_count (l := List.range 512) (f := fun t c => t.releaseCore c (Config.cancelOff s.free % (s.flashLen k + 1)))
    fun u c hc m hu => hu.releaseCore (List.mem_range.mp hc) _
  rw [List.length_range] at hcores
  unfold State.cancelStart
  dsimp only
  rw [if_pos (h.starting k hk le_rfl).2, h.slotCores hk]
  generalize forEach (List.range 512) _ _ = u at hcores ⊢
  have hend := hcores.endStart (f := fun y => { y with
    sts := setFld y.sts 1 0 1, prepared := false, endRfn := 0, halt := none, mute := none, ending := none }) fun _ => rfl
  exact (((hend.idle 0).completeWhere _ _ _ _).logEv ..).le (Nat.le_add_right _ 1)

theorem cancelStarts (h : Flooded 0 n s) (why : Nat) : Flooded 8 (n + 512 * 8) (s.cancelStarts why) := by
  have hloop (m : Nat) (hm : m ≤ 8) : Flooded m (n + 512 * m) (forEach (List.range m) s fun t p =>
      if t.slotState p == 2 then t.cancelStart p why else t) := by
    induction m with
    | zero => exact h
    | succ m ih =>
      have hm' := ih (by omega)
      rw [List.range_succ, forEach, List.foldl_append]
      change Flooded m _ (List.foldl ..) at hm'
      generalize List.foldl _ s (List.range m) = u at hm' ⊢
      change Flooded (m + 1) (n + 512 * (m + 1)) (if u.slotState m == 2 then u.cancelStart m why else u)
      rw [if_pos (by rw [(hm'.starting m (by omega) le_rfl).1]; rfl), Nat.mul_succ, ← Nat.add_assoc]
      exact hm'.cancelStart (by omega) why
  exact hloop 8 le_rfl

theorem haltAll (h : Flooded k n s) (why : Nat) : Flooded k n (s.haltAll why) :=
  h.loop (fun u p hu => by
    have hhalt : Flooded k n (u.haltAt p (u.curRfn p) why) := hu.updSlot p (fun _ => rfl) (fun _ => rfl) fun _ => rfl
    exact ite hhalt hu) _

/-- A stall on top of the flood. -/
theorem beaconStall (h : Flooded 0 n s) (hstate : s.bcnState = 3) (hmiss : s.missRun = 64) :
    Flooded 8 (n + 1 + 512 * 8) s.beaconStall := by
  unfold State.beaconStall
  rw [if_neg (by simp [hstate, hmiss])]
  have hlog := ((h.logEv 0x04 0xFF []).haltAll 4).aside (f := fun u => (u.logEv 0x04 0xFF []).haltAll 4)
  have hdrop {u : State} (hu : Flooded 0 (n + 1) u) : Flooded 0 (n + 1) (forEach (List.range 512) u dropRequest) :=
    hu.loop (fun _ c hv => hv.setCore (by decide) (by decide) c _) _
  exact (hdrop ((hlog.updBcn _).updBcn _)).cancelStarts 3 |>.aside (f := fun u => (forEach (List.range 512) u dropRequest).cancelStarts 3)

end Flooded

/-- A flood of numbers below `n` holds none of them. -/
theorem Flooded.seq_le {s : State} {k n : Nat} (h : Flooded k n s) {e : LogEntry} (he : e ∈ s.kpr.log) : n ≤ e.seq := by
  have hmem : e.seq ∈ s.kpr.log.map (·.seq) := List.mem_map_of_mem he
  rw [h.full, List.mem_range'_1] at hmem
  have := h.count
  omega

end State

/-- The Keeper's part of a stall's outcome. -/
theorem kpr_of_beaconStall {s t : State} (h : exec .beaconStall s = .next t) : t.kpr = s.beaconStall.kpr := by
  change s.bcnDone s.beaconStall = .next t at h
  rw [State.bcnDone_next] at h
  injection h with h
  rw [← h]

/-- An entry of the log with a number, and the numbers of a log of such entries. -/
def floodEntry (k : Nat) : LogEntry :=
  { seq := k, type := 1, conseq := false, slot := 0xFF, fn := 0, rfn := 0, primary := 0, data := [] }

theorem seq_floodEntry (m : Nat) : ((List.range m).map floodEntry).map (·.seq) = List.range' 0 m := by
  rw [List.map_map, ← List.range_eq_range']
  exact List.map_id _

theorem find?_map_const {α : Type} (v : α) {l : List Nat} {a : Nat} (h : a ∈ l) : Tbl.find? a (l.map fun b => (b, v)) = some v := by
  induction l with
  | nil => exact absurd h List.not_mem_nil
  | cons b l ih =>
    rw [List.map_cons, Tbl.find?]
    split
    · rfl
    next hne => exact ih ((List.mem_cons.mp h).resolve_left (Ne.symm hne))

/-- The registers of every core: its walker is idle, and its frame table the one in error. -/
def floodRegs : Tbl Word := [(R.pgwSts, 2), (R.pgwPftBase, BitVec.ofNat 64 floodDa)]

/-- A module in COUNTING with 64 marks missing, whose eight slots are STARTING; the log holds `m` entries, and `n` cores
have a walker. -/
def floodedStall (m n : Nat) : State :=
  { bcn := { sts := setFld 3 23 16 64 }, host := { buoy0 := 0xFFFFFFFFFFFF }, mem := floodMem, syn := floodSyn
    slots := (List.range 8).map fun p => (p, { img := some floodImage, sts := 2, prepared := true })
    coreR := (List.range n).map fun c => (c, floodRegs)
    kpr := { log := (List.range m).map floodEntry, logSeq := m } }

theorem floodedStall_slot (m n : Nat) {p : Nat} (hp : p < 8) :
    (floodedStall m n).slot p = { img := some floodImage, sts := 2, prepared := true } := by
  change (Tbl.find? p ((List.range 8).map fun b => (b, _))).getD _ = _
  rw [find?_map_const _ (List.mem_range.mpr hp)]
  rfl

theorem floodedStall_core (m : Nat) {n c : Nat} (hc : c < n) (off : Nat) :
    (floodedStall m n).core c off = floodRegs.get (coreDflt c off) off := by
  have hregs : Tbl.get [] c (floodedStall m n).coreR = floodRegs := by
    rw [show (floodedStall m n).coreR = (List.range n).map fun c => (c, floodRegs) from rfl, Tbl.get, find?_map_const _ (List.mem_range.mpr hc)]
    rfl
  rw [State.core, hregs]

theorem floodedStall_full (m n : Nat) : (floodedStall m n).kpr.log.map (·.seq) = List.range' ((floodedStall m n).kpr.logSeq - m) m := by
  change ((List.range m).map floodEntry).map _ = List.range' (m - m) m
  rw [Nat.sub_self]
  exact seq_floodEntry m

theorem floodedStall_flooded : State.Flooded 0 0 (floodedStall 4096 512) := by
  refine ⟨rfl, rfl, rfl, by decide +kernel, rfl, fun c hc => ?_, fun p hp => ?_, fun p hp _ => ?_, ?_,
    by change 0 + 4096 ≤ 4096; omega⟩
  · rw [State.pgwState, floodedStall_core _ hc, floodedStall_core _ hc]
    exact ⟨by change fld (2 : Word) 1 0 ≠ unitOff; decide, rfl⟩
  · rw [floodedStall_slot _ _ hp]
  · rw [State.slotState, floodedStall_slot _ _ hp]
    exact ⟨by decide, rfl⟩
  · exact floodedStall_full 4096 512

/-- Refutes O12: in `floodedStall 4096 512` the stall is logged, with number 4096, and then more than 4,096 errors of the cores whose starts it cancels:
of the log nothing below 4097 is left. -/
theorem not_absentMarks : ¬ Obligations.AbsentMarks := by
  unfold Obligations.AbsentMarks
  intro h
  have hstate : (floodedStall 4096 512).bcnState = 3 := by decide +kernel
  have hmiss : (floodedStall 4096 512).missRun = 64 := by decide +kernel
  obtain ⟨t, hexec, -, -, -, ⟨e, he, hseq, -⟩, -⟩ := (h (floodedStall 4096 512) hstate).2 hmiss
  rw [kpr_of_beaconStall hexec] at he
  have hle := (floodedStall_flooded.beaconStall hstate hmiss).seq_le he
  rw [hseq] at hle
  change 0 + 1 + 512 * 8 ≤ 4096 at hle
  omega

end Sys2Proof.Machine
end


section
/-!
PROOFS. The damper (R401-R407): windows, releases and forecasts; and what every command that bears on heat does to the pins.
-/

namespace Sys2Proof.Machine

/-- What the round of `a` brings about holds at the end of a loop over distinct elements, where no other round undoes it, nor what it needs. -/
theorem forEach_once {σ α : Type} {P Q : σ → Prop} {f : σ → α → σ} {a : α} {l : List α} (hl : l.Nodup) (ha : a ∈ l)
    (keepQ : ∀ u b, b ≠ a → Q u → Q (f u b)) (reach : ∀ u, Q u → P (f u a)) (keepP : ∀ u b, b ≠ a → P u → P (f u b))
    {s : σ} (hQ : Q s) : P (forEach l s f) := by
  obtain ⟨l, r, rfl⟩ := List.append_of_mem ha
  have hleft : a ∉ l := fun h => List.disjoint_of_nodup_append hl h List.mem_cons_self
  have hright : a ∉ r := (List.nodup_cons.mp (List.nodup_append.mp hl).2.1).1
  have hsplit : forEach (l ++ a :: r) s f = forEach r (f (forEach l s f) a) f := by
    unfold forEach
    rw [List.foldl_append, List.foldl_cons]
  rw [hsplit]
  exact forEach_keeps r (fun u b hb => keepP u b (ne_of_mem_of_not_mem hb hright))
    (reach _ (forEach_keeps l (fun u b hb => keepQ u b (ne_of_mem_of_not_mem hb hleft)) hQ))

/-- A function tabulated reads back. -/
theorem tabulated_get {α : Type} (d : α) (v : Nat → α) {l : List Nat} {a : Nat} (h : a ∈ l) :
    Tbl.get d a (l.map fun b => (b, v b)) = v a := by
  unfold Tbl.get
  induction l with
  | nil => exact absurd h List.not_mem_nil
  | cons b l ih =>
    rw [List.map_cons, Tbl.find?]
    split
    next e => rw [e]; rfl
    next hne => exact ih ((List.mem_cons.mp h).resolve_left (Ne.symm hne))

namespace State

variable {s t u : State} {d : Nat}

/-! ### The pins -/

theorem refreshPins_frame (s : State) : s.refreshPins = { s with pins := s.refreshPins.pins, iodR := s.refreshPins.iodR } := by
  unfold refreshPins
  split <;> rfl

@[simp] theorem refreshPins_thm : s.refreshPins.thm = s.thm := by rw [refreshPins_frame]
@[simp] theorem refreshPins_dieR : s.refreshPins.dieR = s.dieR := by rw [refreshPins_frame]

/-- Of the I/O dies, `FLOW` of the first alone follows the pins. -/
theorem iod_refreshPins (s : State) {i off : Nat} (h : ¬ (i = 0 ∧ off = R.thmFlow)) : s.refreshPins.iod i off = s.iod i off := by
  unfold refreshPins
  split
  · simp only [iod, updIod, setIod]
    rw [Tbl.get_set_ne _ _ _ (by unfold R.thmFlow at h ⊢; omega)]
  · rfl

theorem onlyPins_refreshPins (s : State) : s.onlyPins s.refreshPins := ⟨refreshPins_frame s, fun _ _ h => iod_refreshPins s h⟩

/-- The state after a command that bears on heat, given its work. -/
def heated (s u : State) : State :=
  { u.refreshPins with pending := s.pending, bcn := s.bcn, sec := s.sec, iodC := s.iodC, rom := s.rom }

theorem heatDone_next (s u : State) : s.heatDone u = .next (s.heated u) := rfl

theorem heated_self (s : State) : s.onlyPins (s.heated s) := by
  have h : s.heated s = s.refreshPins := by
    unfold heated
    rw [refreshPins_frame]
  rw [h]
  exact onlyPins_refreshPins s

theorem heated_frame (s u : State) : s.heated u = { u with
    pins := u.refreshPins.pins, iodR := u.refreshPins.iodR, pending := s.pending, bcn := s.bcn, sec := s.sec, iodC := s.iodC, rom := s.rom } := by
  unfold heated
  rw [refreshPins_frame]

@[simp] theorem heated_thm (s u : State) : (s.heated u).thm = u.thm := by rw [heated_frame]
@[simp] theorem heated_mem (s u : State) : (s.heated u).mem = u.mem := by rw [heated_frame]
@[simp] theorem heated_slots (s u : State) : (s.heated u).slots = u.slots := by rw [heated_frame]
@[simp] theorem heated_cx (s u : State) : (s.heated u).cx = u.cx := by rw [heated_frame]
@[simp] theorem heated_host (s u : State) : (s.heated u).host = u.host := by rw [heated_frame]
@[simp] theorem heated_map (s u : State) : (s.heated u).map = u.map := by rw [heated_frame]
@[simp] theorem thmDie_heated (s u : State) (d : Nat) : (s.heated u).thmDie d = u.thmDie d := by rw [thmDie, heated_thm, ← thmDie]
@[simp] theorem die_heated (s u : State) (d off : Nat) : (s.heated u).die d off = u.die d off := by rw [heated_frame]; rfl
@[simp] theorem dieMode_heated (s u : State) (d : Nat) : (s.heated u).dieMode d = u.dieMode d := by rw [dieMode, die_heated, ← dieMode]

/-! ### Entries of the log -/

/-- The Keeper's records, what has gone out and the interrupt registers. -/
abbrev TellSide (s t : State) : Prop :=
  t = { s with kpr := t.kpr, out := t.out, host := { s.host with intSts := t.host.intSts, pba := t.host.pba } }

theorem thermal_tellSide (s : State) (a b c x : Nat) (r : Int) : TellSide s (s.thermal a b c x r) := by
  unfold thermal
  rw [raise_frame]
  rfl

theorem TellSide.thmDie (h : TellSide s t) (d : Nat) : t.thmDie d = s.thmDie d := by rw [h]; rfl
theorem TellSide.die (h : TellSide s t) (d off : Nat) : t.die d off = s.die d off := by rw [h]; rfl
theorem TellSide.dieMode (h : TellSide s t) (d : Nat) : t.dieMode d = s.dieMode d := by rw [h]; rfl

/-! ### The records of a die -/

theorem thmDie_updThmDie (s : State) (d e : Nat) (f : DieX → DieX) :
    (s.updThmDie d f).thmDie e = if e = d then f (s.thmDie d) else s.thmDie e := by
  by_cases h : e = d
  · subst h
    rw [if_pos rfl, thmDie, updThmDie, Tbl.get_set_same]
  · rw [if_neg h, thmDie, updThmDie, Tbl.get_set_ne _ _ _ h, ← thmDie]

theorem dieMode_updThmDie (s : State) (d e : Nat) (f : DieX → DieX) : (s.updThmDie d f).dieMode e = s.dieMode e := rfl

theorem die_updDie (s : State) {d off e k : Nat} (f : Word → Word) (ho : off < 0x100000) (hk : k < 0x100000) :
    (s.updDie d off f).die e k = if e = d ∧ k = off then f (s.die d off) else s.die e k := die_setDie s _ _ _ _ _ ho hk

/-! ### One window on one die -/

/-- Work on the damper of die d: no other die and nothing but the die's registers and record, and what is told, differs. -/
structure DampSide (d : Nat) (s t : State) : Prop where
  frame : t = { s with dieR := t.dieR, thm := { s.thm with dies := t.thm.dies }, kpr := t.kpr, out := t.out
                       host := { s.host with intSts := t.host.intSts, pba := t.host.pba } }
  others : ∀ e, e ≠ d → t.thmDie e = s.thmDie e ∧ ∀ off < 0x100000, t.die e off = s.die e off

namespace DampSide

theorem refl (d : Nat) (s : State) : DampSide d s s := ⟨rfl, fun _ _ => ⟨rfl, fun _ _ => rfl⟩⟩

theorem trans (h : DampSide d s t) (k : DampSide d t u) : DampSide d s u :=
  ⟨by rw [k.frame, h.frame], fun e he => ⟨((k.others e he).1).trans (h.others e he).1, fun off ho =>
    ((k.others e he).2 off ho).trans ((h.others e he).2 off ho)⟩⟩

theorem ite {p : Prop} [Decidable p] (h : DampSide d s t) (k : DampSide d s u) : DampSide d s (if p then t else u) := by
  split <;> assumption

theorem of_tell (h : TellSide s t) : DampSide d s t := ⟨by rw [h], fun e _ => by rw [h]; exact ⟨rfl, fun _ _ => rfl⟩⟩

theorem of_thmDie (f : DieX → DieX) : DampSide d s (s.updThmDie d f) :=
  ⟨rfl, fun _ he => ⟨(thmDie_updThmDie ..).trans (if_neg he), fun _ _ => rfl⟩⟩

theorem of_die {off : Nat} (ho : off < 0x100000) (f : Word → Word) : DampSide d s (s.updDie d off f) :=
  ⟨rfl, fun _ he => ⟨rfl, fun _ hk => (die_updDie s f ho hk).trans (if_neg fun h => he h.1)⟩⟩

/-- What a die demands and targets stands where its records do. -/
theorem demand {e : Nat} (h : DampSide e s t) (hd : d ≠ e) :
    t.thmDie d = s.thmDie d ∧ t.dieMode d = s.dieMode d ∧ t.dieDemand d = s.dieDemand d ∧ ∀ l, t.coreTarget d l = s.coreTarget d l := by
  obtain ⟨hx, hr⟩ := h.others d hd
  have hsus : t.allSuspect d = s.allSuspect d := by rw [h.frame]; rfl
  have hcool : t.coolState = s.coolState := by rw [h.frame]; rfl
  have hreq : t.thm.d2req = s.thm.d2req := by rw [h.frame]
  have hclass : t.runClass d = s.runClass d := by rw [h.frame]; rfl
  have hdem : t.dieDemand d = s.dieDemand d := by rw [dieDemand, hx, hsus, hcool, hreq, ← dieDemand]
  have hhot : t.hotCore d = s.hotCore d := by
    have hg (l : Nat) : t.coreGov d l = s.coreGov d l := by rw [coreGov, hx, ← coreGov]
    simp only [hotCore, hg]
  have hfc : t.fcastSkip d = s.fcastSkip d := by rw [fcastSkip, hx, hclass, ← fcastSkip]
  exact ⟨hx, by rw [dieMode, hr _ (by decide), ← dieMode], hdem, fun l => by rw [coreTarget, hdem, hx, hhot, hfc, ← coreTarget]⟩

end DampSide

/-- What a window does to die d: a division that is still demanded stays, one that is not ends; one that every core stands beside is entered;
else every core takes one step. -/
def Damped (s t : State) (d : Nat) : Prop :=
  let want := s.dieDemand d
  let mode := s.dieMode d
  let at_ (l : Nat) : Nat := (s.thmDie d).skip.get 0 l
  (mode ≠ 0 → t.dieMode d = (if want = mode then mode else 0) ∧ (t.thmDie d).skip = (s.thmDie d).skip) ∧
  (mode = 0 → want ≠ 0 → (∀ l < 16, at_ l = 8 * (want + 1)) → t.dieMode d = want) ∧
  (mode = 0 → want = 0 ∨ (∃ l < 16, at_ l ≠ 8 * (want + 1)) → t.dieMode d = 0 ∧ ∀ l < 16,
    (t.thmDie d).skip.get 0 l = if at_ l < s.coreTarget d l then at_ l + 1 else if s.coreTarget d l < at_ l then at_ l - 1 else at_ l)

theorem dieDemand_lt (s : State) (d : Nat) : s.dieDemand d < 3 := by
  unfold dieDemand
  dsimp only
  split_ifs <;> omega

theorem countDivision_dampSide (s : State) (d m : Nat) : DampSide d s (s.countDivision d m) := by
  unfold countDivision
  exact .ite (.of_thmDie _) ((DampSide.of_thmDie _).trans (.of_die (off := R.thmDivCnt) (by decide) _))

theorem setMode_dampSide (s : State) (d v : Nat) : DampSide d s (s.setMode d v) := by
  unfold setMode
  exact ((DampSide.of_die (off := R.thmSts) (by decide) _).trans (.of_thmDie _)).trans (.of_tell (thermal_tellSide ..))

theorem showHotSkip_dampSide (s : State) (d : Nat) : DampSide d s (s.showHotSkip d) := .of_die (off := R.thmSts) (by decide) _

theorem dampDie_dampSide (s : State) (d : Nat) : DampSide d s (s.dampDie d) :=
  have hmode := DampSide.ite (countDivision_dampSide s d (s.dieMode d)) (setMode_dampSide s d 0)
  have hstep := DampSide.ite (setMode_dampSide s d (s.dieDemand d)) (.of_thmDie _)
  (DampSide.ite hmode hstep).trans (showHotSkip_dampSide _ d)

/-- The mode and the levels of a die do not change as the level of its hottest core is shown. -/
theorem showHotSkip_shows (s : State) (d : Nat) : (s.showHotSkip d).dieMode d = s.dieMode d ∧ (s.showHotSkip d).thmDie d = s.thmDie d := by
  refine ⟨?_, rfl⟩
  rw [dieMode, showHotSkip, die_updDie _ _ (by decide) (by decide), if_pos ⟨rfl, rfl⟩, fld_setFld_apart _ _ _ _ _ _ (by decide), ← dieMode]

theorem countDivision_keeps (s : State) (d m : Nat) :
    (s.countDivision d m).dieMode d = s.dieMode d ∧ ((s.countDivision d m).thmDie d).skip = (s.thmDie d).skip := by
  have hupd (f : DieX → DieX) (h : ∀ x, (f x).skip = x.skip) :
      (s.updThmDie d f).dieMode d = s.dieMode d ∧ ((s.updThmDie d f).thmDie d).skip = (s.thmDie d).skip :=
    ⟨rfl, by rw [thmDie_updThmDie, if_pos rfl, h]⟩
  have hcnt {u : State} (f : Word → Word) : (u.updDie d R.thmDivCnt f).dieMode d = u.dieMode d := by
    rw [dieMode, die_updDie _ _ (by decide) (by decide), if_neg fun h => absurd h.2 (by decide), ← dieMode]
  unfold countDivision
  dsimp only
  generalize (s.thmDie d).divCyc + _ = n
  split
  · exact hupd (fun y => { y with divCyc := n }) fun _ => rfl
  · obtain ⟨hmode, hskip⟩ := hupd (fun y => { y with divCyc := n - msCycles s.thm.cls }) fun _ => rfl
    exact ⟨(hcnt _).trans hmode, hskip⟩

theorem setMode_sets (s : State) (d : Nat) {v : Nat} (hv : v < 3) :
    (s.setMode d v).dieMode d = v ∧ ((s.setMode d v).thmDie d).skip = (s.thmDie d).skip := by
  have hmode (w : Word) : fld (if v = 2 then setBit (setFld w 1 0 v) 31 true else setFld w 1 0 v) 1 0 = v := by
    have hset : fld (setFld w 1 0 v) 1 0 = v := (fld_setFld_same _ 1 0 _ (by omega)).trans (Nat.mod_eq_of_lt (by omega))
    split
    · rw [fld_setBit_apart _ 31 1 0 _ (by omega), hset]
    · exact hset
  have htell := thermal_tellSide ((s.updDie d R.thmSts fun w => if v = 2 then setBit (setFld w 1 0 v) 31 true else setFld w 1 0 v).updThmDie d
    fun x => { x with divCyc := 0 }) 1 5 d v (s.hotCore d).2
  refine ⟨(htell.dieMode d).trans ?_, congrArg DieX.skip (htell.thmDie d) |>.trans ?_⟩
  · rw [dieMode_updThmDie, State.dieMode, die_updDie _ _ (by decide) (by decide), if_pos ⟨rfl, rfl⟩, hmode]
  · rw [thmDie_updThmDie, if_pos rfl]
    rfl

theorem dampDie_damped (s : State) (d : Nat) : Damped s (s.dampDie d) d := by
  have hlt := dieDemand_lt s d
  unfold dampDie
  dsimp only
  refine ⟨fun hmode => ?_, fun hmode hwant hall => ?_, fun hmode hnot => ?_⟩
  · rw [if_pos (by simpa using hmode), (showHotSkip_shows ..).1, (showHotSkip_shows ..).2]
    split
    next he => rw [(countDivision_keeps ..).1, (countDivision_keeps ..).2]; exact ⟨rfl, rfl⟩
    · exact setMode_sets s d (by omega)
  · rw [if_neg (by simp [hmode]), if_pos (by simpa [hwant] using hall), (showHotSkip_shows ..).1]
    exact (setMode_sets s d hlt).1
  · have hcond : (s.dieDemand d != 0 && (List.range 16).all fun l => (s.thmDie d).skip.get 0 l == 8 * (s.dieDemand d + 1)) = false := by
      rcases hnot with h0 | ⟨l, hl, hne⟩
      · simp [h0]
      · rw [Bool.and_eq_false_iff]
        refine .inr (List.all_eq_false.mpr ⟨l, List.mem_range.mpr hl, by simpa using hne⟩)
    rw [if_neg (by simp [hmode]), if_neg (by simp [hcond]), (showHotSkip_shows ..).1, (showHotSkip_shows ..).2]
    refine ⟨hmode, fun l hl => ?_⟩
    rw [thmDie_updThmDie, if_pos rfl]
    dsimp only
    rw [tabulated_get _ _ (List.mem_range.mpr hl)]
    rfl

/-! ### A window -/

theorem Damped.transfer {v w : State} (h : Damped s v d) (hs : s.thmDie d = t.thmDie d ∧ s.dieMode d = t.dieMode d ∧
    s.dieDemand d = t.dieDemand d ∧ ∀ l, s.coreTarget d l = t.coreTarget d l) (hm : w.dieMode d = v.dieMode d)
    (hx : w.thmDie d = v.thmDie d) : Damped t w d := by
  obtain ⟨hrec, hmode, hdem, htar⟩ := hs
  unfold Damped at h ⊢
  simp only [hrec, hmode, hdem, htar] at h
  rw [hm, hx]
  exact h

theorem noteWindow_frame (s : State) : s.noteWindow = { s with cx := s.noteWindow.cx } := by
  unfold noteWindow
  split
  · rfl
  · refine forEach_keeps (P := fun u : State => u = { s with cx := u.cx }) _ (fun u p _ hu => ?_) rfl
    exact forEach_keeps (P := fun u : State => u = { s with cx := u.cx }) _ (fun v c _ hv => by rw [hv]; rfl) hu

/-- The dies of a window, one after another. -/
def dampDies (s : State) : State := forEach (List.range 32) s.noteWindow fun t d => if t.fenced d then t else t.dampDie d

theorem damperWindow_eq (h : s.powered = true) :
    s.damperWindow = { s.dampDies with thm := { s.dampDies.thm with win := s.dampDies.thm.win + 1 } } := by
  unfold damperWindow
  rw [h]
  rfl

/-- What a window touches. -/
abbrev WindowSide (s t : State) : Prop :=
  t = { s with dieR := t.dieR, thm := { s.thm with dies := t.thm.dies }, kpr := t.kpr, out := t.out
               host := { s.host with intSts := t.host.intSts, pba := t.host.pba }, cx := s.noteWindow.cx }

theorem dampDies_windowSide (s : State) : WindowSide s s.dampDies := by
  refine forEach_keeps (P := WindowSide s) _ (fun u d _ hu => ?_) (by rw [noteWindow_frame])
  split
  · exact hu
  · have h := (dampDie_dampSide u d).frame
    rw [h, hu]

theorem dampDies_damped {d : Nat} (hd : d < 32) (hf : s.fenced d = false) : Damped s s.dampDies d := by
  have hnote : s.noteWindow.thmDie d = s.thmDie d ∧ s.noteWindow.dieMode d = s.dieMode d ∧ s.noteWindow.dieDemand d = s.dieDemand d ∧
      ∀ l, s.noteWindow.coreTarget d l = s.coreTarget d l := by
    rw [noteWindow_frame]
    exact ⟨rfl, rfl, rfl, fun _ => rfl⟩
  have round (u : State) (e : Nat) : DampSide e u (if u.fenced e then u else u.dampDie e) := .ite (.refl e u) (dampDie_dampSide u e)
  refine forEach_once (Q := fun u => u.fenced d = false ∧ u.thmDie d = s.thmDie d ∧ u.dieMode d = s.dieMode d ∧
      u.dieDemand d = s.dieDemand d ∧ ∀ l, u.coreTarget d l = s.coreTarget d l)
    (P := fun u => Damped s u d) List.nodup_range (List.mem_range.mpr hd) (fun u e he hu => ?_) (fun u hu => ?_) (fun u e he hu => ?_)
    ⟨by rw [noteWindow_frame]; exact hf, hnote⟩
  · obtain ⟨hfu, hx, hm, hdem, htar⟩ := hu
    obtain ⟨kx, km, kdem, ktar⟩ := (round u e).demand (Ne.symm he)
    refine ⟨?_, kx.trans hx, km.trans hm, kdem.trans hdem, fun l => (ktar l).trans (htar l)⟩
    rw [(round u e).frame]
    exact hfu
  · obtain ⟨hfu, hsame⟩ := hu
    rw [if_neg (by simp [hfu])]
    exact (dampDie_damped u d).transfer hsame rfl rfl
  · obtain ⟨kx, km, -, -⟩ := (round u e).demand (Ne.symm he)
    exact hu.transfer ⟨rfl, rfl, rfl, fun _ => rfl⟩ km kx

/-- The level that a running core stands at is kept with the window. -/
theorem noteWindow_levels (hwin : s.thm.win ≠ 0) {p c : Nat} (hp : p < 8) (hrun : s.slotState p = 3) (hc : c ∈ s.slotCores p) :
    (s.noteWindow.cxOf c).levels.head? = some (s.levelNow c) := by
  have kept (u : State) (e : Nat) (hu : (u.cxOf c).levels.head? = some (s.levelNow c)) :
      ((u.updCx e fun x => { x with levels := s.levelNow e :: x.levels }).cxOf c).levels.head? = some (s.levelNow c) := by
    rw [cxOf_updCx]
    split
    next h => rw [h]; rfl
    · exact hu
  unfold noteWindow
  rw [if_neg hwin]
  refine forEach_reaches (a := p) (Q := fun u : State => u.slotCores p = s.slotCores p)
    (P := fun u : State => (u.cxOf c).levels.head? = some (s.levelNow c))
    (fun u q hu => ?_) (fun u hu => ?_) (fun u q _ hu => ?_)
    (List.mem_filter.mpr ⟨List.mem_range.mpr hp, by simp [hrun]⟩) rfl
  · exact forEach_keeps (P := fun v : State => v.slotCores p = s.slotCores p)
      (f := fun v e => v.updCx e fun x => { x with levels := s.levelNow e :: x.levels }) _ (fun _ _ _ hv => hv) hu
  · rw [hu]
    exact forEach_reaches (a := c) (Q := fun _ => True) (P := fun v : State => (v.cxOf c).levels.head? = some (s.levelNow c)) (fun _ _ _ => trivial)
      (fun v _ => by rw [cxOf_updCx, if_pos rfl]; rfl) (fun v e _ hv => kept v e hv) hc trivial
  · exact forEach_keeps (P := fun v : State => (v.cxOf c).levels.head? = some (s.levelNow c)) _ (fun v e _ hv => kept v e hv) hu

/-- `DAMPER_WINDOW` on a powered module without a trip. -/
theorem exec_damperWindow (hp : s.powered = true) (htrip : s.thm.trip = false) : exec .damperWindow s =
    .next (s.heated { s.dampDies with thm := { s.dampDies.thm with win := s.dampDies.thm.win + 1 } }) := by
  change s.heatDone (if s.thm.trip then s else s.damperWindow) = _
  rw [htrip, if_neg Bool.false_ne_true, damperWindow_eq hp, heatDone_next]

theorem exec_damperWindow_of_not (h : s.powered = false ∨ s.thm.trip = true) : ∃ t, exec .damperWindow s = .next t ∧ s.onlyPins t := by
  refine ⟨s.heated s, ?_, heated_self s⟩
  change s.heatDone (if s.thm.trip then s else s.damperWindow) = _
  split
  · rfl
  next htrip =>
    have hp : s.powered = false := h.resolve_right htrip
    unfold damperWindow
    rw [hp]
    rfl

theorem damperWindow_dies (hp : s.powered = true) (htrip : s.thm.trip = false) : ∃ t, exec .damperWindow s = .next t ∧ t.mem = s.mem ∧
    t.slots = s.slots ∧ ∀ d < 32, s.fenced d = false → Damped s t d := by
  refine ⟨_, exec_damperWindow hp htrip, ?_, ?_, fun d hd hf => ?_⟩
  · rw [heated_mem]
    change s.dampDies.mem = s.mem
    rw [dampDies_windowSide]
  · rw [heated_slots]
    change s.dampDies.slots = s.slots
    rw [dampDies_windowSide]
  · exact (dampDies_damped hd hf).transfer ⟨rfl, rfl, rfl, fun _ => rfl⟩ (dieMode_heated ..) (thmDie_heated ..)

theorem damperWindow_levels (hp : s.powered = true) (htrip : s.thm.trip = false) : ∃ t, exec .damperWindow s = .next t ∧
    t.thm.win = s.thm.win + 1 ∧ (s.thm.win = 0 → t.cx = s.cx) ∧
    (s.thm.win ≠ 0 → ∀ p < 8, s.slotState p = 3 → ∀ c ∈ s.slotCores p, (t.cxOf c).levels.head? = some (s.levelNow c)) := by
  have hcx : s.dampDies.cx = s.noteWindow.cx := by rw [dampDies_windowSide]
  refine ⟨_, exec_damperWindow hp htrip, ?_, fun h0 => ?_, fun hne p hp8 hrun c hc => ?_⟩
  · rw [heated_thm]
    change s.dampDies.thm.win + 1 = s.thm.win + 1
    rw [dampDies_windowSide]
  · rw [heated_cx]
    refine hcx.trans ?_
    unfold noteWindow
    rw [if_pos h0]
  · rw [cxOf, heated_cx]
    change (s.dampDies.cx.get {} c).levels.head? = _
    rw [hcx]
    exact noteWindow_levels hne hp8 hrun hc

/-! ### Releases -/

theorem testBit_foldl_orBit (l : List Nat) (m b : Nat) : (l.foldl orBit m).testBit b = (m.testBit b || l.contains b) := by
  induction l generalizing m with
  | nil => simp
  | cons a l ih =>
    rw [List.foldl_cons, ih, orBit, Nat.testBit_or, Nat.testBit_two_pow, List.contains_cons, Bool.or_assoc]
    congr 2
    rw [Bool.beq_eq_decide_eq]
    simp [eq_comm]

/-- A die's demands, those held cold for 10 ms ended. -/
def released (x : DieX) : DieX :=
  { x with
    d4core := x.d4core && decide (x.coreUs < 10000), d4turf := x.d4turf && decide (x.turfUs < 10000)
    react := x.react && decide (x.reactUs < 10000) }

theorem exec_damperRelease (die : Die) (hp : s.powered = true) : ∃ t, exec (.damperRelease die) s = .next t ∧
    let x := s.thmDie die.val
    ((t.thmDie die.val).d4core = true ↔ x.d4core = true ∧ x.coreUs < 10000) ∧
    ((t.thmDie die.val).d4turf = true ↔ x.d4turf = true ∧ x.turfUs < 10000) ∧
    ((t.thmDie die.val).react = true ↔ x.react = true ∧ x.reactUs < 10000) ∧
    ∀ b < 14, t.thm.d2req.testBit b = (s.thm.d2req.testBit b && decide (s.thm.d2us.get 0 b < 10000)) := by
  refine ⟨s.heated (s.damperRelease die.val), rfl, ?_⟩
  dsimp only
  have hdie : (s.damperRelease die.val).thmDie die.val = released (s.thmDie die.val) := by
    unfold damperRelease
    rw [hp]
    exact (thmDie_updThmDie s die.val die.val released).trans (if_pos rfl)
  rw [thmDie_heated, hdie, heated_thm]
  refine ⟨by simp [released], by simp [released], by simp [released], fun b hb => ?_⟩
  have hreq : (s.damperRelease die.val).thm.d2req =
      ((onesOf 14 s.thm.d2req).filter fun b => decide (s.thm.d2us.get 0 b < 10000)).foldl orBit 0 := by
    unfold damperRelease
    rw [hp]
    rfl
  rw [hreq, testBit_foldl_orBit, Nat.zero_testBit, Bool.false_or]
  rw [Bool.eq_iff_iff]
  simp [onesOf, hb, and_comm]

/-! ### Forecasts -/

/-- A forecast of die d that finds it `aboveMs` ms above plan, and a limit crossed where `hot` holds. -/
def forecastDie (s : State) (d aboveMs : Nat) (hot : Bool) : State :=
  let x := s.thmDie d
  let t := s.bumpFree.updThmDie d fun y => { y with overMs := aboveMs }
  let t := if hot then
      let n := match s.runClass d with
        | some n => n
        | none => min 24 (Config.idleHold s.free d)
      let t := t.updThmDie d fun y => { y with fcastOn := true, fcast := n, fcastMs := 0 }
      if x.fcastOn then t else t.thermal 6 5 d (s.dieMode d) (s.turfHot d)
    else if 10 ≤ x.fcastMs + 1 then t.updThmDie d fun y => { y with fcastOn := false, fcast := 0, fcastMs := 0 }
    else t.updThmDie d fun y => { y with fcastMs := y.fcastMs + 1 }
  if aboveMs = 10 then t.thermal 9 5 d (s.dieMode d) (s.turfHot d) else t

theorem heatForecast_eq (hp : s.powered = true) (hk : s.kprState = 2) (power : Nat) :
    let run := (s.slotOfDie d).filter fun p => s.slotState p == 3
    let plan := run.elim [] fun p => s.plannedPower p d
    let aboveMs := if run.isSome = true ∧ 6 * plan.headD 0 < 5 * power then (s.thmDie d).overMs + 1 else 0
    let next := Config.forecast d (if 10 ≤ aboveMs then plan.map fun _ => power else plan) power
      [s.snsVal 338, s.snsVal 339, s.turfGov d false, s.turfGov d true]
    s.heatForecast d power = s.forecastDie d aboveMs (crosses (s.turfGov d false) next.1 || crosses (s.turfGov d true) next.2) := by
  unfold heatForecast forecastDie
  rw [if_neg (by simp [hp, hk])]
  dsimp only
  cases s.slotOfDie d with
  | none => rfl
  | some p =>
    cases h3 : s.slotState p == 3 with
    | false => simp only [Option.filter_some, h3]; rfl
    | true => simp only [Option.filter_some, h3, if_true, Option.isSome_some, Bool.true_and, decide_eq_true_eq, true_and]; rfl

theorem bit_crosses (a b : Int) : crosses a b = true ↔ ∃ lim ∈ [1360, 1520], a ≤ lim ∧ lim < b := by
  simp [crosses]

theorem thmDie_ite_tell {p : Prop} [Decidable p] (h : TellSide t u) (d : Nat) : (if p then u else t).thmDie d = t.thmDie d := by
  split
  · exact h.thmDie d
  · rfl

/-- The record of a die after its forecast. -/
theorem thmDie_forecastDie (s : State) (d aboveMs : Nat) (hot : Bool) : (s.forecastDie d aboveMs hot).thmDie d =
    if hot then { s.thmDie d with overMs := aboveMs, fcastOn := true, fcastMs := 0, fcast := match s.runClass d with
      | some n => n
      | none => min 24 (Config.idleHold s.free d) }
    else if 10 ≤ (s.thmDie d).fcastMs + 1 then { s.thmDie d with overMs := aboveMs, fcastOn := false, fcast := 0, fcastMs := 0 }
    else { s.thmDie d with overMs := aboveMs, fcastMs := (s.thmDie d).fcastMs + 1 } := by
  have hover (f : DieX → DieX) : ((s.bumpFree.updThmDie d fun y => { y with overMs := aboveMs }).updThmDie d f).thmDie d =
      f { s.thmDie d with overMs := aboveMs } := by
    rw [thmDie_updThmDie, if_pos rfl, thmDie_updThmDie, if_pos rfl]
    rfl
  unfold forecastDie
  dsimp only
  rw [thmDie_ite_tell (thermal_tellSide ..)]
  split
  · rw [apply_ite (fun u : State => u.thmDie d), (thermal_tellSide ..).thmDie, ite_self]
    exact hover _
  · split
    · exact hover _
    · exact hover _

/-- A forecast that stands asks for full cooling. -/
theorem coolReq_heated {d : Nat} (hd : d < 32) (h : (u.thmDie d).fcastOn = true) : 100 ≤ (s.heated u).pins.coolReq := by
  have hpins : (s.heated u).pins.coolReq = if u.powered then u.duty else 100 := by
    unfold heated refreshPins
    split <;> rfl
  have hfull : (u.coolState != coolNormal || (List.range 32).any fun d => (u.thmDie d).fcastOn) = true := by
    rw [Bool.or_eq_true]
    exact .inr (List.any_eq_true.mpr ⟨d, List.mem_range.mpr hd, h⟩)
  rw [hpins]
  split
  · unfold duty
    dsimp only
    rw [hfull]
    split
    · exact le_rfl
    · exact le_max_left ..
  · exact le_rfl

theorem exec_heatForecast (die : Die) (power : BitVec 16) (hp : s.powered = true) (hk : s.kprState = 2) :
    let d := die.val
    let x := s.thmDie d
    let run := (s.slotOfDie d).filter fun p => s.slotState p == 3
    let plan := run.elim [] fun p => s.plannedPower p d
    let aboveMs := if run.isSome = true ∧ 6 * plan.headD 0 < 5 * power.toNat then x.overMs + 1 else 0
    let next := Config.forecast d (if 10 ≤ aboveMs then plan.map fun _ => power.toNat else plan) power.toNat
      [s.snsVal 338, s.snsVal 339, s.turfGov d false, s.turfGov d true]
    let hot := (∃ lim ∈ [1360, 1520], s.turfGov d false ≤ lim ∧ lim < next.1) ∨ (∃ lim ∈ [1360, 1520], s.turfGov d true ≤ lim ∧ lim < next.2)
    ∃ t, exec (.heatForecast die power) s = .next t ∧ (t.thmDie d).overMs = aboveMs ∧
      (hot → (t.thmDie d).fcastOn = true ∧ (t.thmDie d).fcastMs = 0 ∧ 100 ≤ t.pins.coolReq ∧
        (∀ n, s.runClass d = some n → (t.thmDie d).fcast = n) ∧ (s.runClass d = none → (t.thmDie d).fcast ≤ 24)) ∧
      (¬ hot → 9 ≤ x.fcastMs → (t.thmDie d).fcastOn = false ∧ (t.thmDie d).fcast = 0 ∧ (t.thmDie d).fcastMs = 0) ∧
      (¬ hot → x.fcastMs < 9 → (t.thmDie d).fcastOn = x.fcastOn ∧ (t.thmDie d).fcast = x.fcast ∧ (t.thmDie d).fcastMs = x.fcastMs + 1) := by
  intro d x run plan aboveMs next hot
  have heq := heatForecast_eq (d := d) hp hk power.toNat
  have hbit : (crosses (s.turfGov d false) next.1 || crosses (s.turfGov d true) next.2) = true ↔ hot := by
    rw [Bool.or_eq_true, bit_crosses, bit_crosses]
  have hdie := thmDie_forecastDie s d aboveMs (crosses (s.turfGov d false) next.1 || crosses (s.turfGov d true) next.2)
  refine ⟨s.heated (s.forecastDie d aboveMs (crosses (s.turfGov d false) next.1 || crosses (s.turfGov d true) next.2)),
    congrArg s.heatDone heq, ?_, fun h => ?_, fun h h9 => ?_, fun h h9 => ?_⟩
  · rw [thmDie_heated, hdie]
    split_ifs <;> rfl
  · rw [if_pos (hbit.mpr h)] at hdie
    rw [thmDie_heated, hdie]
    refine ⟨rfl, rfl, coolReq_heated die.isLt (by rw [hdie]), fun n hn => ?_, fun hn => ?_⟩
    · dsimp only
      rw [hn]
    · dsimp only
      rw [hn]
      exact min_le_left ..
  · rw [if_neg (hbit.not.mpr h), if_pos (show 10 ≤ (s.thmDie d).fcastMs + 1 from Nat.succ_le_succ h9)] at hdie
    rw [thmDie_heated, hdie]
    exact ⟨rfl, rfl, rfl⟩
  · rw [if_neg (hbit.not.mpr h), if_neg (show ¬ 10 ≤ (s.thmDie d).fcastMs + 1 from Nat.not_le.mpr (Nat.succ_lt_succ h9))] at hdie
    rw [thmDie_heated, hdie]
    exact ⟨rfl, rfl, rfl⟩

end State

end Sys2Proof.Machine
end


section
/-!
PROOFS. Measurements of ageing (R421-R426): the idle window, `AGE_MEASURE`, and the plan that a measurement ends in.
-/

namespace Sys2Proof.Machine

namespace State

variable {s t u : State}

/-! ### Measurements that begin -/

theorem exec_idleMeasurement (s : State) :
    let open_ := s.powered = true ∧ s.kpr.coldDone = true ∧ s.kpr.reset = none ∧ s.kprState = 2 ∧ s.anyActive = false ∧ 1000 ≤ s.kpr.idleMs ∧
      s.thm.measuring = none ∧ s.measuredLately = false
    (open_ → exec .idleMeasurement s = .next { s with thm := { s.thm with measuring := some 2 } }) ∧
    (¬ open_ → exec .idleMeasurement s = .next s) := by
  intro open_
  have hcond : (s.powered && s.kpr.coldDone && s.kpr.reset.isNone && s.kprState == 2 && s.idleLong && s.thm.measuring.isNone &&
      !s.measuredLately) = true ↔ open_ := by
    simp [open_, idleLong, and_assoc]
  have hexec : exec .idleMeasurement s = s.done s.idleMeasure := rfl
  refine ⟨fun h => ?_, fun h => ?_⟩
  · rw [hexec, idleMeasure, if_pos (hcond.mpr h)]
    rfl
  · rw [hexec, idleMeasure, if_neg (hcond.not.mpr h)]
    rfl

section
variable {m : Mbox} (h : s.asked Op.ageMeasure 0 [] m)
include h

theorem exec_ageMeasure_eq : exec (.ageMeasure m) s = s.done
    (if !s.idleLong then (s.begun Op.ageMeasure m).answer (s.cmdOf Op.ageMeasure m) Sts.runActive
    else if s.measuredLately || s.thm.measuring.isSome then (s.begun Op.ageMeasure m).answer (s.cmdOf Op.ageMeasure m) Sts.rateLimited
    else { s.begun Op.ageMeasure m with thm := { (s.begun Op.ageMeasure m).thm with measuring := some 3 } }) :=
  congrArg s.done (serve_asked h _)

theorem exec_ageMeasure_runActive (hrun : s.anyActive = true ∨ s.kpr.idleMs < 1000) :
    ∃ t, exec (.ageMeasure m) s = .next t ∧ s.replied t Op.ageMeasure m Sts.runActive 0 [] ∧ s.onlyAnswers t := by
  refine answersOnly ?_
  rw [exec_ageMeasure_eq h, if_pos]
  rcases hrun with hrun | hrun <;> simp [idleLong, hrun]

theorem exec_ageMeasure_rateLimited (hrun : s.anyActive = false) (hms : 1000 ≤ s.kpr.idleMs)
    (hlate : s.measuredLately = true ∨ s.thm.measuring ≠ none) :
    ∃ t, exec (.ageMeasure m) s = .next t ∧ s.replied t Op.ageMeasure m Sts.rateLimited 0 [] ∧ s.onlyAnswers t := by
  refine answersOnly ?_
  rw [exec_ageMeasure_eq h, if_neg (by simp [idleLong, hrun, hms]), if_pos]
  rw [Bool.or_eq_true, Option.isSome_iff_ne_none]
  exact hlate

theorem exec_ageMeasure_begins (hrun : s.anyActive = false) (hms : 1000 ≤ s.kpr.idleMs) (hlate : s.measuredLately = false)
    (hnone : s.thm.measuring = none) : ∃ t, exec (.ageMeasure m) s = .next t ∧ s.headMoved t Op.ageMeasure m ∧ t.kpr.done = s.kpr.done ∧
      t.thm = { s.thm with measuring := some 3 } := by
  refine ⟨_, ?_, headMoved_of_begun (t := { s.begun Op.ageMeasure m with thm := { (s.begun Op.ageMeasure m).thm with measuring := some 3 } })
    rfl rfl, rfl, rfl⟩
  rw [exec_ageMeasure_eq h, if_neg (by simp [idleLong, hrun, hms]), if_neg (by simp [hlate, hnone])]
  rfl

end

/-! ### What a measurement leaves alone -/

/-- The open commands, the slots, and of heat all but the dies' records and the lifetime record without its seconds. -/
structure MeasSide (s t : State) : Prop where
  accepted : t.kpr.accepted = s.kpr.accepted
  slots : t.slots = s.slots
  thm : t.thm = { s.thm with dies := t.thm.dies, life := { t.thm.life with secs := s.thm.life.secs } }

namespace MeasSide

theorem refl (s : State) : MeasSide s s := ⟨rfl, rfl, rfl⟩

theorem trans (h : MeasSide s t) (k : MeasSide t u) : MeasSide s u :=
  ⟨k.accepted.trans h.accepted, k.slots.trans h.slots, by rw [k.thm, h.thm]⟩

theorem loop {α : Type} {f : State → α → State} (h : ∀ u a, MeasSide u (f u a)) (l : List α) : MeasSide s (forEach l s f) :=
  forEach_keeps (P := MeasSide s) l (fun u a _ k => k.trans (h u a)) (refl s)

theorem setDie (h : MeasSide s t) (d off : Nat) (v : Word) : MeasSide s (t.setDie d off v) := ⟨h.accepted, h.slots, h.thm⟩
theorem updDie (h : MeasSide s t) (d off : Nat) (f : Word → Word) : MeasSide s (t.updDie d off f) := ⟨h.accepted, h.slots, h.thm⟩
theorem updThmDie (h : MeasSide s t) (d : Nat) (f : DieX → DieX) : MeasSide s (t.updThmDie d f) := h.trans ⟨rfl, rfl, rfl⟩

theorem updLife (h : MeasSide s t) {f : LifeX → LifeX} (hf : ∀ l, (f l).secs = l.secs) : MeasSide s (t.updLife f) :=
  h.trans ⟨rfl, rfl, by unfold State.updLife; rw [← hf]⟩

theorem thermal (h : MeasSide s t) (a b c x : Nat) (r : Int) : MeasSide s (t.thermal a b c x r) := by
  refine h.trans ?_
  unfold State.thermal
  exact ⟨by rw [raise_kpr]; rfl, by rw [raise_slots]; rfl, by rw [raise_thm]; rfl⟩

theorem siteTurf (h : MeasSide s t) (d us : Nat) : MeasSide s (t.siteTurf d us) := by
  unfold State.siteTurf showSuspect
  exact ((((h.updDie d R.thmTurf _).updDie d R.turfSts _).updThmDie d _).updDie d R.thmSts _).updThmDie d _

theorem canaryLog (h : MeasSide s t) (d x f : Nat) : MeasSide s (t.canaryLog d x f) := by
  unfold State.canaryLog
  split
  · exact h.thermal ..
  · exact h

theorem measureDie (h : MeasSide s t) (k : Nat) (m : DieMeas) : MeasSide s (t.measureDie k m) := by
  unfold State.measureDie setOffset
  exact (((((((((((h.setDie m.die.val R.ageRo _).setDie m.die.val R.ageCpr _).setDie m.die.val R.ageCanary _).setDie m.die.val R.ageLast _).updThmDie
    m.die.val _).updDie m.die.val R.thmTurf _).updLife (by intro l; rfl)).setDie m.die.val R.pwrVoff _).siteTurf m.die.val 0).canaryLog
    m.die.val 0 m.canLo).canaryLog m.die.val 1 m.canUp)

end MeasSide

theorem noteEyes_measSide (s : State) (eyes : List (ClPort × Nat)) : MeasSide s (s.noteEyes eyes) :=
  MeasSide.loop (f := fun t e => t.noteEye e.1.val e.2) (fun u _ => (MeasSide.refl u).updLife (by intro l; rfl)) eyes

/-! ### Images that go stale where no run is starting -/

/-- Beyond what is reported, slots change, but not which runs there are nor when they halt and fall silent; no open command is touched. -/
structure StaleSide (s t : State) : Prop where
  side : ReportSide s t
  accepted : t.kpr.accepted = s.kpr.accepted
  runs : ∀ p, t.slotState p = s.slotState p ∧ (t.slot p).halt = (s.slot p).halt ∧ (t.slot p).mute = (s.slot p).mute

namespace StaleSide

theorem refl (s : State) : StaleSide s s := ⟨rfl, rfl, fun _ => ⟨rfl, rfl, rfl⟩⟩

theorem trans (h : StaleSide s t) (k : StaleSide t u) : StaleSide s u :=
  ⟨h.side.trans k.side, k.accepted.trans h.accepted, fun p =>
    ⟨(k.runs p).1.trans (h.runs p).1, (k.runs p).2.1.trans (h.runs p).2.1, (k.runs p).2.2.trans (h.runs p).2.2⟩⟩

theorem noneStarting (h : StaleSide s t) (hn : s.noneStarting) : t.noneStarting := fun p hp => by
  rw [(h.runs p).1]
  exact hn p hp

end StaleSide

theorem staleOne_staleSide (cause : Nat) {p : Nat} (h : s.slotState p ≠ 2) : StaleSide s (staleOne cause s p) := by
  obtain ⟨hside, hstate⟩ := reportSide_staleOne cause h
  have hrest : (staleOne cause s p).kpr.accepted = s.kpr.accepted ∧ ∀ q, ((staleOne cause s p).slot q).halt = (s.slot q).halt ∧
      ((staleOne cause s p).slot q).mute = (s.slot q).mute := by
    unfold staleOne
    cases (s.slot p).img with
    | none => exact ⟨rfl, fun _ => ⟨rfl, rfl⟩⟩
    | some i =>
      dsimp only
      rw [if_neg (show ¬ (s.slotState p == 2) = true by simpa using h)]
      generalize (if cause = 1 then s.badMargin i else s.badMap i) = bad
      split_ifs
      · exact ⟨rfl, fun _ => ⟨rfl, rfl⟩⟩
      · refine ⟨by rw [raise_kpr]; rfl, fun q => ?_⟩
        rw [slot, raise_slots, logEv_slots, ← slot, slot_updSlot]
        split
        next e => subst e; exact ⟨rfl, rfl⟩
        · exact ⟨rfl, rfl⟩
  exact ⟨hside, hrest.1, fun q => ⟨hstate q, hrest.2 q⟩⟩

theorem markStale_staleSide (h : s.noneStarting) (cause : Nat) : StaleSide s (s.markStale cause) := by
  rw [markStale_eq]
  exact (forEach_keeps (P := fun u => StaleSide s u ∧ u.noneStarting) _ (fun u p hp ⟨hu, hn⟩ =>
    have hone := staleOne_staleSide cause (hn p (List.mem_range.mp hp))
    ⟨hu.trans hone, hone.noneStarting hn⟩) ⟨.refl s, h⟩).1

theorem mapChange_staleSide (h : s.noneStarting) : StaleSide s s.mapChange := by
  unfold mapChange
  split_ifs
  · exact .refl s
  · exact .refl s
  · have hrec : StaleSide s { s with kpr := { s.kpr with mapRec := s.mapNow } } := ⟨rfl, rfl, fun _ => ⟨rfl, rfl, rfl⟩⟩
    exact hrec.trans (markStale_staleSide (hrec.noneStarting h) 2)

theorem reportSide_thm (h : ReportSide s t) : t.thm = s.thm := by rw [h]

theorem aside_kpr (s : State) (f : State → State) : (s.aside f).kpr = (f s).kpr := rfl
theorem aside_thm (s : State) (f : State → State) : (s.aside f).thm = (f s).thm := rfl
theorem aside_id (s : State) : s.aside (fun t => t) = s := rfl

/-! ### The plan of a measurement -/

/-- The dies and eyes of a measurement taken up. -/
def ageNoted (s : State) (k : Nat) (ms : List DieMeas) (eyes : List (ClPort × Nat)) : State :=
  s.aside fun t => (forEach ms t fun t m => t.measureDie k m).noteEyes eyes

theorem ageNoted_measSide (s : State) (k : Nat) (ms : List DieMeas) (eyes : List (ClPort × Nat)) : MeasSide s (s.ageNoted k ms eyes) := by
  have h : MeasSide s ((forEach ms s fun t m => t.measureDie k m).noteEyes eyes) :=
    (MeasSide.loop (f := fun t m => t.measureDie k m) (fun u m => (MeasSide.refl u).measureDie k m) ms).trans (noteEyes_measSide ..)
  exact ⟨h.accepted, h.slots, h.thm⟩

/-- The measurement is over, and counts as the last one. -/
def ageEnded (s : State) (k : Nat) (ms : List DieMeas) (eyes : List (ClPort × Nat)) : State :=
  { s.ageNoted k ms eyes with thm := { (s.ageNoted k ms eyes).thm with
      plan := (s.ageNoted k ms eyes).thm.plan + 1, lastMeas := some (s.ageNoted k ms eyes).thm.life.secs, measuring := none } }

theorem ageEnded_facts (s : State) (k : Nat) (ms : List DieMeas) (eyes : List (ClPort × Nat)) :
    (s.ageEnded k ms eyes).kpr.accepted = s.kpr.accepted ∧ (s.ageEnded k ms eyes).slots = s.slots ∧ (s.ageEnded k ms eyes).thm.measuring = none ∧
    (s.ageEnded k ms eyes).thm.lastMeas = some s.thm.life.secs ∧ (s.ageEnded k ms eyes).thm.cls = s.thm.cls ∧
    (s.ageEnded k ms eyes).thm.pendCls = s.thm.pendCls := by
  obtain ⟨hacc, hslots, hthm⟩ := ageNoted_measSide s k ms eyes
  refine ⟨hacc, hslots, rfl, ?_, ?_, ?_⟩
  · change some (s.ageNoted k ms eyes).thm.life.secs = _
    rw [hthm]
  · change (s.ageNoted k ms eyes).thm.cls = _
    rw [hthm]
  · change (s.ageNoted k ms eyes).thm.pendCls = _
    rw [hthm]

/-- A plan for class n becomes pending, and images go stale. -/
def planPending (s : State) (n : Nat) : State :=
  s.aside fun t => (({ t with thm := { t.thm with pendCls := some n } }).logEv 0x62 0xFF
    [BitVec.ofNat 8 t.thm.cls, BitVec.ofNat 8 n, 1]).markStale 1

theorem planPending_facts (hn : s.noneStarting) (n : Nat) :
    (s.planPending n).kpr.accepted = s.kpr.accepted ∧ (s.planPending n).thm = { s.thm with pendCls := some n } := by
  have hlog : (({ s with thm := { s.thm with pendCls := some n } } : State).logEv 0x62 0xFF
      [BitVec.ofNat 8 s.thm.cls, BitVec.ofNat 8 n, 1]).noneStarting := hn
  obtain ⟨hside, hacc, -⟩ := markStale_staleSide hlog 1
  have hthm := reportSide_thm hside
  unfold planPending
  rw [aside_kpr, aside_thm, hacc, hthm]
  exact ⟨rfl, rfl⟩

theorem marginPlan_eq {k : Nat} (hk : k ≠ 1) {ms : List DieMeas} (eyes : List (ClPort × Nat))
    (hover : overMargin ms (s.thm.pendCls.getD s.thm.cls) = []) : s.marginPlan k ms eyes =
      if planClass ms (s.thm.pendCls.getD s.thm.cls) = s.thm.pendCls.getD s.thm.cls then s.ageEnded k ms eyes
      else (s.ageEnded k ms eyes).planPending (planClass ms (s.thm.pendCls.getD s.thm.cls)) := by
  have hfence (u : State) : (u.aside fun t => forEach (overMargin ms (s.thm.pendCls.getD s.thm.cls)) t fun t d => t.fenceMargin d) = u := by
    rw [hover]
    exact aside_id u
  unfold marginPlan
  refine (hfence _).trans ?_
  rw [if_neg hk]
  unfold planPending ageEnded ageNoted
  rfl

/-- The plan of a measurement that is not of a cold power-on and fences no die. -/
theorem marginPlan_facts {k : Nat} (hk : k ≠ 1) {ms : List DieMeas} (eyes : List (ClPort × Nat))
    (hover : overMargin ms (s.thm.pendCls.getD s.thm.cls) = []) (hn : s.noneStarting) :
    (s.marginPlan k ms eyes).kpr.accepted = s.kpr.accepted ∧ (s.marginPlan k ms eyes).thm.measuring = none ∧
    (s.marginPlan k ms eyes).thm.lastMeas = some s.thm.life.secs ∧ (s.marginPlan k ms eyes).thm.cls = s.thm.cls ∧
    (s.marginPlan k ms eyes).thm.pendCls =
      (if planClass ms (s.thm.pendCls.getD s.thm.cls) = s.thm.pendCls.getD s.thm.cls then s.thm.pendCls
        else some (planClass ms (s.thm.pendCls.getD s.thm.cls))) := by
  obtain ⟨hacc, hslots, hmeas, hlast, hcls, hpend⟩ := ageEnded_facts s k ms eyes
  rw [marginPlan_eq hk eyes hover]
  split
  · exact ⟨hacc, hmeas, hlast, hcls, hpend⟩
  · have hn' : (s.ageEnded k ms eyes).noneStarting := fun p hp => by
      rw [slotState, slot, hslots]
      exact hn p hp
    obtain ⟨hacc', hthm⟩ := planPending_facts hn' (planClass ms (s.thm.pendCls.getD s.thm.cls))
    rw [hthm]
    exact ⟨hacc'.trans hacc, hmeas, hlast, hcls, rfl⟩

theorem exec_measurementComplete_none (ms : List DieMeas) (eyes : List (ClPort × Nat)) (h : s.thm.measuring = none) :
    ∃ t, exec (.measurementComplete ms eyes) s = .next t ∧ s.onlyPins t := by
  have hs : s.measureDone ms eyes = s := by
    unfold measureDone
    rw [h]
  refine ⟨s.heated s, ?_, heated_self s⟩
  change s.bcnDone (s.measureDone ms eyes).refreshPins = _
  rw [hs, bcnDone_next]
  unfold heated
  rw [refreshPins_bcn]

/-- The only open command, which waits for it, is answered with the class that the measurement leads to. -/
theorem exec_measurementComplete {ms : List DieMeas} (eyes : List (ClPort × Nat)) {k : Nat} {c : Cmd} (hk : s.thm.measuring = some k) (hk1 : k ≠ 1)
    (hover : overMargin ms (s.thm.pendCls.getD s.thm.cls) = []) (hn : s.noneStarting) (hacc : s.kpr.accepted = [c])
    (hop : c.opcode = Op.ageMeasure) :
    ∃ t x, exec (.measurementComplete ms eyes) s = .next t ∧ t.thm.measuring = none ∧
      t.thm.lastMeas = some s.thm.life.secs ∧ t.thm.cls = s.thm.cls ∧
      t.thm.pendCls = (if planClass ms (s.thm.pendCls.getD s.thm.cls) = s.thm.pendCls.getD s.thm.cls then s.thm.pendCls
        else some (planClass ms (s.thm.pendCls.getD s.thm.cls))) ∧ x ∈ t.kpr.done ∧ x.tag = c.tag ∧
      x.status = Sts.ok ∧ x.result = [BitVec.ofNat 8 (t.thm.pendCls.getD t.thm.cls)] := by
  obtain ⟨haccp, hmeas, hlast, hcls, hpend⟩ := marginPlan_facts hk1 eyes hover hn
  have hdone : s.measureDone ms eyes = (s.marginPlan k ms eyes).aside fun t =>
      t.complete c Sts.ok 0 [BitVec.ofNat 8 (t.thm.pendCls.getD t.thm.cls)] := by
    unfold measureDone completeWhere
    rw [hk]
    have hlist : (s.marginPlan k ms eyes).kpr.accepted.filter (fun c => c.opcode == Op.ageMeasure) = [c] := by
      rw [haccp, hacc, List.filter_singleton, hop]
      rfl
    unfold State.aside
    dsimp only
    rw [hlist]
    rfl
  generalize s.marginPlan k ms eyes = v at *
  refine ⟨_, { ring := c.ring, tag := c.tag, opcode := c.opcode, noint := c.flags.getLsbD 0, status := Sts.ok, detail := 0, acc := c.acc,
               done := v.fnWord, result := [BitVec.ofNat 8 (v.thm.pendCls.getD v.thm.cls)] },
    (congrArg (fun u : State => s.bcnDone u.refreshPins) hdone).trans (bcnDone_next ..), ?_⟩
  dsimp only
  rw [refreshPins_frame]
  exact ⟨hmeas, hlast, hcls, hpend, List.mem_append_right _ (List.mem_singleton.mpr rfl), rfl, rfl, rfl⟩

end State

end Sys2Proof.Machine
end


section
/-!
PROOFS. A replica is read (R423, R427): its reading kept, its die's offset raised, and the die that is at the end of its range fenced.
-/

namespace Sys2Proof.Machine

namespace State

variable {s t u : State} {d : Nat}

/-! ### A die that is lost -/

/-- The runs and the Beacon stand as they did; die d is fenced and its buoy low. -/
structure DieGone (d : Nat) (s t : State) : Prop where
  slots : t.slots = s.slots
  bcn : t.bcn = s.bcn
  fenced : t.fenced d = true
  down : t.dieUp d = false

namespace DieGone

/-- What touches neither the runs, the map nor the buoys leaves a die gone. -/
theorem keep (h : DieGone d s t) (hs : u.slots = t.slots) (hb : u.bcn = t.bcn) (hm : u.map = t.map)
    (hh : u.host.buoy0 = t.host.buoy0) : DieGone d s u :=
  ⟨hs.trans h.slots, hb.trans h.bcn, by rw [State.fenced, hm]; exact h.fenced, by rw [dieUp, hh]; exact h.down⟩

theorem markFenced (hd : d < 32) (s : State) : DieGone d s (s.markFenced d) := by
  unfold State.markFenced
  refine ⟨buoy0_slots .., buoy0_bcn .., ?_, bitAt_buoy0 _ (by omega) false⟩
  unfold State.fenced
  rw [buoy0_map]
  simp [hd]

theorem setConn (h : DieGone d s t) (c v : Nat) : DieGone d s (t.setConn c v) := by
  refine forEach_keeps _ (fun u e _ hu => ?_) h
  unfold setPortState updPort
  split
  · exact hu.keep rfl rfl rfl rfl
  · exact hu.keep rfl rfl rfl rfl

theorem dropCommits (h : DieGone d s t) (e x : Nat) : DieGone d s (t.dropCommits e x) := by
  refine forEach_keeps _ (fun u c _ hu => ?_) h
  dsimp only
  rw [completeWhere_frame]
  split
  · exact hu.keep rfl rfl rfl rfl
  · exact hu.keep rfl rfl rfl rfl

theorem clearCores (h : DieGone d s t) (e : Nat) : DieGone d s (t.clearCores e) := h.keep rfl rfl rfl rfl

theorem logFault (h : DieGone d s t) (y n : Nat) : DieGone d s (t.logFault y n) := by
  rw [logFault_frame]
  exact h.keep rfl rfl rfl rfl

end DieGone

/-- Die d fenced and held in reset, its loss reported. -/
def dieLost (s : State) (d : Nat) : State :=
  (((forEach (connsOf d) (s.markFenced d) fun t c => t.setConn c portReset).dropCommits d Sts.dieUnavailable).clearCores d).logFault 0x52 d

theorem dieLost_gone (hd : d < 32) (s : State) : DieGone d s (s.dieLost d) := by
  have hconn : DieGone d s (forEach (connsOf d) (s.markFenced d) fun t c => t.setConn c portReset) :=
    forEach_keeps _ (fun u c _ hu => hu.setConn c portReset) (DieGone.markFenced hd s)
  exact ((hconn.dropCommits d Sts.dieUnavailable).clearCores d).logFault 0x52 d

theorem loseDie_eq (s : State) (d : Nat) : s.loseDie d =
    ((s.dieLost d).haltAffected fun p => (s.dieLost d).slotHasDie p d || (s.dieLost d).usesConn p fun c => (connsOf d).contains c).mapChange := rfl

theorem haltAffected_sameRuns (s : State) (f : Nat → Bool) : SameRuns s (s.haltAffected f) := by
  rw [haltAffected_eq]
  exact forEach_keeps (P := SameRuns s) _ (fun u p _ hu => hu.trans (haltOne_sameRuns f u p)) ⟨rfl, fun _ => ⟨rfl, rfl, rfl⟩⟩

/-- Fewer runs are affected. -/
theorem runsHalt_mono {f g : Nat → Bool} (h : s.runsHalt t g) (hfg : ∀ p, f p = true → g p = true) : s.runsHalt t f :=
  fun p hp hf => h p hp (hfg p hf)

/-- Runs halt as they did where slots keep their state, halt and silence. -/
theorem runsHalt_keep {f : Nat → Bool} (h : s.runsHalt t f) (hk : ∀ p, u.slotState p = t.slotState p ∧ (u.slot p).halt = (t.slot p).halt ∧
    (u.slot p).mute = (t.slot p).mute) : s.runsHalt u f := by
  intro p hp hf
  obtain ⟨hst, hh, hm⟩ := hk p
  dsimp only
  rw [hst, hh, hm]
  exact h p hp hf

/-- A die that is lost is fenced, its buoy low, and its runs halt (R336, R337). -/
theorem loseDie_facts (hd : d < 32) (hn : s.noneStarting) :
    (s.loseDie d).fenced d = true ∧ (s.loseDie d).dieUp d = false ∧ s.runsHalt (s.loseDie d) (fun q => s.slotHasDie q d) := by
  have hgone := dieLost_gone hd s
  have hhalt := haltAffected_runsHalt (s.dieLost d) fun p => (s.dieLost d).slotHasDie p d || (s.dieLost d).usesConn p fun c => (connsOf d).contains c
  have hsame := haltAffected_sameRuns (s.dieLost d) fun p => (s.dieLost d).slotHasDie p d || (s.dieLost d).usesConn p fun c => (connsOf d).contains c
  have hframe := haltAffected_frame (s.dieLost d) fun p => (s.dieLost d).slotHasDie p d || (s.dieLost d).usesConn p fun c => (connsOf d).contains c
  rw [loseDie_eq]
  generalize ((s.dieLost d).haltAffected fun p => (s.dieLost d).slotHasDie p d || (s.dieLost d).usesConn p fun c => (connsOf d).contains c) = v at *
  have hruns := sameRuns_of_slots hgone.slots hgone.bcn
  have hn' : v.noneStarting := fun p hp => by
    rw [hsame.slotState, hruns.slotState]
    exact hn p hp
  obtain ⟨hside, -, hkeep⟩ := mapChange_staleSide hn'
  refine ⟨?_, ?_, runsHalt_keep (hruns.runsHalt (runsHalt_mono hhalt fun p hp => ?_)) hkeep⟩
  · rw [hside, hframe]
    exact hgone.fenced
  · rw [hside, hframe]
    exact hgone.down
  · have : (s.dieLost d).slotHasDie p d = s.slotHasDie p d := by rw [slotHasDie, slot, hgone.slots, ← slot, ← slotHasDie]
    rw [this, hp, Bool.true_or]

/-- What is told leaves the runs, the map and the buoys. -/
theorem TellSide.keep (h : TellSide s t) : t.slots = s.slots ∧ t.map = s.map ∧ t.host.buoy0 = s.host.buoy0 := by
  rw [h]
  exact ⟨rfl, rfl, rfl⟩

/-! ### The reading -/

/-- The reading of a replica is kept where it is the first, that of the same replica, or the lowest. -/
def replicaKept (s : State) (d p ps : Nat) : State :=
  if s.die d R.ageCpr = 0 ∨ fld (s.die d R.ageCpr) 20 16 = p ∨ signed 16 ps < signed 16 (fld (s.die d R.ageCpr) 15 0) then
    s.setDie d R.ageCpr (BitVec.ofNat 64 (p * 2 ^ 16 + ps))
  else s

theorem replicaKept_facts (s : State) (d p ps : Nat) :
    (s.replicaKept d p ps).die d R.ageCpr =
      (if s.die d R.ageCpr = 0 ∨ fld (s.die d R.ageCpr) 20 16 = p ∨ signed 16 ps < signed 16 (fld (s.die d R.ageCpr) 15 0) then
        BitVec.ofNat 64 (p * 2 ^ 16 + ps) else s.die d R.ageCpr) ∧
    (s.replicaKept d p ps).die d R.pwrVoff = s.die d R.pwrVoff ∧ s.replicaKept d p ps = { s with dieR := (s.replicaKept d p ps).dieR } := by
  unfold replicaKept
  split
  · refine ⟨?_, ?_, rfl⟩
    · rw [die_setDie s _ _ _ _ _ (by decide) (by decide), if_pos ⟨rfl, rfl⟩]
    · rw [die_setDie s _ _ _ _ _ (by decide) (by decide), if_neg fun h => absurd h.2 (by decide)]
  · exact ⟨rfl, rfl, rfl⟩

theorem replicaRead_eq (hp : s.powered = true) (hf : s.fenced d = false) (p ps : Nat) (below : Bool) : s.replicaRead d p ps below =
    if below = true then
      if 12 ≤ fld (s.die d R.pwrVoff) 7 0 then (s.replicaKept d p ps).fenceMargin d
      else (s.replicaKept d p ps).updDie d R.pwrVoff fun v => setFld v 7 0 (fld (s.die d R.pwrVoff) 7 0 + 1)
    else s.replicaKept d p ps := by
  unfold replicaRead
  rw [if_neg (by simp [hp, hf])]
  cases below <;> rfl

theorem exec_replicaRead_of_not (die : Die) (p : Fin 17) (ps : BitVec 16) (below : Bool) (h : s.powered = false ∨ s.fenced die.val = true) :
    ∃ t, exec (.replicaRead die p ps below) s = .next t ∧ s.onlyPins t := by
  refine ⟨s.heated s, ?_, heated_self s⟩
  change s.heatDone (s.replicaRead die.val p.val ps.toNat below) = _
  unfold replicaRead
  rw [if_pos (by simpa using h)]
  rfl

theorem exec_replicaRead (die : Die) (p : Fin 17) (ps : BitVec 16) (below : Bool) (hp : s.powered = true) (hf : s.fenced die.val = false)
    (hroom : below = false ∨ fld (s.die die.val R.pwrVoff) 7 0 < 12) :
    let d := die.val
    let w := s.die d R.ageCpr
    let o := fld (s.die d R.pwrVoff) 7 0
    ∃ t, exec (.replicaRead die p ps below) s = .next t ∧
      t.die d R.ageCpr = (if w = 0 ∨ fld w 20 16 = p.val ∨ signed 16 ps.toNat < signed 16 (fld w 15 0)
        then BitVec.ofNat 64 (p.val * 2 ^ 16 + ps.toNat) else w) ∧
      fld (t.die d R.pwrVoff) 7 0 = (if below then o + 1 else o) := by
  intro d w o
  obtain ⟨hcpr, hvoff, -⟩ := replicaKept_facts s d p.val ps.toNat
  refine ⟨s.heated _, congrArg s.heatDone (replicaRead_eq hp hf p.val ps.toNat below), ?_⟩
  rw [die_heated, die_heated]
  cases below with
  | false =>
    rw [if_neg Bool.false_ne_true]
    exact ⟨hcpr, congrArg (fld · 7 0) hvoff⟩
  | true =>
    have ho : o < 12 := hroom.resolve_left (by decide)
    have hset : fld (((s.replicaKept d p.val ps.toNat).updDie d R.pwrVoff fun v => setFld v 7 0 (o + 1)).die d R.pwrVoff) 7 0 = o + 1 := by
      rw [die_updDie _ _ (by decide) (by decide), if_pos ⟨rfl, rfl⟩]
      refine (fld_setFld_same _ 7 0 _ (by omega)).trans ?_
      change (o + 1) % 2 ^ 8 = o + 1
      omega
    have hkeep : ((s.replicaKept d p.val ps.toNat).updDie d R.pwrVoff fun v => setFld v 7 0 (o + 1)).die d R.ageCpr = _ :=
      (die_updDie _ _ (by decide) (by decide)).trans (if_neg fun h => absurd h.2 (by decide))
    rw [if_pos rfl, if_neg (Nat.not_le.mpr ho)]
    exact ⟨hkeep.trans hcpr, hset⟩

theorem exec_replicaRead_fences (die : Die) (p : Fin 17) (ps : BitVec 16) {below : Bool} (hp : s.powered = true) (hf : s.fenced die.val = false)
    (hb : below = true) (hend : 12 ≤ fld (s.die die.val R.pwrVoff) 7 0) (hn : s.noneStarting) :
    ∃ t, exec (.replicaRead die p ps below) s = .next t ∧ t.fenced die.val = true ∧ t.dieUp die.val = false ∧
      s.runsHalt t (fun q => s.slotHasDie q die.val) := by
  obtain ⟨-, -, hkept⟩ := replicaKept_facts s die.val p.val ps.toNat
  have heq := replicaRead_eq hp hf p.val ps.toNat below
  rw [if_pos hb, if_pos hend] at heq
  generalize s.replicaKept die.val p.val ps.toNat = v at *
  have hvf : v.fenced die.val = false := by rw [hkept]; exact hf
  have hvn : v.noneStarting := by rw [hkept]; exact hn
  have hruns : SameRuns s v := by rw [hkept]; exact ⟨rfl, fun _ => ⟨rfl, rfl, rfl⟩⟩
  have hhas (q : Nat) : v.slotHasDie q die.val = s.slotHasDie q die.val := by rw [hkept]; rfl
  obtain ⟨hfen, hdown, hhalt⟩ := loseDie_facts die.isLt hvn
  obtain ⟨hslots, hmap, hbuoy⟩ := (thermal_tellSide (v.loseDie die.val) 7 0 die.val 0 (v.hotCore die.val).2).keep
  have hfence : v.fenceMargin die.val = (v.loseDie die.val).thermal 7 0 die.val 0 (v.hotCore die.val).2 := by
    unfold fenceMargin
    rw [if_neg (by simp [hvf])]
  rw [hfence] at heq
  generalize (v.loseDie die.val).thermal 7 0 die.val 0 (v.hotCore die.val).2 = w at *
  refine ⟨s.heated w, congrArg s.heatDone heq, ?_, ?_, hruns.runsHalt (runsHalt_keep (t := v.loseDie die.val) ?_ fun q => ?_)⟩
  · rw [State.fenced, heated_map, hmap]
    exact hfen
  · rw [dieUp, heated_host, hbuoy]
    exact hdown
  · simpa only [hhas] using hhalt
  · rw [slotState, slot, heated_slots, hslots]
    exact ⟨rfl, rfl, rfl⟩

end State

end Sys2Proof.Machine
end


section
/-!
PROOFS. A class change that comes into force (R423, R428), the lifetime record (R429), and the obligation about damper and ageing.
-/

namespace Sys2Proof.Machine

namespace State

variable {s t u : State} {d : Nat}

/-! ### Offsets -/

/-- Registers of dies alone differ, and no voltage offset is lower. -/
structure RaiseSide (s t : State) : Prop where
  frame : t = { s with dieR := t.dieR }
  voff : ∀ d, fld (s.die d R.pwrVoff) 7 0 ≤ fld (t.die d R.pwrVoff) 7 0

theorem raiseOffset_raiseSide (s : State) (d : Nat) : RaiseSide s (s.raiseOffset d) := by
  refine ⟨rfl, fun e => ?_⟩
  have hfar (v : State) (f : Word → Word) : (v.updDie d R.pwrVoff f).die e R.pwrVoff =
      if e = d ∧ R.pwrVoff = R.pwrVoff then f (v.die d R.pwrVoff) else v.die e R.pwrVoff := die_updDie v f (by decide) (by decide)
  have hset : (s.setOffset d).die e R.pwrVoff = if e = d ∧ R.pwrVoff = R.pwrVoff then
      BitVec.ofNat 64 (min 255 (cdiv (reqAt (s.thmDie d).req s.thm.cls) 5) * 256 + offsetFor (reqAt (s.thmDie d).req s.thm.cls))
      else s.die e R.pwrVoff := die_setDie s _ _ _ _ _ (by decide) (by decide)
  have hlt (w : Word) : fld w 7 0 < 2 ^ 8 := fld_lt w 7 0
  unfold raiseOffset
  dsimp only
  rw [hfar]
  split
  next he =>
    rw [he.1, fld_setFld_same _ 7 0 _ (by omega), Nat.mod_eq_of_lt (max_lt (hlt _) (hlt _))]
    exact le_max_left ..
  next he =>
    rw [hset, if_neg he]

/-! ### A new class -/

/-- `BCN_CPF` of a class and a period. -/
def cpfWord (cls period : Nat) : Word :=
  if cpfOf cls period = 0 then 0 else BitVec.ofNat 64 (cls * 2 ^ 32 + (cpfOf cls period - cutK cls) * 2 ^ 16 + cpfOf cls period)

theorem fld_cpfWord (cls period : Nat) : fld (cpfWord cls period) 15 0 = cpfOf cls period % 2 ^ 16 := by
  unfold cpfWord
  split
  next h => rw [h]; decide
  · unfold fld
    rw [BitVec.toNat_ofNat]
    simp only [Nat.shiftRight_zero]
    omega

/-- Class c in force, as heat and the lifetime record have it. -/
def classNoted (s : State) (c : Nat) : State :=
  ({ s with thm := { s.thm with cls := c, pendCls := none } } : State).updLife fun l => { l with
    cls := c
    toB := if s.thm.cls = 0 ∧ 1 ≤ c then l.secs / 3600 else l.toB, toC := if s.thm.cls < 2 ∧ c = 2 then l.secs / 3600 else l.toC }

/-- `BCN_CPF` taken afresh after other work: of the work all but the Beacon block, identity, lifecycle and build. -/
theorem aside_refreshCpf (v : State) (f : State → State) : (v.aside f).refreshCpf =
    { f v with bcn := { v.bcn with cpf := cpfWord (f v).thm.cls v.period }, sec := v.sec, iodC := v.iodC, rom := v.rom } := rfl

theorem raiseOffsets_raiseSide (s : State) (l : List Nat) : RaiseSide s (forEach l s fun t d => t.raiseOffset d) :=
  forEach_keeps (P := RaiseSide s) l (fun w d _ hw => ⟨by rw [(raiseOffset_raiseSide w d).frame, hw.frame], fun e =>
    (hw.voff e).trans ((raiseOffset_raiseSide w d).voff e)⟩) ⟨rfl, fun _ => le_rfl⟩

/-- What a class in force leaves: heat knows it, offsets are not lower, `BCN_CPF` follows. -/
structure Classed (s t : State) (c : Nat) : Prop where
  cls : t.thm.cls = c
  pend : t.thm.pendCls = none
  life : t.thm.life.cls = c
  slots : t.slots = s.slots
  host : t.host = s.host
  bcn : t.bcn = { s.bcn with cpf := cpfWord c s.period }
  voff : ∀ d, fld (s.die d R.pwrVoff) 7 0 ≤ fld (t.die d R.pwrVoff) 7 0

theorem RaiseSide.classed {v : State} {f : State → State} {c : Nat} (h : RaiseSide v (f v)) (hcls : v.thm.cls = c) (hpend : v.thm.pendCls = none)
    (hlife : v.thm.life.cls = c) : Classed v (v.aside f).refreshCpf c := by
  have hthm : (f v).thm = v.thm := by rw [h.frame]
  have hslots : (f v).slots = v.slots := by rw [h.frame]
  have hhost : (f v).host = v.host := by rw [h.frame]
  rw [aside_refreshCpf, hthm, hcls]
  exact ⟨hthm ▸ hcls, hthm ▸ hpend, hthm ▸ hlife, hslots, hhost, rfl, h.voff⟩

theorem setClass_classed (s : State) (c : Nat) : Classed s (s.setClass c) c := by
  have h : Classed (s.classNoted c) (s.setClass c) c :=
    RaiseSide.classed (f := fun t => forEach (List.range 32) t fun t d => t.raiseOffset d) (raiseOffsets_raiseSide _ _) rfl rfl rfl
  exact ⟨h.cls, h.pend, h.life, h.slots, h.host, h.bcn, h.voff⟩

/-! ### A class change -/

/-- Where the period no longer fits, the Beacon leaves ARMED or COUNTING. -/
def outOfPeriod (s : State) : State :=
  if 2 ≤ s.bcnState && !s.periodFits then
    (((s.bcnFlag 10).setBcnState 1).clearArm).aside fun u => u.armDone Sts.bcnState
  else s

theorem changeClass_eq (s : State) (c : Nat) : s.changeClass c =
    if bitAt s.host.buoy0 2 then (((s.aside fun u => u.buoy0 2 false).setClass c).outOfPeriod).aside fun u => u.buoy0 2 true
    else ((s.aside fun u => u.buoy0 2 false).setClass c).outOfPeriod := rfl

/-- Outside the Beacon block and the Keeper's commands nothing changes. -/
theorem outOfPeriod_frame (s : State) : s.outOfPeriod = { s with bcn := s.outOfPeriod.bcn, kpr := s.outOfPeriod.kpr } := by
  unfold outOfPeriod
  split
  · unfold aside
    dsimp only
    rw [armDone_frame]
    rfl
  · rfl

theorem outOfPeriod_bcn_left (h : 2 ≤ s.bcnState) (hfit : cpfOf s.thm.cls s.period = 0) : s.outOfPeriod.bcn =
    { s.bcn with sts := setFld (setBit s.bcn.sts 10 true) 2 0 1, ctrl := setBit s.bcn.ctrl 0 false } := by
  unfold outOfPeriod
  rw [if_pos (by simp [periodFits, h, hfit])]
  rfl

theorem outOfPeriod_bcn_kept (h : ¬ (2 ≤ s.bcnState ∧ cpfOf s.thm.cls s.period = 0)) : s.outOfPeriod.bcn = s.bcn := by
  unfold outOfPeriod
  rw [if_neg (by simpa [periodFits] using h)]

/-- What a class change leaves of heat, offsets, slots and the Beacon block, and the lock buoy as it was. -/
structure ClassCame (s t : State) (c : Nat) : Prop where
  cls : t.thm.cls = c
  pend : t.thm.pendCls = none
  life : t.thm.life.cls = c
  slots : t.slots = s.slots
  voff : ∀ d, fld (s.die d R.pwrVoff) 7 0 ≤ fld (t.die d R.pwrVoff) 7 0
  cpf : t.bcn.cpf = cpfWord c s.period
  fn : t.bcn.fn = s.bcn.fn
  state : t.bcnState = if 2 ≤ s.bcnState ∧ cpfOf c s.period = 0 then 1 else s.bcnState
  left : 2 ≤ s.bcnState → cpfOf c s.period = 0 → bitAt t.bcn.sts 10 = true ∧ bitAt t.bcn.ctrl 0 = false
  lock : bitAt t.host.buoy0 2 = bitAt s.host.buoy0 2

/-- The change but for the lock buoy, on a state from which that buoy has been taken. -/
theorem Classed.outOfPeriod {c : Nat} (h : Classed s t c) : ClassCame s { t.outOfPeriod with host := s.host } c := by
  obtain ⟨hcls, hpend, hlife, hslots, -, hbcn, hvoff⟩ := h
  have hstate : t.bcnState = s.bcnState := by rw [bcnState, hbcn]; rfl
  have hperiod : t.period = s.period := by rw [period, hbcn]; rfl
  have hframe := outOfPeriod_frame t
  have hthm : t.outOfPeriod.thm = t.thm := by rw [hframe]
  have hslots' : t.outOfPeriod.slots = t.slots := by rw [hframe]
  have hvoff' (d : Nat) : fld (s.die d R.pwrVoff) 7 0 ≤ fld (t.outOfPeriod.die d R.pwrVoff) 7 0 := by
    rw [show t.outOfPeriod.die d R.pwrVoff = t.die d R.pwrVoff by rw [hframe]; rfl]
    exact hvoff d
  have hcpf : t.bcn.cpf = cpfWord c s.period := by rw [hbcn]
  have hfn : t.bcn.fn = s.bcn.fn := by rw [hbcn]
  by_cases hout : 2 ≤ s.bcnState ∧ cpfOf c s.period = 0
  · have hb := outOfPeriod_bcn_left (s := t) (hstate ▸ hout.1) (by rw [hcls, hperiod]; exact hout.2)
    generalize t.outOfPeriod = u at *
    refine ⟨hthm ▸ hcls, hthm ▸ hpend, hthm ▸ hlife, hslots'.trans hslots, hvoff', ?_, ?_, ?_, fun _ _ => ?_, rfl⟩
    · exact (congrArg Bcn.cpf hb).trans hcpf
    · exact (congrArg Bcn.fn hb).trans hfn
    · rw [if_pos hout]
      refine (congrArg (fun b : Bcn => fld b.sts 2 0) hb).trans ?_
      exact fld_setFld_same _ 2 0 1 (by omega)
    · refine ⟨(congrArg (fun b : Bcn => bitAt b.sts 10) hb).trans ?_, (congrArg (fun b : Bcn => bitAt b.ctrl 0) hb).trans ?_⟩
      · exact (bitAt_setFld_apart _ 2 0 1 10 (by omega)).trans (bitAt_setBit_same _ 10 true (by omega))
      · exact bitAt_setBit_same _ 0 false (by omega)
  · have hb := outOfPeriod_bcn_kept (s := t) (by rw [hstate, hcls, hperiod]; exact hout)
    generalize t.outOfPeriod = u at *
    refine ⟨hthm ▸ hcls, hthm ▸ hpend, hthm ▸ hlife, hslots'.trans hslots, hvoff', ?_, ?_, ?_, fun h2 h0 => absurd ⟨h2, h0⟩ hout, rfl⟩
    · exact (congrArg Bcn.cpf hb).trans hcpf
    · exact (congrArg Bcn.fn hb).trans hfn
    · rw [if_neg hout]
      exact (congrArg (fun b : Bcn => fld b.sts 2 0) hb).trans hstate

theorem buoy0_aside_facts (s : State) (b : Nat) (v : Bool) : (s.aside fun u => u.buoy0 b v).thm = s.thm ∧
    (s.aside fun u => u.buoy0 b v).slots = s.slots ∧ (s.aside fun u => u.buoy0 b v).dieR = s.dieR :=
  ⟨buoy0_thm .., buoy0_slots .., buoy0_dieR ..⟩

/-- The lock buoy apart, the change is what it is on the state before. -/
theorem ClassCame.relock {c : Nat} {v : Bool} (h : ClassCame (s.aside fun u => u.buoy0 2 v) { u with host := (s.aside fun u => u.buoy0 2 v).host } c)
    {r : State} (hthm : r.thm = u.thm) (hslots : r.slots = u.slots) (hdie : r.dieR = u.dieR) (hbcn : r.bcn = u.bcn)
    (hlock : bitAt r.host.buoy0 2 = bitAt s.host.buoy0 2) : ClassCame s r c := by
  obtain ⟨-, hslots', hdie'⟩ := buoy0_aside_facts s 2 v
  obtain ⟨hcls, hpend, hlife, hslot, hvoff, hcpf, hfn, hstate, hleft, -⟩ := h
  refine ⟨hthm ▸ hcls, hthm ▸ hpend, hthm ▸ hlife, hslots.trans (hslot.trans hslots'), fun d => ?_, (congrArg Bcn.cpf hbcn).trans hcpf,
    (congrArg Bcn.fn hbcn).trans hfn, (congrArg (fun b : Bcn => fld b.sts 2 0) hbcn).trans hstate, fun h2 h0 => ?_, hlock⟩
  · rw [die, die, hdie, ← hdie']
    exact hvoff d
  · rw [hbcn]
    exact hleft h2 h0

theorem changeClass_came (s : State) (c : Nat) : ClassCame s (s.changeClass c) c := by
  have h := (setClass_classed (s.aside fun u => u.buoy0 2 false) c)
  have hhost := h.host
  have hcame := h.outOfPeriod
  have hframe := outOfPeriod_frame ((s.aside fun u => u.buoy0 2 false).setClass c)
  rw [changeClass_eq]
  generalize (s.aside fun u => u.buoy0 2 false).setClass c = t at *
  have hhost' : t.outOfPeriod.host = (s.aside fun u => u.buoy0 2 false).host := by rw [hframe]; exact hhost
  generalize t.outOfPeriod = u at *
  split
  next hl =>
    obtain ⟨hthm, hslots, hdie⟩ := buoy0_aside_facts u 2 true
    exact hcame.relock hthm hslots hdie rfl ((bitAt_buoy0 u (by omega) true).trans hl.symm)
  next hl =>
    refine hcame.relock rfl rfl rfl rfl ?_
    rw [hhost']
    exact (bitAt_buoy0 s (by omega) false).trans (Bool.eq_false_iff.mpr hl).symm

theorem noneStarting_of_idle (h : s.anyActive = false) : s.noneStarting := fun p hp hst => by
  have := List.any_eq_false.mp h p (List.mem_range.mpr hp)
  simp [slotActive, hst] at this

/-! ### The lifetime record -/

/-- Errors taken up into the lifetime record leave its class and its sums of time and energy. -/
structure LifeKept (l m : LifeX) : Prop where
  cls : m.cls = l.cls
  secs : m.secs = l.secs
  kJ : m.kJ = l.kJ
  low : m.lowSecs = l.lowSecs

theorem lifeKept_foldl {f : LifeX → Nat → LifeX} (hf : ∀ l i, LifeKept l (f l i)) (is : List Nat) (l : LifeX) : LifeKept l (is.foldl f l) := by
  induction is generalizing l with
  | nil => exact ⟨rfl, rfl, rfl, rfl⟩
  | cons i is ih =>
    obtain ⟨hcls, hsecs, hkJ, hlow⟩ := ih (f l i)
    exact ⟨hcls.trans (hf l i).cls, hsecs.trans (hf l i).secs, hkJ.trans (hf l i).kJ, hlow.trans (hf l i).low⟩

theorem lifeUpdate_frame (s : State) (secs kJ : Nat) :
    s.lifeUpdate secs kJ = { s with thm := { s.thm with life := (s.lifeUpdate secs kJ).thm.life } } := rfl

theorem lifeUpdate_life (s : State) (secs kJ : Nat) :
    (s.lifeUpdate secs kJ).thm.life.cls = s.thm.life.cls ∧ (s.lifeUpdate secs kJ).thm.life.secs = s.thm.life.secs + secs ∧
    (s.lifeUpdate secs kJ).thm.life.kJ = s.thm.life.kJ + kJ ∧
    (s.lifeUpdate secs kJ).thm.life.lowSecs = s.thm.life.lowSecs + (if s.coolState = 1 then secs else 0) := by
  unfold lifeUpdate updLife
  dsimp only
  obtain ⟨hcls, hsecs, hkJ, hlow⟩ := lifeKept_foldl (f := fun l i => { l with
      ce := l.ce.upd 0 i (· + errAdded (l.ceSeen.get 0 i) (s.errCounts i).1), ceSeen := l.ceSeen.set i (s.errCounts i).1
      ue := l.ue.upd 0 i (· + errAdded (l.ueSeen.get 0 i) (s.errCounts i).2), ueSeen := l.ueSeen.set i (s.errCounts i).2 })
    (fun _ _ => ⟨rfl, rfl, rfl, rfl⟩) (List.range 40) s.thm.life
  exact ⟨hcls, by rw [hsecs], by rw [hkJ], by rw [hlow]⟩

theorem exec_lifetimeUpdate (x : LifeTick) (hp : s.powered = true) (hk : s.kprState = 2) : ∃ t, exec (.lifetimeUpdate x) s = .next t ∧
    t.thm.life.secs = s.thm.life.secs + x.secs ∧ t.thm.life.kJ = s.thm.life.kJ + x.kJ ∧
    t.thm.life.lowSecs = s.thm.life.lowSecs + (if s.coolState = 1 then x.secs else 0) ∧ t = { s with thm := t.thm } := by
  have hexec : exec (.lifetimeUpdate x) s = s.done (if s.powered && s.kprState == 2 then s.lifeUpdate x.secs x.kJ else s) := rfl
  obtain ⟨-, hsecs, hkJ, hlow⟩ := lifeUpdate_life s x.secs x.kJ
  refine ⟨s.lifeUpdate x.secs x.kJ, ?_, hsecs, hkJ, hlow, rfl⟩
  rw [hexec, if_pos (by simp [hp, hk])]
  rfl

theorem exec_lifetimeUpdate_of_not (x : LifeTick) (h : s.powered = false ∨ s.kprState ≠ 2) : exec (.lifetimeUpdate x) s = .next s := by
  have hexec : exec (.lifetimeUpdate x) s = s.done (if s.powered && s.kprState == 2 then s.lifeUpdate x.secs x.kJ else s) := rfl
  rw [hexec, if_neg]
  · rfl
  · rcases h with h | h <;> simp [h]

/-! ### The change applied -/

/-- Class c in force is noted: the lifetime record, the log, the images. -/
def classReported (u : State) (old c : Nat) : State :=
  u.aside fun u => ((u.lifeUpdate 0 0).logEv 0x62 0xFF [BitVec.ofNat 8 old, BitVec.ofNat 8 c, 0]).markStale 1

theorem applyClass_eq (s : State) (c : Nat) : s.applyClass c = (s.changeClass c).classReported s.thm.cls c := rfl

/-- A report on state v in the reach of other work on state u. -/
theorem ReportSide.aside {v : State} {f : State → State} (h : ReportSide v (f u)) :
    (u.aside f).thm = v.thm ∧ (u.aside f).dieR = v.dieR ∧ (u.aside f).host.buoy0 = v.host.buoy0 ∧ (u.aside f).bcn = u.bcn := by
  unfold State.aside
  rw [h]
  exact ⟨rfl, rfl, rfl, rfl⟩

/-- The lifetime record brought up to date and the change logged. -/
def classLogged (u : State) (old c : Nat) : State := (u.lifeUpdate 0 0).logEv 0x62 0xFF [BitVec.ofNat 8 old, BitVec.ofNat 8 c, 0]

theorem classLogged_facts (u : State) (old c : Nat) :
    (u.classLogged old c).thm.cls = u.thm.cls ∧ (u.classLogged old c).thm.pendCls = u.thm.pendCls ∧
    (u.classLogged old c).thm.life.cls = u.thm.life.cls ∧ (u.classLogged old c).dieR = u.dieR ∧
    (u.classLogged old c).host = u.host ∧ (u.classLogged old c).slots = u.slots := by
  obtain ⟨hlife, -⟩ := lifeUpdate_life u 0 0
  have hframe := lifeUpdate_frame u 0 0
  unfold classLogged
  rw [logEv_thm, logEv_dieR, logEv_host, logEv_slots]
  generalize u.lifeUpdate 0 0 = v at *
  refine ⟨?_, ?_, hlife, ?_, ?_, ?_⟩ <;> rw [hframe]

theorem classReported_facts (hn : u.noneStarting) (old c : Nat) :
    (u.classReported old c).thm.cls = u.thm.cls ∧ (u.classReported old c).thm.pendCls = u.thm.pendCls ∧
    (u.classReported old c).thm.life.cls = u.thm.life.cls ∧ (u.classReported old c).bcn = u.bcn ∧
    (∀ d, (u.classReported old c).die d R.pwrVoff = u.die d R.pwrVoff) ∧ (u.classReported old c).host.buoy0 = u.host.buoy0 := by
  obtain ⟨hcls, hpend, hlife, hdieR, hhost, hslots⟩ := classLogged_facts u old c
  have hn' : (u.classLogged old c).noneStarting := fun p hp => by
    rw [slotState, slot, hslots]
    exact hn p hp
  obtain ⟨hthm, hdie, hbuoy, hbcn⟩ := ReportSide.aside (f := fun u => (u.classLogged old c).markStale 1) (markStale_staleSide hn' 1).side
  have heq : u.classReported old c = u.aside fun u => (u.classLogged old c).markStale 1 := rfl
  rw [← heq] at hthm hdie hbuoy hbcn
  generalize u.classReported old c = v at *
  generalize u.classLogged old c = w at *
  rw [hthm]
  refine ⟨hcls, hpend, hlife, hbcn, fun d => ?_, hbuoy.trans (congrArg HostX.buoy0 hhost)⟩
  rw [die, hdie, hdieR, die]

/-- A pending class comes into force once no slot is STARTING or RUNNING. -/
theorem exec_marginChange (h : s.anyActive = false) {c : Nat} (hc : s.thm.pendCls = some c) (hp : s.powered = true) (hk : s.kprState = 2) :
    ∃ t, exec .marginChange s = .next t ∧ t.thm.cls = c ∧ t.thm.pendCls = none ∧ t.thm.life.cls = c ∧
      fld t.bcn.cpf 15 0 = cpfOf c s.period % 2 ^ 16 ∧ (cpfOf c s.period = 0 → t.bcn.cpf = 0) ∧
      (∀ d < 32, fld (s.die d R.pwrVoff) 7 0 ≤ fld (t.die d R.pwrVoff) 7 0) ∧ t.bcn.fn = s.bcn.fn ∧
      t.bcnState = (if 2 ≤ s.bcnState ∧ cpfOf c s.period = 0 then 1 else s.bcnState) ∧
      (2 ≤ s.bcnState → cpfOf c s.period = 0 → bitAt t.bcn.sts 10 = true ∧ bitAt t.bcn.ctrl 0 = false) ∧
      bitAt t.host.buoy0 2 = bitAt s.host.buoy0 2 := by
  have hcame := changeClass_came s c
  have hn : (s.changeClass c).noneStarting := fun p hp => by
    rw [slotState, slot, hcame.slots]
    exact noneStarting_of_idle h p hp
  obtain ⟨hcls, hpend, hlife, hbcn, hdie, hbuoy⟩ := classReported_facts hn s.thm.cls c
  have hmargin : s.marginChange = (s.changeClass c).classReported s.thm.cls c := by
    unfold marginChange
    rw [hc]
    dsimp only
    rw [if_pos (by simp [hp, hk, h]), applyClass_eq]
  have hexec : exec .marginChange s = s.bcnDone s.marginChange := rfl
  rw [hmargin, bcnDone_next] at hexec
  generalize (s.changeClass c).classReported s.thm.cls c = v at *
  generalize s.changeClass c = w at *
  refine ⟨_, hexec, hcls.trans hcame.cls, hpend.trans hcame.pend, hlife.trans hcame.life, ?_, fun h0 => ?_, fun d _ => ?_,
    (congrArg Bcn.fn hbcn).trans hcame.fn, (congrArg (fun b : Bcn => fld b.sts 2 0) hbcn).trans hcame.state, fun h2 h0 => ?_,
    (congrArg (bitAt · 2) hbuoy).trans hcame.lock⟩
  · exact ((congrArg (fun b : Bcn => fld b.cpf 15 0) hbcn).trans (congrArg (fld · 15 0) hcame.cpf)).trans (fld_cpfWord ..)
  · refine ((congrArg Bcn.cpf hbcn).trans hcame.cpf).trans ?_
    rw [cpfWord, if_pos h0]
  · exact (hcame.voff d).trans_eq (congrArg (fld · 7 0) (hdie d).symm)
  · obtain ⟨hsts, hctrl⟩ := hcame.left h2 h0
    exact ⟨(congrArg (fun b : Bcn => bitAt b.sts 10) hbcn).trans hsts, (congrArg (fun b : Bcn => bitAt b.ctrl 0) hbcn).trans hctrl⟩

theorem exec_marginChange_of_not (h : s.thm.pendCls = none ∨ s.anyActive = true) : exec .marginChange s = .next s := by
  have hexec : exec .marginChange s = s.bcnDone s.marginChange := rfl
  have hstay : s.marginChange = s := by
    unfold marginChange
    rcases h with h | h
    · rw [h]
    · split
      · rw [if_neg (by simp [h])]
      · rfl
  rw [hexec, hstay, bcnDone_self]

/-! ### `AGE_READ` -/

theorem lifeBytes_of_thm (h : t.thm = s.thm) : t.lifeBytes = s.lifeBytes := by
  have hdie : t.lifeDie = s.lifeDie := funext fun d => by
    unfold lifeDie
    rw [h]
  unfold lifeBytes
  rw [h, hdie]

/-- A record that fits its buffer in host memory is written there. -/
theorem giveRecord_host {c : Cmd} {record : List Byte} (hlen : record.length ≤ arg c.args 8 4) (hmaster : s.mayMaster = true) {a : Nat}
    (hbuf : arg c.args 0 8 = 2 ^ 63 + a) (ha : a < 2 ^ 63) (halign : a % 64 = 0) :
    s.giveRecord c record = (s.hostWrite a record).answer c Sts.ok := by
  have hmod : (2 ^ 63 + a) % 64 = 0 := by omega
  have hhost : bufHost (2 ^ 63 + a) = true := by
    unfold bufHost
    rw [Nat.testBit_two_pow_add_eq, Nat.testBit_lt_two_pow ha]
    rfl
  have haddr : bufAddr (2 ^ 63 + a) = a := by
    unfold bufAddr
    omega
  unfold giveRecord bufWrite
  rw [if_neg (by omega), hbuf, if_neg (by rw [hmod]; decide), if_pos hhost, if_pos hmaster, haddr]

/-- The outcome of work on the port, the Keeper and host memory. -/
theorem done_of_host_frame (h : t = { s with host := t.host, kpr := t.kpr, hostMem := t.hostMem }) : s.done t = .next t := by
  rw [h]
  rfl

theorem hostWrite_answer_frame (s : State) (a st : Nat) (bytes : List Byte) (c : Cmd) :
    ∃ k, (s.hostWrite a bytes).answer c st = { s with kpr := k, hostMem := Memory.sets s.hostMem a bytes } := ⟨_, rfl⟩

theorem begun_frame (s : State) (op : Nat) (m : Mbox) : ∃ x k, s.begun op m = { s with host := x, kpr := k } := ⟨_, _, rfl⟩

section
variable {m : Mbox} (h : s.asked Op.ageRead 16 [(0, 12)] m)
include h

theorem exec_ageRead_eq :
    exec (.ageRead m) s = s.done ((s.begun Op.ageRead m).giveRecord (s.cmdOf Op.ageRead m) s.lifeBytes) := by
  have hexec : exec (.ageRead m) s = s.done (s.serve Op.ageRead 16 [(0, 12)] m fun t c => t.giveRecord c t.lifeBytes) := rfl
  rw [hexec, serve_asked h, lifeBytes_of_thm (s := s) (t := s.begun Op.ageRead m) rfl]

theorem exec_ageRead_short (hlen : arg m.args 8 4 < s.lifeBytes.length) :
    ∃ t, exec (.ageRead m) s = .next t ∧ s.replied t Op.ageRead m Sts.badArg 0 [] ∧ s.onlyAnswers t := by
  refine answersOnly ?_
  rw [exec_ageRead_eq h, giveRecord]
  exact congrArg s.done (if_pos hlen)

theorem exec_ageRead_host (hlen : s.lifeBytes.length ≤ arg m.args 8 4) (hmaster : s.mayMaster = true) {a : Nat}
    (hbuf : arg m.args 0 8 = 2 ^ 63 + a) (ha : a < 2 ^ 63) (halign : a % 64 = 0) :
    ∃ t, exec (.ageRead m) s = .next t ∧ s.replied t Op.ageRead m Sts.ok 0 [] ∧
      t.hostMem = Memory.sets s.hostMem a s.lifeBytes ∧ t = { s with host := t.host, kpr := t.kpr, hostMem := t.hostMem } := by
  have hexec := exec_ageRead_eq h
  rw [giveRecord_host (s := s.begun Op.ageRead m) (c := s.cmdOf Op.ageRead m) hlen hmaster hbuf ha halign] at hexec
  have hreplied : s.replied (((s.begun Op.ageRead m).hostWrite a s.lifeBytes).answer (s.cmdOf Op.ageRead m) Sts.ok) Op.ageRead m Sts.ok 0 [] :=
    replied_answer (congrArg HostX.cr (hostWrite_host ..)) (congrArg HostX.bar4 (hostWrite_host ..)) (hostWrite_kpr ..) _
  obtain ⟨k, hframe⟩ := hostWrite_answer_frame (s.begun Op.ageRead m) a Sts.ok s.lifeBytes (s.cmdOf Op.ageRead m)
  generalize ((s.begun Op.ageRead m).hostWrite a s.lifeBytes).answer (s.cmdOf Op.ageRead m) Sts.ok = t at *
  obtain ⟨x, _, hbegun⟩ := begun_frame s Op.ageRead m
  rw [hbegun] at hframe
  have hside : t = { s with host := t.host, kpr := t.kpr, hostMem := t.hostMem } := by rw [hframe]
  exact ⟨t, hexec.trans (done_of_host_frame hside), hreplied, by rw [hframe], hside⟩

end

end State

/-- Settles O51: each row by its own lemma on what the Keeper does with heat, offsets, the class and the lifetime record. -/
theorem damperAndAgeing : Obligations.DamperAndAgeing := by
  unfold Obligations.DamperAndAgeing
  intro s
  refine ⟨State.exec_damperWindow_of_not, State.damperWindow_dies, State.damperWindow_levels, State.exec_damperRelease, State.exec_heatForecast,
    State.exec_idleMeasurement s, ?ageMeasure, ?measurementComplete, ?replicaRead, ?marginChange, ?noChange, ?lifetime, ?ageRead⟩
  case ageMeasure =>
    exact fun m h => ⟨State.exec_ageMeasure_runActive h, State.exec_ageMeasure_rateLimited h, State.exec_ageMeasure_begins h⟩
  case measurementComplete =>
    exact fun ms eyes => ⟨State.exec_measurementComplete_none ms eyes, fun k c => State.exec_measurementComplete eyes⟩
  case replicaRead =>
    exact fun die p ps below => ⟨State.exec_replicaRead_of_not die p ps below, State.exec_replicaRead die p ps below,
      State.exec_replicaRead_fences die p ps⟩
  case marginChange =>
    exact fun c hc hp hk => ⟨fun h => State.exec_marginChange_of_not (.inr h), fun h => State.exec_marginChange h hc hp hk⟩
  case noChange => exact fun h => State.exec_marginChange_of_not (.inl h)
  case lifetime => exact fun x => ⟨State.exec_lifetimeUpdate x, State.exec_lifetimeUpdate_of_not x⟩
  case ageRead =>
    exact fun m h => ⟨State.exec_ageRead_short h, fun hlen hmaster a => State.exec_ageRead_host h hlen hmaster⟩

end Sys2Proof.Machine
end

section
/-!
PROOFS. Numbers and their codes: what a code of a format decodes to rounds back to the code (R59, R63, R66, R74, R75), and the balanced
digits of D7SLICE rebuild their number (R87).
-/

namespace Sys2Proof.Machine

/-! ### Two's complement -/

theorem signed_bounds (w n : Nat) : -(2 ^ (w - 1) : Int) ≤ signed w n ∧ signed w n ≤ 2 ^ (w - 1) - 1 := by
  have hn : n % 2 ^ w < 2 ^ w := Nat.mod_lt _ (Nat.two_pow_pos w)
  have hw : 2 ^ w ≤ 2 * 2 ^ (w - 1) := by
    rw [← Nat.pow_succ']
    exact Nat.pow_le_pow_right (by decide) (by omega)
  have hcast : ((2 ^ (w - 1) : Nat) : Int) = 2 ^ (w - 1) := Int.natCast_pow ..
  rw [← hcast]
  unfold signed
  split <;> omega

/-- The low bits of a signed value are the bits it was read from. -/
theorem unsigned_signed {w n : Nat} (h : n < 2 ^ w) : unsigned w (signed w n) = n := by
  unfold unsigned signed
  rw [Nat.mod_eq_of_lt h]
  have hmod : (n : Int) % (2 ^ w : Nat) = n := Int.emod_eq_of_lt (by omega) (by omega)
  split
  · rw [hmod, Int.toNat_natCast]
  · rw [Int.sub_emod_right, hmod, Int.toNat_natCast]

namespace Num

/-- An integer's sign and magnitude give it back. -/
theorem signed_natAbs (i : Int) : (if decide (i < 0) = true then -(i.natAbs : Int) else i.natAbs) = i := by
  split_ifs with h <;> simp only [decide_eq_true_eq] at h <;> omega

end Num

/-- A magnitude whose exponent is that of the unit is not rounded. -/
theorem roundMag_self (mode : Rnd) (draw m : Nat) (e : Int) : roundMag mode draw m e e = m := by
  rw [roundMag, if_pos le_rfl, Int.sub_self]
  exact Nat.shiftLeft_zero

/-! ### Integer formats -/

/-- An integer format gives the code of every value it holds. -/
theorem Fmt.round_ofInt {f : Fmt} (hf : f.flt? = none) (mode : Rnd) (draw : Nat) {i : Int} (hlo : -(2 ^ (f.width - 1)) ≤ i)
    (hhi : i ≤ 2 ^ (f.width - 1) - 1) : f.round mode draw (Num.ofInt i) = { code := unsigned f.width i } := by
  simp only [Fmt.round, hf, Num.ofInt, roundMag_self, Num.signed_natAbs]
  rw [if_neg (by omega), if_neg (by omega)]

/-! ### Floating-point formats -/

namespace FltP

variable (p : FltP)

/-- The code with the sign bit that a value has. -/
def signCode (neg : Bool) (c : Nat) : Nat := if neg then c + 2 ^ (p.ew + p.mw) else c

/-- A code of the format is the code of its magnitude with its sign. -/
theorem signCode_testBit {c : Nat} (hc : c < 2 ^ (p.ew + p.mw + 1)) :
    p.signCode (c.testBit (p.ew + p.mw)) (c % 2 ^ (p.ew + p.mw)) = c := by
  have hdiv : c / 2 ^ (p.ew + p.mw) < 2 := Nat.div_lt_of_lt_mul (by rwa [← Nat.pow_succ])
  have hsplit := Nat.div_add_mod' c (2 ^ (p.ew + p.mw))
  rw [signCode, Nat.testBit_eq_decide_div_mod_eq, Nat.mod_eq_of_lt hdiv]
  generalize c / 2 ^ (p.ew + p.mw) = b at hdiv hsplit ⊢
  obtain rfl | rfl : b = 0 ∨ b = 1 := by omega
  · rwa [Nat.zero_mul, Nat.zero_add] at hsplit
  · rwa [Nat.one_mul, Nat.add_comm] at hsplit

/-- Exponent and fraction of a magnitude's code. -/
theorem exponent_add_fraction (c : Nat) (h : 0 < p.ew + p.mw) :
    bits c (p.ew + p.mw - 1) p.mw * 2 ^ p.mw + c % 2 ^ p.mw = c % 2 ^ (p.ew + p.mw) := by
  rw [bits, show p.ew + p.mw - 1 + 1 - p.mw = p.ew by omega, Nat.shiftRight_eq_div_pow, Nat.add_comm p.ew, Nat.pow_add, Nat.mod_mul]
  ring

/-- A value in the format's quantum and range with exponent field 0 is its own code (R60). -/
theorem encodeMag_subnormal (mode : Rnd) (draw : Nat) {fr : Nat} (h : fr < 2 ^ p.mw) :
    p.encodeMag mode draw fr (1 - (p.bias : Int) - p.mw) = fr := by
  unfold encodeMag
  split_ifs with h0
  · exact h0.symm
  · have hlead : Num.lead fr (1 - (p.bias : Int) - p.mw) - p.mw ≤ 1 - (p.bias : Int) - p.mw := by
      have hlog := (Nat.log2_lt h0).mpr h
      simp only [Num.lead]
      omega
    simp only [max_eq_right hlead, Int.sub_self, roundMag_self, Int.toNat_zero, Nat.zero_mul, Nat.zero_add]

/-- A normal value has the code of its exponent field and fraction (R59). -/
theorem encodeMag_normal (mode : Rnd) (draw : Nat) {ex fr : Nat} (hex : 1 ≤ ex) (h : fr < 2 ^ p.mw) :
    p.encodeMag mode draw (2 ^ p.mw + fr) ((ex : Int) - p.bias - p.mw) = ex * 2 ^ p.mw + fr := by
  have hpos := Nat.two_pow_pos p.mw
  have hlog : (2 ^ p.mw + fr).log2 = p.mw :=
    (Nat.log2_eq_iff (by omega)).mpr ⟨Nat.le_add_right .., by rw [Nat.pow_succ]; omega⟩
  have hlead : Num.lead (2 ^ p.mw + fr) ((ex : Int) - p.bias - p.mw) - p.mw = (ex : Int) - p.bias - p.mw := by
    simp only [Num.lead, hlog]
    omega
  have hfield : ((ex : Int) - p.bias - p.mw - (1 - (p.bias : Int) - p.mw)).toNat = ex - 1 := by omega
  rw [encodeMag, if_neg (by omega)]
  simp only [hlead, max_eq_left (show 1 - (p.bias : Int) - p.mw ≤ (ex : Int) - p.bias - p.mw by omega), hfield, roundMag_self]
  obtain ⟨k, rfl⟩ : ∃ k, ex = k + 1 := ⟨ex - 1, by omega⟩
  rw [Nat.add_sub_cancel]
  ring

end FltP

namespace Fmt

variable {f : Fmt} {p : FltP} (hf : f.flt? = some p)
include hf

/-- A floating-point format has a sign bit above exponent and fraction. -/
theorem width_of_flt : f.width = p.ew + p.mw + 1 ∧ 0 < p.ew := by
  cases f <;> simp only [flt?, Option.some.injEq, reduceCtorEq] at hf <;> subst hf <;> decide

/-- A magnitude whose code is at most the largest finite one rounds to it, with its sign; a zero of a format without infinities has
none (R63, R75). -/
theorem round_of_encodeMag (mode : Rnd) (draw : Nat) {neg : Bool} {m c : Nat} {e : Int} (hc : p.encodeMag mode draw m e = c)
    (hmax : c ≤ p.maxCode) (hzero : c = 0 → p.ieee = false → neg = false) :
    f.round mode draw (.fin neg m e) = { code := p.signCode neg c } := by
  simp only [round, hf, hc]
  rw [if_neg (by omega)]
  split_ifs with h0
  · simp only [Bool.and_eq_true, decide_eq_true_eq, Bool.not_eq_true'] at h0
    simp [FltP.signCode, h0.1, hzero h0.1 h0.2]
  · simp [FltP.signCode, *]
  · simp [FltP.signCode, *]

/-- The finite value of a sign, an exponent field and a fraction rounds to their code. -/
theorem round_finite (mode : Rnd) (draw : Nat) {neg : Bool} {ex fr : Nat} (hfr : fr < 2 ^ p.mw) (hmax : ex * 2 ^ p.mw + fr ≤ p.maxCode)
    (hzero : ex * 2 ^ p.mw + fr = 0 → p.ieee = false → neg = false) :
    f.round mode draw (if ex = 0 then .fin neg fr (1 - (p.bias : Int) - p.mw) else .fin neg (2 ^ p.mw + fr) ((ex : Int) - p.bias - p.mw)) =
      { code := p.signCode neg (ex * 2 ^ p.mw + fr) } := by
  split_ifs with h0
  · subst h0
    exact round_of_encodeMag hf mode draw (by rw [p.encodeMag_subnormal mode draw hfr, Nat.zero_mul, Nat.zero_add]) hmax hzero
  · exact round_of_encodeMag hf mode draw (p.encodeMag_normal mode draw (by omega) hfr) hmax hzero

/-- The value of a floating-point code rounds to the code. -/
theorem round_decode_of_flt (mode : Rnd) (draw : Nat) {code : Nat} (hcode : code < 2 ^ f.width) (hnan : (f.decode code).isNan = false) :
    f.round mode draw (f.decode code) = { code := code } := by
  obtain ⟨hwidth, hew⟩ := width_of_flt hf
  have hpos := Nat.two_pow_pos p.mw
  have hfr : code % 2 ^ p.mw < 2 ^ p.mw := Nat.mod_lt _ hpos
  have hmag : code % 2 ^ (p.ew + p.mw) < 2 ^ (p.ew + p.mw) := Nat.mod_lt _ (Nat.two_pow_pos _)
  have hsign := p.signCode_testBit (hwidth ▸ hcode)
  rw [← p.exponent_add_fraction code (by omega)] at hmag hsign
  have hex : bits code (p.ew + p.mw - 1) p.mw < 2 ^ p.ew := by
    rw [bits, show p.ew + p.mw - 1 + 1 - p.mw = p.ew by omega]
    exact Nat.mod_lt _ (Nat.two_pow_pos _)
  simp only [decode, hf, Nat.mod_eq_of_lt hcode] at hnan ⊢
  generalize bits code (p.ew + p.mw - 1) p.mw = ex at *
  generalize code % 2 ^ p.mw = fr at *
  cases hieee : p.ieee with
  | true =>
    have hmax : p.maxCode = (2 ^ p.ew - 1) * 2 ^ p.mw - 1 := by simp [FltP.maxCode, hieee]
    simp only [hieee, if_true] at hnan ⊢
    by_cases hinf : ex = 2 ^ p.ew - 1
    · rw [if_pos hinf] at hnan ⊢
      by_cases h0 : fr = 0
      · rw [if_pos h0, round, hf]
        simp only [hieee, if_true]
        rw [← hinf, ← Nat.add_zero (ex * 2 ^ p.mw), ← h0]
        exact congrArg (fun c => ({ code := c } : Rounded)) hsign
      · rw [if_neg h0] at hnan
        cases hnan
    · have hle : (ex + 1) * 2 ^ p.mw ≤ (2 ^ p.ew - 1) * 2 ^ p.mw := Nat.mul_le_mul_right _ (by omega)
      rw [Nat.succ_mul] at hle
      rw [if_neg hinf, round_finite hf mode draw hfr (by omega) fun _ h => by simp [hieee] at h, hsign]
  | false =>
    have hmax : p.maxCode = 2 ^ (p.ew + p.mw) - 1 := by simp [FltP.maxCode, hieee]
    simp only [hieee, Bool.false_eq_true, if_false] at hnan ⊢
    by_cases hz : code = 2 ^ (p.ew + p.mw)
    · rw [if_pos hz] at hnan
      cases hnan
    · rw [if_neg hz, round_finite hf mode draw hfr (by omega) fun h _ => ?_, hsign]
      rw [h] at hsign
      cases hneg : code.testBit (p.ew + p.mw) with
      | false => rfl
      | true => exact absurd hsign.symm (by simpa [FltP.signCode, hneg] using hz)

end Fmt

/-! ### Balanced digits -/

/-- A digit is the number's residue modulo 256 that lies nearest 0 (R87). -/
theorem signed_unsigned_8 (x : Int) :
    -128 ≤ signed 8 (unsigned 8 x) ∧ signed 8 (unsigned 8 x) ≤ 127 ∧ (x - signed 8 (unsigned 8 x)) % 256 = 0 := by
  unfold signed unsigned
  split <;> omega

theorem length_d7DigitsUp (n : Nat) (x : Int) : (d7DigitsUp n x).length = n := by
  induction n generalizing x with
  | zero => rfl
  | succ n ih => exact congrArg (· + 1) (ih _)

theorem d7DigitsUp_bounds (n : Nat) (x : Int) : ∀ d ∈ d7DigitsUp n x, -128 ≤ d ∧ d ≤ 127 := by
  induction n generalizing x with
  | zero => exact fun d hd => nomatch hd
  | succ n ih =>
    intro d hd
    rcases List.mem_cons.mp hd with rfl | hd
    · exact ⟨(signed_unsigned_8 x).1, (signed_unsigned_8 x).2.1⟩
    · exact ih _ d hd

/-- The number that digits stand for, the least significant first. -/
def digitSum (ds : List Int) : Int := ds.foldr (fun d a => d + 256 * a) 0

/-- n + 1 digits rebuild every number up to a quarter of their range. -/
theorem digitSum_d7DigitsUp (n : Nat) {x : Int} (hlo : -(64 * 256 ^ n) ≤ x) (hhi : x ≤ 64 * 256 ^ n) :
    digitSum (d7DigitsUp (n + 1) x) = x := by
  obtain ⟨hd0, hd1, hmod⟩ := signed_unsigned_8 x
  have hstep (k : Nat) : digitSum (d7DigitsUp (k + 1) x) =
      signed 8 (unsigned 8 x) + 256 * digitSum (d7DigitsUp k ((x - signed 8 (unsigned 8 x)) / 256)) := rfl
  rw [hstep]
  cases n with
  | zero =>
    have hnil (y : Int) : digitSum (d7DigitsUp 0 y) = 0 := rfl
    rw [hnil]
    omega
  | succ n =>
    rw [pow_succ] at hlo hhi
    rw [digitSum_d7DigitsUp n (by omega) (by omega)]
    omega

/-- Settles O25: a code's value has the code's exponent and fraction, and each digit leaves a multiple of 256. -/
theorem numbersSurviveTheirCodes : Obligations.NumbersSurviveTheirCodes := by
  refine ⟨fun f mode draw code hcode hnan => ?_, fun x hlo hhi => ⟨length_d7DigitsUp 7 x, d7DigitsUp_bounds 7 x, ?_⟩⟩
  · cases hf : f.flt? with
    | none =>
      obtain ⟨h0, h1⟩ := signed_bounds f.width code
      rw [Fmt.decode, hf, Fmt.round_ofInt hf mode draw h0 h1, unsigned_signed hcode]
    | some p => exact Fmt.round_decode_of_flt hf mode draw hcode hnan
  · exact digitSum_d7DigitsUp 6 (by omega) (by omega)

end Sys2Proof.Machine
end

section
/-!
PROOFS. A unit's reads and writes within its core's own memory, where no word is in error: what is read are the bytes that lie there, what
is written lies there afterwards, and of a last byte that holds one 4-bit element the other nibble stays (R155, R156, R290).
-/

namespace Sys2Proof.Machine

namespace Memory

theorem length_gets (m : List Host.Cell) (a n : Nat) : (gets m a n).length = n := by simp [gets]

/-- Bytes read in two parts, the second where the first ends. -/
theorem gets_add (m : List Host.Cell) (a n k : Nat) : gets m a (n + k) = gets m a n ++ gets m (a + n) k := by
  simp only [gets, List.range_add, List.map_append, List.map_map, Function.comp_def, Nat.add_assoc]

/-- Part of the bytes read. -/
theorem take_drop_gets (m : List Host.Cell) (a : Nat) {i n k : Nat} (h : i + n ≤ k) : ((gets m a k).drop i).take n = gets m (a + i) n := by
  obtain ⟨j, rfl⟩ : ∃ j, k = i + (n + j) := ⟨k - i - n, by omega⟩
  rw [gets_add, gets_add, List.drop_left' (length_gets ..), List.take_left' (length_gets ..)]

theorem getD_gets (m : List Host.Cell) (a : Nat) {i n : Nat} (h : i < n) : (gets m a n).getD i 0 = get m (a + i) := by
  simp [gets, h]

/-- Canonical lists that read alike are one. -/
theorem ext_from {m n : List Host.Cell} {a b : Nat} (hm : wfFrom a m = true) (hn : wfFrom b n = true) (h : ∀ y, get m y = get n y) :
    m = n := by
  induction m generalizing a b n with
  | nil =>
    cases n with
    | nil => rfl
    | cons x n =>
      simp only [wfFrom, Bool.and_eq_true, bne_iff_ne] at hn
      exact absurd ((h x.1).symm.trans rfl) (by simpa [get] using hn.1.2)
  | cons x m ih =>
    obtain ⟨k, v⟩ := x
    have hlow := fun y (hy : y < k) => get_below ((k, v) :: m) k y (by simp_all [wfFrom]) hy
    simp only [wfFrom, Bool.and_eq_true, bne_iff_ne] at hm
    obtain ⟨⟨-, hv⟩, hm⟩ := hm
    cases n with
    | nil => exact absurd ((h k).trans rfl) (by simpa [get] using hv)
    | cons x n =>
      obtain ⟨j, w⟩ := x
      have hlow' := fun y (hy : y < j) => get_below ((j, w) :: n) j y (by simp_all [wfFrom]) hy
      simp only [wfFrom, Bool.and_eq_true, bne_iff_ne] at hn
      obtain ⟨⟨-, hw⟩, hn⟩ := hn
      have hkj : k = j := by
        rcases Nat.lt_trichotomy k j with hlt | heq | hlt
        · exact absurd ((h k).trans (hlow' k hlt)) (by simpa [get] using hv)
        · exact heq
        · exact absurd ((h j).symm.trans (hlow j hlt)) (by simpa [get] using hw)
      subst hkj
      have hvw : v = w := by simpa [get] using h k
      subst hvw
      refine congrArg _ (ih hm hn fun y => ?_)
      by_cases hy : k = y
      · rw [get_below m (k + 1) y hm (by omega), get_below n (k + 1) y hn (by omega)]
      · simpa [get, hy] using h y

/-- Canonical stores that read alike are one. -/
theorem ext_of_get {m n : List Host.Cell} (hm : wf m = true) (hn : wf n = true) (h : get m = get n) : m = n :=
  ext_from hm hn (congrFun h)

/-- Bytes read in words. -/
theorem gets_words (m : List Host.Cell) (a k : Nat) : (List.range k).flatMap (fun j => gets m (a + j * 8) 8) = gets m a (k * 8) := by
  induction k with
  | zero => rfl
  | succ k ih => rw [List.range_succ, List.flatMap_append, ih, Nat.succ_mul, gets_add, List.flatMap_singleton]

/-- Bytes read in the pieces of their range. -/
theorem gets_tiles (m : List Host.Cell) {a n : Nat} {ps : List (Nat × Nat)} (h : tiles a n ps) :
    ps.flatMap (fun p => gets m p.1 p.2) = gets m a n := by
  induction ps generalizing a n with
  | nil =>
    obtain rfl : n = 0 := h
    rfl
  | cons p ps ih =>
    obtain ⟨rfl, -, hle, hrest⟩ := h
    rw [List.flatMap_cons, ih hrest, ← gets_add]
    congr 1
    omega

/-- What a write of the bytes `bs` at address a lays there: where it is by half, the last byte keeps its other nibble. -/
def nibbleKept (m : List Host.Cell) (half : Bool) (a : Nat) (bs : List Byte) : List Byte :=
  if half then State.keepNibble bs (get m (a + bs.length - 1)) else bs

theorem nibbleKept_false (m : List Host.Cell) (a : Nat) (bs : List Byte) : nibbleKept m false a bs = bs := rfl

theorem nibbleKept_append {m n : List Host.Cell} {half : Bool} {a b : Nat} {bs cs : List Byte} (hb : b = a + bs.length) (hcs : cs ≠ [])
    (h : get n (b + cs.length - 1) = get m (b + cs.length - 1)) : bs ++ nibbleKept n half b cs = nibbleKept m half a (bs ++ cs) := by
  cases half with
  | false => rfl
  | true =>
    rw [hb] at h
    simp only [nibbleKept, if_true, State.keepNibble, hb, h, List.dropLast_append_of_ne_nil hcs, List.append_assoc, List.length_append,
      ← Nat.add_assoc]
    simp [List.getLastD_eq_getLast?, List.getLast?_append_of_ne_nil _ hcs]

theorem length_nibbleKept (m : List Host.Cell) (half : Bool) (a : Nat) {bs : List Byte} (h : half = true → bs ≠ []) :
    (nibbleKept m half a bs).length = bs.length := by
  unfold nibbleKept
  split_ifs with hh
  · have := List.length_pos_iff.mpr (h hh)
    simp [State.keepNibble]
    omega
  · rfl

end Memory

/-- Each piece lies within the range. -/
theorem tiles_mem {a n : Nat} {ps : List (Nat × Nat)} (h : tiles a n ps) {p : Nat × Nat} (hp : p ∈ ps) :
    a ≤ p.1 ∧ 0 < p.2 ∧ p.1 + p.2 ≤ a + n := by
  induction ps generalizing a n with
  | nil => cases hp
  | cons x ps ih =>
    obtain ⟨rfl, hpos, hle, hrest⟩ := h
    rcases List.mem_cons.mp hp with rfl | hp
    · omega
    · have := ih hrest hp
      omega

theorem flatMap_range_getElem? {α β : Type} (l : List α) (f : α → List β) :
    (List.range l.length).flatMap (fun i => match l[i]? with
      | some x => f x
      | none => []) = l.flatMap f := by
  induction l with
  | nil => rfl
  | cons x l ih =>
    rw [List.length_cons, List.range_succ_eq_map, List.flatMap_cons, List.flatMap_map, List.flatMap_cons, ← ih]
    rfl

namespace State

variable {s : State}

/-! ### Reads -/

/-- A requester whose accesses take no transfer tag (R156). -/
def Untagged (w : Who) : Prop := ∀ u : State, u.passTag w = u

theorem untagged_vec (c : Nat) : Untagged (Who.vec c) := fun _ => by simp [passTag]

theorem readSlice_clean (h : s.Clean) (w : Who) (d a addr : Nat) (sram spare : Bool) :
    s.readSlice w d a addr sram spare = (.ok (Memory.gets s.mem a 8), s) := by
  rw [readSlice, h.1]
  rfl

/-- Reads that leave the state as it is, one after another. -/
theorem readAll_pure {f : State → Nat → Except AccErr (List Byte) × State} {g : Nat → List Byte} {js : List Nat}
    (h : ∀ j ∈ js, f s j = (.ok (g j), s)) : readAll f s js = (.ok (js.flatMap g), s) := by
  induction js with
  | nil => rfl
  | cons j js ih =>
    rw [readAll, h j List.mem_cons_self, List.flatMap_cons]
    simp only [ih fun i hi => h i (List.mem_cons_of_mem j hi)]

/-- A piece of a range read from a core's own memory. -/
theorem readPiece1_own (h : s.Clean) (w : Who) {a d : Nat} (n : Nat) (hl : s.OwnAt a d) (hup : s.dieUp d = true) :
    s.readPiece1 w a n = (.ok (Memory.gets s.mem a n), s) := by
  have hwords (sram : Bool) :
      readAll (fun r j => r.readSlice w d (a / 8 * 8 + j * 8) (a / 8 * 8 + j * 8) sram false) s (List.range (cdiv (a + n - a / 8 * 8) 8)) =
        (.ok (Memory.gets s.mem (a / 8 * 8) (cdiv (a + n - a / 8 * 8) 8 * 8)), s) := by
    rw [readAll_pure fun j _ => readSlice_clean h .., Memory.gets_words]
  have hcut : ((Memory.gets s.mem (a / 8 * 8) (cdiv (a + n - a / 8 * 8) 8 * 8)).drop (a - a / 8 * 8)).take n = Memory.gets s.mem a n := by
    rw [Memory.take_drop_gets _ _ (by unfold cdiv; omega)]
    congr 1
    omega
  rcases hl with hl | hl
  · simp only [readPiece1, hl, answers, hup, Bool.not_true, Bool.false_eq_true, if_false, hwords, hcut]
  · simp only [readPiece1, hl, answers, hup, Bool.not_true, Bool.false_eq_true, if_false, hwords, hcut]

/-- A range of a core's own memory read. -/
theorem readDa_own (h : s.Clean) {w : Who} (hw : Untagged w) {a n d : Nat} (hup : s.dieUp d = true)
    (hown : ∀ b, a ≤ b → b < a + n → s.OwnAt b d) : s.readDa w a n = (.ok (Memory.gets s.mem a n), s) := by
  have ht := tiles_pieces a n
  rw [← Memory.gets_tiles _ ht, ← flatMap_range_getElem?]
  refine readAll_pure fun i _ => ?_
  cases hi : (pieces a n)[i]? with
  | none => rfl
  | some p =>
    obtain ⟨h0, h1, h2⟩ := tiles_mem ht (List.mem_of_getElem? hi)
    simp only [hw s, readPiece1_own h w p.2 (hown p.1 h0 (by omega)) hup]

/-! ### Writes -/

/-- The bytes written make up the store. -/
theorem Stored.mem_eq {t : State} {a : Nat} {bs : List Byte} (h : Stored s t a bs) (hs : s.Clean) : t.mem = Memory.sets s.mem a bs :=
  Memory.ext_of_get h.2.1.2 (Memory.wf_sets _ _ _ hs.2) (h.2.2.trans (Memory.get_sets _ _ _ hs.2).symm)

/-- What the second part of a write keeps is what stood there before the first. -/
theorem Stored.append_kept {t u : State} {half : Bool} {a b n : Nat} {bs : List Byte} (h : Stored s t a (bs.take n)) (hn : n < bs.length)
    (hb : b = a + n) (k : Stored t u b (Memory.nibbleKept t.mem half b (bs.drop n))) :
    Stored s u a (Memory.nibbleKept s.mem half a bs) := by
  have hlen : (bs.take n).length = n := by rw [List.length_take]; omega
  have hrest : (bs.drop n).length = bs.length - n := List.length_drop ..
  have hkept := Memory.nibbleKept_append (m := s.mem) (n := t.mem) (half := half) (bs := bs.take n) (cs := bs.drop n) (hb.trans (by rw [hlen]))
    (List.length_pos_iff.mp (by omega)) (by rw [h.2.2, laid_apart (by omega)])
  rw [List.take_append_drop] at hkept
  rw [← hkept]
  exact h.append (hb.trans (by rw [hlen])) k

/-- A word or a part of one written where no word is in error, its last byte by half or whole. -/
theorem stored_writePart_kept (h : s.Clean) (w : Who) (d : Nat) (sram half : Bool) (a o : Nat) {bs : List Byte} (hlen : o + bs.length ≤ 8)
    (hne : bs ≠ []) : Stored s (s.writePart w d sram a o bs half) (a + o) (Memory.nibbleKept s.mem half (a + o) bs) := by
  cases half with
  | false => exact stored_writePart h w d sram a o bs hlen
  | true =>
    have hpos := List.length_pos_iff.mpr hne
    have hcheck : checkWord (s.rawWord a) (s.syn.get 0 (a / 8)) = { data := s.rawWord a, ce := false, ue := false } := by
      rw [h.1]; rfl
    have hold : (s.rawWord a).getD (o + bs.length - 1) 0 = Memory.get s.mem (a + o + bs.length - 1) := by
      rw [rawWord, Memory.getD_gets _ _ (by omega)]
      congr 1
      omega
    have hlen' := Memory.length_nibbleKept s.mem true (a + o) fun _ => hne
    rw [writePart, if_neg (by simp)]
    simp only [hcheck, hold, if_true, Bool.false_eq_true, if_false]
    obtain ⟨hf, hc, hm⟩ := stored_writeWord h a (overlay (s.rawWord a) o (Memory.nibbleKept s.mem true (a + o) bs))
    exact ⟨hf, hc, hm.trans (Memory.laid_overlay s.mem a o _ (by omega))⟩

/-- The words of a list written one after another, the last byte of the last by half or whole; `len` is how many bytes the piece has
and `head` how many of them lie before the words. -/
theorem stored_chunks_kept (h : s.Clean) (w : Who) (d : Nat) (sram half : Bool) (a len head : Nat) (f : Nat) {bs : List Byte}
    (hf : bs.length ≤ f) (hne : bs ≠ []) (i : Nat) (hlen : len = head + 8 * i + bs.length) :
    Stored s (forEach ((chunksFuel 8 f bs).zipIdx i) s fun t p =>
      t.writePart w d sram (a + p.2 * 8) 0 p.1 (half && decide (len ≤ head + 8 * (p.2 + 1)))) (a + i * 8)
      (Memory.nibbleKept s.mem half (a + i * 8) bs) := by
  induction f generalizing s bs i with
  | zero => exact absurd (List.length_eq_zero_iff.mp (by omega)) hne
  | succ f ih =>
    obtain ⟨b, bs, rfl⟩ := List.exists_cons_of_ne_nil hne
    have hcut : chunksFuel 8 (f + 1) (b :: bs) = (b :: bs).take 8 :: chunksFuel 8 f ((b :: bs).drop 8) := rfl
    have hone := stored_writePart_kept h w d sram (half && decide (len ≤ head + 8 * (i + 1))) (a + i * 8) 0 (bs := (b :: bs).take 8)
      (by simp) (by simp)
    by_cases hmore : (b :: bs).length ≤ 8
    · have hnone : chunksFuel 8 f ([] : List Byte) = [] := by cases f <;> rfl
      have hlast : decide (len ≤ head + 8 * (i + 1)) = true := decide_eq_true (by omega)
      rw [List.take_of_length_le hmore, hlast, Bool.and_true] at hone
      rw [hcut, List.drop_eq_nil_of_le hmore, hnone, List.take_of_length_le hmore]
      simpa [forEach, hlast] using hone
    · have hlast : decide (len ≤ head + 8 * (i + 1)) = false := decide_eq_false (by omega)
      rw [hlast, Bool.and_false, Memory.nibbleKept_false] at hone
      have hrest := ih hone.2.1 (bs := (b :: bs).drop 8) (by simp at hf ⊢; omega) (List.drop_eq_nil_iff.not.mpr hmore) (i + 1)
        (by rw [List.length_drop]; omega)
      rw [hcut, List.zipIdx_cons, forEach, List.foldl_cons, hlast, Bool.and_false]
      exact hone.append_kept (by omega) (by omega) hrest

/-- A piece of a range written to a core's own memory, its last byte by half or whole. -/
theorem stored_writePiece1_kept (h : s.Clean) (w : Who) {a d : Nat} (half : Bool) {bs : List Byte} (hne : bs ≠ []) (hl : s.OwnAt a d)
    (hup : s.dieUp d = true) : ∃ t, s.writePiece1 w a bs half = (none, t) ∧ Stored s t a (Memory.nibbleKept s.mem half a bs) := by
  have hwords (sram : Bool) : Stored s
      (forEach ((chunks 8 (bs.drop (8 - a % 8))).zipIdx)
        (s.writePart w d sram (a / 8 * 8) (a % 8) (bs.take (8 - a % 8)) (half && decide (bs.length ≤ 8 - a % 8))) fun t p =>
        t.writePart w d sram (a / 8 * 8 + 8 + p.2 * 8) 0 p.1 (half && decide (bs.length ≤ 8 - a % 8 + 8 * (p.2 + 1)))) a
      (Memory.nibbleKept s.mem half a bs) := by
    have hfirst := stored_writePart_kept h w d sram (half && decide (bs.length ≤ 8 - a % 8)) (a / 8 * 8) (a % 8)
      (bs := bs.take (8 - a % 8)) (by simp; omega) (by simp [hne]; omega)
    rw [Nat.div_add_mod'] at hfirst
    by_cases hmore : bs.length ≤ 8 - a % 8
    · rw [List.drop_eq_nil_of_le hmore]
      rw [List.take_of_length_le hmore, decide_eq_true hmore, Bool.and_true] at hfirst ⊢
      exact hfirst
    · rw [decide_eq_false hmore, Bool.and_false] at hfirst ⊢
      have hrest := stored_chunks_kept hfirst.2.1 w d sram half (a / 8 * 8 + 8) bs.length (8 - a % 8) _ (bs := bs.drop (8 - a % 8)) le_rfl
        (by simpa using hmore) 0 (by rw [List.length_drop]; omega)
      exact Stored.append_kept hfirst (by omega) (by omega) hrest
  rcases hl with hl | hl
  · exact ⟨_, by simp [writePiece1, hl, answers, hup], hwords true⟩
  · exact ⟨_, by simp [writePiece1, hl, answers, hup], hwords false⟩

/-- A range written to a core's own memory, its last byte by half or whole. -/
theorem stored_writeList_kept {w : Who} (hw : Untagged w) (half : Bool) (d : Nat) (ps : List (Nat × Nat)) (h : s.Clean)
    (hup : s.dieUp d = true) {a : Nat} {bs : List Byte} (ht : tiles a bs.length ps) (hne : half = true → bs ≠ [])
    (hown : ∀ b, a ≤ b → b < a + bs.length → s.OwnAt b d) :
    ∃ t, writeList w half s ps bs = (none, t) ∧ Stored s t a (Memory.nibbleKept s.mem half a bs) := by
  induction ps generalizing s a bs with
  | nil =>
    obtain rfl : bs = [] := List.length_eq_zero_iff.mp ht
    obtain rfl : half = false := by simpa using hne
    exact ⟨s, rfl, Stored.nil h a⟩
  | cons p ps ih =>
    obtain ⟨rfl, hpos, hle, hrest⟩ := ht
    obtain ⟨t, hwrite, hone⟩ := stored_writePiece1_kept h w (half && ps.isEmpty) (bs := bs.take p.2)
      (List.length_pos_iff.mp (by rw [List.length_take]; omega)) (hown p.1 le_rfl (by omega)) hup
    rw [writeList, hw, hwrite]
    by_cases hmore : bs.drop p.2 = []
    · have hall : bs.length ≤ p.2 := List.drop_eq_nil_iff.mp hmore
      obtain rfl : ps = [] := by
        cases ps with
        | nil => rfl
        | cons q qs => have := hrest.2.1; have := hrest.2.2.1; omega
      rw [List.take_of_length_le hall, List.isEmpty_nil, Bool.and_true] at hone
      exact ⟨t, rfl, hone⟩
    · have hcons : ps.isEmpty = false := by
        cases ps with
        | nil =>
          have hzero : bs.length - p.2 = 0 := hrest
          exact absurd (List.drop_eq_nil_of_le (by omega)) hmore
        | cons q qs => rfl
      rw [hcons, Bool.and_false] at hone
      have hlt : p.2 < bs.length := by simpa using hmore
      obtain ⟨u, hws, hrest'⟩ := ih (s := t) (a := p.1 + p.2) (bs := bs.drop p.2) hone.2.1 (by rw [hone.dieUp, hup])
        (by rwa [List.length_drop]) (fun _ => hmore)
        fun b hb hlt => hone.ownAt.mpr (hown b (by omega) (by rw [List.length_drop] at hlt; omega))
      exact ⟨u, hws, Stored.append_kept hone (by omega) rfl hrest'⟩

section
variable {w : Who} (hw : Untagged w) (h : s.Clean) {a d : Nat} {bs : List Byte} (hup : s.dieUp d = true)
  (hown : ∀ b, a ≤ b → b < a + bs.length → s.OwnAt b d)
include hw h hup hown

theorem writeDa_own : ∃ t, s.writeDa w a bs = (none, t) ∧ Stored s t a bs :=
  stored_writeList_kept hw false d _ h hup (tiles_pieces ..) (fun hh => nomatch hh) hown

theorem writeHalf_own (hne : bs ≠ []) :
    ∃ t, s.writeHalf w a bs = (none, t) ∧ Stored s t a (keepNibble bs (Memory.get s.mem (a + bs.length - 1))) :=
  stored_writeList_kept hw true d _ h hup (tiles_pieces ..) (fun _ => hne) hown

end

end State

end Sys2Proof.Machine
end

section
/-!
PROOFS. Rows of elements in a core's own memory: how many bytes a row takes and what they are (R67, R68), and that an operand that fits
R134 has its rows and its scale bytes in the core's own memory.
-/

namespace Sys2Proof.Machine

/-! ### Lists cut into pieces -/

section
variable {α : Type}

theorem chunksFuel_eq_chunks (n : Nat) {f : Nat} {l : List α} (h : l.length ≤ f) : chunksFuel (max n 1) f l = chunks n l := by
  induction f using Nat.strong_induction_on generalizing l with
  | _ f ih =>
    cases l with
    | nil => cases f <;> rfl
    | cons a l =>
      obtain ⟨f, rfl⟩ : ∃ k, f = k + 1 := ⟨f - 1, by simp at h; omega⟩
      simp only [List.length_cons] at h
      have hdrop : ((a :: l).drop (max n 1)).length ≤ l.length := by simp
      change _ :: chunksFuel _ f _ = _ :: chunksFuel _ l.length _
      rw [ih f (by omega) (by omega)]
      by_cases hl : l.length = f
      · rw [hl, ih f (by omega) (by omega)]
      · rw [ih l.length (by omega) hdrop]

theorem chunks_nil (n : Nat) : chunks n ([] : List α) = [] := rfl

theorem chunks_of_ne_nil (n : Nat) {l : List α} (h : l ≠ []) : chunks n l = l.take (max n 1) :: chunks n (l.drop (max n 1)) := by
  obtain ⟨a, l, rfl⟩ := List.exists_cons_of_ne_nil h
  rw [← chunksFuel_eq_chunks n (l := (a :: l).drop (max n 1)) (f := l.length) (by simp)]
  rfl

/-- The pieces are as many as their size goes into the length, and one more for the rest. -/
theorem length_chunks {n : Nat} (hn : 0 < n) (l : List α) : (chunks n l).length = cdiv l.length n := by
  induction h : l.length using Nat.strong_induction_on generalizing l with
  | _ k ih =>
    by_cases hl : l = []
    · subst hl
      subst h
      rw [chunks_nil, cdiv, Nat.div_eq_of_lt (by simp; omega)]
      rfl
    · have hpos := List.length_pos_iff.mpr hl
      have hcut := List.length_drop (i := max n 1) (l := l)
      rw [chunks_of_ne_nil n hl, List.length_cons, ih _ (by omega) _ rfl, hcut, h, cdiv, cdiv, ← Nat.add_div_right _ hn]
      by_cases hle : k ≤ n
      · rw [Nat.div_eq_of_lt_le (k := 1) (by omega) (by omega), Nat.div_eq_of_lt_le (k := 1) (by omega) (by omega)]
      · congr 1
        omega

/-- The pieces make up the list. -/
theorem flatten_chunks (n : Nat) (l : List α) : (chunks n l).flatten = l := by
  induction h : l.length using Nat.strong_induction_on generalizing l with
  | _ k ih =>
    by_cases hl : l = []
    · rw [hl, chunks_nil, List.flatten_nil]
    · have hpos := List.length_pos_iff.mpr hl
      rw [chunks_of_ne_nil n hl, List.flatten_cons, ih _ (by rw [List.length_drop]; omega) _ rfl, List.take_append_drop]

end

/-! ### Rows as bytes -/

theorem length_leBytes (k n : Nat) : (leBytes k n).length = k := by
  induction k generalizing n with
  | zero => rfl
  | succ k ih => exact congrArg (· + 1) (ih _)

/-- Elements take four bits or whole bytes. -/
theorem Fmt.storeBits_cases (f : Fmt) : f.storeBits = 4 ∨ f.storeBits % 8 = 0 := by
  cases f <;> decide

/-- A row of codes takes the bytes of its elements (R67). -/
theorem length_packRow (f : Fmt) (codes : List Nat) (old : Nat) : (packRow f codes old).length = rowBytes f codes.length := by
  unfold packRow rowBytes
  rcases f.storeBits_cases with hf | hf
  · simp only [hf, if_true, List.length_map, length_chunks (by decide : 0 < 2)]
    split_ifs with hodd <;> simp only [cdiv, List.length_append, List.length_singleton] <;> omega
  · rw [if_neg (by omega), List.length_flatMap]
    obtain ⟨k, hk⟩ := Nat.dvd_of_mod_eq_zero hf
    simp only [length_leBytes, List.map_const', List.sum_replicate, smul_eq_mul, hk, Nat.mul_div_cancel_left _ (by decide : 0 < 8), cdiv]
    rw [show codes.length * (8 * k) = 8 * (codes.length * k) by ring]
    omega

theorem rowBytes_mono (f : Fmt) {n m : Nat} (h : n ≤ m) : rowBytes f n ≤ rowBytes f m := by
  have := Nat.mul_le_mul_right f.storeBits h
  unfold rowBytes cdiv
  omega

/-- The byte of two 4-bit elements. -/
def nibblePair (p : List Nat) : Byte := BitVec.ofNat 8 (p.headD 0 % 16 + p.getLastD 0 % 16 * 16)

theorem packRow_nibbles {f : Fmt} (hf : f.storeBits = 4) (codes : List Nat) (old : Nat) (hodd : codes.length % 2 = 1) :
    packRow f codes old = (chunks 2 (codes ++ [old / 16])).map nibblePair := by
  unfold packRow
  rw [if_pos hf]
  simp only [hodd, if_true]
  rfl

/-- Only of an odd row of 4-bit elements is the last byte not all the row's. -/
theorem packRow_whole {f : Fmt} {codes : List Nat} (h : ¬(f.storeBits = 4 ∧ codes.length % 2 = 1)) (old : Nat) :
    packRow f codes old = packRow f codes 0 := by
  unfold packRow
  split_ifs with hf hodd
  · exact absurd ⟨hf, hodd⟩ h
  · rfl
  · rfl

theorem getLsbD_nibblePair (c k : Nat) {i : Nat} (hi : i < 8) :
    (nibblePair [c, k]).getLsbD i = if i < 4 then c.testBit i else k.testBit (i - 4) := by
  have hsum : c % 16 + k % 16 * 16 = 2 ^ 4 * (k % 2 ^ 4) + c % 2 ^ 4 := by omega
  change (BitVec.ofNat 8 (c % 16 + k % 16 * 16)).getLsbD i = _
  rw [BitVec.getLsbD_ofNat, hsum, Nat.testBit_two_pow_mul_add _ (Nat.mod_lt _ (by decide)), Nat.testBit_mod_two_pow, Nat.testBit_mod_two_pow]
  split_ifs with h
  · simp [hi, h]
  · simp [hi, show i - 4 < 4 by omega]

/-- An element put beside the other nibble of a byte. -/
theorem nibblePair_keep (c : Nat) (old : Byte) :
    (nibblePair [c, 0] &&& 0x0F) ||| (old &&& 0xF0) = nibblePair [c, old.toNat / 16] := by
  have hlow : ∀ i < 8, (0x0F : Byte).getLsbD i = decide (i < 4) := by decide
  have hhigh : ∀ i < 8, (0xF0 : Byte).getLsbD i = decide (4 ≤ i) := by decide
  have hold (i : Nat) : (old.toNat / 16).testBit i = old.getLsbD (i + 4) := Nat.testBit_div_two_pow (n := 4) old.toNat i
  refine BitVec.eq_of_getLsbD_eq fun i hi => ?_
  rw [BitVec.getLsbD_or, BitVec.getLsbD_and, BitVec.getLsbD_and, getLsbD_nibblePair c 0 hi, getLsbD_nibblePair c _ hi, hlow i hi, hhigh i hi, hold]
  split_ifs with h
  · simp [h]
  · simp [h, show 4 ≤ i by omega, show i - 4 + 4 = i by omega]

theorem keepNibble_cons (x : Byte) {bs : List Byte} (h : bs ≠ []) (old : Byte) :
    State.keepNibble (x :: bs) old = x :: State.keepNibble bs old := by
  obtain ⟨b, bs, rfl⟩ := List.exists_cons_of_ne_nil h
  rfl

/-- An odd row of 4-bit elements beside the nibble that stands there (R67). -/
theorem keepNibble_packRow {f : Fmt} (hf : f.storeBits = 4) {codes : List Nat} (hodd : codes.length % 2 = 1) (old : Byte) :
    State.keepNibble (packRow f codes 0) old = packRow f codes old.toNat := by
  rw [packRow_nibbles hf codes 0 hodd, packRow_nibbles hf codes old.toNat hodd]
  induction codes using List.twoStepInduction with
  | nil => cases hodd
  | singleton c => exact congrArg ([·]) (nibblePair_keep c old)
  | cons_cons a b l ih =>
    have hl : l.length % 2 = 1 := by simp only [List.length_cons] at hodd; omega
    have hcut (z : Nat) : chunks 2 (a :: b :: l ++ [z]) = [a, b] :: chunks 2 (l ++ [z]) := chunks_of_ne_nil 2 (by simp)
    have hne : (chunks 2 (l ++ [0 / 16])).map nibblePair ≠ [] := by
      rw [chunks_of_ne_nil 2 (by simp)]
      simp
    rw [hcut, hcut, List.map_cons, List.map_cons, keepNibble_cons _ hne, ih hl]

namespace State

variable {s : State}

/-! ### Operands in a core's own memory -/

/-- The n bytes from address a on lie in core c's own memory. -/
def OwnSpan (s : State) (c a n : Nat) : Prop := ∀ b, a ≤ b → b < a + n → s.OwnAt b (dieOf c)

theorem OwnSpan.mono {c a n k : Nat} (h : s.OwnSpan c a k) (hn : n ≤ k) : s.OwnSpan c a n := fun b hb hlt => h b hb (by omega)

/-- The ranges of R134 lie where they say. -/
theorem ownSpan_of_ownPart {c lo hi a n : Nat} (hc : c < 512) (hp : s.presented c = true) (h : (ownPart c lo hi).isSome = true)
    (hlo : lo ≤ a) (hhi : a + n ≤ hi) : s.OwnSpan c a n := by
  intro b hb hlt
  unfold ownPart at h
  by_cases hs : sramOf c ≤ lo ∧ hi ≤ sramOf c + sramLen
  · have hz : ownEnd c b = some (sramOf c + sramLen) := by rw [ownEnd, if_pos (by omega)]
    exact ownAt_of_ownEnd hc hp hz le_rfl (by omega)
  · rw [if_neg hs] at h
    by_cases ht : turfOf c ≤ lo ∧ hi ≤ turfOf c + turfLen
    · have hnot : ¬(sramOf c ≤ b ∧ b < sramOf c + sramLen) := by
        simp only [sramOf, sramBase, sramLen, turfOf, turfBase, turfLen] at ht ⊢
        omega
      have hz : ownEnd c b = some (turfOf c + turfLen) := by rw [ownEnd, if_neg hnot, if_pos (by omega)]
      exact ownAt_of_ownEnd hc hp hz le_rfl (by omega)
    · rw [if_neg ht] at h
      cases h

/-- `spanFits` by the part of memory that holds its range, as one equation of functions: applied to operands, the kernel would compare the
two sides by deciding `ownPart`. -/
theorem spanFits_eq : spanFits = fun c d row rows planes so => (ownPart c d.base (extentEnd d row rows planes)).any fun sr => !so || sr := by
  delta spanFits
  funext c d row rows planes so
  cases ownPart c d.base (extentEnd d row rows planes) <;> rfl

theorem ownPart_of_spanFits {c : Nat} {d : Desc} {row rows planes : Nat} {so : Bool} (h : spanFits c d row rows planes so = true) :
    (ownPart c d.base (extentEnd d row rows planes)).isSome = true := by
  rw [spanFits_eq] at h
  exact Option.isSome_of_any h

section
variable {c : Nat} (hc : c < 512) (hp : s.presented c = true)
include hc hp

theorem ownSpan_row {d : Desc} {row rows planes : Nat} {so : Bool} (h : spanFits c d row rows planes so = true) {p r n : Nat}
    (hpl : p < planes) (hr : r < rows) (hn : n ≤ row) : s.OwnSpan c (rowDa d p r) n := by
  have hplane := Nat.mul_le_mul_right d.planePitch (show p ≤ planes - 1 by omega)
  have hrow := Nat.mul_le_mul_right d.rowPitch (show r ≤ rows - 1 by omega)
  have hlo : d.base ≤ rowDa d p r := by unfold rowDa; omega
  have hhi : rowDa d p r + n ≤ extentEnd d row rows planes := by unfold rowDa extentEnd; omega
  exact ownSpan_of_ownPart hc hp (ownPart_of_spanFits h) hlo hhi

theorem ownSpan_scale {d : Desc} {f : Fmt} {rows cols planes : Nat} {so : Bool} (h : descFits c d f .row rows cols planes so = true)
    (hf : f.scaled = true) {r n : Nat} (hr : r < rows) (hn : n ≤ cdiv cols 32) : s.OwnSpan c (d.scaleBase + r * d.scalePitch) n := by
  obtain ⟨hspan, hscale⟩ : spanFits c d (rowBytes f cols) rows planes so = true ∧
      ownPart c d.scaleBase (scaleEnd d .row rows cols) = ownPart c d.base (extentEnd d (rowBytes f cols) rows planes) := by
    simpa [descFits, hf] using h
  have hsome := hscale ▸ ownPart_of_spanFits hspan
  have hrow := Nat.mul_le_mul_right d.scalePitch (show r ≤ rows - 1 by omega)
  have hhi : d.scaleBase + r * d.scalePitch + n ≤ scaleEnd d .row rows cols := by unfold scaleEnd; dsimp only; omega
  exact ownSpan_of_ownPart hc hp hsome (by omega) hhi

end

end State

end Sys2Proof.Machine
end

section
/-!
PROOFS. The work of a core's vector engine on clean own memory: what each of its accesses gives and leaves, step by step, and that a fit word
that issues does its operation's work (R134, R136, R145). `Does` says of a piece of work what it gives and what it makes of memory;
its rules follow how work is put together.
-/

namespace Sys2Proof.Machine

theorem runAcc_bind_ok {α β : Type} {x : Acc α} {f : α → Acc β} {s t : State} {a : α} (h : runAcc x s = (.ok a, t)) :
    runAcc (x >>= f) s = runAcc (f a) t := by
  have hx : x s = (.ok a, t) := h
  simp only [runAcc, ExceptT.run, Bind.bind, ExceptT.bind, ExceptT.mk, StateT.bind, ExceptT.bindCont, hx]

theorem runAcc_set_bind {α : Type} (t : State) (x : PUnit → Acc α) (s : State) : runAcc (set t >>= x) s = runAcc (x ⟨⟩) t := rfl

namespace State

variable {s t u : State} {c : Nat}

/-- Only memory, and of core c the counts and the generator of its vector engine differ, and no word of memory is in error. -/
structure VecSide (c : Nat) (s t : State) : Prop where
  frame : t = { s with cx := t.cx, coreR := t.coreR, mem := t.mem, syn := t.syn }
  cx : t.cxOf c = { s.cxOf c with gen := (t.cxOf c).gen }
  others : ∀ d, d ≠ c → t.cxOf d = s.cxOf d
  regs : s.coreRegsKept t c fun off => off = R.vecFltCnt ∨ off = R.vecOvfCnt
  clean : t.Clean

namespace VecSide

theorem refl (h : s.Clean) : VecSide c s s := ⟨rfl, rfl, fun _ _ => rfl, fun _ _ _ => rfl, h⟩

theorem trans (h : VecSide c s t) (k : VecSide c t u) : VecSide c s u :=
  ⟨by rw [k.frame, h.frame], by rw [k.cx, h.cx], fun d hd => (k.others d hd).trans (h.others d hd),
    fun d off hd => (k.regs d off hd).trans (h.regs d off hd), k.clean⟩

theorem dieUp (h : VecSide c s t) (d : Nat) : t.dieUp d = s.dieUp d := by rw [h.frame]; rfl

theorem ownAt (h : VecSide c s t) {a d : Nat} (k : s.OwnAt a d) : t.OwnAt a d := by
  have hp (c : Nat) : t.presented c = s.presented c := by rw [h.frame]; rfl
  unfold OwnAt State.locate at k ⊢
  simpa only [hp] using k

theorem takeDraws (h : VecSide c s t) (p n : Nat) (q : QWord) : (t.takeDraws p c n q).1 = (s.takeDraws p c n q).1 := by
  have hseed : t.seedGen p c q = s.seedGen p c q := by rw [h.frame]; rfl
  unfold State.takeDraws
  rw [hseed]
  split <;> rfl

end VecSide

theorem vecSide_stored {a : Nat} {bs : List Byte} (h : Stored s t a bs) : VecSide c s t := by
  obtain ⟨hf, hc, -⟩ := h
  refine ⟨by rw [hf], ?_, fun d _ => ?_, fun d off _ => ?_, hc⟩ <;> rw [hf] <;> rfl

theorem vecSide_noteVec (h : s.Clean) (x : Tally) : VecSide c s (s.noteVec c x) := by
  refine ⟨rfl, rfl, fun _ _ => rfl, fun d off hd => ?_, h⟩
  unfold noteVec noteTally updCore
  rw [core_setCore, if_neg, core_setCore, if_neg]
  · rintro ⟨rfl, rfl⟩; simp at hd
  · rintro ⟨rfl, rfl⟩; simp at hd

theorem vecSide_takeDraws (h : s.Clean) (p n : Nat) (q : QWord) : VecSide c s (s.takeDraws p c n q).2 := by
  unfold takeDraws
  split
  · refine ⟨rfl, ?_, fun d hd => ?_, fun _ _ _ => rfl, h⟩
    · rw [cxOf_updCx, if_pos rfl]
    · rw [cxOf_updCx, if_neg hd]
  · exact .refl h

/-! ### Pieces of work -/

/-- Wherever core c's vector engine has come to from s, with memory m, the work x gives a and leaves the memory m'. -/
def Does {α : Type} (s : State) (c : Nat) (x : Acc α) (m : List Host.Cell) (a : α) (m' : List Host.Cell) : Prop :=
  ∀ t, VecSide c s t → t.mem = m → ∃ u, runAcc x t = (.ok a, u) ∧ VecSide c s u ∧ u.mem = m'

namespace Does

variable {α β : Type} {m m' m'' : List Host.Cell}

theorem pure (a : α) : s.Does c (pure a) m a m := fun t h hm => ⟨t, rfl, h, hm⟩

theorem bind {x : Acc α} {f : α → Acc β} {a : α} {b : β} (h : s.Does c x m a m') (k : s.Does c (f a) m' b m'') :
    s.Does c (x >>= f) m b m'' := fun t ht hm => by
  obtain ⟨u, hx, hu, hm'⟩ := h t ht hm
  obtain ⟨v, hf, hv, hm''⟩ := k u hu hm'
  exact ⟨v, (runAcc_bind_ok hx).trans hf, hv, hm''⟩

/-- Work on each element of a list that leaves memory as it is. -/
theorem mapM {f : α → Acc β} {g : α → β} {l : List α} (h : ∀ x ∈ l, s.Does c (f x) m (g x) m) : s.Does c (l.mapM f) m (l.map g) m := by
  induction l with
  | nil => exact pure []
  | cons x l ih =>
    rw [List.mapM_cons]
    exact (h x List.mem_cons_self).bind ((ih fun y hy => h y (List.mem_cons_of_mem x hy)).bind (pure _))

/-- Work on one element of a list after another. -/
theorem forM {f : α → Acc PUnit} {g : List Host.Cell → α → List Host.Cell} {l : List α} (h : ∀ x ∈ l, ∀ m, s.Does c (f x) m () (g m x)) :
    s.Does c (l.forM f) m () (l.foldl g m) := by
  induction l generalizing m with
  | nil => exact pure ()
  | cons x l ih =>
    exact (h x List.mem_cons_self m).bind (ih fun y hy => h y (List.mem_cons_of_mem x hy))

/-- Events counted. -/
theorem note (x : Tally) : s.Does c (modify (·.noteVec c x)) m () m :=
  fun t ht hm => ⟨t.noteVec c x, rfl, ht.trans (vecSide_noteVec ht.clean x), hm⟩

theorem tallied (x : CountM α) : s.Does c (tallied c x) m (valueOf x) m := (note _).bind (pure _)

/-- Draws taken, and work with them. -/
theorem draws {p n : Nat} {q : QWord} {f : List Nat → Acc β} {b : β} (h : s.Does c (f (s.takeDraws p c n q).1) m b m') :
    s.Does c (do
      let t ← get
      set (t.takeDraws p c n q).2
      f (t.takeDraws p c n q).1) m b m' := fun t ht hm => by
  have hmem : (t.takeDraws p c n q).2.mem = t.mem := by
    unfold takeDraws
    split <;> rfl
  obtain ⟨u, hf, hu⟩ := h _ (ht.trans (vecSide_takeDraws ht.clean p n q)) (hmem.trans hm)
  rw [← ht.takeDraws] at hf
  exact ⟨u, by rw [runAcc_get_bind, runAcc_set_bind, hf], hu⟩

section
variable (hup : s.dieUp (dieOf c) = true)
include hup

/-! ### Accesses -/

theorem rd {a n : Nat} (h : s.OwnSpan c a n) : s.Does c (rd (.vec c) a n) m (Memory.gets m a n) m := fun t ht hm => by
  have hread := readDa_own ht.clean (untagged_vec c) ((ht.dieUp _).trans hup) fun b hb hlt => ht.ownAt (h b hb hlt)
  rw [hm] at hread
  exact ⟨t, hread, ht, hm⟩

theorem wr {a : Nat} {bs : List Byte} (h : s.OwnSpan c a bs.length) : s.Does c (wr (.vec c) a bs) m () (Memory.sets m a bs) := fun t ht hm => by
  obtain ⟨u, hwrite, hu⟩ := writeDa_own (untagged_vec c) ht.clean ((ht.dieUp _).trans hup) fun b hb hlt => ht.ownAt (h b hb hlt)
  refine ⟨u, ?_, ht.trans (vecSide_stored hu), by rw [hu.mem_eq ht.clean, hm]⟩
  simp only [runAcc, ExceptT.run, Machine.wr, ExceptT.mk, hwrite]

theorem wrHalf {a : Nat} {bs : List Byte} (h : s.OwnSpan c a bs.length) (hne : bs ≠ []) :
    s.Does c (wrHalf (.vec c) a bs) m () (Memory.sets m a (keepNibble bs (Memory.get m (a + bs.length - 1)))) := fun t ht hm => by
  obtain ⟨u, hwrite, hu⟩ := writeHalf_own (untagged_vec c) ht.clean ((ht.dieUp _).trans hup) (fun b hb hlt => ht.ownAt (h b hb hlt)) hne
  refine ⟨u, ?_, ht.trans (vecSide_stored hu), by rw [hu.mem_eq ht.clean, hm]⟩
  simp only [runAcc, ExceptT.run, Machine.wrHalf, ExceptT.mk, hwrite]

/-- A row of codes laid at its place (R67). -/
theorem writeRow {d : Desc} {f : Fmt} {p r : Nat} {codes : List Nat} (h : s.OwnSpan c (rowDa d p r) (rowBytes f codes.length)) :
    s.Does c (writeRow (.vec c) d f p r codes) m () (setRow m d f p r codes) := by
  have hlen := length_packRow f codes 0
  rw [← hlen] at h
  unfold Machine.writeRow setRow
  by_cases hhalf : f.storeBits = 4 ∧ codes.length % 2 = 1
  · have hne : packRow f codes 0 ≠ [] := by
      have hpos : 0 < rowBytes f codes.length := by rw [rowBytes, cdiv, hhalf.1]; omega
      exact List.length_pos_iff.mp (by omega)
    have hwrite := wrHalf (m := m) hup h hne
    rw [keepNibble_packRow hhalf.1 hhalf.2, hlen] at hwrite
    simpa only [if_pos hhalf] using hwrite
  · rw [packRow_whole hhalf (Memory.get m _).toNat]
    simpa only [if_neg hhalf] using wr hup h

theorem readRow {d : Desc} {f : Fmt} {p r cols : Nat} (h : s.OwnSpan c (rowDa d p r) (rowBytes f cols)) :
    s.Does c (readRow (.vec c) d f p r cols) m ((List.range cols).map (elemAt f (Memory.gets m (rowDa d p r) (rowBytes f cols)))) m :=
  (rd hup h).bind (pure _)

end

end Does

end State

end Sys2Proof.Machine
end

section
/-!
PROOFS. The vector engine's operands and results: rows read and widened, rows converted and written, and the issue of a fit word
(R77, R80, R134, R145).
-/

namespace Sys2Proof.Machine

/-! ### Values of counted computations -/

/-- The value of a counted computation does not depend on the events counted before it. -/
def Steady {α : Type} (x : CountM α) : Prop := ∀ t, (x.run t).1 = valueOf x

namespace Steady

variable {α β : Type}

theorem pure (a : α) : Steady (pure a : CountM α) := fun _ => rfl

theorem bind {x : CountM α} {f : α → CountM β} (hx : Steady x) (hf : ∀ a, Steady (f a)) : Steady (x >>= f) := fun t => by
  have hrun (t : Tally) : ((x >>= f).run t).1 = valueOf (f (valueOf x)) := (hf _ _).trans (congrArg (fun a => valueOf (f a)) (hx t))
  exact (hrun t).trans (hrun {}).symm

theorem mapM {f : α → CountM β} (h : ∀ a, Steady (f a)) (l : List α) : Steady (l.mapM f) := by
  induction l with
  | nil => exact pure []
  | cons a l ih =>
    rw [List.mapM_cons]
    exact (h a).bind fun _ => ih.bind fun _ => pure _

end Steady

theorem valueOf_bind {α β : Type} {x : CountM α} {f : α → CountM β} (hf : ∀ a, Steady (f a)) : valueOf (x >>= f) = valueOf (f (valueOf x)) :=
  hf _ _

theorem valueOf_mapM {α β : Type} {f : α → CountM β} (h : ∀ a, Steady (f a)) (l : List α) : valueOf (l.mapM f) = l.map fun a => valueOf (f a) := by
  induction l with
  | nil => rfl
  | cons a l ih =>
    rw [List.mapM_cons, valueOf_bind fun _ => (Steady.mapM h l).bind fun _ => .pure _, valueOf_bind fun _ => .pure _, ih]
    rfl

theorem steady_exactOp (e : Num) (xs : List Num) : Steady (exactOp e xs) := fun _ => rfl
theorem steady_roundTo (f : Fmt) (e : Num) : Steady (roundTo f e) := fun _ => rfl

theorem steady_splitPieces (n : Nat) (a : Num) : Steady (splitPieces n a) := by
  induction n generalizing a with
  | zero => exact .pure _
  | succ n ih =>
    refine (steady_roundTo .bf16 a).bind fun p => ?_
    dsimp only
    split
    · exact .bind (.pure _) fun rest => (ih rest).bind fun _ => .pure _
    · exact .bind (steady_exactOp _ _) fun rest => (ih rest).bind fun _ => .pure _

/-! ### What a word says of its operands -/

theorem runAcc_bind_pure_ok {α β : Type} {x : Acc α} {g : α → β} {b : β} {s t : State}
    (h : runAcc (x >>= fun a => pure (g a)) s = (.ok b, t)) : ∃ a, b = g a := by
  rcases hx : runAcc x s with ⟨e | a, u⟩
  · rw [State.runAcc_bind_error hx] at h
    cases h
  · rw [runAcc_bind_ok hx] at h
    cases h
    exact ⟨a, rfl⟩

theorem vecLook_word {c : Nat} {w : BitVec 128} {o : VecOp} {s t : State} (h : runAcc (vecLook c w) s = (.ok o, t)) : o.w = w := by
  obtain ⟨ds, rfl⟩ := runAcc_bind_pure_ok h
  rfl

theorem VecOp.length_vals (o : VecOp) (s : State) (k r cols : Nat) : (o.vals s k r cols).length = cols := by
  simp [VecOp.vals, VecOp.row]

theorem VecOp.length_args (o : VecOp) (s : State) (wide : Fmt) (k r : Nat) : (o.args s wide k r).length = o.cols := by
  unfold VecOp.args
  split <;> simp [VecOp.length_vals]

/-- Operand k of an operation is a single column or one plane of whole rows (R146). -/
def UsesRows (opc imm k : Nat) : Prop := (k, Shape.column) ∈ vecUses opc imm ∨ (k, Shape.full 1) ∈ vecUses opc imm

/-- Operand k can be read where it lies, as a single column or as whole rows. -/
def VecOp.Reads (o : VecOp) (c k : Nat) : Prop :=
  if (vecUses (wOpc o.w) o.imm).contains (k, .column) then ∃ so, descFits c (o.d k) (o.f k) .row o.rows 1 1 so = true
  else ∃ cols so, o.cols ≤ cols ∧ descFits c (o.d k) (o.f k) .row o.rows cols 1 so = true

theorem cols_le_padCols (f : Fmt) (cols : Nat) : cols ≤ padCols f cols := by
  unfold padCols cdiv
  split <;> omega

section
variable {o : VecOp} {c opc : Nat} (hfit : (vecUses opc o.imm).all (o.fits c opc) = true)
include hfit

theorem VecOp.fits_full {k n : Nat} (h : (k, Shape.full n) ∈ vecUses opc o.imm) :
    descFits c (o.d k) (o.f k) .row o.rows (if vecWrites opc k then padCols (o.f k) o.cols else o.cols) n (vecWrites opc k) = true := by
  have := List.all_eq_true.mp hfit _ h
  simp only [VecOp.fits, Bool.and_eq_true] at this
  exact this.2

theorem VecOp.fits_column {k : Nat} (h : (k, Shape.column) ∈ vecUses opc o.imm) :
    descFits c (o.d k) (o.f k) .row o.rows 1 1 (vecWrites opc k) = true := by
  have := List.all_eq_true.mp hfit _ h
  simp only [VecOp.fits, Bool.and_eq_true] at this
  exact this.2

theorem VecOp.fits_rowExps {k : Nat} (h : (k, Shape.exps true) ∈ vecUses opc o.imm) :
    spanFits c (o.d k) 2 o.rows 1 (vecWrites opc k) = true := by
  have := List.all_eq_true.mp hfit _ h
  simp only [VecOp.fits, Bool.and_eq_true] at this
  exact this.2

theorem VecOp.fits_colExps {k : Nat} (h : (k, Shape.exps false) ∈ vecUses opc o.imm) :
    spanFits c (o.d k) (2 * o.cols) 1 1 (vecWrites opc k) = true := by
  have := List.all_eq_true.mp hfit _ h
  simp only [VecOp.fits, Bool.and_eq_true] at this
  exact this.2

/-- The operands that a word uses can be read. -/
theorem VecOp.reads_of_uses (hopc : wOpc o.w = opc) {k : Nat} (h : UsesRows opc o.imm k) : o.Reads c k := by
  unfold VecOp.Reads
  rw [hopc]
  split_ifs with hcol
  · exact ⟨_, VecOp.fits_column hfit (List.contains_iff_mem.mp hcol)⟩
  · rcases h with hcol' | hfull
    · exact absurd (List.contains_iff_mem.mpr hcol') hcol
    · refine ⟨_, _, ?_, VecOp.fits_full hfit hfull⟩
      split
      · exact cols_le_padCols ..
      · exact le_rfl

end

/-! ### The operations that take draws, after these are taken -/

/-- What `vecOut` does with its draws `rs`. -/
def rowsOut (c : Nat) (o : VecOp) (comp : Fmt) (ms : List (List Num)) (rs : List Nat) : Acc Unit :=
  (ms.zip (chunks (ms.headD []).length rs)).zipIdx.forM fun x => do
    let out := (x.1.1.zip x.1.2).map fun e => (o.f 3).round ((wRound o.w).into comp (o.f 3)) e.2 e.1
    modify (·.noteVec c (tallySum (out.map (tallyOf · false))))
    writeRow (.vec c) (o.d 3) (o.f 3) 0 x.2 (out.map (·.code))

theorem vecOut_eq (p c : Nat) (q : QWord) (o : VecOp) (comp : Fmt) (ms : List (List Num)) : vecOut p c q o comp ms = (do
    let s ← get
    set (s.takeDraws p c (ms.length * (ms.headD []).length) q).2
    rowsOut c o comp ms (s.takeDraws p c (ms.length * (ms.headD []).length) q).1) := rfl

/-- What `vecQuantOut` does with its draws `rs`. -/
def blocksOut (c : Nat) (o : VecOp) (ms : List (List Num)) (rs : List Nat) : Acc Unit :=
  (ms.zip (chunks o.cols rs)).zipIdx.forM fun x => do
    let bs := ((chunks 32 x.1.1).zip (chunks 32 x.1.2)).map fun b => quantBlock (o.f 0) (o.f 3) (wRound o.w) b.2 b.1
    modify (·.noteVec c (tallySum (bs.flatMap fun b => b.2.map (tallyOf · false))))
    let codes := bs.flatMap fun b => b.2.map (·.code)
    writeRow (.vec c) (o.d 3) (o.f 3) 0 x.2 (codes ++ List.replicate (padCols (o.f 3) o.cols - codes.length) 0)
    writeScales (.vec c) (o.d 3) x.2 (bs.map (·.1))

theorem vecQuantOut_eq (p c : Nat) (q : QWord) (o : VecOp) (ms : List (List Num)) : vecQuantOut p c q o ms = (do
    let s ← get
    set (s.takeDraws p c (o.rows * o.cols) q).2
    blocksOut c o ms (s.takeDraws p c (o.rows * o.cols) q).1) := rfl

namespace State

variable {s : State} {c p : Nat} {q : QWord} {o : VecOp}

namespace Does

variable {m : List Host.Cell}

section
variable (hc : c < 512) (hp : s.presented c = true) (hup : s.dieUp (dieOf c) = true)
include hc hp hup

/-! ### Rows read -/

/-- A row of values, block scales applied (R67, R70). -/
theorem readVals {k r rows cols fit planes : Nat} {so : Bool} (h : descFits c (o.d k) (o.f k) .row rows fit planes so = true)
    (hpl : 0 < planes) (hr : r < rows) (hcols : cols ≤ fit) :
    s.Does c (readVals (.vec c) (o.d k) (o.f k) 0 r cols) s.mem (o.vals s k r cols) s.mem := by
  have hspan : spanFits c (o.d k) (rowBytes (o.f k) fit) rows planes so = true := by
    rw [descFits, Bool.and_eq_true] at h
    exact h.1
  have hrow := readRow (m := s.mem) hup (ownSpan_row hc hp hspan hpl hr (rowBytes_mono (o.f k) hcols))
  unfold Machine.readVals VecOp.vals
  by_cases hs : (o.f k).scaled = true
  · have hcd : cdiv cols 32 ≤ cdiv fit 32 := by unfold cdiv; omega
    simp only [hs, if_true]
    refine hrow.bind ((rd hup (ownSpan_scale hc hp h hs hr hcd)).bind ?_)
    convert pure _ using 1
    refine List.ext_getElem (by simp [VecOp.row]) fun j _ hj => ?_
    have hcol : j < cols := by simpa [VecOp.row] using hj
    have hlt : j / 32 < cdiv cols 32 := by unfold cdiv; omega
    simp only [List.getElem_mapIdx, leAt]
    rw [Memory.take_drop_gets _ _ (by omega)]
    simp [Memory.gets, leNat, VecOp.row]
  · simp only [hs, Bool.false_eq_true, if_false]
    refine hrow.bind ?_
    convert pure _ using 1
    exact List.ext_getElem (by simp [VecOp.row]) fun j hj _ => by simp [VecOp.row]

theorem vecRow_none {k r rows cols fit planes : Nat} {so : Bool} (h : descFits c (o.d k) (o.f k) .row rows fit planes so = true)
    (hpl : 0 < planes) (hr : r < rows) (hcols : cols ≤ fit) :
    s.Does c (vecRow c o none r k cols) s.mem (o.vals s k r cols) s.mem :=
  (readVals hc hp hup h hpl hr hcols).bind (pure _)

theorem vecRow_some {k r rows cols fit planes : Nat} {so : Bool} (h : descFits c (o.d k) (o.f k) .row rows fit planes so = true)
    (hpl : 0 < planes) (hr : r < rows) (hcols : cols ≤ fit) (wide : Fmt) :
    s.Does c (vecRow c o (some wide) r k cols) s.mem ((o.vals s k r cols).map (wide.roundNum .nearest 0)) s.mem := by
  have hvalue : valueOf ((o.vals s k r cols).mapM (roundTo wide)) = (o.vals s k r cols).map (wide.roundNum .nearest 0) :=
    valueOf_mapM (steady_roundTo wide) _
  rw [← hvalue]
  exact (readVals hc hp hup h hpl hr hcols).bind (tallied _)

/-- Every row of operands, widened, a single column spread over its row (R145, R146). -/
theorem vecRows_some {ks : List Nat} (h : ∀ k ∈ ks, o.Reads c k) (wide : Fmt) :
    s.Does c (vecRows c o (some wide) ks) s.mem ((List.range o.rows).map fun r => ks.map fun k => o.args s wide k r) s.mem := by
  refine mapM fun r hr => mapM fun k hk => ?_
  have hr : r < o.rows := List.mem_range.mp hr
  have hreads := h k hk
  unfold VecOp.Reads at hreads
  unfold VecOp.args
  split_ifs at hreads ⊢ with hcol
  · obtain ⟨so, hfit⟩ := hreads
    obtain ⟨x, hx⟩ := List.length_eq_one_iff.mp (o.length_vals s k r 1)
    have hone := vecRow_some hc hp hup hfit Nat.one_pos hr le_rfl wide
    rw [hx, List.map_singleton] at hone
    rw [hx, List.map_replicate]
    exact hone.bind (pure _)
  · obtain ⟨fit, so, hfit, hdesc⟩ := hreads
    exact vecRow_some hc hp hup hdesc Nat.one_pos hr hfit wide

/-- Every row of operands none of which is a single column, as they are. -/
theorem vecRows_none {ks : List Nat} (h : ∀ k ∈ ks, o.Reads c k) (hcol : ∀ k ∈ ks, (k, Shape.column) ∉ vecUses (wOpc o.w) o.imm) :
    s.Does c (vecRows c o none ks) s.mem ((List.range o.rows).map fun r => ks.map fun k => o.vals s k r o.cols) s.mem := by
  refine mapM fun r hr => mapM fun k hk => ?_
  have hnot : (vecUses (wOpc o.w) o.imm).contains (k, .column) = false := by simpa using hcol k hk
  have hreads := h k hk
  rw [VecOp.Reads, hnot, if_neg Bool.false_ne_true] at hreads
  obtain ⟨fit, so, hfit, hdesc⟩ := hreads
  rw [hnot, if_neg Bool.false_ne_true]
  exact vecRow_none hc hp hup hdesc Nat.one_pos (List.mem_range.mp hr) hfit

end

section
variable (hup : s.dieUp (dieOf c) = true)
include hup

/-! ### Rows written -/

/-- Rows of results converted and written to DST (R77, R80). -/
theorem vecOut {n : Nat} {ms : List (List Num)} (hspan : ∀ r < ms.length, s.OwnSpan c (rowDa (o.d 3) 0 r) (rowBytes (o.f 3) n))
    (hlen : ∀ xs ∈ ms, xs.length ≤ n) (comp : Fmt) :
    s.Does c (vecOut p c q o comp ms) m () (o.store m (o.codes s p c q comp ms)) := by
  have hstore (l : List (List Num × List Nat)) : o.store m (l.map fun x => (x.1.zip x.2).map fun e =>
      ((o.f 3).round ((wRound o.w).into comp (o.f 3)) e.2 e.1).code) = l.zipIdx.foldl (fun m x => setRow m (o.d 3) (o.f 3) 0 x.2
        (((x.1.1.zip x.1.2).map fun e => (o.f 3).round ((wRound o.w).into comp (o.f 3)) e.2 e.1).map (·.code))) m := by
    simp only [VecOp.store, List.zipIdx_map, List.foldl_map, List.map_map, Function.comp_def, Prod.map]
    rfl
  rw [VecOp.codes, hstore]
  rw [vecOut_eq]
  refine draws (forM fun x hx m => (note _).bind (writeRow hup ?_))
  obtain ⟨-, hr, hrow⟩ := List.mem_zipIdx hx
  have hzip := List.length_zip (l₁ := ms) (l₂ := chunks (ms.headD []).length (s.takeDraws p c (ms.length * (ms.headD []).length) q).1)
  refine (hspan x.2 (by omega)).mono (rowBytes_mono _ ?_)
  have hmem : x.1.1 ∈ ms := by
    rw [hrow]
    simp
  have := hlen _ hmem
  simp
  omega

end

end Does

end State

end Sys2Proof.Machine
end

section
/-!
PROOFS. The elementwise vector operations and the conversions: what the work of each makes of memory (R84, R87, R89, R145, R146), and that
a fit word of it does so and leaves all but its core's vector engine as it was (R134, R136).
-/

namespace Sys2Proof.Machine

/-! ### Lists by their indices -/

theorem zipIdx_map_range {α : Type} (f : Nat → α) (n : Nat) : ((List.range n).map f).zipIdx = (List.range n).map fun i => (f i, i) :=
  List.ext_getElem (by simp) fun i _ _ => by simp

theorem mapIdx_map_range {α β : Type} (f : Nat → α) (g : Nat → α → β) (n : Nat) :
    ((List.range n).map f).mapIdx g = (List.range n).map fun i => g i (f i) :=
  List.ext_getElem (by simp) fun i _ _ => by simp

theorem sum_length_zip_le {α β : Type} (l : List (List α)) (k : List β) :
    ((l.zip k).map fun x => x.1.length).sum ≤ (l.map List.length).sum := by
  induction l generalizing k with
  | nil => simp
  | cons a l ih =>
    cases k with
    | nil => simp
    | cons b k =>
      have := ih k
      simp only [List.zip_cons_cons, List.map_cons, List.sum_cons]
      omega

/-- The blocks of a row hold no more codes than the row has elements. -/
theorem length_blockCodes_le (src dst : Fmt) (mode : Rnd) (xs : List Num) (ds : List Nat) :
    (((chunks 32 xs).zip (chunks 32 ds)).flatMap fun b => (quantBlock src dst mode b.2 b.1).2.map (·.code)).length ≤ xs.length := by
  have hblock (b : List Num × List Nat) : ((quantBlock src dst mode b.2 b.1).2.map (·.code)).length ≤ b.1.length := by
    simp only [quantBlock, List.length_map, List.length_zip]
    omega
  rw [List.length_flatMap]
  calc _ ≤ (((chunks 32 xs).zip (chunks 32 ds)).map fun x => x.1.length).sum := List.sum_le_sum fun b _ => hblock b
    _ ≤ ((chunks 32 xs).map List.length).sum := sum_length_zip_le ..
    _ = xs.length := by rw [← List.length_flatten, flatten_chunks]

namespace State

variable {s : State} {c p : Nat} {q : QWord} {o : VecOp}

namespace Does

variable {m : List Host.Cell}

/-- Work on each row of a list, given by the row's number. -/
theorem forM_rows {α : Type} {n : Nat} {f : Nat → α} {work : α × Nat → Acc PUnit} {g : List Host.Cell → Nat → List Host.Cell}
    (h : ∀ r < n, ∀ m, s.Does c (work (f r, r)) m () (g m r)) :
    s.Does c (((List.range n).map f).zipIdx.forM work) m () ((List.range n).foldl g m) := by
  have hfold : (List.range n).foldl g m = (((List.range n).map f).zipIdx).foldl (fun m x => g m x.2) m := by
    rw [zipIdx_map_range, List.foldl_map]
  rw [hfold]
  refine forM fun x hx m => ?_
  rw [zipIdx_map_range, List.mem_map] at hx
  obtain ⟨r, hr, rfl⟩ := hx
  exact h r (List.mem_range.mp hr) m

theorem writeScales {d : Desc} {r : Nat} {sc : List Nat} (hup : s.dieUp (dieOf c) = true)
    (h : s.OwnSpan c (d.scaleBase + r * d.scalePitch) sc.length) :
    s.Does c (Machine.writeScales (.vec c) d r sc) m () (Memory.sets m (d.scaleBase + r * d.scalePitch) (sc.map (BitVec.ofNat 8 ·))) :=
  wr hup (by rwa [List.length_map])

section
variable (hc : c < 512) (hp : s.presented c = true) (hup : s.dieUp (dieOf c) = true)
include hc hp hup

/-- Rows quantised into a block-scaled DST, with their scale bytes (R71-R73). -/
theorem vecQuantOut {planes : Nat} {so : Bool} (h : descFits c (o.d 3) (o.f 3) .row o.rows (padCols (o.f 3) o.cols) planes so = true)
    (hpl : 0 < planes) (hs : (o.f 3).scaled = true) {ms : List (List Num)} (hlen : ms.length = o.rows) (hrow : ∀ xs ∈ ms, xs.length = o.cols) :
    s.Does c (vecQuantOut p c q o ms) m () (o.storeBlocks m (o.blocks s p c q ms)) := by
  have hspan : spanFits c (o.d 3) (rowBytes (o.f 3) (padCols (o.f 3) o.cols)) o.rows planes so = true := by
    rw [descFits, Bool.and_eq_true] at h
    exact h.1
  have hblocks : cdiv o.cols 32 ≤ cdiv (padCols (o.f 3) o.cols) 32 := by
    have := cols_le_padCols (o.f 3) o.cols
    unfold cdiv
    omega
  rw [vecQuantOut_eq, VecOp.blocks, VecOp.storeBlocks, List.zipIdx_map, List.foldl_map]
  refine draws (forM fun x hx m => ?_)
  obtain ⟨-, hr, hmem⟩ := List.mem_zipIdx hx
  have hr : x.2 < o.rows := by
    rw [List.length_zip] at hr
    omega
  have hcols : x.1.1.length = o.cols := hrow _ (by rw [hmem]; simp)
  have hcodes := length_blockCodes_le (o.f 0) (o.f 3) (wRound o.w) x.1.1 x.1.2
  have hpad := cols_le_padCols (o.f 3) o.cols
  have hcount : ((chunks 32 x.1.1).zip (chunks 32 x.1.2)).length ≤ cdiv o.cols 32 := by
    rw [List.length_zip, length_chunks (by decide) x.1.1, hcols]
    omega
  refine (note _).bind ((writeRow hup (ownSpan_row hc hp hspan hpl hr (rowBytes_mono _ ?_))).bind ?_)
  · simp only [List.flatMap_map, List.length_append, List.length_replicate]
    omega
  · have hscales := fun m' => writeScales (m := m') (sc := (((chunks 32 x.1.1).zip (chunks 32 x.1.2)).map fun b =>
      quantBlock (o.f 0) (o.f 3) (wRound o.w) b.2 b.1).map (·.1)) hup (ownSpan_scale hc hp h hs hr (by simp only [List.length_map]; omega))
    simpa only [List.flatMap_map, List.map_map, Function.comp_def, Prod.map, id_eq] using hscales _

/-! ### Operations row by row -/

omit hup in
theorem span_full {opc : Nat} (hfit : (vecUses opc o.imm).all (o.fits c opc) = true) {k n : Nat} (hk : (k, Shape.full n) ∈ vecUses opc o.imm)
    {i r : Nat} (hi : i < n) (hr : r < o.rows) : s.OwnSpan c (rowDa (o.d k) i r) (rowBytes (o.f k) o.cols) := by
  have hdesc := VecOp.fits_full hfit hk
  rw [descFits, Bool.and_eq_true] at hdesc
  have hcols : o.cols ≤ if vecWrites opc k then padCols (o.f k) o.cols else o.cols := by
    split
    · exact cols_le_padCols ..
    · exact le_rfl
  exact ownSpan_row hc hp hdesc.1 hi hr (rowBytes_mono _ hcols)

section
variable {opc : Nat} (hopc : wOpc o.w = opc) (hfit : (vecUses opc o.imm).all (o.fits c opc) = true)
include hopc hfit

/-- A row function of operands each of which is a single column or whole rows, its results written as whole rows. -/
theorem vecMap {ks : List Nat} (hks : ∀ k ∈ ks, UsesRows opc o.imm k)
    (hdst : (3, Shape.full 1) ∈ vecUses opc o.imm) (wide : Fmt) {f : List (List Num) → CountM (List Num)}
    (hf : ∀ r < o.rows, (valueOf (f (ks.map fun k => o.args s wide k r))).length ≤ o.cols) :
    s.Does c (vecMap ks wide f p c q o) s.mem ()
      (o.store s.mem (o.codes s p c q wide ((List.range o.rows).map fun r => valueOf (f (ks.map fun k => o.args s wide k r))))) := by
  refine (vecRows_some hc hp hup (fun k hk => VecOp.reads_of_uses hfit hopc (hks k hk)) wide).bind
    ((mapM (g := fun r => valueOf (f r)) fun r _ => tallied _).bind ?_)
  rw [List.map_map]
  refine vecOut (n := o.cols) hup (fun r hr => span_full hc hp hfit hdst Nat.one_pos (by simpa using hr)) (fun xs hxs => ?_) wide
  obtain ⟨r, hr, rfl⟩ := List.mem_map.mp hxs
  exact hf r (List.mem_range.mp hr)

end

end

end Does

/-! ### A fit word issues -/

theorem cxOf_vecTake (d : Nat) : (s.unitTake c .vec q).cxOf d =
    if d = c then { s.cxOf c with vec := { (s.cxOf c).vec with queue := (s.cxOf c).vec.queue.drop 1, run := some q } } else s.cxOf d :=
  cxOf_updCx ..

theorem core_vecTake (d off : Nat) : (s.unitTake c .vec q).core d off =
    if d = c ∧ off = R.vecSts then setFld (s.core c R.vecSts) 1 0 unitActive else s.core d off :=
  core_setCore ..

/-! What a word's operands and draws are does not depend on the engine's having taken it. -/

theorem mem_vecTake : (s.unitTake c .vec q).mem = s.mem := rfl

theorem vals_vecTake (k r cols : Nat) : o.vals (s.unitTake c .vec q) k r cols = o.vals s k r cols := by
  unfold VecOp.vals VecOp.row
  rw [mem_vecTake]

theorem args_vecTake (wide : Fmt) (k r : Nat) : o.args (s.unitTake c .vec q) wide k r = o.args s wide k r := by
  unfold VecOp.args
  rw [vals_vecTake, vals_vecTake]

theorem drawsOf_vecTake (rows n : Nat) : VecOp.drawsOf (s.unitTake c .vec q) p c q rows n = VecOp.drawsOf s p c q rows n := by
  have hseed : (s.unitTake c .vec q).seedGen p c q = s.seedGen p c q := rfl
  unfold VecOp.drawsOf takeDraws
  rw [hseed]
  split <;> rfl

theorem codes_vecTake (comp : Fmt) (m : List (List Num)) : o.codes (s.unitTake c .vec q) p c q comp m = o.codes s p c q comp m := by
  unfold VecOp.codes
  rw [drawsOf_vecTake]

theorem blocks_vecTake (m : List (List Num)) : o.blocks (s.unitTake c .vec q) p c q m = o.blocks s p c q m := by
  unfold VecOp.blocks
  rw [drawsOf_vecTake]

/-- What the vector engine leaves beside the word that it has taken. -/
theorem VecSide.vecRan {t : State} (h : VecSide c (s.unitTake c .vec q) t) : s.vecRan t c q := by
  refine ⟨?_, ?_, fun d hd => ?_, fun d off hd => ?_, ?_⟩
  · rw [h.cx, cxOf_vecTake, if_pos rfl]
  · rw [vecState, h.regs c R.vecSts (.inr (by decide)), core_vecTake, if_pos ⟨rfl, rfl⟩, fld_setFld_same _ _ _ _ (by decide)]
    rfl
  · rw [h.others d hd, cxOf_vecTake, if_neg hd]
  · rw [h.regs d off (hd.imp_right fun hn hk => hn (.inr hk)), core_vecTake, if_neg fun k => hd.elim (· k.1) fun hn => hn (.inl k.2)]
  · rw [h.frame]
    rfl

/-- What the vector engine leaves lies within the reach of work in a core. -/
theorem VecSide.coreDone {t : State} (h : VecSide c (s.unitTake c .vec q) t) (htrip : s.thm.trip = false) : s.coreDone t = .next t := by
  have hframe := h.frame
  unfold State.coreDone
  rw [htrip, if_neg Bool.false_ne_true]
  exact congrArg _ (by rw [hframe]; rfl)

/-- What a word that can issue says of its core and of its operands. -/
theorem vecReady.fit {off opc : Nat} (h : s.vecReady p c off q opc o) : s.presented c = true ∧ s.dieUp (dieOf c) = true ∧ wOpc o.w = opc ∧
    o.accepts opc = true ∧ (vecUses opc o.imm).all (o.fits c opc) = true := by
  obtain ⟨⟨-, -, -, -, hopc, -, -⟩, ⟨hp, hup, -⟩, hlook, hacc, hfit⟩ := h
  exact ⟨hp, hup, (vecLook_word hlook).symm ▸ hopc, hacc, hfit⟩

/-- A fit word at the head of the vector engine's queue does the work of its operation. -/
theorem exec_vecIssue {off opc : Nat} (h : s.vecReady p c off q opc o) {work : Nat → Nat → QWord → VecOp → Acc Unit} {m : List Host.Cell}
    (hw : (s.unitTake c .vec q).Does c (work p c q o) s.mem () m) :
    ∃ t, s.coreDone (s.vecIssue c off opc work) = .next t ∧ s.vecRan t c q ∧ t.mem = m := by
  obtain ⟨⟨htrip, hrun, hhead, hcls, hopc, hdue, hfree⟩, ⟨-, -, hclean⟩, hlook, hacc, hfit⟩ := h
  obtain ⟨t, hwork, hside, hmem⟩ := hw _ (.refl hclean) rfl
  have hok : (wClass q.word == 2 && wOpc q.word == opc && s.due p c off q && s.unitFree c q .vec) = true := by
    simp [hcls, hopc, hdue, hfree]
  have hissue : s.vecIssue c off opc work = t := by
    unfold vecIssue unitIssue
    rw [hrun, hhead]
    dsimp only
    rw [if_pos hok, if_pos (.inl (by decide)), runAcc_bind_ok hlook, if_pos (by rw [hacc, hfit]; rfl), hwork]
  rw [hissue]
  exact ⟨t, hside.coreDone htrip, hside.vecRan, hmem⟩

end State

end Sys2Proof.Machine
end

section
/-!
PROOFS. The elementwise vector operations: exact results of widened rows, rounded by the word's mode (R62, R77, R145, R146).
-/

namespace Sys2Proof.Machine

theorem valueOf_zip2 (f : Num → Num → Num) (l : List (List Num)) : valueOf (zip2 f l) = List.zipWith f (l.getD 0 []) (l.getD 1 []) := by
  rw [zip2, valueOf_mapM fun _ => steady_exactOp _ _]
  exact List.map_zip_eq_zipWith (f := fun x => f x.1 x.2) ..

theorem valueOf_zip3 (f : Num → Num → Num → Num) (l : List (List Num)) :
    valueOf (zip3 f l) = List.zipWith (fun a b => f a b.1 b.2) (l.getD 0 []) ((l.getD 1 []).zip (l.getD 2 [])) := by
  rw [zip3, valueOf_mapM fun _ => steady_exactOp _ _]
  exact List.map_zip_eq_zipWith (f := fun x : Num × Num × Num => f x.1 x.2.1 x.2.2) ..

namespace State

variable {s : State} {c off p : Nat} {q : QWord} {o : VecOp}

/-- The sums of two operands as they are, written as whole rows. -/
theorem Does.vecIadd48 {opc : Nat} (hc : c < 512) (hp : s.presented c = true) (hup : s.dieUp (dieOf c) = true) (hopc : wOpc o.w = opc)
    (hfit : (vecUses opc o.imm).all (o.fits c opc) = true) (hks : ∀ k ∈ [0, 1], (k, Shape.full 1) ∈ vecUses opc o.imm)
    (hcol : ∀ k ∈ [0, 1], (k, Shape.column) ∉ vecUses opc o.imm) (hdst : (3, Shape.full 1) ∈ vecUses opc o.imm) :
    s.Does c (vecIadd48Work p c q o) s.mem () (o.store s.mem (o.codes s p c q .int48 ((List.range o.rows).map fun r =>
      List.zipWith Num.add (o.vals s 0 r o.cols) (o.vals s 1 r o.cols)))) := by
  have hrows : (List.range o.rows).map (fun r => List.zipWith Num.add (o.vals s 0 r o.cols) (o.vals s 1 r o.cols)) =
      ((List.range o.rows).map fun r => [0, 1].map fun k => o.vals s k r o.cols).map
        fun r => ((r.getD 0 []).zip (r.getD 1 [])).map fun x => x.1.add x.2 := by
    rw [List.map_map]
    exact List.map_congr_left fun r _ => (List.map_zip_eq_zipWith (f := fun x : Num × Num => x.1.add x.2) ..).symm
  rw [hrows]
  refine (vecRows_none hc hp hup (fun k hk => VecOp.reads_of_uses hfit hopc (.inr (hks k hk))) (by rwa [hopc])).bind
    (vecOut (n := o.cols) hup (fun r hr => span_full hc hp hfit hdst Nat.one_pos (by simpa using hr)) (fun xs hxs => ?_) .int48)
  rw [← hrows] at hxs
  obtain ⟨r, -, rfl⟩ := List.mem_map.mp hxs
  simp [VecOp.length_vals]

section
variable {opc : Nat} (hc : c < 512) (h : s.vecReady p c off q opc o)
include hc h

/-- A fit word of an operation that works row by row. -/
theorem exec_vecMap {ks : List Nat} (hks : ∀ k ∈ ks, UsesRows opc o.imm k)
    (hdst : (3, Shape.full 1) ∈ vecUses opc o.imm) (wide : Fmt) {f : List (List Num) → CountM (List Num)}
    (hf : ∀ r < o.rows, (valueOf (f (ks.map fun k => o.args s wide k r))).length ≤ o.cols) :
    ∃ t, s.coreDone (s.vecIssue c off opc (vecMap ks wide f)) = .next t ∧ s.vecRan t c q ∧
      t.mem = o.store s.mem (o.codes s p c q wide ((List.range o.rows).map fun r => valueOf (f (ks.map fun k => o.args s wide k r)))) := by
  obtain ⟨hp, hup, hopc, -, hfit⟩ := h.fit
  have hwork := Does.vecMap (s := s.unitTake c .vec q) (p := p) (q := q) hc hp hup hopc hfit hks hdst wide hf
  simp only [codes_vecTake, args_vecTake] at hwork
  exact exec_vecIssue h hwork

/-- A fit word of an exact operation on two operands, element by element. -/
theorem exec_vecZip2 (hks : ∀ k ∈ [0, 1], UsesRows opc o.imm k) (hdst : (3, Shape.full 1) ∈ vecUses opc o.imm) (wide : Fmt) (f : Num → Num → Num) :
    ∃ t, s.coreDone (s.vecIssue c off opc (vecMap [0, 1] wide (zip2 f))) = .next t ∧ s.vecRan t c q ∧
      t.mem = o.store s.mem (o.codes s p c q wide ((List.range o.rows).map fun r => List.zipWith f (o.args s wide 0 r) (o.args s wide 1 r))) := by
  have hvalue (r : Nat) : valueOf (zip2 f ([0, 1].map fun k => o.args s wide k r)) = List.zipWith f (o.args s wide 0 r) (o.args s wide 1 r) :=
    valueOf_zip2 ..
  simp only [← hvalue]
  exact exec_vecMap hc h hks hdst wide fun r _ => by rw [hvalue]; simp [VecOp.length_args]

/-- A fit word of an exact operation on three operands, element by element. -/
theorem exec_vecZip3 (hks : ∀ k ∈ [0, 1, 2], UsesRows opc o.imm k) (hdst : (3, Shape.full 1) ∈ vecUses opc o.imm) (wide : Fmt)
    (f : Num → Num → Num → Num) :
    ∃ t, s.coreDone (s.vecIssue c off opc (vecMap [0, 1, 2] wide (zip3 f))) = .next t ∧ s.vecRan t c q ∧
      t.mem = o.store s.mem (o.codes s p c q wide ((List.range o.rows).map fun r =>
        List.zipWith (fun a b => f a b.1 b.2) (o.args s wide 0 r) ((o.args s wide 1 r).zip (o.args s wide 2 r)))) := by
  have hvalue (r : Nat) : valueOf (zip3 f ([0, 1, 2].map fun k => o.args s wide k r)) =
      List.zipWith (fun a b => f a b.1 b.2) (o.args s wide 0 r) ((o.args s wide 1 r).zip (o.args s wide 2 r)) := valueOf_zip3 ..
  simp only [← hvalue]
  exact exec_vecMap hc h hks hdst wide fun r _ => by rw [hvalue]; simp [VecOp.length_args]

/-- A fit word of IADD48, which adds its operands as they are. -/
theorem exec_vecIadd48 (hks : ∀ k ∈ [0, 1], (k, Shape.full 1) ∈ vecUses opc o.imm) (hcol : ∀ k ∈ [0, 1], (k, Shape.column) ∉ vecUses opc o.imm)
    (hdst : (3, Shape.full 1) ∈ vecUses opc o.imm) :
    ∃ t, s.coreDone (s.vecIssue c off opc vecIadd48Work) = .next t ∧ s.vecRan t c q ∧
      t.mem = o.store s.mem (o.codes s p c q .int48 ((List.range o.rows).map fun r =>
        List.zipWith Num.add (o.vals s 0 r o.cols) (o.vals s 1 r o.cols))) := by
  obtain ⟨hp, hup, hopc, -, hfit⟩ := h.fit
  have hwork := Does.vecIadd48 (s := s.unitTake c .vec q) (p := p) (q := q) hc hp hup hopc hfit hks hcol hdst
  simp only [codes_vecTake, vals_vecTake] at hwork
  exact exec_vecIssue h hwork

end

end State

/-- Settles O19: each operation is a row function of the widened rows, whose exact results `vecOut` rounds and lays at DST. -/
theorem vecElementwise : Obligations.VecElementwise := by
  intro s core off p q o
  refine ⟨?_, ?_, fun h => State.exec_vecIadd48 core.isLt h (by simp [vecUses]) (by simp [vecUses]) (by simp [vecUses])⟩
  · simp only [List.forall_mem_cons]
    refine ⟨fun h => ?_, fun h => ?_, fun h => ?_, fun h => ?_, fun h => ?_, fun h => ?_, fun _ hx => nomatch hx⟩
    all_goals exact State.exec_vecZip2 core.isLt h (by unfold UsesRows; cases hb : o.imm.testBit 0 <;> simp [vecUses, hb]) (by simp [vecUses]) _ _
  · simp only [List.forall_mem_cons]
    refine ⟨fun h => ?_, fun h => ?_, fun _ hx => nomatch hx⟩
    · exact State.exec_vecZip3 core.isLt h (by unfold UsesRows; cases hb : o.imm.testBit 0 <;> simp [vecUses, hb]) (by simp [vecUses]) _
        fun x y z => (x.mul y).add z
    · exact State.exec_vecZip3 core.isLt h (by unfold UsesRows; simp [vecUses]) (by simp [vecUses]) _ fun x y z => (x.mul y).add z

end Sys2Proof.Machine
end

section
/-!
PROOFS. Conversions: rows converted or quantised, pieces in planes, and the digits of D7SLICE and D7FINISH (R84, R87, R89, R91, R146).
-/

namespace Sys2Proof.Machine

/-! ### What the digit operations give -/

/-- The exponents and digits of the rows of S1, or of its columns. -/
def VecOp.slices (o : VecOp) (s : State) : List (Int × List (List Int)) :=
  let m := (List.range o.rows).map fun r => o.vals s 0 r o.cols
  (if o.imm.testBit 0 then transposed o.cols m else m).map d7Slice

/-- The codes of digit i of each element of row r. -/
def VecOp.digitRow (o : VecOp) (slices : List (Int × List (List Int))) (i r : Nat) : List Nat :=
  (List.range o.cols).map fun col =>
    let x := if o.imm.testBit 0 then (col, r) else (r, col)
    unsigned 8 ((((slices.getD x.1 (0, [])).2.getD x.2 []).getD i 0))

/-- Where the exponent of slice j lies in S3. -/
def VecOp.sliceDa (o : VecOp) (j : Nat) : Nat := if o.imm.testBit 0 then (o.d 2).base + 2 * j else rowDa (o.d 2) 0 j

/-- The elements of row r that seven planes of digits and two exponents fold into. -/
def VecOp.folded (o : VecOp) (s : State) (r : Nat) : List Rounded :=
  (List.range o.cols).map fun col =>
    d7Finish ((List.range 7).map fun i => signed 48 ((o.row s 0 i r o.cols).getD col 0))
      (signed 16 (leNat (Memory.gets s.mem (rowDa (o.d 1) 0 r) 2)))
      (signed 16 (leNat (Memory.gets s.mem ((o.d 2).base + 2 * col) 2)))

theorem VecOp.length_slices (o : VecOp) (s : State) : (o.slices s).length = if o.imm.testBit 0 then o.cols else o.rows := by
  unfold VecOp.slices transposed
  split <;> simp

theorem VecOp.length_folded (o : VecOp) (s : State) (r : Nat) : (o.folded s r).length = o.cols := by simp [VecOp.folded]

namespace State

variable {s : State} {c off p : Nat} {q : QWord} {o : VecOp}

namespace Does

section
variable (hc : c < 512) (hp : s.presented c = true) (hup : s.dieUp (dieOf c) = true)
include hc hp hup

omit hc hp in
theorem readExp {m : List Host.Cell} {a : Nat} (h : s.OwnSpan c a 2) :
    s.Does c (Machine.readExp c a) m (signed 16 (leNat (Memory.gets m a 2))) m := (rd hup h).bind (pure _)

section
variable {opc : Nat} (hfit : (vecUses opc o.imm).all (o.fits c opc) = true)
include hfit

omit hup in
theorem span_rowExp {k r : Nat} (hk : (k, Shape.exps true) ∈ vecUses opc o.imm) (hr : r < o.rows) : s.OwnSpan c (rowDa (o.d k) 0 r) 2 :=
  ownSpan_row hc hp (VecOp.fits_rowExps hfit hk) Nat.one_pos hr le_rfl

omit hup in
theorem span_colExp {k j : Nat} (hk : (k, Shape.exps false) ∈ vecUses opc o.imm) (hj : j < o.cols) : s.OwnSpan c ((o.d k).base + 2 * j) 2 := by
  have hspan : s.OwnSpan c (rowDa (o.d k) 0 0) (2 * o.cols) := ownSpan_row hc hp (VecOp.fits_colExps hfit hk) Nat.one_pos Nat.one_pos le_rfl
  unfold rowDa at hspan
  exact fun b hb hlt => hspan b (by omega) (by omega)

omit hup in
theorem span_slice {j : Nat} (hk : (2, Shape.exps (!o.imm.testBit 0)) ∈ vecUses opc o.imm) (hj : j < (o.slices s).length) :
    s.OwnSpan c (o.sliceDa j) 2 := by
  rw [VecOp.length_slices] at hj
  unfold VecOp.sliceDa
  split_ifs at hj ⊢ with hcol
  · exact span_colExp hc hp hfit (by simpa [hcol] using hk) hj
  · exact span_rowExp hc hp hfit (by simpa [hcol] using hk) hj

/-- Rows of values converted into DST, or quantised into it where it is block-scaled. -/
theorem vecConvert {wide : Option Fmt} {g : Nat → List Num} (hdst : (3, Shape.full 1) ∈ vecUses opc o.imm)
    (hread : s.Does c (vecRows c o wide [0]) s.mem ((List.range o.rows).map fun r => [g r]) s.mem) (hlen : ∀ r, (g r).length = o.cols) :
    s.Does c (vecConvert wide p c q o) s.mem () (if (o.f 3).scaled then o.storeBlocks s.mem (o.blocks s p c q ((List.range o.rows).map g))
      else o.store s.mem (o.codes s p c q (o.f 0) ((List.range o.rows).map g))) := by
  have hrow : ∀ xs ∈ (List.range o.rows).map g, xs.length = o.cols := by
    simpa using fun r _ => hlen r
  refine hread.bind ?_
  dsimp only
  rw [List.map_map]
  split_ifs with hs
  · have hdesc := VecOp.fits_full hfit hdst
    rw [show vecWrites opc 3 = true by simp [vecWrites], if_pos rfl] at hdesc
    exact vecQuantOut hc hp hup hdesc Nat.one_pos hs (by simp) hrow
  · exact vecOut (n := o.cols) hup (fun r hr => span_full hc hp hfit hdst Nat.one_pos (by simpa using hr)) (fun xs hxs => (hrow xs hxs).le) _

section
variable (hopc : wOpc o.w = opc) (hsrc : (0, Shape.full 1) ∈ vecUses opc o.imm)
include hopc hsrc

/-- The pieces of each element, a plane for each. -/
theorem vecSplit {n : Nat} (hdst : (3, Shape.full n) ∈ vecUses opc o.imm) (hf : o.f 3 = .bf16) :
    s.Does c (vecSplit n p c q o) s.mem () ((List.range o.rows).foldl (fun m r => (List.range n).foldl (fun m i =>
      setRow m (o.d 3) .bf16 i r ((o.args s .fp32 0 r).map fun a =>
        (Fmt.round .bf16 .nearest 0 ((valueOf (splitPieces n a)).getD i Num.zero)).code)) m) s.mem) := by
  refine (vecRows_some hc hp hup (ks := [0]) (by simpa using VecOp.reads_of_uses hfit hopc (.inr hsrc)) .fp32).bind (forM_rows fun r hr m => ?_)
  refine (tallied _).bind ?_
  rw [valueOf_mapM fun a => steady_splitPieces n a]
  refine forM fun i hi m => ?_
  rw [List.map_map]
  refine writeRow hup ?_
  have hspan := span_full (s := s) hc hp hfit hdst (List.mem_range.mp hi) hr
  rw [hf] at hspan
  simpa [VecOp.length_args] using hspan

/-- The planes of digits, and an exponent for each row or column. -/
theorem vecD7slice (hcol : (0, Shape.column) ∉ vecUses opc o.imm) (hexps : (2, Shape.exps (!o.imm.testBit 0)) ∈ vecUses opc o.imm)
    (hdst : (3, Shape.full 7) ∈ vecUses opc o.imm) (hf : o.f 3 = .int8) :
    s.Does c (vecD7sliceWork p c q o) s.mem () ((o.slices s).zipIdx.foldl
      (fun m x => Memory.sets m (o.sliceDa x.2) (leBytes 2 (unsigned 16 x.1.1)))
      ((List.range 7).foldl (fun m i => (List.range o.rows).foldl (fun m r => setRow m (o.d 3) .int8 i r (o.digitRow (o.slices s) i r)) m) s.mem)) := by
  have hslices : (if o.imm.testBit 0 then transposed o.cols (((List.range o.rows).map fun r => [0].map fun k => o.vals s k r o.cols).map (·.headD []))
      else ((List.range o.rows).map fun r => [0].map fun k => o.vals s k r o.cols).map (·.headD [])).map d7Slice = o.slices s := by
    rw [List.map_map]
    rfl
  refine (vecRows_none hc hp hup (ks := [0]) (by simpa using VecOp.reads_of_uses hfit hopc (.inr hsrc)) (by simpa [hopc] using hcol)).bind ?_
  dsimp only
  rw [hslices]
  refine (forM fun i hi m => forM fun r hr m => ?_).bind (forM fun x hx m => ?_)
  · have hdigits (j : Nat) : ((o.slices s).map (·.2)).getD j [] = ((o.slices s).getD j (0, [])).2 :=
      List.getD_map _ (0, []) Prod.snd
    simp only [hdigits]
    refine writeRow hup ?_
    have hspan := span_full (s := s) hc hp hfit hdst (List.mem_range.mp hi) (List.mem_range.mp hr)
    rw [hf] at hspan
    simpa using hspan
  · refine wr hup ?_
    rw [length_leBytes]
    exact span_slice hc hp hfit hexps (by simpa using (List.mem_zipIdx hx).2.1)

end

/-- Seven planes of digits folded into elements of FP64. -/
theorem vecD7finish (hsrc : (0, Shape.full 7) ∈ vecUses opc o.imm) (hrows : (1, Shape.exps true) ∈ vecUses opc o.imm)
    (hcols : (2, Shape.exps false) ∈ vecUses opc o.imm) (hdst : (3, Shape.full 1) ∈ vecUses opc o.imm) (hf0 : o.f 0 = .int48) (hf3 : o.f 3 = .fp64) :
    s.Does c (vecD7finishWork p c q o) s.mem ()
      ((List.range o.rows).foldl (fun m r => setRow m (o.d 3) .fp64 0 r ((o.folded s r).map (·.code))) s.mem) := by
  refine (mapM fun n hn => readExp hup (span_colExp hc hp hfit hcols (List.mem_range.mp hn))).bind ((mapM (g := o.folded s) fun r hr =>
    (readExp hup (span_rowExp hc hp hfit hrows (List.mem_range.mp hr))).bind ((mapM (g := fun i => o.row s 0 i r o.cols) fun i hi => ?_).bind ?_)).bind
      (forM_rows fun r hr m => (note _).bind (writeRow hup ?_)))
  · have hspan := span_full (s := s) hc hp hfit hsrc (List.mem_range.mp hi) (List.mem_range.mp hr)
    rw [hf0] at hspan
    unfold VecOp.row
    rw [hf0]
    exact readRow hup hspan
  · rw [mapIdx_map_range]
    simp only [List.map_map]
    exact pure _
  · have hspan := span_full (s := s) hc hp hfit hdst Nat.one_pos hr
    rw [hf3] at hspan
    simpa [VecOp.length_folded] using hspan

end

end

end Does

end State

end Sys2Proof.Machine
end

section
/-!
PROOFS. That a fit word of each conversion does what its operation's work makes of memory.
-/

namespace Sys2Proof.Machine

namespace State

variable {s : State} {c off p : Nat} {q : QWord} {o : VecOp}

theorem slices_vecTake : o.slices (s.unitTake c .vec q) = o.slices s := by
  unfold VecOp.slices
  simp only [vals_vecTake]

theorem folded_vecTake (r : Nat) : o.folded (s.unitTake c .vec q) r = o.folded s r := by
  unfold VecOp.folded VecOp.row
  rw [mem_vecTake]

section
variable {opc : Nat} (hc : c < 512) (h : s.vecReady p c off q opc o)
include hc h

/-- A fit word that converts its source values as they are. -/
theorem exec_vecCvt (hsrc : (0, Shape.full 1) ∈ vecUses opc o.imm) (hcol : (0, Shape.column) ∉ vecUses opc o.imm)
    (hdst : (3, Shape.full 1) ∈ vecUses opc o.imm) :
    ∃ t, s.coreDone (s.vecIssue c off opc (vecConvert none)) = .next t ∧ s.vecRan t c q ∧
      t.mem = if (o.f 3).scaled then o.storeBlocks s.mem (o.blocks s p c q ((List.range o.rows).map fun r => o.vals s 0 r o.cols))
        else o.store s.mem (o.codes s p c q (o.f 0) ((List.range o.rows).map fun r => o.vals s 0 r o.cols)) := by
  obtain ⟨hp, hup, hopc, -, hfit⟩ := h.fit
  have hread := Does.vecRows_none (s := s.unitTake c .vec q) hc hp hup (ks := [0])
    (by simpa using VecOp.reads_of_uses hfit hopc (.inr hsrc)) (by simpa [hopc] using hcol)
  have hwork := Does.vecConvert (s := s.unitTake c .vec q) (p := p) (q := q) hc hp hup hfit hdst hread fun r => o.length_vals ..
  simp only [blocks_vecTake, codes_vecTake, vals_vecTake] at hwork
  exact exec_vecIssue h hwork

/-- A fit word that quantises its widened source values. -/
theorem exec_vecQuant (hsrc : (0, Shape.full 1) ∈ vecUses opc o.imm) (hdst : (3, Shape.full 1) ∈ vecUses opc o.imm) (hscaled : (o.f 3).scaled = true) :
    ∃ t, s.coreDone (s.vecIssue c off opc (vecConvert (some .fp32))) = .next t ∧ s.vecRan t c q ∧
      t.mem = o.storeBlocks s.mem (o.blocks s p c q ((List.range o.rows).map fun r => o.args s .fp32 0 r)) := by
  obtain ⟨hp, hup, hopc, -, hfit⟩ := h.fit
  have hread := Does.vecRows_some (s := s.unitTake c .vec q) hc hp hup (ks := [0]) (by simpa using VecOp.reads_of_uses hfit hopc (.inr hsrc)) .fp32
  have hwork := Does.vecConvert (s := s.unitTake c .vec q) (p := p) (q := q) hc hp hup hfit hdst hread fun r => o.length_args ..
  rw [if_pos hscaled] at hwork
  simp only [blocks_vecTake, args_vecTake] at hwork
  exact exec_vecIssue h hwork

/-- A fit word that writes each element's pieces into n planes of BF16. -/
theorem exec_vecSplit {n : Nat} (hsrc : (0, Shape.full 1) ∈ vecUses opc o.imm) (hdst : (3, Shape.full n) ∈ vecUses opc o.imm) (hf : o.f 3 = .bf16) :
    ∃ t, s.coreDone (s.vecIssue c off opc (vecSplit n)) = .next t ∧ s.vecRan t c q ∧
      t.mem = (List.range o.rows).foldl (fun m r => (List.range n).foldl (fun m i =>
        setRow m (o.d 3) .bf16 i r ((o.args s .fp32 0 r).map fun a =>
          (Fmt.round .bf16 .nearest 0 ((valueOf (splitPieces n a)).getD i Num.zero)).code)) m) s.mem := by
  obtain ⟨hp, hup, hopc, -, hfit⟩ := h.fit
  have hwork := Does.vecSplit (s := s.unitTake c .vec q) (p := p) (q := q) hc hp hup hfit hopc hsrc hdst hf
  simp only [args_vecTake] at hwork
  exact exec_vecIssue h hwork

/-- A fit word of D7SLICE. -/
theorem exec_vecD7slice (hsrc : (0, Shape.full 1) ∈ vecUses opc o.imm) (hcol : (0, Shape.column) ∉ vecUses opc o.imm)
    (hexps : (2, Shape.exps (!o.imm.testBit 0)) ∈ vecUses opc o.imm) (hdst : (3, Shape.full 7) ∈ vecUses opc o.imm) (hf : o.f 3 = .int8) :
    ∃ t, s.coreDone (s.vecIssue c off opc vecD7sliceWork) = .next t ∧ s.vecRan t c q ∧
      t.mem = (o.slices s).zipIdx.foldl (fun m x => Memory.sets m (o.sliceDa x.2) (leBytes 2 (unsigned 16 x.1.1)))
        ((List.range 7).foldl (fun m i => (List.range o.rows).foldl (fun m r => setRow m (o.d 3) .int8 i r (o.digitRow (o.slices s) i r)) m) s.mem) := by
  obtain ⟨hp, hup, hopc, -, hfit⟩ := h.fit
  have hwork := Does.vecD7slice (s := s.unitTake c .vec q) (p := p) (q := q) hc hp hup hfit hopc hsrc hcol hexps hdst hf
  simp only [slices_vecTake] at hwork
  exact exec_vecIssue h hwork

/-- A fit word of D7FINISH. -/
theorem exec_vecD7finish (hsrc : (0, Shape.full 7) ∈ vecUses opc o.imm) (hrows : (1, Shape.exps true) ∈ vecUses opc o.imm)
    (hcols : (2, Shape.exps false) ∈ vecUses opc o.imm) (hdst : (3, Shape.full 1) ∈ vecUses opc o.imm) (hf0 : o.f 0 = .int48) (hf3 : o.f 3 = .fp64) :
    ∃ t, s.coreDone (s.vecIssue c off opc vecD7finishWork) = .next t ∧ s.vecRan t c q ∧
      t.mem = (List.range o.rows).foldl (fun m r => setRow m (o.d 3) .fp64 0 r ((o.folded s r).map (·.code))) s.mem := by
  obtain ⟨hp, hup, -, -, hfit⟩ := h.fit
  have hwork := Does.vecD7finish (s := s.unitTake c .vec q) (p := p) (q := q) hc hp hup hfit hsrc hrows hcols hdst hf0 hf3
  simp only [folded_vecTake] at hwork
  exact exec_vecIssue h hwork

end

end State

/-- Settles O21: the source is read first, so each row written is a function of memory as the word found it. -/
theorem vecConversions : Obligations.VecConversions := by
  intro s core off p q o
  refine ⟨?_, fun h => ?_, ?_, fun h => ?_, fun h => ?_⟩
  · simp only [List.forall_mem_cons]
    refine ⟨fun h => ?_, fun h => ?_, fun _ hx => nomatch hx⟩
    all_goals exact State.exec_vecCvt core.isLt h (by simp [vecUses]) (by simp [vecUses]) (by simp [vecUses])
  · obtain ⟨-, -, -, hscaled, -⟩ := h.fit
    exact State.exec_vecQuant core.isLt h (by simp [vecUses]) (by simp [vecUses]) hscaled
  · simp only [List.forall_mem_cons]
    refine ⟨fun h => ?_, fun h => ?_, fun _ hx => nomatch hx⟩
    all_goals
      obtain ⟨-, -, -, hacc, -⟩ := h.fit
      exact State.exec_vecSplit core.isLt h (by simp [vecUses]) (by simp [vecUses]) (beq_iff_eq.mp hacc)
  · obtain ⟨-, -, -, hacc, -⟩ := h.fit
    obtain ⟨-, hf⟩ : o.f 0 = .fp64 ∧ o.f 3 = .int8 := by simpa [VecOp.accepts] using hacc
    exact State.exec_vecD7slice core.isLt h (by simp [vecUses]) (by simp [vecUses]) (by simp [vecUses]) (by simp [vecUses]) hf
  · obtain ⟨-, -, -, hacc, -⟩ := h.fit
    obtain ⟨hf0, hf3⟩ : o.f 0 = .int48 ∧ o.f 3 = .fp64 := by simpa [VecOp.accepts] using hacc
    obtain ⟨t, hexec, hran, hmem⟩ := State.exec_vecD7finish core.isLt h (by simp [vecUses]) (by simp [vecUses]) (by simp [vecUses]) (by simp [vecUses])
      hf0 hf3
    exact ⟨t, hexec, hran, by simpa only [VecOp.folded, List.map_map, Function.comp_def] using hmem⟩

end Sys2Proof.Machine
end

section
/-!
PROOFS. Enables, banking bits, counters and idle banking of a core (R119, R144, R161, R418): a unit's state register moves from one state to
another, and nothing but the core's registers and the record of a unit that wakes differs.
-/

namespace Sys2Proof.Machine

/-- What one round of a loop makes of a part of the state, and the rounds of other keys leave, is what the loop makes of it. -/
theorem forEach_at {σ α β κ : Type} (key : α → κ) {f : σ → α → σ} {g : σ → β} {φ : β → β} {a : α} {l : List α} (hn : (l.map key).Nodup)
    (ha : a ∈ l) (hself : ∀ u, g (f u a) = φ (g u)) (hother : ∀ u, ∀ b ∈ l, key b ≠ key a → g (f u b) = g u) (s : σ) :
    g (forEach l s f) = φ (g s) := by
  induction l generalizing s with
  | nil => cases ha
  | cons b l ih =>
    obtain ⟨hb, hn⟩ := List.nodup_cons.mp hn
    have hne {d : α} (hd : d ∈ l) : key d ≠ key b := fun e => hb (e ▸ List.mem_map_of_mem hd)
    change g (forEach l (f s b) f) = _
    rcases List.mem_cons.mp ha with rfl | ha
    · rw [← hself]
      exact forEach_keeps (P := fun u => g u = g (f s a)) l
        (fun u d hd hu => (hother u d (List.mem_cons_of_mem a hd) (hne hd)).trans hu) rfl
    · rw [ih hn ha fun u d hd => hother u d (List.mem_cons_of_mem b hd), hother s b List.mem_cons_self (hne ha).symm]

namespace State

variable {s t u : State} {c : Nat}

/-! ### Registers of a core -/

theorem core_updCore (off d o : Nat) (f : Word → Word) : (s.updCore c off f).core d o = if d = c ∧ o = off then f (s.core c off) else s.core d o :=
  core_setCore ..

theorem core_updCore_same (off : Nat) (f : Word → Word) : (s.updCore c off f).core c off = f (s.core c off) := by
  rw [core_updCore, if_pos ⟨rfl, rfl⟩]

theorem core_updCore_ne {off o : Nat} (f : Word → Word) (h : o ≠ off) (d : Nat) : (s.updCore c off f).core d o = s.core d o := by
  rw [core_updCore, if_neg fun k => h k.2]

theorem coreRegsKept_trans {p : Nat → Prop} (h : s.coreRegsKept t c p) (k : t.coreRegsKept u c p) : s.coreRegsKept u c p :=
  fun d o hd => (k d o hd).trans (h d o hd)

theorem coreRegsKept_updCore {p : Nat → Prop} {off : Nat} (h : p off) (f : Word → Word) : s.coreRegsKept (s.updCore c off f) c p := fun d o hd => by
  rw [core_updCore, if_neg]
  rintro ⟨rfl, rfl⟩
  exact hd.elim (· rfl) (· h)

theorem othersKept_updCore (off : Nat) (f : Word → Word) : s.othersKept (s.updCore c off f) c := fun d hd =>
  ⟨rfl, fun o => by rw [core_updCore, if_neg fun k => hd k.1]⟩

theorem othersKept_updCx (f : CoreX → CoreX) : s.othersKept (s.updCx c f) c := fun d hd => ⟨by rw [cxOf_updCx, if_neg hd], fun _ => rfl⟩

/-! ### Outcomes of work in a core -/

theorem coreDone_of_trip (h : s.thm.trip = true) (t : State) : s.coreDone t = .next s := by
  unfold coreDone
  rw [if_pos h]

/-- Work on registers and records of cores is not cut short. -/
theorem CoreSide.coreDone (h : CoreSide s t) (htrip : s.thm.trip = false) : s.coreDone t = .next t := by
  unfold State.coreDone
  rw [htrip, if_neg Bool.false_ne_true, h]

theorem coreDone_self (htrip : s.thm.trip = false) : s.coreDone s = .next s := CoreSide.coreDone rfl htrip

/-! ### A unit moves from one state to another -/

/-- Where the field [hi:0] of core c's register `sts` is a, it becomes b. -/
def moved (s : State) (c sts hi a b : Nat) : State := if fld (s.core c sts) hi 0 = a then s.updCore c sts fun w => setFld w hi 0 b else s

section
variable (sts hi a b : Nat)

theorem moved_frame : s.moved c sts hi a b = { s with coreR := (s.moved c sts hi a b).coreR } := by
  unfold moved
  split <;> rfl

theorem cxOf_moved (d : Nat) : (s.moved c sts hi a b).cxOf d = s.cxOf d := by
  rw [moved_frame]
  rfl

theorem core_moved_ne {o : Nat} (h : o ≠ sts) (d : Nat) : (s.moved c sts hi a b).core d o = s.core d o := by
  unfold moved
  split
  · exact core_updCore_ne _ h d
  · rfl

theorem coreRegsKept_moved {p : Nat → Prop} (h : p sts) : s.coreRegsKept (s.moved c sts hi a b) c p := by
  unfold moved
  split
  · exact coreRegsKept_updCore h _
  · exact fun _ _ _ => rfl

theorem othersKept_moved : s.othersKept (s.moved c sts hi a b) c := by
  unfold moved
  split
  · exact othersKept_updCore _ _
  · exact fun _ _ => ⟨rfl, fun _ => rfl⟩

variable {hi b} in
theorem fld_moved (hhi : hi < 64) (hb : b < 2 ^ (hi + 1)) :
    fld ((s.moved c sts hi a b).core c sts) hi 0 = if fld (s.core c sts) hi 0 = a then b else fld (s.core c sts) hi 0 := by
  unfold moved
  split
  · rw [core_updCore_same, fld_setFld_same _ _ _ _ hhi, Nat.mod_eq_of_lt (by simpa using hb)]
  · rfl

end

/-- Bit i of the control register of a unit written, and the unit moved. -/
def switched (s : State) (c ctrl i : Nat) (v : Bool) (sts hi a b : Nat) : State := (s.updCore c ctrl fun w => setBit w i v).moved c sts hi a b

section
variable {ctrl i sts hi a b : Nat} {v : Bool} (hne : ctrl ≠ sts) (hi64 : i < 64) (hhi : hi < 64) (hb : b < 2 ^ (hi + 1))

theorem switched_frame : s.switched c ctrl i v sts hi a b = { s with coreR := (s.switched c ctrl i v sts hi a b).coreR } :=
  moved_frame ..

theorem coreRegsKept_switched : s.coreRegsKept (s.switched c ctrl i v sts hi a b) c fun off => off = ctrl ∨ off = sts :=
  coreRegsKept_trans (coreRegsKept_updCore (.inl rfl) _) (coreRegsKept_moved _ _ _ _ (.inr rfl))

theorem othersKept_switched : s.othersKept (s.switched c ctrl i v sts hi a b) c :=
  othersKept_trans (othersKept_updCore _ _) (othersKept_moved _ _ _ _)

include hne

include hi64 in
theorem bitAt_switched : bitAt ((s.switched c ctrl i v sts hi a b).core c ctrl) i = v := by
  rw [switched, core_moved_ne _ _ _ _ hne, core_updCore_same, bitAt_setBit_same _ _ _ hi64]

include hhi hb in
theorem fld_switched : fld ((s.switched c ctrl i v sts hi a b).core c sts) hi 0 =
    if fld (s.core c sts) hi 0 = a then b else fld (s.core c sts) hi 0 := by
  rw [switched, fld_moved _ _ hhi hb, core_updCore_ne _ hne.symm]

end

/-- What a write to a unit's control register leaves, where the unit moves with it. -/
theorem coreDone_switched {ctrl i sts hi a b : Nat} {v : Bool} (htrip : s.thm.trip = false) (hne : ctrl ≠ sts) (hi64 : i < 64) (hhi : hi < 64)
    (hb : b < 2 ^ (hi + 1)) : ∃ t, s.coreDone (s.switched c ctrl i v sts hi a b) = .next t ∧ bitAt (t.core c ctrl) i = v ∧
      fld (t.core c sts) hi 0 = (if fld (s.core c sts) hi 0 = a then b else fld (s.core c sts) hi 0) ∧
      s.coreRegsKept t c (fun off => off = ctrl ∨ off = sts) ∧ t = { s with coreR := t.coreR } := by
  have hframe := switched_frame (s := s) (c := c) (ctrl := ctrl) (i := i) (sts := sts) (hi := hi) (a := a) (b := b) (v := v)
  have hside : CoreSide s (s.switched c ctrl i v sts hi a b) := by rw [hframe]
  exact ⟨_, hside.coreDone htrip, bitAt_switched hne hi64, fld_switched hne hhi hb, coreRegsKept_switched, hframe⟩

/-! ### Enables and banking bits -/

theorem setEngEn_eq (e : Nat) : s.setEngEn c e true =
    s.switched c (0x1000 + e * 0x100 + R.engCtrl) 0 true (0x1000 + e * 0x100 + R.engSts) 2 engOff engIdle := by
  simp only [setEngEn, switched, moved, Bool.true_and, beq_iff_eq]
  rfl

theorem setWalkEn_eq : s.setWalkEn c true = s.switched c R.pgwCtrl 0 true R.pgwSts 1 unitOff unitIdle := by
  simp only [setWalkEn, switched, moved, Bool.true_and, beq_iff_eq]
  rfl

theorem bankUnit_eng (e : Eng) : s.bankUnit c (.eng e) =
    s.switched c (0x1000 + e.val * 0x100 + R.engCtrl) 1 true (0x1000 + e.val * 0x100 + R.engSts) 2 engIdle engBanked := by
  have hbit : bitAt ((s.updEng c e.val R.engCtrl fun w => setBit w 1 true).eng c e.val R.engCtrl) 1 = true :=
    (congrArg (bitAt · 1) (core_updCore_same ..)).trans (bitAt_setBit_same _ _ _ (by decide))
  simp only [bankUnit, bankIfIdle, hbit, switched, moved, Bool.true_and, beq_iff_eq]
  rfl

theorem bankUnit_pgw : s.bankUnit c .pgw = s.switched c R.pgwCtrl 1 true R.pgwSts 1 unitIdle unitBanked := by
  have hbit : bitAt ((s.updCore c R.pgwCtrl fun w => setBit w 1 true).core c R.pgwCtrl) 1 = true :=
    (congrArg (bitAt · 1) (core_updCore_same ..)).trans (bitAt_setBit_same _ _ _ (by decide))
  simp only [bankUnit, bankIfIdle, hbit, switched, moved, Bool.true_and, beq_iff_eq]
  rfl

theorem bankUnit_vec : s.bankUnit c .vec =
    (s.updCx c fun x => { x with vec := { x.vec with bank := true } }).moved c R.vecSts 1 unitIdle unitBanked := by
  have hbit : ((s.updCx c fun x => { x with vec := { x.vec with bank := true } }).cxOf c).vec.bank = true := by rw [cxOf_updCx, if_pos rfl]
  simp only [bankUnit, bankIfIdle, hbit, moved, Bool.true_and, beq_iff_eq]
  rfl

/-- Unit u, where it was banked, is idle and not ready (R161). -/
def woken (s : State) (c : Nat) (u : CoreUnit) (b : Bool) : State :=
  if b then s.updCx c fun x => x.setUnit u fun y => { y with ready := false } else s

theorem unbankUnit_eng (e : Eng) : s.unbankUnit c (.eng e) =
    (s.switched c (0x1000 + e.val * 0x100 + R.engCtrl) 1 false (0x1000 + e.val * 0x100 + R.engSts) 2 engBanked engIdle).woken c (.eng e)
      (s.engState c e.val == engBanked) := by
  have hkept : (s.updCore c (0x1000 + e.val * 0x100 + R.engCtrl) fun w => setBit w 1 false).core c (0x1000 + e.val * 0x100 + R.engSts) =
      s.core c (0x1000 + e.val * 0x100 + R.engSts) := core_updCore_ne _ (by decide +revert) _
  have hst : s.engState c e.val = fld (s.core c (0x1000 + e.val * 0x100 + R.engSts)) 2 0 := rfl
  unfold unbankUnit switched moved woken
  dsimp only
  rw [hkept, hst]
  by_cases h : fld (s.core c (0x1000 + e.val * 0x100 + R.engSts)) 2 0 = engBanked
  · rw [if_pos h, h]
    rfl
  · rw [if_neg h, beq_false_of_ne h]
    rfl

theorem unbankUnit_pgw : s.unbankUnit c .pgw =
    (s.switched c R.pgwCtrl 1 false R.pgwSts 1 unitBanked unitIdle).woken c .pgw (s.pgwState c == unitBanked) := by
  have hkept : (s.updCore c R.pgwCtrl fun w => setBit w 1 false).core c R.pgwSts = s.core c R.pgwSts := core_updCore_ne _ (by decide) _
  have hst : s.pgwState c = fld (s.core c R.pgwSts) 1 0 := rfl
  unfold unbankUnit switched moved woken
  dsimp only
  rw [hkept, hst]
  by_cases h : fld (s.core c R.pgwSts) 1 0 = unitBanked
  · rw [if_pos h, h]
    rfl
  · rw [if_neg h, beq_false_of_ne h]
    rfl

/-- What clearing a unit's banking bit leaves (R119, R161). -/
theorem coreDone_woken {ctrl sts hi : Nat} {y : CoreUnit} (htrip : s.thm.trip = false) (hne : ctrl ≠ sts) (hhi : hi < 64) (h2 : 2 < 2 ^ (hi + 1)) :
    ∃ t, s.coreDone ((s.switched c ctrl 1 false sts hi 1 2).woken c y (fld (s.core c sts) hi 0 == 1)) = .next t ∧
      bitAt (t.core c ctrl) 1 = false ∧ fld (t.core c sts) hi 0 = (if fld (s.core c sts) hi 0 = 1 then 2 else fld (s.core c sts) hi 0) ∧
      (fld (s.core c sts) hi 0 = 1 → t.cxOf c = (s.cxOf c).setUnit y fun z => { z with ready := false }) ∧
      (fld (s.core c sts) hi 0 ≠ 1 → t.cx = s.cx) ∧
      s.coreRegsKept t c (fun off => off = ctrl ∨ off = sts) ∧ s.othersKept t c ∧ t = { s with coreR := t.coreR, cx := t.cx } := by
  have hframe := switched_frame (s := s) (c := c) (ctrl := ctrl) (i := 1) (sts := sts) (hi := hi) (a := 1) (b := 2) (v := false)
  have hbit := bitAt_switched (s := s) (c := c) (v := false) (hi := hi) (a := 1) (b := 2) hne (by decide : 1 < 64)
  have hfld := fld_switched (s := s) (c := c) (i := 1) (v := false) (a := 1) hne hhi h2
  have hregs := coreRegsKept_switched (s := s) (c := c) (ctrl := ctrl) (i := 1) (sts := sts) (hi := hi) (a := 1) (b := 2) (v := false)
  have hothers := othersKept_switched (s := s) (c := c) (ctrl := ctrl) (i := 1) (sts := sts) (hi := hi) (a := 1) (b := 2) (v := false)
  have hcx : (s.switched c ctrl 1 false sts hi 1 2).cxOf c = s.cxOf c := by rw [hframe]; rfl
  have hside : CoreSide s (s.switched c ctrl 1 false sts hi 1 2) := by rw [hframe]
  unfold woken
  by_cases h : fld (s.core c sts) hi 0 = 1
  · rw [h, if_pos (by decide)]
    rw [h] at hfld
    have hside' : CoreSide s ((s.switched c ctrl 1 false sts hi 1 2).updCx c fun x => x.setUnit y fun z => { z with ready := false }) :=
      hside.trans rfl
    refine ⟨_, hside'.coreDone htrip, hbit, hfld, fun _ => ?_, fun k => absurd rfl k, hregs, othersKept_trans hothers (othersKept_updCx _), hside'⟩
    rw [cxOf_updCx, if_pos rfl, hcx]
  · rw [beq_false_of_ne h, if_neg Bool.false_ne_true]
    exact ⟨_, hside.coreDone htrip, hbit, hfld, fun k => absurd k h, fun _ => by rw [hframe], hregs, hothers, hside⟩

/-! ### Counters -/

theorem core_clearEngCnt (e : Nat) (d o : Nat) : (s.clearEngCnt c e).core d o =
    if d = c ∧ ∃ r ∈ engCounters, o = 0x1000 + e * 0x100 + r then 0 else s.core d o := by
  unfold clearEngCnt
  generalize engCounters = l
  induction l generalizing s with
  | nil => rw [if_neg (by simp)]; rfl
  | cons r l ih =>
    rw [forEach, List.foldl_cons, ← forEach, ih, updEng, core_updCore]
    by_cases hd : d = c <;> by_cases ho : o = 0x1000 + e * 0x100 + r <;> simp [hd, ho]

theorem clearEngCnt_frame (e : Nat) : s.clearEngCnt c e = { s with coreR := (s.clearEngCnt c e).coreR } :=
  forEach_keeps (P := fun t : State => t = { s with coreR := t.coreR }) _ (fun _ _ _ hu => by rw [hu]; rfl) rfl

/-! ### The core -/

theorem setCoreEn_eq : s.setCoreEn c =
    ((s.updCore c R.seqCtrl fun w => setBit w 0 true).moved c R.vecSts 1 unitOff unitIdle).moved c R.seqSts 1 0 1 := by
  simp only [setCoreEn, moved, beq_iff_eq]
  rfl

/-- What `CORE_EN` leaves: the core and its vector engine leave OFF (R144). -/
theorem coreDone_setCoreEn (htrip : s.thm.trip = false) : ∃ t, s.coreDone (s.setCoreEn c) = .next t ∧ bitAt (t.core c R.seqCtrl) 0 = true ∧
    t.coreState c = (if s.coreState c = 0 then 1 else s.coreState c) ∧ t.vecState c = (if s.vecState c = unitOff then unitIdle else s.vecState c) ∧
    s.coreRegsKept t c (fun off => off = R.seqCtrl ∨ off = R.seqSts ∨ off = R.vecSts) ∧ t = { s with coreR := t.coreR } := by
  have hframe : s.setCoreEn c = { s with coreR := (s.setCoreEn c).coreR } := by
    rw [setCoreEn_eq, moved_frame, moved_frame]
    rfl
  have hside : CoreSide s (s.setCoreEn c) := by rw [hframe]
  refine ⟨_, hside.coreDone htrip, ?_, ?_, ?_, ?_, hframe⟩ <;> rw [setCoreEn_eq]
  · rw [core_moved_ne _ _ _ _ (by decide), core_moved_ne _ _ _ _ (by decide), core_updCore_same, bitAt_setBit_same _ _ _ (by decide)]
  · unfold coreState
    rw [fld_moved _ _ (by decide) (by decide), core_moved_ne _ _ _ _ (by decide), core_updCore_ne _ (by decide)]
  · unfold vecState
    rw [core_moved_ne _ _ _ _ (by decide), fld_moved _ _ (by decide) (by decide), core_updCore_ne _ (by decide)]
  · exact coreRegsKept_trans (coreRegsKept_trans (coreRegsKept_updCore (.inl rfl) _) (coreRegsKept_moved _ _ _ _ (.inr (.inr rfl))))
      (coreRegsKept_moved _ _ _ _ (.inr (.inl rfl)))

theorem trapClears_iff : s.trapClears c = true ↔ s.coreState c = 3 ∧ s.coreActive c = false ∧ ∀ k < 4, s.engState c k ≠ Machine.engFault := by
  simp [trapClears, and_assoc]

/-- A core that idle banking reaches: READY, in no active slot. -/
theorem idleBank_of_free (h : s.coreState c = 1) (hfree : ∀ p, s.slotOf c = some p → s.slotActive p = false) :
    s.idleBank c = forEach bankable s fun t u => t.bankUnit c u := by
  unfold idleBank
  rw [h]
  cases hp : s.slotOf c with
  | none => rfl
  | some p => simp [hfree p hp]

theorem idleBank_of_busy (h : s.coreState c ≠ 1 ∨ ∃ p, s.slotOf c = some p ∧ s.slotActive p = true) : s.idleBank c = s := by
  unfold idleBank
  rcases h with h | ⟨p, hp, hact⟩
  · simp [h]
  · simp [hp, hact]

/-- The register that holds the state of a unit that can bank, and the top bit of its state there. -/
def powerReg : CoreUnit → Nat
  | .eng e => 0x1000 + e.val * 0x100 + R.engSts
  | .vec => R.vecSts
  | .pgw => R.pgwSts
  | _ => 0

def powerTop : CoreUnit → Nat
  | .eng _ => 2
  | _ => 1

/-- The state of a unit that can bank. -/
def power (s : State) (c : Nat) (y : CoreUnit) : Nat := fld (s.core c (powerReg y)) (powerTop y) 0

theorem eng_mem_bankable : ∀ e : Eng, CoreUnit.eng e ∈ bankable := by decide

/-- A banking bit set leaves the state of every unit, and then its own unit moves. -/
theorem bankUnit_moved {y : CoreUnit} (hy : y ∈ bankable) : ∃ v : State, s.bankUnit c y = v.moved c (powerReg y) (powerTop y) 2 1 ∧
    ∀ z ∈ bankable, v.core c (powerReg z) = s.core c (powerReg z) := by
  cases y with
  | eng e =>
    have hne : ∀ e : Eng, ∀ z ∈ bankable, powerReg z ≠ 0x1000 + e.val * 0x100 + R.engCtrl := by decide
    exact ⟨_, bankUnit_eng e, fun z hz => core_updCore_ne _ (hne e z hz) _⟩
  | vec => exact ⟨_, bankUnit_vec, fun _ _ => rfl⟩
  | pgw =>
    have hne : ∀ z ∈ bankable, powerReg z ≠ R.pgwCtrl := by decide
    exact ⟨_, bankUnit_pgw, fun z hz => core_updCore_ne _ (hne z hz) _⟩
  | _ => simp [bankable] at hy

/-- A banking bit set banks its own unit where that is idle, and no other. -/
theorem power_bankUnit {y z : CoreUnit} (hy : y ∈ bankable) (hz : z ∈ bankable) :
    (s.bankUnit c y).power c z = if y = z ∧ s.power c z = 2 then 1 else s.power c z := by
  have hinj : ∀ y ∈ bankable, ∀ z ∈ bankable, y ≠ z → powerReg z ≠ powerReg y := by decide
  have htop : powerTop y < 64 ∧ 1 < 2 ^ (powerTop y + 1) := by cases y <;> simp [powerTop]
  obtain ⟨v, hv, hkept⟩ := bankUnit_moved (s := s) (c := c) hy
  unfold power
  rw [hv]
  by_cases h : y = z
  · subst h
    rw [fld_moved _ _ htop.1 htop.2, hkept y hy]
    simp only [true_and]
  · rw [core_moved_ne _ _ _ _ (hinj y hy z hz h), hkept z hz, if_neg fun k => h k.1]

/-- Every banking bit set banks every unit that is idle (R418). -/
theorem power_bankAll {z : CoreUnit} (hz : z ∈ bankable) :
    (forEach bankable s fun t y => t.bankUnit c y).power c z = if s.power c z = 2 then 1 else s.power c z :=
  forEach_at id (g := fun t : State => t.power c z) (φ := fun x => if x = 2 then 1 else x) (by decide) hz
    (fun u => by simp only [power_bankUnit hz hz, true_and]) (fun u y hy h => by rw [power_bankUnit hy hz, if_neg fun k => h k.1]) s

theorem bank_bankAll : ((forEach bankable s fun t y => t.bankUnit c y).cxOf c).vec.bank = true := by
  refine forEach_at id (g := fun t : State => (t.cxOf c).vec.bank) (φ := fun _ => true) (a := CoreUnit.vec) (by decide) (by decide) (fun u => ?_) (fun u y _ h => ?_) s
  · rw [bankUnit_vec, cxOf_moved, cxOf_updCx, if_pos rfl]
  · cases y with
    | vec => exact absurd rfl h
    | eng e => rw [bankUnit_eng, switched_frame]; rfl
    | pgw => rw [bankUnit_pgw, switched_frame]; rfl
    | _ => rfl

theorem othersKept_bankUnit (y : CoreUnit) : s.othersKept (s.bankUnit c y) c := by
  cases y with
  | eng e => rw [bankUnit_eng]; exact othersKept_switched
  | vec => rw [bankUnit_vec]; exact othersKept_trans (othersKept_updCx _) (othersKept_moved _ _ _ _)
  | pgw => rw [bankUnit_pgw]; exact othersKept_switched
  | _ => exact fun _ _ => ⟨rfl, fun _ => rfl⟩

theorem othersKept_bankAll : s.othersKept (forEach bankable s fun t y => t.bankUnit c y) c :=
  forEach_keeps (P := fun t => s.othersKept t c) _ (fun _ y _ h => othersKept_trans h (othersKept_bankUnit y)) fun _ _ => ⟨rfl, fun _ => rfl⟩

end State

/-- Settles O46: each enable writes its bit and moves its unit, and idle banking does so for every unit. -/
theorem enablesOfACore : Obligations.EnablesOfACore := by
  intro s core eng
  have hfar : ∀ e : Eng, 0x1000 + e.val * 0x100 + R.engCtrl ≠ 0x1000 + e.val * 0x100 + R.engSts := by decide
  refine ⟨fun htrip v => ?_, fun htrip => ⟨?_, ?_, ?_, ?_, ?_, ?_, ?_, ?_, ?_, ?_, ?_, fun hst hfree => ?_, fun h => ?_⟩⟩
  · exact ⟨State.coreDone_of_trip htrip _, State.coreDone_of_trip htrip _, State.coreDone_of_trip htrip _, State.coreDone_of_trip htrip _,
      State.coreDone_of_trip htrip _, State.coreDone_of_trip htrip _, State.coreDone_of_trip htrip _, State.coreDone_of_trip htrip _,
      State.coreDone_of_trip htrip _⟩
  · change ∃ t, s.coreDone (s.setEngEn core.val eng.val true) = _ ∧ _
    rw [State.setEngEn_eq]
    exact State.coreDone_switched htrip (hfar eng) (by decide) (by decide) (by decide)
  · change ∃ t, s.coreDone (s.bankUnit core.val (.eng eng)) = _ ∧ _
    rw [State.bankUnit_eng]
    exact State.coreDone_switched htrip (hfar eng) (by decide) (by decide) (by decide)
  · obtain ⟨t, hexec, hbit, hst, hwake, hstay, hregs, hothers, hframe⟩ :=
      State.coreDone_woken (s := s) (c := core.val) (y := .eng eng) htrip (hfar eng) (by decide : 2 < 64) (by decide)
    refine ⟨t, ?_, hbit, hst, fun h => ?_, hstay, hregs, hothers, hframe⟩
    · rw [← hexec]
      exact congrArg s.coreDone (State.unbankUnit_eng eng)
    · rw [State.engX, hwake h]
      simp [CoreX.setUnit, Tbl.upd]
  · have hframe := State.clearEngCnt_frame (s := s) (c := core.val) eng.val
    have hside : State.CoreSide s (s.clearEngCnt core.val eng.val) := by rw [hframe]
    refine ⟨_, hside.coreDone htrip, fun r hr => ?_, fun d off hd => ?_, hframe⟩
    · rw [State.eng, State.core_clearEngCnt, if_pos ⟨rfl, r, hr, rfl⟩]
    · rw [State.core_clearEngCnt, if_neg fun h => hd.elim (· h.1) (· h.2)]
  · change ∃ t, s.coreDone (s.setWalkEn core.val true) = _ ∧ _
    rw [State.setWalkEn_eq]
    exact State.coreDone_switched htrip (by decide) (by decide) (by decide) (by decide)
  · change ∃ t, s.coreDone (s.bankUnit core.val .pgw) = _ ∧ _
    rw [State.bankUnit_pgw]
    exact State.coreDone_switched htrip (by decide) (by decide) (by decide) (by decide)
  · obtain ⟨t, hexec, hbit, hst, hwake, -, hregs, hothers, hframe⟩ :=
      State.coreDone_woken (s := s) (c := core.val) (ctrl := R.pgwCtrl) (sts := R.pgwSts) (y := .pgw) htrip (by decide) (by decide : 1 < 64) (by decide)
    refine ⟨t, ?_, hbit, hst, fun h => by rw [hwake h]; rfl, hregs, hothers, hframe⟩
    rw [← hexec]
    exact congrArg s.coreDone State.unbankUnit_pgw
  · have hside : State.CoreSide s (s.clearPgwCnt core.val) := rfl
    refine ⟨_, hside.coreDone htrip, ?_, ?_, ?_, rfl⟩
    · rw [State.clearPgwCnt, State.core_setCore, if_neg fun h => absurd h.2 (by decide), State.core_setCore, if_pos ⟨rfl, rfl⟩]
    · rw [State.clearPgwCnt, State.core_setCore, if_pos ⟨rfl, rfl⟩]
    · exact State.coreRegsKept_trans (State.coreRegsKept_updCore (.inl rfl) fun _ => 0) (State.coreRegsKept_updCore (.inr rfl) fun _ => 0)
  · exact State.coreDone_setCoreEn htrip
  · intro hst hact hflt
    have hclear : s.clearTrap core.val = s.setCoreState core.val 1 := if_pos (State.trapClears_iff.mpr ⟨hst, hact, hflt⟩)
    have hside : State.CoreSide s (s.clearTrap core.val) := by rw [hclear]; rfl
    refine ⟨_, hside.coreDone htrip, ?_, ?_, ?_⟩
    · rw [hclear]
      exact (congrArg (fld · 1 0) (State.core_updCore_same ..)).trans (fld_setFld_same _ _ _ _ (by decide))
    · rw [hclear]
      exact State.coreRegsKept_updCore (p := fun off => off = R.seqSts) rfl _
    · rw [hclear]
      rfl
  · intro h
    have hnot : ¬s.trapClears core.val = true := fun k => by
      obtain ⟨hst, hact, hflt⟩ := State.trapClears_iff.mp k
      rcases h with h | h | ⟨e, he, h⟩
      · exact h hst
      · exact Bool.noConfusion (hact.symm.trans h)
      · exact hflt e he h
    have hclear : s.clearTrap core.val = s := if_neg hnot
    exact (congrArg s.coreDone hclear).trans (State.coreDone_self htrip)
  · have hbank := State.idleBank_of_free hst hfree
    have hside : State.CoreSide s (forEach State.bankable s fun t y => t.bankUnit core.val y) :=
      .loop (fun _ _ => State.bankUnit_coreSide ..) _
    refine ⟨_, (congrArg s.coreDone hbank).trans (hside.coreDone htrip), fun k hk => ?_, ?_, ?_, State.bank_bankAll,
      State.othersKept_bankAll, hside⟩
    · exact State.power_bankAll (State.eng_mem_bankable ⟨k, hk⟩)
    · exact State.power_bankAll (z := .vec) (by decide)
    · exact State.power_bankAll (z := .pgw) (by decide)
  · exact (congrArg s.coreDone (State.idleBank_of_busy h)).trans (State.coreDone_self htrip)

end Sys2Proof.Machine
end

section
/-!
PROOFS. The cord batcher (R120-R123): the order of a cord's entries, the cord that a point of a flash issues, and what becomes of the
entries that wait.
-/

namespace Sys2Proof.Machine

/-! ### Sorted lists -/

section
variable {α : Type} {le : α → α → Bool}

theorem insertBy_perm (a : α) (l : List α) : (insertBy le a l).Perm (a :: l) := by
  induction l with
  | nil => exact .refl _
  | cons b l ih =>
    unfold insertBy
    split
    · exact (ih.cons b).trans (.swap a b l)
    · exact .refl _

theorem pairwise_insertBy (htotal : ∀ a b, le a b = true ∨ le b a = true) (htrans : ∀ a b d, le a b = true → le b d = true → le a d = true)
    (a : α) {l : List α} (h : l.Pairwise (le · · = true)) : (insertBy le a l).Pairwise (le · · = true) := by
  induction l with
  | nil => exact List.pairwise_singleton _ a
  | cons b l ih =>
    obtain ⟨hb, hl⟩ := List.pairwise_cons.mp h
    unfold insertBy
    split
    next hba =>
      refine List.pairwise_cons.mpr ⟨fun d hd => ?_, ih hl⟩
      rcases List.mem_cons.mp ((insertBy_perm a l).mem_iff.mp hd) with rfl | hd
      · exact hba
      · exact hb d hd
    next hba =>
      have hab : le a b = true := (htotal a b).resolve_right hba
      refine List.pairwise_cons.mpr ⟨fun d hd => ?_, h⟩
      rcases List.mem_cons.mp hd with rfl | hd
      · exact hab
      · exact htrans a b d hab (hb d hd)

theorem sortBy_eq (l : List α) : sortBy le l = l.foldl (fun acc a => insertBy le a acc) [] := rfl

theorem sortBy_perm (l : List α) : (sortBy le l).Perm l := by
  have h (acc : List α) : (l.foldl (fun acc a => insertBy le a acc) acc).Perm (l ++ acc) := by
    induction l generalizing acc with
    | nil => exact .refl _
    | cons a l ih => exact (ih _).trans (((insertBy_perm a acc).append_left l).trans List.perm_middle)
  simpa [sortBy_eq] using h []

theorem pairwise_sortBy (htotal : ∀ a b, le a b = true ∨ le b a = true) (htrans : ∀ a b d, le a b = true → le b d = true → le a d = true)
    (l : List α) : (sortBy le l).Pairwise (le · · = true) := by
  have h (acc : List α) (hacc : acc.Pairwise (le · · = true)) : (l.foldl (fun acc a => insertBy le a acc) acc).Pairwise (le · · = true) := by
    induction l generalizing acc with
    | nil => exact hacc
    | cons a l ih => exact ih _ (pairwise_insertBy htotal htrans a hacc)
  exact h [] .nil

end

namespace State

variable {s t : State}

/-! ### The order of a cord -/

theorem entBefore_iff {h : Nat} {a b : InEnt} :
    entBefore h a b = true ↔ a.dl.toNat < b.dl.toNat ∨ (a.dl = b.dl ∧ ahead a.idx h ≤ ahead b.idx h) := by
  simp [entBefore]

theorem entBefore_total (h : Nat) (a b : InEnt) : entBefore h a b = true ∨ entBefore h b a = true := by
  simp only [entBefore_iff, ← BitVec.toNat_inj]
  omega

theorem entBefore_trans (h : Nat) (a b d : InEnt) (hab : entBefore h a b = true) (hbd : entBefore h b d = true) : entBefore h a d = true := by
  simp only [entBefore_iff, ← BitVec.toNat_inj] at hab hbd ⊢
  omega

/-- A cord point of flash f may take the entry: it was in time, and is due from f to f + w (R122). -/
def cordTakes (w f : Nat) (e : InEnt) : Bool := e.inTime && decide (f ≤ e.dl.toNat ∧ e.dl.toNat ≤ f + w)

theorem cordTakes_iff {w f : Nat} {e : InEnt} : cordTakes w f e = true ↔ e.inTime = true ∧ f ≤ e.dl.toNat ∧ e.dl.toNat ≤ f + w := by
  simp [cordTakes]

section
variable (x : QueueX) (w f : Nat)

theorem eligible_perm : (eligible x w f).Perm (x.ents.filter (cordTakes w f)) := sortBy_perm _

theorem mem_eligible {e : InEnt} : e ∈ eligible x w f ↔ e ∈ x.ents ∧ e.inTime = true ∧ f ≤ e.dl.toNat ∧ e.dl.toNat ≤ f + w := by
  rw [(eligible_perm x w f).mem_iff, List.mem_filter, cordTakes_iff]

theorem length_eligible : (eligible x w f).length = x.ents.countP (cordTakes w f) := by
  rw [(eligible_perm x w f).length_eq, List.countP_eq_length_filter]

theorem eligible_pairwise :
    (eligible x w f).Pairwise fun a b => a.dl.toNat < b.dl.toNat ∨ (a.dl = b.dl ∧ ahead a.idx (fld x.head 31 0) ≤ ahead b.idx (fld x.head 31 0)) :=
  (pairwise_sortBy (entBefore_total _) (entBefore_trans _) _).imp entBefore_iff.mp

end

/-! ### The cord of a cord point -/

section
variable {x : QueueX} {w f : Nat}

theorem cordOf_full (h : 32 ≤ x.ents.countP (cordTakes w f)) : cordOf x w f = (eligible x w f).take 32 := by
  rw [← length_eligible] at h
  unfold cordOf
  exact if_pos h

/-- Fewer than 32 entries, one of them due in this flash: the first of them is due in it. -/
theorem cordOf_partial (h : x.ents.countP (cordTakes w f) < 32) (hdue : ∃ e ∈ eligible x w f, e.dl.toNat = f) : cordOf x w f = eligible x w f := by
  rw [← length_eligible] at h
  obtain ⟨e, he, hef⟩ := hdue
  have hsort := eligible_pairwise x w f
  have hmem := fun a => mem_eligible x w f (e := a)
  unfold cordOf
  rw [if_neg (by omega)]
  generalize eligible x w f = l at he hsort hmem ⊢
  cases l with
  | nil => cases he
  | cons a l =>
    have hle : f ≤ a.dl.toNat := ((hmem a).mp List.mem_cons_self).2.2.1
    have hfirst : a.dl.toNat = f := by
      rcases List.mem_cons.mp he with rfl | he
      · exact hef
      · rcases (List.pairwise_cons.mp hsort).1 e he with hlt | ⟨heq, -⟩
        · omega
        · rw [heq, hef]
    exact if_pos hfirst

theorem cordOf_empty (h : x.ents.countP (cordTakes w f) < 32) (hdue : ∀ e ∈ eligible x w f, e.dl.toNat ≠ f) : cordOf x w f = [] := by
  rw [← length_eligible] at h
  unfold cordOf
  rw [if_neg (by omega)]
  generalize eligible x w f = l at hdue ⊢
  cases l with
  | nil => rfl
  | cons a l => exact if_neg (hdue a List.mem_cons_self)

/-- A cord is the first of the eligible entries, in their order. -/
theorem cordOf_sublist (x : QueueX) (w f : Nat) : (cordOf x w f).Sublist (eligible x w f) := by
  by_cases h : 32 ≤ x.ents.countP (cordTakes w f)
  · rw [cordOf_full h]
    exact List.take_sublist ..
  · by_cases hdue : ∃ e ∈ eligible x w f, e.dl.toNat = f
    · rw [cordOf_partial (by omega) hdue]
    · rw [cordOf_empty (by omega) fun e he hef => hdue ⟨e, he, hef⟩]
      exact List.nil_sublist _

/-- An eligible entry that a full cord leaves comes after each that it takes. -/
theorem before_of_not_mem_cordOf (h : 32 ≤ x.ents.countP (cordTakes w f)) {a e : InEnt} (he : e ∈ eligible x w f) (hnot : e ∉ cordOf x w f)
    (ha : a ∈ cordOf x w f) : a.dl.toNat < e.dl.toNat ∨ (a.dl = e.dl ∧ ahead a.idx (fld x.head 31 0) ≤ ahead e.idx (fld x.head 31 0)) := by
  rw [cordOf_full h] at hnot ha
  have hsort := eligible_pairwise x w f
  rw [← List.take_append_drop 32 (eligible x w f)] at he hsort
  exact (List.pairwise_append.mp hsort).2.2 a ha e ((List.mem_append.mp he).resolve_left hnot)

end

/-! ### Queues of a slot -/

theorem que_updQue (p q q' : Nat) (f : QueueX → QueueX) : (s.updQue p q f).que p q' = if q' = q then f (s.que p q) else s.que p q' := by
  unfold que updQue
  rw [slot_updSlot, if_pos rfl]
  by_cases h : q' = q
  · subst h
    rw [Tbl.get_set_same, if_pos rfl]
  · rw [Tbl.get_set_ne _ _ _ h, if_neg h]

theorem notices_updQue (p q : Nat) (f : QueueX → QueueX) : ((s.updQue p q f).slot p).notices = (s.slot p).notices := by
  unfold updQue
  rw [slot_updSlot, if_pos rfl]

theorem que_answerEnts (p q rfn flags q' : Nat) (l : List InEnt) :
    (s.answerEnts p q rfn flags l).que p q' = if q' = q then settle (s.que p q) l else s.que p q' := by
  refine Eq.trans ?_ (que_updQue (s := s) p q q' fun x => settle x l)
  unfold answerEnts que
  rw [slot_updSlot, if_pos rfl]

theorem notices_answerEnts (p q rfn flags : Nat) (l : List InEnt) : ((s.answerEnts p q rfn flags l).slot p).notices =
    (s.slot p).notices ++ l.map fun e => { q := q, idx := e.idx, ctx := e.ctx, flags := flags, rfn := BitVec.ofNat 48 rfn } := by
  unfold answerEnts
  rw [slot_updSlot, if_pos rfl]
  exact congrArg (· ++ _) (notices_updQue p q _)

/-- The cord l issued at offset off of flash f. -/
def issueCord (s : State) (p q f off : Nat) (l : List InEnt) : State :=
  s.updQue p q fun x =>
    { settle x l with cord := some { rfn := BitVec.ofNat 48 f, off := off, lanes := l.map fun e => { idx := e.idx, ctx := e.ctx, len := e.len } } }

/-- A cord point but the last of its flash issues its cord. -/
theorem cordPointAt_more {p q k f off : Nat} {d : QueueDecl} (hoff : d.points[k]? = some off) (hk : k + 1 < d.points.length) :
    s.cordPointAt p q k f d = s.issueCord p q f off (cordOf (s.que p q) d.w f) := by
  unfold cordPointAt
  rw [hoff]
  exact if_neg (by omega)

/-- The last one also answers what is due in the flash (R123). -/
theorem cordPointAt_last {p q k f off : Nat} {d : QueueDecl} (hoff : d.points[k]? = some off) (hk : k + 1 = d.points.length) :
    s.cordPointAt p q k f d = (s.issueCord p q f off (cordOf (s.que p q) d.w f)).answerEnts p q f flCordMissed
      (((s.issueCord p q f off (cordOf (s.que p q) d.w f)).que p q).ents.filter fun e => e.inTime && e.dl.toNat == f) := by
  unfold cordPointAt
  rw [hoff]
  exact if_pos hk

/-- Every entry of deadline f that was in time and that no cord took leaves with the answer. -/
theorem settle_missed (ents l : List InEnt) (f : Nat) :
    let rest := ents.filter fun e => !l.contains e
    rest.filter (fun e => !(rest.filter fun e => e.inTime && e.dl.toNat == f).contains e) =
      ents.filter fun e => !l.contains e && !(e.inTime && e.dl.toNat == f) := by
  dsimp only
  rw [List.filter_filter]
  refine List.filter_congr fun e he => ?_
  by_cases hl : e ∈ l <;> simp [hl, he, beq_eq_decide]

/-- What a cord point leaves of the slots: the cord, the entries that wait and the answers (R122, R123). -/
theorem cordPointAt_spec {p q k f off : Nat} {d : QueueDecl} (hoff : d.points[k]? = some off) :
    let x := s.que p q
    let l := cordOf x d.w f
    let t := s.cordPointAt p q k f d
    (t.que p q).cord = some { rfn := BitVec.ofNat 48 f, off := off, lanes := l.map fun e => { idx := e.idx, ctx := e.ctx, len := e.len } } ∧
    (k + 1 < d.points.length → (t.que p q).ents = x.ents.filter (fun e => !l.contains e) ∧ (t.slot p).notices = (s.slot p).notices) ∧
    (k + 1 = d.points.length → (t.que p q).ents = x.ents.filter (fun e => !l.contains e && !(e.inTime && e.dl.toNat == f)) ∧
      (t.slot p).notices = (s.slot p).notices ++ (x.ents.filter fun e => !l.contains e && e.inTime && e.dl.toNat == f).map fun e =>
        { q := q, idx := e.idx, ctx := e.ctx, flags := flCordMissed, rfn := BitVec.ofNat 48 f }) ∧
    (∀ q', q' ≠ q → t.que p q' = s.que p q') ∧ t = { s with slots := t.slots } := by
  intro x l t
  have hlt : k < d.points.length := (List.getElem?_eq_some_iff.mp hoff).1
  have hque : (s.issueCord p q f off l).que p q = { settle x l with
      cord := some { rfn := BitVec.ofNat 48 f, off := off, lanes := l.map fun e => { idx := e.idx, ctx := e.ctx, len := e.len } } } :=
    (que_updQue ..).trans (if_pos rfl)
  have hother (q' : Nat) (h : q' ≠ q) : (s.issueCord p q f off l).que p q' = s.que p q' := (que_updQue ..).trans (if_neg h)
  have hnotes : ((s.issueCord p q f off l).slot p).notices = (s.slot p).notices := notices_updQue ..
  by_cases hk : k + 1 = d.points.length
  · have ht : t = _ := cordPointAt_last hoff hk
    rw [ht]
    refine ⟨?_, fun h => absurd hk (by omega), fun _ => ⟨?_, ?_⟩, fun q' h => ?_, rfl⟩
    · rw [que_answerEnts, if_pos rfl, hque]
      rfl
    · rw [que_answerEnts, if_pos rfl, hque]
      exact settle_missed x.ents l f
    · rw [notices_answerEnts, hnotes, hque]
      simp only [settle, List.filter_filter, Bool.and_comm, Bool.and_left_comm, Bool.and_assoc]
    · rw [que_answerEnts, if_neg h, hother q' h]
  · have ht : t = _ := cordPointAt_more hoff (by omega)
    rw [ht]
    exact ⟨by rw [hque], fun _ => ⟨by rw [hque]; rfl, hnotes⟩, fun h => absurd h hk, hother, rfl⟩

/-- Work on slots is not cut short. -/
theorem coreDone_slots (h : t = { s with slots := t.slots }) (htrip : s.thm.trip = false) : s.coreDone t = .next t := by
  unfold coreDone
  rw [htrip, if_neg Bool.false_ne_true, h]

end State

/-- Settles O28: the cord is a first part of the eligible entries in their order, and the slots take it up. -/
theorem cordPointIssues : Obligations.CordPointIssues := by
  intro s slot q k d off htrip hdecl hst hkind hoff f x h may n
  have hexec : exec (.cordPoint slot q k) s = s.coreDone (s.cordPointAt slot.val q.val k.val f d) := by
    change execCordPoint slot q k s = _
    unfold execCordPoint
    rw [hdecl]
    exact congrArg s.coreDone (if_pos (by simp [hst, hkind]))
  have hmay (e : InEnt) : e ∈ State.eligible x d.w f ↔ may e := State.mem_eligible x d.w f
  have hsub := State.cordOf_sublist x d.w f
  obtain ⟨hcord, hmore, hlast, hother, hframe⟩ := State.cordPointAt_spec (s := s) (p := slot.val) (q := q.val) (f := f) hoff
  refine ⟨_, State.cordOf x d.w f, hexec.trans (State.coreDone_slots hframe htrip), fun e he => (hmay e).mp (hsub.subset he),
    (State.eligible_pairwise x d.w f).sublist hsub, fun hn => ⟨?_, fun e he hnot a ha => ?_⟩, fun hn hdue => ?_, fun hn hnone => ?_,
    hcord, hmore, hlast, hother, hframe⟩
  · rw [State.cordOf_full hn, List.length_take, State.length_eligible]
    exact Nat.min_eq_left hn
  · exact State.before_of_not_mem_cordOf hn ((hmay e).mpr he) hnot ha
  · obtain ⟨e, he, hef⟩ := hdue
    rw [State.cordOf_partial hn ⟨e, (hmay e).mpr he, hef⟩]
    exact ⟨State.length_eligible x d.w f, fun e he => (hmay e).mpr he⟩
  · exact State.cordOf_empty hn fun e he => hnone e ((hmay e).mp he)

end Sys2Proof.Machine
end

section
/-!
PROOFS. The engines of a gang take their word (R100, R107, R136): what becomes of their records, and what else of the core stays; and the
ramp of an engine (R116, R117, R119).
-/

namespace Sys2Proof.Machine

/-! ### The engines of a gang -/

theorem enginesOf_lt {mask k g : Nat} (h : g ∈ enginesOf mask k) : g < 4 := by
  obtain ⟨e, -, rfl⟩ := List.mem_map.mp h
  exact Nat.mod_lt _ (by decide)

theorem nodup_enginesOf (mask k : Nat) : (enginesOf mask k).Nodup := by
  refine List.Nodup.map_on (fun a ha b hb hab => ?_) (List.nodup_range.filter _)
  have ha := List.mem_range.mp (List.mem_of_mem_filter ha)
  have hb := List.mem_range.mp (List.mem_of_mem_filter hb)
  omega

theorem length_enginesOf (mask k : Nat) : (enginesOf mask k).length = popCount 4 mask := by
  rw [enginesOf, List.length_map, popCount, List.countP_eq_length_filter]
  rfl

/-- A word whose fields R132 accepts names an engine. -/
theorem enginesOf_ne_nil {w : BitVec 128} (h : engFields w = true) (k : Nat) : enginesOf (wEmask w) k ≠ [] := by
  have hpos : popCount 4 (wEmask w) ≠ 0 := fun h0 => by
    simp [engFields, h0] at h
  exact fun hnil => hpos (by rw [← length_enginesOf _ k, hnil]; rfl)

namespace State

variable {s t u : State} {c off : Nat} {q : QWord}

/-! ### What is kept of the engines' records -/

/-- The engines of core c hold the words that waited and their buffers are as full as they were, and the core holds its cords. -/
structure EngHeld (c : Nat) (s t : State) : Prop where
  cords : (t.cxOf c).cords = (s.cxOf c).cords
  unit : ∀ e, (t.engX c e).u = (s.engX c e).u
  left : ∀ e, (t.engX c e).left = (s.engX c e).left
  lanes : ∀ e, (t.engX c e).lanes = (s.engX c e).lanes

namespace EngHeld

theorem refl (c : Nat) (s : State) : EngHeld c s s := ⟨rfl, fun _ => rfl, fun _ => rfl, fun _ => rfl⟩

theorem trans (h : EngHeld c s t) (k : EngHeld c t u) : EngHeld c s u :=
  ⟨k.cords.trans h.cords, fun e => (k.unit e).trans (h.unit e), fun e => (k.left e).trans (h.left e), fun e => (k.lanes e).trans (h.lanes e)⟩

theorem ite {p : Prop} [Decidable p] (h : EngHeld c s t) (k : EngHeld c s u) : EngHeld c s (if p then t else u) := by split <;> assumption

theorem of_updEng (e r : Nat) (f : Word → Word) : EngHeld c s (s.updEng c e r f) := ⟨rfl, fun _ => rfl, fun _ => rfl, fun _ => rfl⟩

theorem of_updEngX (e : Nat) {f : EngX → EngX} (hu : ∀ x, (f x).u = x.u) (hl : ∀ x, (f x).left = x.left)
    (hn : ∀ x, (f x).lanes = x.lanes) : EngHeld c s (s.updEngX c e f) := by
  refine ⟨?_, fun e' => ?_, fun e' => ?_, fun e' => ?_⟩
  · rw [updEngX, cxOf_updCx, if_pos rfl]
  all_goals
    rw [engX_updEngX]
    split
    next h => simp only [hu, hl, hn, h]
    · rfl

end EngHeld

theorem beginKindle_held (e n : Nat) : EngHeld c s (s.beginKindle c e n) :=
  .trans (.of_updEng e R.engSts _) (.of_updEngX e (fun _ => rfl) (fun _ => rfl) fun _ => rfl)

theorem settleEng_held (e n : Nat) : EngHeld c s (s.settleEng c e n) := by
  unfold settleEng
  split
  · exact .refl c s
  · exact .ite (.refl c s) (.ite (beginKindle_held ..) (.trans (.of_updEng e R.engSts _) (.of_updEngX e (fun _ => rfl) (fun _ => rfl) fun _ => rfl)))

theorem settleRamps_held (off : Nat) : EngHeld c s (s.settleRamps c off) :=
  forEach_keeps (P := EngHeld c s) _ (fun _ _ _ h => h.trans (settleEng_held ..)) (.refl c s)

theorem endKindle_held (e n : Nat) : EngHeld c s (s.endKindle c e n) := by
  unfold endKindle
  split
  · exact .refl c s
  · exact .trans (.of_updEng e R.engKndCnt _) (.of_updEngX e (fun _ => rfl) (fun _ => rfl) fun _ => rfl)

/-! ### An engine takes its word -/

/-- The record of an engine that takes word q at executed cycle n (R100). -/
def takeWord (q : QWord) (n : Nat) (x : EngX) : EngX :=
  let y := { x with u := { x.u with queue := x.u.queue.drop 1, run := some q }, began := n, reject := false }
  match x.u.run with
  | some r => { y with drain := some r, drainBegan := x.began, drainReject := x.reject }
  | none => y

theorem takeWord_spec (q : QWord) (n : Nat) (x : EngX) : (takeWord q n x).u.run = some q ∧ (takeWord q n x).u.queue = x.u.queue.drop 1 ∧
    (takeWord q n x).left = x.left ∧ (takeWord q n x).lanes = x.lanes := by
  unfold takeWord
  split <;> exact ⟨rfl, rfl, rfl, rfl⟩

theorem engTake_eq (e : Nat) : s.engTake c off q e =
    ((s.endKindle c e (s.ran c off)).setEngState c e engActive).updEngX c e (takeWord q (s.ran c off)) := rfl

theorem engX_engTake (e g : Nat) : (s.engTake c off q e).engX c g =
    if g = e then takeWord q (s.ran c off) ((s.endKindle c e (s.ran c off)).engX c e) else (s.endKindle c e (s.ran c off)).engX c g :=
  engX_updEngX _ _

theorem run_engTake (e : Nat) : ((s.engTake c off q e).engX c e).u.run = some q := by
  rw [engX_engTake, if_pos rfl, (takeWord_spec ..).1]

theorem queue_engTake (e : Nat) : ((s.engTake c off q e).engX c e).u.queue = (s.engX c e).u.queue.drop 1 := by
  rw [engX_engTake, if_pos rfl, (takeWord_spec ..).2.1, (endKindle_held ..).unit]

theorem left_engTake (e g : Nat) : ((s.engTake c off q e).engX c g).left = (s.engX c g).left := by
  rw [engX_engTake]
  split
  next h => rw [(takeWord_spec ..).2.2.1, (endKindle_held ..).left, h]
  · exact (endKindle_held ..).left g

theorem lanes_engTake (e g : Nat) : ((s.engTake c off q e).engX c g).lanes = (s.engX c g).lanes := by
  rw [engX_engTake]
  split
  next h => rw [(takeWord_spec ..).2.2.2, (endKindle_held ..).lanes, h]
  · exact (endKindle_held ..).lanes g

theorem engX_engTake_ne {e g : Nat} (h : g ≠ e) :
    (s.engTake c off q e).engX c g = (s.endKindle c e (s.ran c off)).engX c g := by
  rw [engX_engTake, if_neg h]

theorem cords_engTake (e : Nat) : ((s.engTake c off q e).cxOf c).cords = (s.cxOf c).cords := by
  rw [engTake_eq, updEngX, cxOf_updCx, if_pos rfl]
  exact (endKindle_held ..).cords

/-- A register of an engine after one was changed. -/
theorem eng_updEng {e e' r r' : Nat} (f : Word → Word) (hr : r < 0x100) (hr' : r' < 0x100) :
    (s.updEng c e r f).eng c e' r' = if e' = e ∧ r' = r then f (s.eng c e r) else s.eng c e' r' := by
  unfold eng updEng
  rw [core_updCore]
  exact if_congr (by omega) rfl rfl

/-- A register of an engine other than its status changed leaves the states of all. -/
theorem engState_updEng {e r : Nat} (hr : r < 0x100) (hne : r ≠ R.engSts) (f : Word → Word) (g : Nat) :
    (s.updEng c e r f).engState c g = s.engState c g := by
  unfold engState
  rw [eng_updEng (r' := R.engSts) f hr (by decide), if_neg fun h => hne h.2.symm]

/-- The status of an engine changed but for its power state. -/
theorem engState_updSts (e : Nat) {f : Word → Word} (hf : ∀ w, fld (f w) 2 0 = fld w 2 0) (g : Nat) :
    (s.updEng c e R.engSts f).engState c g = s.engState c g := by
  unfold engState
  rw [eng_updEng (r' := R.engSts) f (by decide) (by decide)]
  split
  next hg => rw [hf, hg.1]
  · rfl

theorem engX_updEng (e r : Nat) (f : Word → Word) (g : Nat) : (s.updEng c e r f).engX c g = s.engX c g := rfl

theorem engState_updEngX (e : Nat) (f : EngX → EngX) (g : Nat) : (s.updEngX c e f).engState c g = s.engState c g := rfl

theorem engState_setEngState (e : Nat) {v : Nat} (hv : v < 8) (g : Nat) :
    (s.setEngState c e v).engState c g = if g = e then v else s.engState c g := by
  unfold engState setEngState
  rw [eng_updEng (r' := R.engSts) _ (by decide) (by decide)]
  by_cases h : g = e
  · rw [if_pos ⟨h, rfl⟩, if_pos h, fld_setFld_same _ _ _ _ (by decide)]
    exact Nat.mod_eq_of_lt hv
  · rw [if_neg fun k => h k.1, if_neg h]

theorem engState_endKindle (e n g : Nat) : (s.endKindle c e n).engState c g = s.engState c g := by
  unfold endKindle
  split
  · rfl
  · rw [engState_updEngX, addKnd, engState_updEng (by decide) (by decide)]

theorem engState_engTake (e g : Nat) : (s.engTake c off q e).engState c g = if g = e then engActive else s.engState c g := by
  rw [engTake_eq, engState_updEngX, engState_setEngState _ (by decide), engState_endKindle]

theorem engTake_coreSide (e : Nat) : CoreSide s (s.engTake c off q e) := (endKindle_coreSide c e _).trans rfl

theorem othersKept_endKindle (e n : Nat) : s.othersKept (s.endKindle c e n) c := by
  unfold endKindle
  split
  · exact fun _ _ => ⟨rfl, fun _ => rfl⟩
  · exact othersKept_trans (othersKept_updCore _ _) (othersKept_updCx _)

theorem othersKept_engTake (e : Nat) : s.othersKept (s.engTake c off q e) c :=
  othersKept_trans (othersKept_endKindle _ _) (othersKept_trans (othersKept_updCore _ _) (othersKept_updCx _))

/-! ### A gang takes its word -/

/-- The ramps that have ended taken up, every engine of the gang takes the word (log entry 21). -/
def gangTaken (s : State) (c off : Nat) (q : QWord) : State :=
  forEach (enginesOf (wEmask q.word) q.shift) (s.settleRamps c off) fun t g => t.engTake c off q g

/-- The engines of its gang have taken word q, and beyond registers and records of core c nothing differs. -/
structure GangTook (c : Nat) (q : QWord) (s u : State) : Prop where
  side : CoreSide s u
  others : s.othersKept u c
  cords : (u.cxOf c).cords = (s.cxOf c).cords
  left : ∀ g, (u.engX c g).left = (s.engX c g).left
  lanes : ∀ g, (u.engX c g).lanes = (s.engX c g).lanes
  run : ∀ g ∈ enginesOf (wEmask q.word) q.shift, (u.engX c g).u.run = some q
  queue : ∀ g ∈ enginesOf (wEmask q.word) q.shift, (u.engX c g).u.queue = (s.engX c g).u.queue.drop 1
  power : ∀ g ∈ enginesOf (wEmask q.word) q.shift, u.engState c g = engActive

theorem gangTaken_coreSide : CoreSide s (s.gangTaken c off q) := by
  unfold gangTaken
  exact CoreSide.trans (settleRamps_coreSide c off) (CoreSide.loop (fun _ e => engTake_coreSide e) _)

theorem gangTook_gangTaken : GangTook c q s (s.gangTaken c off q) := by
  have hnodup : ((enginesOf (wEmask q.word) q.shift).map id).Nodup := by
    rw [List.map_id]
    exact nodup_enginesOf ..
  have hheld := settleRamps_held (s := s) (c := c) off
  have hkeep {β : Type} {g : State → β} (h : ∀ u e, g (u.engTake c off q e) = g u) : g (s.gangTaken c off q) = g (s.settleRamps c off) :=
    forEach_keeps (P := fun t => g t = g (s.settleRamps c off)) _ (fun u e _ hu => (h u e).trans hu) rfl
  refine ⟨gangTaken_coreSide, ?_, ?_, fun g => ?_, fun g => ?_, fun g hg => ?_,
    fun g hg => ?_, fun g hg => ?_⟩
  · exact forEach_keeps (P := fun t => s.othersKept t c) _ (fun u e _ h => othersKept_trans h (othersKept_engTake e))
      (settleRamps_engSide off).others
  · exact (hkeep (g := fun t => (t.cxOf c).cords) fun _ _ => cords_engTake _).trans hheld.cords
  · exact (hkeep (g := fun t => (t.engX c g).left) fun _ _ => left_engTake _ _).trans (hheld.left g)
  · exact (hkeep (g := fun t => (t.engX c g).lanes) fun _ _ => lanes_engTake _ _).trans (hheld.lanes g)
  · exact forEach_at id (g := fun t : State => (t.engX c g).u.run) (φ := fun _ => some q) hnodup hg (fun u => run_engTake g)
      (fun u e _ (h : e ≠ g) => by rw [engX_engTake_ne h.symm, (endKindle_held ..).unit]) _
  · rw [← hheld.unit g]
    exact forEach_at id (g := fun t : State => (t.engX c g).u.queue) (φ := fun l => l.drop 1) hnodup hg (fun u => queue_engTake g)
      (fun u e _ (h : e ≠ g) => by rw [engX_engTake_ne h.symm, (endKindle_held ..).unit]) _
  · exact forEach_at id (g := fun t : State => t.engState c g) (φ := fun _ => engActive) hnodup hg
      (fun u => by rw [engState_engTake, if_pos rfl]) (fun u e _ (h : e ≠ g) => by rw [engState_engTake, if_neg h.symm]) _

/-! ### An engine ramps up -/

/-- Engine e ramps up from executed cycle n (R116, R119). -/
def ramped (s : State) (c e n : Nat) : State :=
  ((s.setEngState c e engRampUp).updEng c e R.engRampCnt fun w => incFld w 63 32 1).updEngX c e fun y => { y with ramp := some n }

theorem engState_ramped (e n : Nat) : (s.ramped c e n).engState c e = engRampUp := by
  rw [ramped, engState_updEngX, engState_updEng (by decide) (by decide), engState_setEngState _ (by decide), if_pos rfl]

theorem rampCnt_ramped (e n : Nat) : (s.ramped c e n).eng c e R.engRampCnt = incFld (s.eng c e R.engRampCnt) 63 32 1 := by
  change ((s.setEngState c e engRampUp).updEng c e R.engRampCnt fun w => incFld w 63 32 1).eng c e R.engRampCnt = _
  rw [eng_updEng _ (by decide) (by decide), if_pos ⟨rfl, rfl⟩, setEngState, eng_updEng _ (by decide) (by decide),
    if_neg fun h => absurd h.2 (by decide)]

theorem engX_ramped (e n : Nat) : (s.ramped c e n).engX c e = { s.engX c e with ramp := some n } :=
  (engX_updEngX _ e).trans (if_pos rfl)

theorem ramped_coreSide (e n : Nat) : CoreSide s (s.ramped c e n) := rfl

section
variable {p : Nat} {e : Eng} (hslot : (s.settleRamps c off).slotOf c = some p) (hhead : ((s.settleRamps c off).engX c e.val).u.queue.head? = some q)
include hslot hhead

/-- An engine that may ramp does so where its next word is near (R116). -/
theorem rampUp_of_near (hact : (s.settleRamps c off).slotActive p = true) (hrun : (s.settleRamps c off).coreState c = 2)
    (hrem : (s.settleRamps c off).removed c off = false) (hidle : (s.settleRamps c off).engState c e.val = engIdle)
    (hready : ((s.settleRamps c off).engX c e.val).u.ready = true) (hknd : (s.settleRamps c off).kndOn c e.val = true)
    (hnear : (s.settleRamps c off).issueCycle p q ≤ (s.settleRamps c off).runCycle p off + 64) :
    s.rampUp c off e = (s.settleRamps c off).ramped c e.val ((s.settleRamps c off).ran c off) := by
  unfold rampUp
  dsimp only
  rw [hslot, hhead]
  exact if_pos (by simp [hact, hrun, hrem, hidle, hready, hknd, hnear])

theorem rampUp_of_far (hfar : ((s.settleRamps c off).runCycle p off : Int) + 64 < (s.settleRamps c off).issueCycle p q) :
    s.rampUp c off e = s.settleRamps c off := by
  unfold rampUp
  dsimp only
  rw [hslot, hhead]
  exact if_neg (by simp [hfar])

end

end State
end Sys2Proof.Machine
end

section
/-!
PROOFS. The work of a core's engines on clean own memory and accumulator buffers: what each of its accesses gives and leaves (R99, R110, R134).
`Works` says of a piece of work what it gives, what it makes of memory, and what holds of the buffers before and after; its rules follow how
work is put together.
-/

namespace Sys2Proof.Machine

theorem eacc_bind_ok {α β : Type} {x : EAcc α} {f : α → EAcc β} {s t : State} {a : α} (h : x.run s = (.ok a, t)) :
    (x >>= f).run s = (f a).run t := by
  have hx : x s = (.ok a, t) := h
  simp only [ExceptT.run, Bind.bind, ExceptT.bind, ExceptT.mk, StateT.bind, ExceptT.bindCont, hx]

namespace State

variable {s t u : State} {c : Nat}

/-- The accumulator buffers of the engines, and what their stationary cells hold. -/
abbrev Acbs := Tbl (Tbl (BitVec 72))
abbrev Cells := Tbl (Tbl (BitVec 16))

/-- The bits of an accumulator slot in the engines' buffers. -/
def acbIn (A : Acbs) (c e loc : Nat) : Nat := (Tbl.get 0 loc (A.get [] (engKey c e))).toNat

theorem acbVal_eq (e loc : Nat) : s.acbVal c e loc = acbIn s.acb c e loc := rfl

/-- Only memory, buffers and cells, and of core c the counts of its engines and its generator differ, and no word of memory is in error. -/
structure EngWork (c : Nat) (s t : State) : Prop where
  frame : t = { s with cx := t.cx, coreR := t.coreR, acb := t.acb, stat := t.stat, mem := t.mem, syn := t.syn }
  cx : t.cxOf c = { s.cxOf c with gen := (t.cxOf c).gen }
  others : s.othersKept t c
  power : ∀ e, t.engState c e = s.engState c e
  clean : t.Clean

namespace EngWork

theorem refl (h : s.Clean) : EngWork c s s := ⟨rfl, rfl, fun _ _ => ⟨rfl, fun _ => rfl⟩, fun _ => rfl, h⟩

theorem trans (h : EngWork c s t) (k : EngWork c t u) : EngWork c s u :=
  ⟨by rw [k.frame, h.frame], by rw [k.cx, h.cx], othersKept_trans h.others k.others, fun e => (k.power e).trans (h.power e), k.clean⟩

theorem ite {p : Prop} [Decidable p] (h : EngWork c s t) (k : EngWork c s u) : EngWork c s (if p then t else u) := by split <;> assumption

theorem dieUp (h : EngWork c s t) (d : Nat) : t.dieUp d = s.dieUp d := by rw [h.frame]; rfl

theorem ownAt (h : EngWork c s t) {a d : Nat} (k : s.OwnAt a d) : t.OwnAt a d := by
  have hp (c : Nat) : t.presented c = s.presented c := by rw [h.frame]; rfl
  unfold OwnAt State.locate at k ⊢
  simpa only [hp] using k

theorem engX (h : EngWork c s t) (e : Nat) : t.engX c e = s.engX c e := by
  unfold State.engX
  rw [h.cx]

theorem takeDraws (h : EngWork c s t) (p n : Nat) (q : QWord) : (t.takeDraws p c n q).1 = (s.takeDraws p c n q).1 := by
  have hseed : t.seedGen p c q = s.seedGen p c q := by rw [h.frame]; rfl
  unfold State.takeDraws
  rw [hseed]
  split <;> rfl

/-- A register of an engine other than its status changed. -/
theorem of_updEng (h : s.Clean) (e : Nat) {r : Nat} (hr : r < 0x100) (hne : r ≠ R.engSts) (f : Word → Word) : EngWork c s (s.updEng c e r f) :=
  ⟨rfl, rfl, othersKept_updCore _ _, engState_updEng hr hne f, h⟩

theorem of_noteEng (h : s.Clean) (e : Nat) (x : Tally) : EngWork c s (s.noteEng c e x) := by
  have hflt := fun f => of_updEng (c := c) h e (r := R.engFltCnt) (by decide) (by decide) f
  exact (hflt _).trans (of_updEng (hflt _).clean e (r := R.engOvfCnt) (by decide) (by decide) _)

theorem of_setAcb (h : s.Clean) (e bank i j v : Nat) : EngWork c s (setAcb c e bank i j v s) :=
  ⟨rfl, rfl, fun _ _ => ⟨rfl, fun _ => rfl⟩, fun _ => rfl, h⟩

theorem of_stored {a : Nat} {bs : List Byte} (h : Stored s t a bs) : EngWork c s t := by
  obtain ⟨hf, hc, -⟩ := h
  refine ⟨by rw [hf], ?_, fun d _ => ⟨?_, fun off => ?_⟩, fun e => ?_, hc⟩ <;> rw [hf] <;> rfl

theorem of_takeDraws (h : s.Clean) (p n : Nat) (q : QWord) : EngWork c s (s.takeDraws p c n q).2 := by
  unfold State.takeDraws
  split
  · exact ⟨rfl, by rw [cxOf_updCx, if_pos rfl], othersKept_updCx _, fun _ => rfl, h⟩
  · exact .refl h

theorem loop {α : Type} {f : State → α → State} (l : List α) (h : ∀ u, ∀ a ∈ l, u.Clean → EngWork c u (f u a)) (hs : s.Clean) :
    EngWork c s (forEach l s f) :=
  forEach_keeps (P := EngWork c s) l (fun u a ha k => k.trans (h u a ha k.clean)) (.refl hs)

end EngWork

/-! ### Pieces of work -/

/-- Wherever core c's engines have come to from s, with memory m and V holding of buffers and cells, the work x gives a and leaves the memory
m', and V' holds. -/
def Works {α : Type} (s : State) (c : Nat) (x : EAcc α) (m : List Host.Cell) (V : Acbs → Cells → Prop) (a : α) (m' : List Host.Cell)
    (V' : Acbs → Cells → Prop) : Prop :=
  ∀ t, EngWork c s t → t.mem = m → V t.acb t.stat → ∃ u, x.run t = (.ok a, u) ∧ EngWork c s u ∧ u.mem = m' ∧ V' u.acb u.stat

namespace Works

variable {α β : Type} {m m' m'' : List Host.Cell} {V V' V'' : Acbs → Cells → Prop}

theorem pure (a : α) : s.Works c (pure a) m V a m V := fun t h hm hV => ⟨t, rfl, h, hm, hV⟩

theorem bind {x : EAcc α} {f : α → EAcc β} {a : α} {b : β} (h : s.Works c x m V a m' V') (k : s.Works c (f a) m' V' b m'' V'') :
    s.Works c (x >>= f) m V b m'' V'' := fun t ht hm hV => by
  obtain ⟨u, hx, hu, hm', hV'⟩ := h t ht hm hV
  obtain ⟨v, hf, hv, hm'', hV''⟩ := k u hu hm' hV'
  exact ⟨v, (eacc_bind_ok hx).trans hf, hv, hm'', hV''⟩

theorem imp {x : EAcc α} {a : α} (h : s.Works c x m V a m' V') (hV : ∀ A B, V'' A B → V A B) : s.Works c x m V'' a m' V' :=
  fun t ht hm k => h t ht hm (hV _ _ k)

/-- Work on each element of a list that leaves memory, buffers and cells as they are. -/
theorem mapM {f : α → EAcc β} {g : α → β} {l : List α} (h : ∀ x ∈ l, s.Works c (f x) m V (g x) m V) :
    s.Works c (l.mapM f) m V (l.map g) m V := by
  induction l with
  | nil => exact pure []
  | cons x l ih =>
    rw [List.mapM_cons]
    exact (h x List.mem_cons_self).bind ((ih fun y hy => h y (List.mem_cons_of_mem x hy)).bind (pure _))

/-- Work on one number after another, with the memory and what holds before each. -/
theorem forM_range' {f : Nat → EAcc PUnit} {M : Nat → List Host.Cell} {W : Nat → Acbs → Cells → Prop} (n k : Nat)
    (h : ∀ i, k ≤ i → i < k + n → s.Works c (f i) (M i) (W i) () (M (i + 1)) (W (i + 1))) :
    s.Works c ((List.range' k n).forM f) (M k) (W k) () (M (k + n)) (W (k + n)) := by
  induction n generalizing k with
  | zero => exact pure ()
  | succ n ih =>
    have hrest := ih (k + 1) fun i hi hlt => h i (by omega) (by omega)
    rw [Nat.add_right_comm] at hrest
    exact (h k le_rfl (by omega)).bind hrest

theorem forM_range {f : Nat → EAcc PUnit} {M : Nat → List Host.Cell} {W : Nat → Acbs → Cells → Prop} {n : Nat}
    (h : ∀ i < n, s.Works c (f i) (M i) (W i) () (M (i + 1)) (W (i + 1))) : s.Works c ((List.range n).forM f) (M 0) (W 0) () (M n) (W n) := by
  have hrange := forM_range' n 0 fun i _ hi => h i (by omega)
  rwa [← List.range_eq_range', Nat.zero_add] at hrange

/-- A change of the state that lies within the engines' reach. -/
theorem change {f : State → State}
    (hf : ∀ t, EngWork c s t → t.mem = m → V t.acb t.stat → EngWork c t (f t) ∧ (f t).mem = m' ∧ V' (f t).acb (f t).stat) :
    s.Works c (modify f) m V () m' V' := fun t ht hm hV => by
  obtain ⟨hw, hm', hV'⟩ := hf t ht hm hV
  exact ⟨f t, rfl, ht.trans hw, hm', hV'⟩

/-- Events counted. -/
theorem note (e : Nat) (x : Tally) : s.Works c (modify fun t : State => t.noteEng c e x) m V () m V :=
  change fun _ ht hm hV => ⟨.of_noteEng ht.clean e x, hm, hV⟩

end Works
end State
end Sys2Proof.Machine
end

section
/-!
PROOFS. The accesses of a core's engines: bytes through the array edge, rows written, slots of the accumulator buffer (R98, R99, R110, R134).
-/

namespace Sys2Proof.Machine

theorem leNat_leBytes (k n : Nat) : leNat (leBytes k n) = n % 2 ^ (8 * k) := by
  induction k generalizing n with
  | zero => simp [leBytes, leNat, Nat.mod_one]
  | succ k ih =>
    have hpow : 2 ^ (8 * (k + 1)) = 256 * 2 ^ (8 * k) := by rw [Nat.mul_succ, Nat.pow_add, Nat.mul_comm]
    rw [leBytes, leNat, ih, hpow, Nat.mod_mul]
    rfl

/-- A byte of those read. -/
theorem leAt_gets (m : List Host.Cell) (a : Nat) {i n : Nat} (h : i < n) : leAt (Memory.gets m a n) i 1 = (Memory.get m (a + i)).toNat := by
  unfold leAt
  rw [Memory.take_drop_gets _ _ (by omega)]
  simp [Memory.gets, leNat]

namespace State

variable {s t u : State} {c : Nat}

theorem untagged_engine (c : Nat) : Untagged (Who.engine c) := fun _ => by simp [passTag]

theorem OwnSpan.sub {a n b k : Nat} (h : s.OwnSpan c a n) (hlo : a ≤ b) (hhi : b + k ≤ a + n) : s.OwnSpan c b k :=
  fun x hx hlt => h x (by omega) (by omega)

/-- A row of codes written to a core's own memory (R67). -/
theorem writeRow_own {w : Who} (hw : Untagged w) (h : s.Clean) (hup : s.dieUp (dieOf c) = true) {d : Desc} {f : Fmt} {p r : Nat} {codes : List Nat}
    (hspan : s.OwnSpan c (rowDa d p r) (rowBytes f codes.length)) :
    ∃ t, runAcc (writeRow w d f p r codes) s = (.ok (), t) ∧ EngWork c s t ∧ t.mem = setRow s.mem d f p r codes ∧ t.acb = s.acb ∧ t.stat = s.stat := by
  have hlen := length_packRow f codes 0
  rw [← hlen] at hspan
  suffices hsuff : ∃ t, runAcc (writeRow w d f p r codes) s = (.ok (), t) ∧
      Stored s t (rowDa d p r) (packRow f codes (Memory.get s.mem (rowDa d p r + rowBytes f codes.length - 1)).toNat) by
    obtain ⟨t, hwrite, hst⟩ := hsuff
    exact ⟨t, hwrite, .of_stored hst, hst.mem_eq h, by rw [hst.1], by rw [hst.1]⟩
  unfold Machine.writeRow
  by_cases hhalf : f.storeBits = 4 ∧ codes.length % 2 = 1
  · have hne : packRow f codes 0 ≠ [] := by
      have hpos : 0 < rowBytes f codes.length := by rw [rowBytes, cdiv, hhalf.1]; omega
      exact List.length_pos_iff.mp (by omega)
    obtain ⟨t, hwrite, hst⟩ := writeHalf_own hw h hup hspan hne
    rw [keepNibble_packRow hhalf.1 hhalf.2, hlen] at hst
    refine ⟨t, ?_, hst⟩
    simp only [if_pos hhalf, runAcc, ExceptT.run, Machine.wrHalf, ExceptT.mk, hwrite]
  · obtain ⟨t, hwrite, hst⟩ := writeDa_own hw h hup hspan
    rw [packRow_whole hhalf (Memory.get s.mem _).toNat]
    refine ⟨t, ?_, hst⟩
    simp only [if_neg hhalf, runAcc, ExceptT.run, Machine.wr, ExceptT.mk, hwrite]

/-! ### Slots of the accumulator buffer -/

theorem engKey_inj {e e' : Nat} : engKey c e = engKey c e' ↔ e = e' := by
  unfold engKey
  omega

/-- A slot of a core's engines after one was written (R98). -/
theorem acbVal_setAcb (e bank i j v e' loc : Nat) : (setAcb c e bank i j v s).acbVal c e' loc =
    if e' = e ∧ loc = acbLoc bank i j then v % 2 ^ 64 else s.acbVal c e' loc := by
  unfold acbVal setAcb
  dsimp only
  by_cases he : e' = e
  · subst he
    rw [Tbl.get_set_same]
    by_cases hl : loc = acbLoc bank i j
    · subst hl
      rw [Tbl.get_set_same, if_pos ⟨rfl, rfl⟩, BitVec.toNat_ofNat, Nat.mod_eq_of_lt]
      exact (Nat.mod_lt _ (by decide)).trans (by decide)
    · rw [Tbl.get_set_ne _ _ _ hl, if_neg fun h => hl h.2]
  · rw [Tbl.get_set_ne _ _ _ (mt engKey_inj.mp he), if_neg fun h => he h.1]

/-- Rows and columns of a bank have their own slots. -/
theorem acbLoc_inj {bank i i' j j' : Nat} (hj : j < 32) (hj' : j' < 32) : acbLoc bank i j = acbLoc bank i' j' ↔ i = i' ∧ j = j' := by
  unfold acbLoc
  omega

/-- What a stored slot gives, checked (R110). -/
def slotRead (s : State) (c slot e loc : Nat) (w : BitVec 72) : Except EngErr Nat × State :=
  let r := checkWord (leBytes 8 (w.toNat % 2 ^ 64)) (BitVec.ofNat 8 (w.toNat / 2 ^ 64))
  if r.ue then (.error (.slotErr slot loc (BitVec.ofNat 8 (w.toNat / 2 ^ 64))), s)
  else (.ok (leNat r.data), if r.ce then s.updEng c e R.engEccCnt fun w => incFld w 31 0 1 else s)

theorem slotRead_clean (slot e loc : Nat) {w : BitVec 72} (hw : w.toNat < 2 ^ 64) : s.slotRead c slot e loc w = (.ok w.toNat, s) := by
  have hcheck (bs : List Byte) : checkWord bs (BitVec.ofNat 8 0) = { data := bs, ce := false, ue := false } := rfl
  have hdata : leNat (leBytes 8 w.toNat) = w.toNat := (leNat_leBytes ..).trans (Nat.mod_eq_of_lt hw)
  unfold slotRead
  rw [Nat.div_eq_of_lt hw, hcheck, Nat.mod_eq_of_lt hw]
  exact congrArg (fun n => (Except.ok n, s)) hdata

/-- A slot that was not left undefined and is not in error is read as it stands. -/
theorem readAcb_clean {e : Nat} (hleft : (s.engX c e).left = none) (slot bank i j : Nat) (hval : s.acbVal c e (acbLoc bank i j) < 2 ^ 64) :
    (readAcb c slot e bank i j).run s = (.ok (s.acbVal c e (acbLoc bank i j)), s) := by
  refine Eq.trans ?_ (slotRead_clean (c := c) slot e (acbLoc bank i j) hval)
  unfold readAcb Tbl.get
  simp only [ExceptT.run, ExceptT.mk, hleft]
  cases Tbl.find? (acbLoc bank i j) ((Tbl.find? (engKey c e) s.acb).getD []) <;> rfl

namespace Works

variable {α β : Type} {m m' : List Host.Cell} {V V' : Acbs → Cells → Prop}

/-- Draws taken, and work with them. -/
theorem draws {p n : Nat} {q : QWord} {f : List Nat → EAcc β} {b : β} (h : s.Works c (f (s.takeDraws p c n q).1) m V b m' V') :
    s.Works c (do
      let t ← get
      set (t.takeDraws p c n q).2
      f (t.takeDraws p c n q).1) m V b m' V' := fun t ht hm hV => by
  have hkeep : (t.takeDraws p c n q).2.mem = t.mem ∧ (t.takeDraws p c n q).2.acb = t.acb ∧ (t.takeDraws p c n q).2.stat = t.stat := by
    unfold takeDraws
    split <;> exact ⟨rfl, rfl, rfl⟩
  obtain ⟨hmem, hacb, hstat⟩ := hkeep
  obtain ⟨u, hf, hu⟩ := h _ (ht.trans (.of_takeDraws ht.clean p n q)) (hmem.trans hm) (by rw [hacb, hstat]; exact hV)
  rw [← ht.takeDraws] at hf
  exact ⟨u, hf, hu⟩

theorem readAcb {e slot bank i j v : Nat} (hleft : (s.engX c e).left = none) (h : ∀ A B, V A B → acbIn A c e (acbLoc bank i j) = v) (hv : v < 2 ^ 64) :
    s.Works c (readAcb c slot e bank i j) m V v m V := fun t ht hm hV => by
  have hval : t.acbVal c e (acbLoc bank i j) = v := h _ _ hV
  have hread := readAcb_clean (s := t) (c := c) (e := e) (by rw [ht.engX, hleft]) slot bank i j (by rw [hval]; exact hv)
  rw [hval] at hread
  exact ⟨t, hread, ht, hm, hV⟩

section
variable (hup : s.dieUp (dieOf c) = true)
include hup

/-- Bytes that an engine reads through the array edge (R110). -/
theorem edgeRd {slot e site a n : Nat} (h : s.OwnSpan c a n) : s.Works c (edgeRd c slot e site a n) m V (Memory.gets m a n) m V :=
  fun t ht hm hV => by
    have hread : runAcc (rd (.engine c) a n) t = (.ok (Memory.gets m a n), t) := by
      rw [← hm]
      exact readDa_own ht.clean (untagged_engine c) ((ht.dieUp _).trans hup) fun b hb hlt => ht.ownAt (h b hb hlt)
    refine ⟨t.updEng c e R.engEccCnt fun w => incFld w 31 0 (edgeCes t a n), ?_, ht.trans (.of_updEng ht.clean e (by decide) (by decide) _), hm, hV⟩
    simp only [ExceptT.run, Machine.edgeRd, ExceptT.mk, hread]

/-- A row of a drain written. -/
theorem writeRow {d : Desc} {f : Fmt} {p r slot site : Nat} {codes : List Nat} (h : s.OwnSpan c (rowDa d p r) (rowBytes f codes.length)) :
    s.Works c (edgeRead slot site (writeRow (.engine c) d f p r codes)) m V () (setRow m d f p r codes) V := fun t ht hm hV => by
  obtain ⟨u, hwrite, hu, hmem, hacb, hstat⟩ := writeRow_own (untagged_engine c) ht.clean ((ht.dieUp _).trans hup) (c := c)
    fun b hb hlt => ht.ownAt (h b hb hlt)
  refine ⟨u, ?_, ht.trans hu, by rw [hmem, hm], by rw [hacb, hstat]; exact hV⟩
  simp only [ExceptT.run, edgeRead, ExceptT.mk, hwrite]

end

end Works
end State
end Sys2Proof.Machine
end

section
/-!
PROOFS. Drains of an accumulator bank and the ramp of an engine (R98, R99, R116, R119, R124, R131): what a DRAIN makes of memory, and that a fit
word that its engine can issue does so and leaves accumulators and cells as they were.
-/

namespace Sys2Proof.Machine

namespace State

variable {s t u : State} {c p off : Nat} {q : QWord}

/-! ### A word that its whole gang can issue -/

theorem GangTook.clean (h : GangTook c q s u) (hs : s.Clean) : u.Clean := by
  unfold Clean
  rw [h.side]
  exact hs

theorem GangTook.dieUp (h : GangTook c q s u) (d : Nat) : u.dieUp d = s.dieUp d := by rw [h.side]; rfl

theorem GangTook.presented (h : GangTook c q s u) (d : Nat) : u.presented d = s.presented d := by rw [h.side]; rfl

theorem GangTook.takeDraws (h : GangTook c q s u) (p n : Nat) : (u.takeDraws p c n q).1 = (s.takeDraws p c n q).1 := by
  have hseed : u.seedGen p c q = s.seedGen p c q := by rw [h.side]; rfl
  unfold State.takeDraws
  rw [hseed]
  split <;> rfl

/-- Work that the engines of the gang do after they have taken their word leaves what R131 says of it. -/
theorem GangTook.engRan (h : GangTook c q s u) (k : EngWork c u t) : s.engRan t c q := by
  refine ⟨fun g hg => ⟨?_, ?_, ?_⟩, fun d hd => ?_, ?_⟩
  · rw [k.engX, h.run g hg]
  · rw [k.engX, h.queue g hg]
  · rw [k.power, h.power g hg]
  · exact othersKept_trans h.others k.others d hd
  · rw [k.frame, h.side]

/-- It lies within the reach of work in a core. -/
theorem coreDone_of_engRan (h : s.engRan t c q) (htrip : s.thm.trip = false) : s.coreDone t = .next t := by
  obtain ⟨-, -, hframe⟩ := h
  unfold State.coreDone
  rw [htrip, if_neg Bool.false_ne_true]
  exact congrArg _ (by rw [hframe])

/-- The word issues (R136). -/
theorem engIssue_eq {e : Eng} {opc : Nat} (h : s.gangReady p c off e q opc) : s.engIssue c off e opc =
    if opc = 1 then (s.gangTaken c off q).mmul p c off q else (s.gangTaken c off q).drainWord p c off q := by
  obtain ⟨-, hrun, hhead, hcls, hopc, hdue, hfree, -⟩ := h
  unfold engIssue
  dsimp only
  rw [hrun, hhead]
  exact if_pos (by rw [hcls, hopc, hdue, hfree]; simp)

theorem gangReady.gang_ne_nil {e : Eng} {opc : Nat} (h : s.gangReady p c off e q opc) : enginesOf (wEmask q.word) q.shift ≠ [] := by
  obtain ⟨-, -, -, -, -, -, -, -, -, hfields⟩ := h
  exact enginesOf_ne_nil hfields _

/-- The engine of gang slot 0. -/
theorem gangReady.slot0_lt {e : Eng} {opc : Nat} (h : s.gangReady p c off e q opc) : (enginesOf (wEmask q.word) q.shift).getD 0 0 < 4 := by
  obtain ⟨g, l, hl⟩ := List.exists_cons_of_ne_nil h.gang_ne_nil
  rw [hl]
  exact enginesOf_lt (hl ▸ List.mem_cons_self)

/-! ### The drain of a bank -/

/-- Row i of a bank converted for a drain: `v` gives the bits of its slots (R99). -/
def drainRounds (w : BitVec 128) (f : Fmt) (rs : List Nat) (v : Nat → Nat → Nat) (i : Nat) : List Rounded :=
  (List.range (wN w)).map fun j =>
    f.round ((wRound w).into (classAcc (wbits w 67 64)) f) (rs.getD (i * wN w + j) 0) ((classAcc (wbits w 67 64)).decode (v i j))

/-- The drain of one row, with the draws `rs` of its word. -/
def drainRow (c e : Nat) (w : BitVec 128) (d : Desc) (f : Fmt) (lanes : Nat) (rs : List Nat) (i : Nat) : EAcc Unit := do
  let vs ← (List.range (wN w)).mapM fun j => readAcb c 0 e (wBank w) i j
  let rd := drainRounds w f rs (fun _ j => vs.getD j 0) i
  modify fun t => t.noteEng c e (tallySum ((rd.take lanes).map fun r => tallyOf r false))
  if min (wN w) lanes ≠ 0 then
    edgeRead 0 0 (writeRow (.engine c) d f 0 i ((rd.take lanes).map (·.code)))

theorem drainBank_eq (e : Nat) (d : Desc) (f : Fmt) (lanes : Nat) : drainBank p c e q d f lanes = (do
    let s ← get
    set (s.takeDraws p c (wM q.word * wN q.word) q).2
    (List.range (wM q.word)).forM (drainRow c e q.word d f lanes (s.takeDraws p c (wM q.word * wN q.word) q).1)) := rfl

/-- Memory after the drain of the first k rows. -/
def drainedTo (s : State) (p c : Nat) (q : QWord) (d : Desc) (f : Fmt) (lanes : Nat) (v : Nat → Nat → Nat) (k : Nat) : List Host.Cell :=
  (List.range k).foldl (fun m i => if min (wN q.word) lanes = 0 then m
    else setRow m d f 0 i (((drainRounds q.word f (s.takeDraws p c (wM q.word * wN q.word) q).1 v i).take lanes).map (·.code))) s.mem

theorem drainedTo_succ (d : Desc) (f : Fmt) (lanes : Nat) (v : Nat → Nat → Nat) (k : Nat) : s.drainedTo p c q d f lanes v (k + 1) =
    if min (wN q.word) lanes = 0 then s.drainedTo p c q d f lanes v k
    else setRow (s.drainedTo p c q d f lanes v k) d f 0 k
      (((drainRounds q.word f (s.takeDraws p c (wM q.word * wN q.word) q).1 v k).take lanes).map (·.code)) := by
  unfold drainedTo
  rw [List.range_succ, List.foldl_append]
  rfl

theorem drainedTo_all (d : Desc) (f : Fmt) (lanes : Nat) (v : Nat → Nat → Nat) :
    s.drainedTo p c q d f lanes v (wM q.word) = s.drained p c q d f lanes v := by
  unfold drainedTo drained drainRounds
  simp only [List.map_take, List.map_map]
  rfl

theorem GangTook.drained (h : GangTook c q s u) (p : Nat) (d : Desc) (f : Fmt) (lanes : Nat) (v : Nat → Nat → Nat) :
    u.drained p c q d f lanes v = s.drained p c q d f lanes v := by
  have hmem : u.mem = s.mem := by rw [h.side]
  rw [← drainedTo_all, ← drainedTo_all]
  unfold drainedTo
  rw [h.takeDraws, hmem]

namespace Works

variable {m : List Host.Cell} {V : Acbs → Cells → Prop}

theorem drainRow (hup : s.dieUp (dieOf c) = true) {e i : Nat} {w : BitVec 128} {d : Desc} {f : Fmt} {v : Nat → Nat → Nat}
    (hleft : (s.engX c e).left = none) (hval : ∀ A B, V A B → ∀ j < wN w, acbIn A c e (acbLoc (wBank w) i j) = v i j)
    (hlt : ∀ j < wN w, v i j < 2 ^ 64) (hspan : s.OwnSpan c (rowDa d 0 i) (rowBytes f (wN w))) (lanes : Nat) (rs : List Nat) :
    s.Works c (drainRow c e w d f lanes rs i) m V ()
      (if min (wN w) lanes = 0 then m else setRow m d f 0 i (((drainRounds w f rs v i).take lanes).map (·.code))) V := by
  have hrounds : drainRounds w f rs (fun _ j => ((List.range (wN w)).map (v i)).getD j 0) i = drainRounds w f rs v i :=
    List.map_congr_left fun j hj => by simp [List.mem_range.mp hj]
  refine (mapM (g := v i) fun j hj => ?_).bind ?_
  · have hj := List.mem_range.mp hj
    exact readAcb hleft (fun A B h => hval A B h j hj) (hlt j hj)
  · dsimp only
    rw [hrounds]
    refine (note e _).bind ?_
    by_cases h0 : min (wN w) lanes = 0
    · rw [if_neg (not_not.mpr h0), if_pos h0]
      exact pure ()
    · rw [if_pos h0, if_neg h0]
      refine writeRow hup (hspan.mono (rowBytes_mono f ?_))
      simp [drainRounds]

/-- Rows 0 to M - 1 of a bank drained (R99, R124). -/
theorem drainBank (hc : c < 512) (hp : s.presented c = true) (hup : s.dieUp (dieOf c) = true) {e : Nat} {d : Desc} {f : Fmt} {v : Nat → Nat → Nat}
    (hf : fmtOf d.fmt = some f) (hfit : State.fitsC c q.word d = true) (hleft : (s.engX c e).left = none)
    (hval : ∀ A B, V A B → ∀ i < wM q.word, ∀ j < wN q.word, acbIn A c e (acbLoc (wBank q.word) i j) = v i j)
    (hlt : ∀ i < wM q.word, ∀ j < wN q.word, v i j < 2 ^ 64) (lanes : Nat) :
    s.Works c (drainBank p c e q d f lanes) s.mem V () (s.drained p c q d f lanes v) V := by
  have hspan : spanFits c d (rowBytes f (wN q.word)) (wM q.word) 1 true = true := by
    rw [fitsC, hf, Bool.and_eq_true] at hfit
    exact (Bool.and_eq_true_iff.mp hfit.2).1
  rw [drainBank_eq, ← drainedTo_all]
  refine draws (f := fun rs => (List.range (wM q.word)).forM (State.drainRow c e q.word d f lanes rs))
    (forM_range (M := s.drainedTo p c q d f lanes v) (W := fun _ => V) fun i hi => ?_)
  rw [drainedTo_succ]
  exact drainRow hup hleft (fun A B h => hval A B h i hi) (hlt i hi) (ownSpan_row hc hp hspan Nat.one_pos hi le_rfl) lanes _

end Works

/-! ### DRAIN -/

/-- The status of an engine changed but for its power state. -/
theorem EngWork.of_updSts (h : s.Clean) (e : Nat) {f : Word → Word} (hf : ∀ w, fld (f w) 2 0 = fld w 2 0) :
    EngWork c s (s.updEng c e R.engSts f) := ⟨rfl, rfl, othersKept_updCore _ _, engState_updSts e hf, h⟩

/-- The flag and the operation that a DRAIN shows in its engine's registers. -/
def drainShown (s : State) (c e : Nat) (q : QWord) : State :=
  (s.updEng c e R.engSts fun v => setBit v 7 true).updEng c e R.engOp fun v => setFld (setFld v 19 16 (wbits q.word 67 64)) 15 0 q.op

theorem engWork_drainShown (h : s.Clean) (e : Nat) : EngWork c s (s.drainShown c e q) := by
  have hsts : EngWork c s (s.updEng c e R.engSts fun v => setBit v 7 true) := .of_updSts h e fun w => fld_setBit_apart w 7 2 0 true (by decide)
  exact hsts.trans (.of_updEng hsts.clean e (r := R.engOp) (by decide) (by decide) _)

/-- A DRAIN whose destination is fit drains the bank by its width (R99, R124). The word is opened as a function, and the checks made variables
before its cases reduce: the kernel would decide them at the operands else. -/
theorem drainWord_eq {d : Desc} {f : Fmt} (hfields : engFields q.word = true) (hread : runAcc (readDesc c (wbits q.word 8 0)) s = (.ok d, s))
    (hf : fmtOf d.fmt = some f) (hfmt : drainFmt q.word d = true) (hfit : fitsC c q.word d = true) (off : Nat) :
    s.drainWord p c off q = (s.drainShown c ((enginesOf (wEmask q.word) q.shift).getD 0 0) q).engRun c off (enginesOf (wEmask q.word) q.shift)
      (drainBank p c ((enginesOf (wEmask q.word) q.shift).getD 0 0) q d f
        (((s.drainShown c ((enginesOf (wEmask q.word) q.shift).getD 0 0) q).engX c ((enginesOf (wEmask q.word) q.shift).getD 0 0)).lanes.get 32
          (wBank q.word))) := by
  obtain ⟨word, hword, hopen⟩ : ∃ word, word = drainWord ∧ word = drainWord := ⟨_, rfl, rfl⟩
  rw [← hword]
  delta drainWord at hopen
  clear hword
  generalize @runAcc Desc = ra at hread hopen
  generalize fitsC = fits at hfit hopen
  generalize drainFmt = fmts at hfmt hopen
  generalize engFields = fields at hfields hopen
  generalize fmtOf = fmt at hf hopen
  subst hopen
  simp only [hread, hf, hfields, hfmt, hfit, Bool.not_true, Bool.or_false, Bool.false_eq_true, if_false, drainShown]

theorem engRun_ok {gang : List Nat} {x : EAcc Unit} (h : x.run s = (.ok (), t)) : s.engRun c off gang x = t := by
  unfold engRun
  rw [h]

/-- A fit DRAIN that its engine can issue. -/
theorem exec_drainWord (hc : c < 512) {e : Eng} {d : Desc} {f : Fmt} (h : s.gangReady p c off e q 2)
    (hread : runAcc (readDesc c (wbits q.word 8 0)) (s.gangTaken c off q) = (.ok d, s.gangTaken c off q)) (hf : fmtOf d.fmt = some f)
    (hfmt : drainFmt q.word d = true) (hfit : fitsC c q.word d = true) :
    ∃ t, s.coreDone (s.engIssue c off e 2) = .next t ∧ s.engRan t c q ∧ t.acb = s.acb ∧ t.stat = s.stat ∧
      t.mem = s.drained p c q d f ((s.engX c ((enginesOf (wEmask q.word) q.shift).getD 0 0)).lanes.get 32 (wBank q.word))
        fun i j => s.acbVal c ((enginesOf (wEmask q.word) q.shift).getD 0 0) (acbLoc (wBank q.word) i j) := by
  have htook : GangTook c q s (s.gangTaken c off q) := gangTook_gangTaken
  have hslot := h.slot0_lt
  have hissue := engIssue_eq h
  obtain ⟨htrip, -, -, -, -, -, -, ⟨hp, hup, hclean⟩, hacb, hfields⟩ := h
  rw [if_neg (by decide), drainWord_eq hfields hread hf hfmt hfit] at hissue
  generalize s.gangTaken c off q = u at htook hissue
  generalize (enginesOf (wEmask q.word) q.shift).getD 0 0 = g at hslot hissue ⊢
  obtain ⟨hleft, hvals⟩ := hacb g hslot
  have huclean := htook.clean hclean
  have hshown := engWork_drainShown (c := c) (q := q) huclean g
  have huacb : u.acb = s.acb := by rw [htook.side]
  have hwork := Works.drainBank (s := u) (p := p) (V := fun A B => A = u.acb ∧ B = u.stat) hc ((htook.presented c).trans hp)
    ((htook.dieUp _).trans hup) hf hfit ((htook.left g).trans hleft)
    (v := fun i j => s.acbVal c g (acbLoc (wBank q.word) i j)) (fun A B hV i _ j _ => by rw [acbVal_eq, hV.1, huacb])
    (fun i _ j _ => hvals _) ((s.engX c g).lanes.get 32 (wBank q.word))
  obtain ⟨t, hrun, hwt, hmem, hbuf, hstat⟩ := hwork _ hshown rfl ⟨rfl, rfl⟩
  rw [hshown.engX, htook.lanes, engRun_ok hrun] at hissue
  have hran := htook.engRan hwt
  refine ⟨t, ?_, hran, hbuf.trans huacb, hstat.trans (by rw [htook.side]), hmem.trans (htook.drained ..)⟩
  rw [hissue, coreDone_of_engRan hran htrip]

end State

/-- Settles O27: a DRAIN reads the bank, converts and writes it row by row; an engine ramps where its next word is near. -/
theorem drainConverts : Obligations.DrainConverts := by
  intro s core e off p q
  refine ⟨?_, ?_⟩
  · intro d f gang u h hread hf hfmt hfit
    exact State.exec_drainWord core.isLt h hread hf hfmt hfit
  intro u htrip hslot hact hrun hrem hhead hidle hready hknd
  have hside : State.CoreSide s u := State.settleRamps_coreSide core.val off
  refine ⟨fun hnear => ?_, fun hfar => ?_⟩
  · have hramp : State.CoreSide s (u.ramped core.val e.val (u.ran core.val off)) := hside.trans (State.ramped_coreSide ..)
    have hexec := State.rampUp_of_near hslot hhead hact hrun hrem hidle hready hknd hnear
    exact ⟨_, (congrArg s.coreDone hexec).trans (hramp.coreDone htrip), State.engState_ramped .., State.rampCnt_ramped .., State.engX_ramped .., by
      rw [hramp]⟩
  · exact (congrArg s.coreDone (State.rampUp_of_far hslot hhead hfar)).trans (hside.coreDone htrip)

end Sys2Proof.Machine
end

section
/-!
PROOFS. The operands of an MMUL (R96, R105, R107, R111, R112, R124, R133, R134): a fit operand lies in the core's own memory with every run that
the array reads of it, so that the tiles of a gang slot are read as memory holds them.
-/

namespace Sys2Proof.Machine

/-! ### Bytes of whole blocks -/

theorem Fmt.storeBits_pos (f : Fmt) : 0 < f.storeBits := by cases f <;> decide

theorem blockBytes (b n : Nat) : 32 * n * b / 8 = 4 * (n * b) := by
  rw [Nat.mul_assoc, Nat.div_eq_of_eq_mul_right (by decide) (show 32 * (n * b) = 8 * (4 * (n * b)) by omega)]

theorem rowBytes_blocks (f : Fmt) (n : Nat) : rowBytes f (32 * n) = 4 * (n * f.storeBits) := by
  rw [rowBytes, cdiv, Nat.mul_assoc]
  omega

theorem cdiv_blocks (n : Nat) : cdiv (32 * n) 32 = n := by
  unfold cdiv
  omega

theorem classKt_div (cls : Nat) : classKt cls / 32 = classGroup cls := Nat.mul_div_cancel_left _ (by decide)

theorem le_foldl_add {α : Type} (l : List α) (g : α → Nat) (a : Nat) : a ≤ l.foldl (fun n d => n + g d) a := by
  induction l generalizing a with
  | nil => exact le_rfl
  | cons d l ih => exact (Nat.le_add_right a (g d)).trans (ih _)

/-- Positions inside their dimensions lie at most at the last of each. -/
theorem Conv.offset_le (l : List (ConvDim)) (ins : List Int) (h : (l.zip ins).all fun p => decide (0 ≤ p.2 ∧ p.2 < p.1.ext)) {a b : Nat}
    (hab : a ≤ b) : (l.zip ins).foldl (fun n p => n + p.2.toNat * p.1.pitch) a ≤ l.foldl (fun n d => n + (d.ext - 1) * d.pitch) b := by
  induction l generalizing ins a b with
  | nil => exact hab
  | cons d l ih =>
    cases ins with
    | nil => exact hab.trans (le_foldl_add (d :: l) (fun d => (d.ext - 1) * d.pitch) b)
    | cons x ins =>
      rw [List.zip_cons_cons, List.all_cons, Bool.and_eq_true, decide_eq_true_eq] at h
      obtain ⟨⟨hlo, hhi⟩, hrest⟩ := h
      dsimp only at hlo hhi
      exact ih ins hrest (Nat.add_le_add hab (Nat.mul_le_mul_right _ (show x.toNat ≤ d.ext - 1 by omega)))

/-- A run of 32 channels that is not padding ends within the input (R112, R134). -/
theorem Conv.runDa_bounds {v : Conv} {f : Fmt} {o q ch a : Nat} (h : v.runDa f o q (32 * ch) = some a) {n : Nat} (hcin : v.cin = 32 * n)
    (hch : ch < n) : v.base ≤ a ∧ a + 4 * f.storeBits ≤ v.endDa f 1 0 := by
  unfold Conv.runDa at h
  dsimp only at h
  generalize (v.dims.zip _).map _ = ins at h
  split at h
  case isFalse => cases h
  case isTrue hin =>
    obtain rfl := Option.some.inj h
    have hoff := Conv.offset_le v.dims ins hin (le_refl 0)
    have hblock := Nat.mul_le_mul_right f.storeBits hch
    rw [Nat.succ_mul] at hblock
    rw [blockBytes]
    unfold Conv.endDa
    rw [hcin, blockBytes]
    omega

theorem Conv.endDa_planes (v : Conv) (f : Fmt) (planes pitch : Nat) : v.endDa f planes pitch = v.endDa f 1 0 + (planes - 1) * pitch := by
  unfold Conv.endDa
  omega

/-- The scale byte of a run (R112, R133). -/
theorem scaleByte_lt {x e b : Nat} (hb : 0 < b) (h : x + 4 * b ≤ e) : x * 8 / (32 * b) + 1 ≤ cdiv (e * 8) (32 * b) := by
  have hpos : 0 < 32 * b := by omega
  rw [cdiv, Nat.le_div_iff_mul_le hpos, Nat.succ_mul]
  have := Nat.div_mul_le_self (x * 8) (32 * b)
  omega

namespace State

variable {s : State} {c : Nat}

/-! ### Fit operands -/

/-- The passes of a word read the planes that R132 names. -/
theorem lt_planesOf {w : BitVec 128} {x : Nat × Nat} (h : x ∈ passesOf w) : x.1 < planesOf w ∧ x.2 < planesOf w := by
  unfold passesOf at h
  unfold planesOf
  match hsplit : wbits w 60 59 with
  | 0 => exact (by decide : ∀ y ∈ [(0, 0)], y.1 < 1 ∧ y.2 < 1) x (by rwa [hsplit] at h)
  | 1 => exact (by decide : ∀ y ∈ [(1, 0), (0, 1), (0, 0)], y.1 < 2 ∧ y.2 < 2) x (by rwa [hsplit] at h)
  | 2 => exact (by decide : ∀ y ∈ [(2, 0), (1, 1), (0, 2), (1, 0), (0, 1), (0, 0)], y.1 < 3 ∧ y.2 < 3) x (by rwa [hsplit] at h)
  | k + 3 =>
    rw [hsplit] at h
    obtain ⟨i, hi, rfl⟩ := List.mem_map.mp h
    have hi := List.mem_range.mp hi
    change i < wbits w 58 56 + 1 ∧ wbits w 58 56 - i < wbits w 58 56 + 1
    omega

/-- The rows of B that an MMUL takes. -/
def bDepth (o : MmulOp) : Nat :=
  match o.conv with
  | some v => min v.k (wT o.w * classKt (wbits o.w 67 64))
  | none => wT o.w * classKt (wbits o.w 67 64)

/-- The rows of B from this one on are missing (R96). -/
def bMissing (o : MmulOp) : Nat :=
  match o.conv with
  | none => wT o.w * classKt (wbits o.w 67 64)
  | some v => v.k

/-- The operands of an MMUL fit R134, and a convolution has blocks of 32 channels (R111). -/
structure MmulFits (c : Nat) (o : MmulOp) : Prop where
  a : fitsA c o.w o.a o.fa o.conv (planesOf o.w) = true
  b : descFits c o.b o.fb .col (bDepth o) (wN o.w) (planesOf o.w) false = true
  conv : ∀ v, o.conv = some v → 0 < v.cin ∧ v.cin % 32 = 0

theorem lt_bDepth {o : MmulOp} {t k : Nat} (ht : t < wT o.w) (hk : k < classKt (wbits o.w 67 64)) (h : t * classKt (wbits o.w 67 64) + k < bMissing o) :
    t * classKt (wbits o.w 67 64) + k < bDepth o := by
  have htile : t * classKt (wbits o.w 67 64) + k < wT o.w * classKt (wbits o.w 67 64) := by
    have := Nat.mul_le_mul_right (classKt (wbits o.w 67 64)) (show t + 1 ≤ wT o.w from ht)
    rw [Nat.succ_mul] at this
    omega
  unfold bMissing at h
  unfold bDepth
  split at h
  next hconv => rwa [hconv]
  next v hconv =>
    rw [hconv]
    exact Nat.lt_min.mpr ⟨h, htile⟩

/-- Input, convolution descriptor and scale plane of a fit convolution lie in one part of the core's memory. -/
theorem fitsA_conv {w : BitVec 128} {d : Desc} {f : Fmt} {v : Conv} {planes : Nat} (h : fitsA c w d f (some v) planes = true) :
    (ownPart c v.base (v.endDa f planes d.planePitch)).isSome = true ∧ (f.scaled = true →
      (ownPart c d.scaleBase (d.scaleBase + cdiv ((v.endDa f 1 0 - v.base) * 8) (32 * f.storeBits))).isSome = true) := by
  simp only [fitsA, Bool.and_eq_true, Bool.or_eq_true, Bool.not_eq_true', beq_iff_eq] at h
  obtain ⟨⟨hin, -⟩, hscale⟩ := h
  refine ⟨hin, fun hf => ?_⟩
  rcases hscale with h | h
  · rw [hf] at h
    cases h
  · rwa [h]

section
variable (hc : c < 512) (hp : s.presented c = true)
include hc hp

theorem ownSpan_colScale {d : Desc} {f : Fmt} {rows cols planes : Nat} {so : Bool} (h : descFits c d f .col rows cols planes so = true)
    (hf : f.scaled = true) {b n : Nat} (hb : 32 * b < rows) (hn : n ≤ cols) : s.OwnSpan c (d.scaleBase + b * d.scalePitch) n := by
  obtain ⟨hspan, hscale⟩ : spanFits c d (rowBytes f cols) rows planes so = true ∧
      ownPart c d.scaleBase (scaleEnd d .col rows cols) = ownPart c d.base (extentEnd d (rowBytes f cols) rows planes) := by
    simpa [descFits, hf] using h
  have hsome := hscale ▸ ownPart_of_spanFits hspan
  have hrow := Nat.mul_le_mul_right d.scalePitch (show b ≤ cdiv rows 32 - 1 by unfold cdiv; omega)
  have hhi : d.scaleBase + b * d.scalePitch + n ≤ scaleEnd d .col rows cols := by unfold scaleEnd; dsimp only; omega
  exact ownSpan_of_ownPart hc hp hsome (by omega) hhi

end

/-! ### Tiles read -/

namespace Works

variable {α β : Type} {m m' : List Host.Cell} {V : Acbs → Cells → Prop}

/-- Work whose result is put into a form. -/
theorem map {x : EAcc α} {a : α} (h : s.Works c x m V a m' V) (f : α → β) : s.Works c (x >>= fun y => Pure.pure (f y)) m V (f a) m' V :=
  h.bind (pure _)

/-- Elements read from their bytes and, where their format is scaled, the scale bytes of their blocks (R133). -/
theorem elems (hup : s.dieUp (dieOf c) = true) {f : Fmt} {slot e site n a k b l : Nat} (ha : s.OwnSpan c a k)
    (hb : f.scaled = true → s.OwnSpan c b l) : s.Works c (do
      let bs ← Machine.edgeRd c slot e site a k
      let sc ← if f.scaled then Machine.edgeRd c slot e site b l else Pure.pure []
      return elemsOf f n bs sc) m V (elemsOf f n (Memory.gets m a k) (if f.scaled then Memory.gets m b l else [])) m V := by
  refine (edgeRd hup ha).bind ?_
  by_cases hf : f.scaled = true
  · simp only [if_pos hf]
    exact .map (edgeRd hup (hb hf)) _
  · simp only [if_neg hf]
    exact .map (.pure []) _

end Works

/-- The scale bytes that a tile reads for one block of rows of B (R124, R133). -/
def scalesB (s : State) (o : MmulOp) (t b : Nat) : List Byte :=
  if o.fb.scaled && min (wN o.w) o.lanes != 0 && t * classKt (wbits o.w 67 64) + 32 * b < bMissing o then
    Memory.gets s.mem (o.b.scaleBase + (t * classGroup (wbits o.w 67 64) + b) * o.b.scalePitch) (min (wN o.w) o.lanes)
  else []

/-- A row of B from the bytes and scale bytes that a tile reads. -/
theorem rowB_eq {o : MmulOp} (j t k : Nat) : s.rowB o j (t * classKt (wbits o.w 67 64) + k) (bMissing o) =
    (List.range (wN o.w)).map fun x =>
      if x < min (wN o.w) o.lanes && t * classKt (wbits o.w 67 64) + k < bMissing o then
        (elemAt o.fb (if min (wN o.w) o.lanes = 0 ∨ bMissing o ≤ t * classKt (wbits o.w 67 64) + k then [] else
            Memory.gets s.mem (rowDa o.b j (t * classKt (wbits o.w 67 64) + k)) (rowBytes o.fb (min (wN o.w) o.lanes))) x,
          if o.fb.scaled then leAt (s.scalesB o t (k / 32)) x 1 else 127)
      else Elem.pad := by
  unfold rowB
  refine List.map_congr_left fun x _ => ?_
  by_cases h : x < min (wN o.w) o.lanes ∧ t * classKt (wbits o.w 67 64) + k < bMissing o
  · obtain ⟨hx, hrow⟩ := h
    have hblock : t * classKt (wbits o.w 67 64) + 32 * (k / 32) < bMissing o := by omega
    have hdiv : (t * classKt (wbits o.w 67 64) + k) / 32 = t * classGroup (wbits o.w 67 64) + k / 32 := by
      rw [classKt, Nat.mul_left_comm, Nat.mul_add_div (by decide)]
    have hscale (hf : o.fb.scaled = true) : leAt (s.scalesB o t (k / 32)) x 1 =
        (Memory.get s.mem (o.b.scaleBase + (t * classKt (wbits o.w 67 64) + k) / 32 * o.b.scalePitch + x)).toNat := by
      rw [scalesB, if_pos (by simp [hf, hblock, show min (wN o.w) o.lanes ≠ 0 by omega]), leAt_gets _ _ hx, hdiv]
    have hread : ¬(min (wN o.w) o.lanes = 0 ∨ bMissing o ≤ t * classKt (wbits o.w 67 64) + k) := by omega
    refine (if_pos ⟨hx, hrow⟩).trans (Eq.trans ?_ (if_pos (Bool.and_eq_true_iff.mpr ⟨decide_eq_true hx, decide_eq_true hrow⟩)).symm)
    rw [if_neg hread]
    by_cases hf : o.fb.scaled = true
    · rw [if_pos hf, if_pos hf, hscale hf]
    · rw [if_neg hf, if_neg hf]
  · rw [if_neg h, if_neg (by simpa using h)]

namespace Works

variable {V : Acbs → Cells → Prop}

section
variable (hc : c < 512) (hp : s.presented c = true) (hup : s.dieUp (dieOf c) = true) {o : MmulOp} (hfit : MmulFits c o)
include hc hp hup hfit

/-- A streamed row of A for a tile (R96, R112, R133). -/
theorem readA {i r t : Nat} (hi : i < planesOf o.w) (hr : r < wM o.w) (ht : t < wT o.w) (slot e : Nat) :
    s.Works c (Machine.readA c slot e o.a o.fa o.conv i r (t * classKt (wbits o.w 67 64)) (classKt (wbits o.w 67 64))) s.mem V
      (s.rowA o i r (t * classKt (wbits o.w 67 64)) (classKt (wbits o.w 67 64))) s.mem V := by
  obtain ⟨ha, -, hconv⟩ := hfit
  unfold Machine.readA State.rowA
  rw [classKt_div]
  have hk : t * classKt (wbits o.w 67 64) = 32 * (t * classGroup (wbits o.w 67 64)) := Nat.mul_left_comm ..
  have hle : (t + 1) * classGroup (wbits o.w 67 64) ≤ wT o.w * classGroup (wbits o.w 67 64) := Nat.mul_le_mul_right _ ht
  rw [Nat.succ_mul] at hle
  rw [hk]
  generalize t * classGroup (wbits o.w 67 64) = κ at hle ⊢
  match hv : o.conv with
  | none =>
    have hdepth : wT o.w * classKt (wbits o.w 67 64) = 32 * (wT o.w * classGroup (wbits o.w 67 64)) := Nat.mul_left_comm ..
    rw [hv] at ha
    change descFits c o.a o.fa .row (wM o.w) (wT o.w * classKt (wbits o.w 67 64)) (planesOf o.w) false = true at ha
    rw [hdepth] at ha
    have hspan : spanFits c o.a (rowBytes o.fa (32 * (wT o.w * classGroup (wbits o.w 67 64)))) (wM o.w) (planesOf o.w) false = true :=
      (Bool.and_eq_true_iff.mp ha).1
    have hrow := ownSpan_row hc hp hspan hi hr le_rfl
    rw [rowBytes_blocks] at hrow
    refine elems hup (hrow.sub (Nat.le_add_right ..) ?_) fun hf => (ownSpan_scale hc hp ha hf hr le_rfl).sub (Nat.le_add_right ..) ?_
    · rw [blockBytes, classKt, rowBytes_blocks]
      have := Nat.mul_le_mul_right o.fa.storeBits hle
      rw [Nat.add_mul] at this
      omega
    · rw [cdiv_blocks]
      omega
  | some v =>
    obtain ⟨hpos, h32⟩ := hconv v hv
    rw [hv] at ha
    obtain ⟨hin, hscale⟩ := fitsA_conv ha
    refine .map (.mapM fun b _ => ?_) List.flatten
    dsimp only
    generalize hrun : (if 32 * κ + 32 * b < v.k then v.runDa o.fa r ((32 * κ + 32 * b) / v.cin) ((32 * κ + 32 * b) % v.cin) else none) = run
    match run, hrun with
    | none, _ => exact .pure _
    | some a, hrun =>
      have hsome := (Option.ite_none_right_eq_some.mp hrun).2
      have hchannel : (32 * κ + 32 * b) % v.cin = 32 * ((κ + b) % (v.cin / 32)) := by
        rw [← Nat.mul_mod_mul_left, Nat.mul_add, Nat.mul_div_cancel' (Nat.dvd_of_mod_eq_zero h32)]
      rw [hchannel] at hsome
      obtain ⟨hlo, hhi⟩ := Conv.runDa_bounds hsome (n := v.cin / 32) (by omega) (Nat.mod_lt _ (by omega))
      have hplane := Nat.mul_le_mul_right o.a.planePitch (show i ≤ planesOf o.w - 1 by omega)
      have hblock : rowBytes o.fa 32 = 4 * o.fa.storeBits := (rowBytes_blocks o.fa 1).trans (by rw [Nat.one_mul])
      refine elems hup (ownSpan_of_ownPart hc hp hin (by omega) ?_) fun hf => ownSpan_of_ownPart hc hp (hscale hf) (Nat.le_add_right ..) ?_
      · rw [v.endDa_planes]
        omega
      · have := scaleByte_lt o.fa.storeBits_pos (show a - v.base + 4 * o.fa.storeBits ≤ v.endDa o.fa 1 0 - v.base by omega)
        omega

/-- The rows of B for a tile, by columns that a cord fills (R96, R124, R133). -/
theorem readB {j t : Nat} (hj : j < planesOf o.w) (ht : t < wT o.w) (slot e : Nat) :
    s.Works c (Machine.readB c slot e o.b o.fb j (t * classKt (wbits o.w 67 64)) (classKt (wbits o.w 67 64)) (wN o.w) o.lanes (bMissing o)) s.mem V
      ((List.range (classKt (wbits o.w 67 64))).map fun k => s.rowB o j (t * classKt (wbits o.w 67 64) + k) (bMissing o)) s.mem V := by
  have hb := hfit.b
  have hspan : spanFits c o.b (rowBytes o.fb (wN o.w)) (bDepth o) (planesOf o.w) false = true := (Bool.and_eq_true_iff.mp hb).1
  have htile : t * classKt (wbits o.w 67 64) = 32 * (t * classGroup (wbits o.w 67 64)) := Nat.mul_left_comm ..
  have hkt : classKt (wbits o.w 67 64) = 32 * classGroup (wbits o.w 67 64) := rfl
  unfold Machine.readB
  rw [classKt_div, show t * classKt (wbits o.w 67 64) / 32 = t * classGroup (wbits o.w 67 64) by omega]
  dsimp only
  refine .bind (.mapM (g := s.scalesB o t) fun b hbk => ?_) (.mapM fun k hk => ?_)
  · have hbk := List.mem_range.mp hbk
    unfold scalesB
    split
    next hread =>
      simp only [Bool.and_eq_true, decide_eq_true_eq] at hread
      obtain ⟨⟨hf, -⟩, hrow⟩ := hread
      have hlt := lt_bDepth ht (k := 32 * b) (by omega) hrow
      exact edgeRd hup (ownSpan_colScale hc hp hb hf (by omega) (Nat.min_le_left ..))
    · exact .pure _
  · have hk := List.mem_range.mp hk
    rw [rowB_eq, List.getD_eq_getElem?_getD, List.getElem?_map, List.getElem?_range (by omega)]
    by_cases hnone : min (wN o.w) o.lanes = 0 ∨ bMissing o ≤ t * classKt (wbits o.w 67 64) + k
    · simp only [if_pos hnone]
      exact .map (.pure []) _
    · simp only [if_neg hnone]
      have hrow := lt_bDepth ht hk (by omega)
      exact .map (edgeRd hup (ownSpan_row hc hp hspan hj hrow (rowBytes_mono o.fb (Nat.min_le_left ..)))) _

/-- The tiles of a gang slot (R105, R107). -/
theorem readTiles (g : Nat) : s.Works c (Machine.readTiles c g o) s.mem V (s.mmTiles o g) s.mem V := by
  refine .map (.mapM fun x hx => .mapM fun t ht => ?_) List.flatten
  have hplanes := lt_planesOf hx
  have ht := List.mem_range.mp (List.mem_of_mem_filter ht)
  exact .bind (readB hc hp hup hfit hplanes.2 ht _ _) (.map (.mapM fun r hr =>
    readA hc hp hup hfit hplanes.1 (List.mem_range.mp hr) ht _ _) _)

end

end Works
end State
end Sys2Proof.Machine
end

section
/-!
PROOFS. What an MMUL leaves in the accumulators (R93, R98, R99, R105, R107, R124, R131): the tiles read, it fills one output after another in the
buffers of its gang, and where its word says so drains them.
-/

namespace Sys2Proof.Machine

/-! ### The sums of one output -/

/-- The sums of the gang slots for output (i, j), from the tiles of each and the slot read before (R105, R131). -/
def slotSums (o : MmulOp) (slots : List (List TileData)) (prior : Option Nat) (i j : Nat) : List Counted :=
  slots.zipIdx.map fun x => accumulate (wbits o.w 67 64)
    (if x.2 = 0 then prior.map (classAcc (wbits o.w 67 64)).decode else none) (x.1.map fun t => t.products o.fa o.fb i j)

/-- A value as a slot of its class takes it. -/
def slotCode (cls : Nat) (x : Num) : Nat := acbBits (classAcc cls) ((classAcc cls).round .nearest 0 x).code

theorem slotCode_mod (cls : Nat) (x : Num) : slotCode cls x % 2 ^ 64 = slotBits cls x := rfl

theorem slotBits_lt (cls : Nat) (x : Num) : slotBits cls x < 2 ^ 64 := Nat.mod_lt _ (by decide)

/-- A sum written to its slot of engine e, and in a column that is filled its events counted (R98, R124). -/
def storeSum (c : Nat) (o : MmulOp) (i j e : Nat) (x : Num) (y : Tally) (s : State) : State :=
  if j < o.lanes then (setAcb c e (wBank o.w) i j (slotCode (wbits o.w 67 64) x) s).noteEng c e y
  else setAcb c e (wBank o.w) i j (slotCode (wbits o.w 67 64) x) s

/-- The sums of an output written: that of each engine but the first, then the combined one (R105, R107). -/
def storeSums (c : Nat) (o : MmulOp) (i j : Nat) (sums : List Counted) (s : State) : State :=
  let out := combine (wbits o.w 67 64) (sums.map (·.1))
  storeSum c o i j (o.gang.getD 0 0) out.1 (tallyAdd ((sums.headD (Num.zero, {})).2) out.2)
    (forEach ((o.gang.zip sums).drop 1) s fun s x => storeSum c o i j x.1 x.2.1 x.2.2 s)

/-- One output of an MMUL. -/
def mmulOut (c : Nat) (o : MmulOp) (slots : List (List TileData)) (i j : Nat) : EAcc Unit := do
  let prior ← if o.w.getLsbD 63 then some <$> readAcb c 0 (o.gang.getD 0 0) (wBank o.w) i j else pure none
  modify (storeSums c o i j (slotSums o slots prior i j))

/-- The work of an MMUL but for its drain. -/
def mmulWork (c : Nat) (o : MmulOp) : EAcc Unit := do
  let slots ← (List.range o.gang.length).mapM fun g => readTiles c g o
  (o.gang.zip slots).forM fun x => modify (loadCells c x.1 (wbits o.w 67 64) o.fb x.2)
  (List.range (wM o.w)).forM fun i => (List.range (wN o.w)).forM fun j => mmulOut c o slots i j

theorem mmulRun_eq (p c : Nat) (q : QWord) (o : MmulOp) : mmulRun p c q o = (do
    mmulWork c o
    if o.w.getLsbD 61 then drainBank p c (o.gang.getD 0 0) q o.d o.fd o.lanes) := by
  unfold mmulRun mmulWork
  simp only [bind_assoc]
  rfl

namespace State

variable {s t u : State} {c : Nat} {o : MmulOp} {i j : Nat}

theorem storeSum_work (h : s.Clean) (e : Nat) (x : Num) (y : Tally) :
    EngWork c s (storeSum c o i j e x y s) ∧ (storeSum c o i j e x y s).mem = s.mem := by
  have hset := EngWork.of_setAcb (c := c) h e (wBank o.w) i j (slotCode (wbits o.w 67 64) x)
  unfold storeSum
  split
  · exact ⟨hset.trans (.of_noteEng hset.clean e y), rfl⟩
  · exact ⟨hset, rfl⟩

theorem acbVal_storeSum (e : Nat) (x : Num) (y : Tally) (g loc : Nat) : (storeSum c o i j e x y s).acbVal c g loc =
    if g = e ∧ loc = acbLoc (wBank o.w) i j then slotBits (wbits o.w 67 64) x else s.acbVal c g loc := by
  have hset : (storeSum c o i j e x y s).acbVal c g loc = (setAcb c e (wBank o.w) i j (slotCode (wbits o.w 67 64) x) s).acbVal c g loc := by
    unfold storeSum
    split <;> rfl
  rw [hset, acbVal_setAcb, slotCode_mod]

theorem storeSums_work (h : s.Clean) (sums : List Counted) : EngWork c s (storeSums c o i j sums s) ∧ (storeSums c o i j sums s).mem = s.mem := by
  obtain ⟨hloop, hmem⟩ := forEach_keeps (P := fun t => EngWork c s t ∧ t.mem = s.mem) (f := fun s x => storeSum c o i j x.1 x.2.1 x.2.2 s)
    ((o.gang.zip sums).drop 1)
    (fun u x _ ⟨hu, hm⟩ => ⟨hu.trans (storeSum_work hu.clean ..).1, (storeSum_work hu.clean ..).2.trans hm⟩) ⟨.refl h, rfl⟩
  have hlast := storeSum_work (c := c) (o := o) (i := i) (j := j) hloop.clean
  exact ⟨hloop.trans (hlast ..).1, (hlast ..).2.trans hmem⟩

/-- The value that gang slot g's engine gets for an output with these sums. -/
def slotSum (cls : Nat) (sums : List Num) (g : Nat) : Num := if g = 0 then (combine cls sums).1 else sums.getD g Num.zero

/-- The slots of the gang after an output's sums are written: its own slot of each engine, and no other. -/
theorem acbVal_storeSums (hgang : o.gang.Nodup) {sums : List Counted} (hlen : sums.length = o.gang.length) {g : Nat} (hg : g < o.gang.length) (loc : Nat) :
    (storeSums c o i j sums s).acbVal c (o.gang.getD g 0) loc =
      if loc = acbLoc (wBank o.w) i j then slotBits (wbits o.w 67 64) (slotSum (wbits o.w 67 64) (sums.map (·.1)) g)
      else s.acbVal c (o.gang.getD g 0) loc := by
  have hslot {k : Nat} (hk : k < o.gang.length) : o.gang.getD k 0 = o.gang[k] := by simp [hk]
  have hzero : o.gang.getD g 0 = o.gang.getD 0 0 ↔ g = 0 := by
    rw [hslot hg, hslot (by omega), hgang.getElem_inj_iff]
  unfold storeSums slotSum
  dsimp only
  rw [acbVal_storeSum]
  by_cases hloc : loc = acbLoc (wBank o.w) i j
  · simp only [hloc, and_true, if_true, hzero]
    split
    · rfl
    next h0 =>
      have hmem : (o.gang[g], sums[g]) ∈ (o.gang.zip sums).drop 1 := by
        rw [List.mem_drop_iff_getElem]
        exact ⟨g - 1, by simp; omega, by simp [show 1 + (g - 1) = g by omega]⟩
      have hkeys : (((o.gang.zip sums).drop 1).map Prod.fst).Nodup := by
        rw [List.map_drop, List.map_fst_zip hlen.ge]
        exact hgang.sublist (List.drop_sublist ..)
      rw [hslot hg]
      refine (forEach_at Prod.fst (g := fun t : State => t.acbVal c o.gang[g] (acbLoc (wBank o.w) i j))
        (φ := fun _ => slotBits (wbits o.w 67 64) sums[g].1) hkeys hmem (fun u => ?_) (fun u b _ hb => ?_) s).trans ?_
      · rw [acbVal_storeSum, if_pos ⟨rfl, rfl⟩]
      · rw [acbVal_storeSum, if_neg fun h => hb h.1.symm]
      · simp [hlen, hg]
  · rw [if_neg fun h => hloc h.2, if_neg hloc]
    exact forEach_keeps (P := fun t : State => t.acbVal c (o.gang.getD g 0) loc = s.acbVal c (o.gang.getD g 0) loc) _
      (fun u x _ h => (acbVal_storeSum ..).trans ((if_neg fun k => hloc k.2).trans h)) rfl

/-- What loading the cells changes: the cells. -/
theorem loadCells_eq (e cls : Nat) (f : Fmt) (tiles : List TileData) :
    loadCells c e cls f tiles s = { s with stat := (loadCells c e cls f tiles s).stat } :=
  forEach_keeps (P := fun t : State => t = { s with stat := t.stat }) _ (fun u x _ h => by rw [h]) rfl

theorem loadCells_work (h : s.Clean) (e cls : Nat) (f : Fmt) (tiles : List TileData) : EngWork c s (loadCells c e cls f tiles s) := by
  rw [loadCells_eq]
  exact ⟨rfl, rfl, fun _ _ => ⟨rfl, fun _ => rfl⟩, fun _ => rfl, h⟩

/-- What gang slot g's engine holds of output (i, j) after an MMUL. -/
def mmOut (s : State) (c : Nat) (o : MmulOp) (g i j : Nat) : Nat :=
  slotBits (wbits o.w 67 64) (slotSum (wbits o.w 67 64) (s.mmSums c o i j) g)

/-- Of the bank of an MMUL, the first k outputs, row by row, are filled in each buffer of the gang, and the others are as they were. -/
def Filled (s : State) (c : Nat) (o : MmulOp) (k : Nat) (A : Acbs) : Prop :=
  ∀ i j g, j < wN o.w → g < o.gang.length → acbIn A c (o.gang.getD g 0) (acbLoc (wBank o.w) i j) =
    if i * wN o.w + j < k then s.mmOut c o g i j else s.acbVal c (o.gang.getD g 0) (acbLoc (wBank o.w) i j)

theorem filled_zero : s.Filled c o 0 s.acb := fun _ _ _ _ _ => by rw [if_neg (Nat.not_lt_zero _)]; rfl

theorem wN_le (w : BitVec 128) : wN w ≤ 32 := by
  have hfield : wbits w 47 43 < 2 ^ 5 := Nat.mod_lt _ (by decide)
  unfold wN
  omega

theorem outputNo_inj {n i j i' j' : Nat} (hj : j < n) (hj' : j' < n) : i * n + j = i' * n + j' ↔ i = i' ∧ j = j' := by
  refine ⟨fun h => ?_, fun ⟨hi, hj⟩ => by rw [hi, hj]⟩
  have hmod := congrArg (· % n) h
  simp only [Nat.mul_add_mod', Nat.mod_eq_of_lt hj, Nat.mod_eq_of_lt hj'] at hmod
  subst hmod
  exact ⟨Nat.eq_of_mul_eq_mul_right (by omega) (Nat.add_right_cancel h), rfl⟩

/-- Every output filled. -/
theorem Filled.out {A : Acbs} (h : s.Filled c o (wM o.w * wN o.w) A) {g : Nat} (hi : i < wM o.w) (hj : j < wN o.w) (hg : g < o.gang.length) :
    acbIn A c (o.gang.getD g 0) (acbLoc (wBank o.w) i j) = s.mmOut c o g i j := by
  have hrow := Nat.mul_le_mul_right (wN o.w) hi
  rw [Nat.succ_mul] at hrow
  exact (h i j g hj hg).trans (if_pos (by omega))

/-- The sums of an output in terms of the tiles (R105). -/
theorem slotSums_tiles {prior : Option Nat}
    (hprior : prior = if o.w.getLsbD 63 then some (s.acbVal c (o.gang.getD 0 0) (acbLoc (wBank o.w) i j)) else none) :
    (slotSums o ((List.range o.gang.length).map (s.mmTiles o)) prior i j).map (·.1) = s.mmSums c o i j := by
  unfold slotSums mmSums
  rw [zipIdx_map_range, List.map_map, List.map_map, hprior]
  refine List.map_congr_left fun g _ => ?_
  dsimp only [Function.comp]
  rw [apply_ite (Option.map _)]
  rfl

namespace Works

variable {m m' : List Host.Cell} {V : Acbs → Cells → Prop}

theorem forM {α : Type} {f : α → EAcc PUnit} {l : List α} (h : ∀ x ∈ l, s.Works c (f x) m V () m V) : s.Works c (l.forM f) m V () m V := by
  induction l with
  | nil => exact pure ()
  | cons x l ih => exact (h x List.mem_cons_self).bind (ih fun y hy => h y (List.mem_cons_of_mem x hy))

/-- The sums of an output written to the gang's slots. -/
theorem storeSums (hgang : o.gang.Nodup) (hj : j < wN o.w) {prior : Option Nat}
    (hprior : prior = if o.w.getLsbD 63 then some (s.acbVal c (o.gang.getD 0 0) (acbLoc (wBank o.w) i j)) else none) :
    s.Works c (modify (storeSums c o i j (slotSums o ((List.range o.gang.length).map (s.mmTiles o)) prior i j))) m
      (fun A _ => s.Filled c o (i * wN o.w + j) A) () m (fun A _ => s.Filled c o (i * wN o.w + j + 1) A) := by
  have hsums := slotSums_tiles hprior
  have hlen := congrArg List.length hsums
  rw [List.length_map, mmSums, List.length_map, List.length_range] at hlen
  refine change fun t ht hm hV => ?_
  obtain ⟨hwork, hmem⟩ := storeSums_work (c := c) (o := o) (i := i) (j := j) ht.clean
    (slotSums o ((List.range o.gang.length).map (s.mmTiles o)) prior i j)
  refine ⟨hwork, hmem.trans hm, fun i' j' g hj' hg => (acbVal_storeSums hgang hlen hg _).trans ?_⟩
  rw [hsums]
  have hloc := acbLoc_inj (bank := wBank o.w) (i := i') (i' := i) (hj'.trans_le (wN_le _)) (hj.trans_le (wN_le _))
  by_cases hsame : i' = i ∧ j' = j
  · obtain ⟨rfl, rfl⟩ := hsame
    rw [if_pos rfl, if_pos (Nat.lt_succ_self _)]
    rfl
  · rw [if_neg (mt hloc.mp hsame)]
    refine (hV i' j' g hj' hg).trans (if_congr ?_ rfl rfl)
    have hother := mt (outputNo_inj (i := i') (i' := i) hj' hj).mp hsame
    omega

/-- One output filled. -/
theorem mmulOut (hgang : o.gang.Nodup) (hne : 0 < o.gang.length) (hleft : (s.engX c (o.gang.getD 0 0)).left = none)
    (hval : ∀ loc, s.acbVal c (o.gang.getD 0 0) loc < 2 ^ 64) (hj : j < wN o.w) :
    s.Works c (Machine.mmulOut c o ((List.range o.gang.length).map (s.mmTiles o)) i j) m (fun A _ => s.Filled c o (i * wN o.w + j) A) () m
      (fun A _ => s.Filled c o (i * wN o.w + j + 1) A) := by
  unfold Machine.mmulOut
  by_cases hacc : o.w.getLsbD 63 = true
  · simp only [if_pos hacc]
    refine (map (.readAcb hleft (fun A _ h => (h i j 0 hj hne).trans (if_neg (Nat.lt_irrefl _))) (hval _)) some).bind ?_
    exact storeSums hgang hj (if_pos hacc).symm
  · simp only [if_neg hacc]
    exact (pure none).bind (storeSums hgang hj (if_neg hacc).symm)

/-- The work of an MMUL but for its drain: every output filled, memory as it was. -/
theorem mmulWork (hc : c < 512) (hp : s.presented c = true) (hup : s.dieUp (dieOf c) = true) (hfit : MmulFits c o)
    (hgang : o.gang.Nodup) (hne : 0 < o.gang.length) (hleft : (s.engX c (o.gang.getD 0 0)).left = none)
    (hval : ∀ loc, s.acbVal c (o.gang.getD 0 0) loc < 2 ^ 64) :
    s.Works c (Machine.mmulWork c o) s.mem (fun A _ => s.Filled c o 0 A) () s.mem (fun A _ => s.Filled c o (wM o.w * wN o.w) A) := by
  refine (mapM fun g _ => readTiles hc hp hup hfit g).bind (bind (forM fun x _ => change fun t ht hm hV => ?_) ?_)
  · refine ⟨loadCells_work ht.clean .., ?_, ?_⟩
    · rw [loadCells_eq]
      exact hm
    · rw [loadCells_eq]
      exact hV
  · have hrows := forM_range (s := s) (c := c) (M := fun _ => s.mem) (W := fun i A _ => s.Filled c o (i * wN o.w) A) (n := wM o.w)
      (f := fun i => (List.range (wN o.w)).forM fun j => Machine.mmulOut c o ((List.range o.gang.length).map (s.mmTiles o)) i j) fun i _ => by
        have hrow := forM_range (s := s) (c := c) (M := fun _ => s.mem) (W := fun j A _ => s.Filled c o (i * wN o.w + j) A) (n := wN o.w)
          fun j hj => mmulOut (i := i) hgang hne hleft hval hj
        rwa [← Nat.succ_mul] at hrow
    rwa [Nat.zero_mul] at hrows

/-- The work of an MMUL: every output filled and, where its word drains, the bank of the first engine drained (R99, R105). -/
theorem mmulRun {p : Nat} {q : QWord} (hc : c < 512) (hp : s.presented c = true) (hup : s.dieUp (dieOf c) = true) (hfit : MmulFits c o)
    (hgang : o.gang.Nodup) (hne : 0 < o.gang.length) (hleft : (s.engX c (o.gang.getD 0 0)).left = none)
    (hval : ∀ loc, s.acbVal c (o.gang.getD 0 0) loc < 2 ^ 64) (hw : o.w = q.word)
    (hdrain : q.word.getLsbD 61 = true → fmtOf o.d.fmt = some o.fd ∧ fitsC c q.word o.d = true) :
    s.Works c (Machine.mmulRun p c q o) s.mem (fun A _ => A = s.acb) ()
      (if q.word.getLsbD 61 then s.drained p c q o.d o.fd o.lanes (s.mmOut c o 0) else s.mem) (fun A _ => s.Filled c o (wM o.w * wN o.w) A) := by
  rw [mmulRun_eq, hw]
  refine ((mmulWork hc hp hup hfit hgang hne hleft hval).imp fun A _ (h : A = s.acb) => h ▸ filled_zero).bind ?_
  by_cases hd : q.word.getLsbD 61 = true
  · obtain ⟨hf, hfits⟩ := hdrain hd
    rw [if_pos hd, if_pos hd, hw]
    refine drainBank hc hp hup hf hfits hleft (fun A _ h i hi j hj => ?_) (fun i _ j _ => slotBits_lt ..) _
    rw [← hw] at h hi hj ⊢
    exact h.out hi hj hne
  · rw [if_neg hd, if_neg hd, hw]
    exact pure ()

end Works

end State
end Sys2Proof.Machine
end

section
/-!
PROOFS. An MMUL that its gang can issue (R94, R96, R104, R113, R124, R131, R132, R134): its word is opened once its operands are read, its work
is done, and its engines' records are brought up to date.
-/

namespace Sys2Proof.Machine

namespace State

variable {s t u : State} {c p off : Nat} {q : QWord}

/-! ### What an MMUL notes of its engines -/

/-- What an MMUL notes of engine e in its registers before its busy counts. -/
def mmulShown (s : State) (c e : Nat) (q : QWord) (last tiles lanes : Nat) : State :=
  ((s.updEng c e R.engOp fun _ =>
      BitVec.ofNat 64 (last * 2 ^ 32 + (wM q.word - 1) * 2 ^ 24 + wbits q.word 67 64 * 2 ^ 16 + q.op % 2 ^ 16)).updEng c e R.engCord fun _ =>
      BitVec.ofNat 64 ((2 ^ lanes - 1) * 2 ^ 32 + lanes)).updEng c e R.engSts fun v =>
    setFld (setFld (setBit v 7 (drainsOn e q || (s.engX c e).drain.any (drainsOn e))) 6 6 (wBank q.word)) 4 4 (fld v 4 4 + tiles)

theorem noteMmul_eq (e last tiles : Nat) (cord : Option Nat) : s.noteMmul c e q last tiles cord =
    (((s.mmulShown c e q last tiles (cord.getD 0)).updEngX c e fun y => { y with lanes := y.lanes.set (wBank q.word) (cord.getD 32) }).updEng c e
      R.engBusyCnt fun v => incFld v 47 0 (wM q.word * tiles)).addKnd c e ((tiles - 1) * (62 - wM q.word)) := by
  unfold noteMmul mmulShown
  rfl

theorem engX_mmulShown (e last tiles lanes g : Nat) : (s.mmulShown c e q last tiles lanes).engX c g = s.engX c g := by
  rw [mmulShown, engX_updEng, engX_updEng, engX_updEng]

theorem engState_mmulShown (e last tiles lanes g : Nat) : (s.mmulShown c e q last tiles lanes).engState c g = s.engState c g := by
  rw [mmulShown, engState_updSts, engState_updEng (by decide) (by decide), engState_updEng (by decide) (by decide)]
  intro w
  rw [fld_setFld_apart _ _ _ _ _ _ (by decide), fld_setFld_apart _ _ _ _ _ _ (by decide), fld_setBit_apart _ _ _ _ _ (by decide)]

theorem engX_noteMmul (e last tiles : Nat) (cord : Option Nat) (g : Nat) : (s.noteMmul c e q last tiles cord).engX c g =
    if g = e then { s.engX c e with lanes := (s.engX c e).lanes.set (wBank q.word) (cord.getD 32) } else s.engX c g := by
  rw [noteMmul_eq, addKnd, engX_updEng, engX_updEng, engX_updEngX, engX_mmulShown, engX_mmulShown]

theorem engState_noteMmul (e last tiles : Nat) (cord : Option Nat) (g : Nat) : (s.noteMmul c e q last tiles cord).engState c g = s.engState c g := by
  rw [noteMmul_eq, addKnd, engState_updEng (by decide) (by decide), engState_updEng (by decide) (by decide), engState_updEngX, engState_mmulShown]

theorem updEng_coreSide (e r : Nat) (f : Word → Word) : CoreSide s (s.updEng c e r f) := rfl

theorem othersKept_updEng (e r : Nat) (f : Word → Word) : s.othersKept (s.updEng c e r f) c := othersKept_updCore _ _

theorem mmulShown_coreSide (e last tiles lanes : Nat) : CoreSide s (s.mmulShown c e q last tiles lanes) := by
  unfold mmulShown
  exact ((updEng_coreSide ..).trans (updEng_coreSide ..)).trans (updEng_coreSide ..)

theorem othersKept_mmulShown (e last tiles lanes : Nat) : s.othersKept (s.mmulShown c e q last tiles lanes) c := by
  unfold mmulShown
  exact othersKept_trans (othersKept_trans (othersKept_updEng _ _ _) (othersKept_updEng _ _ _)) (othersKept_updEng _ _ _)

theorem noteMmul_coreSide (e last tiles : Nat) (cord : Option Nat) : CoreSide s (s.noteMmul c e q last tiles cord) := by
  rw [noteMmul_eq]
  have hx (u : State) (f : EngX → EngX) : CoreSide u (u.updEngX c e f) := rfl
  exact (((mmulShown_coreSide ..).trans (hx ..)).trans (updEng_coreSide ..)).trans (updEng_coreSide ..)

theorem othersKept_noteMmul (e last tiles : Nat) (cord : Option Nat) : s.othersKept (s.noteMmul c e q last tiles cord) c := by
  rw [noteMmul_eq]
  exact othersKept_trans (othersKept_trans (othersKept_trans (othersKept_mmulShown _ _ _ _) (othersKept_updCx _)) (othersKept_updEng _ _ _))
    (othersKept_updEng _ _ _)

/-- The notes of an MMUL leave what R131 says of its word. -/
theorem engRan.noteMmul (h : s.engRan t c q) (e last tiles : Nat) (cord : Option Nat) : s.engRan (t.noteMmul c e q last tiles cord) c q := by
  obtain ⟨hgang, hothers, hframe⟩ := h
  refine ⟨fun g hg => ?_, othersKept_trans hothers (othersKept_noteMmul _ _ _ _), ?_⟩
  · have hunit : ((t.noteMmul c e q last tiles cord).engX c g).u = (t.engX c g).u := by
      rw [engX_noteMmul]
      split
      next h => rw [h]
      · rfl
    rw [hunit, engState_noteMmul]
    exact hgang g hg
  · rw [noteMmul_coreSide, hframe]

/-- An MMUL noted in every engine of its gang: `tiles g` and `last g` are those of gang slot g. -/
def mmulNoted (s : State) (c : Nat) (q : QWord) (cord : Option Nat) : State :=
  let gang := enginesOf (wEmask q.word) q.shift
  forEach gang.zipIdx s fun t e => t.noteMmul c e.1 q (lastTile (wT q.word) e.2 gang.length)
    (((List.range (wT q.word)).countP fun k => k % gang.length == e.2) * (passesOf q.word).length) cord

theorem engRan.mmulNoted (h : s.engRan t c q) (cord : Option Nat) : s.engRan (t.mmulNoted c q cord) c q :=
  forEach_keeps (P := fun v => s.engRan v c q) _ (fun _ _ _ h => h.noteMmul ..) h

theorem mmulNoted_coreSide (cord : Option Nat) : CoreSide s (s.mmulNoted c q cord) :=
  CoreSide.loop (fun _ _ => noteMmul_coreSide ..) _

theorem lanes_mmulNoted (cord : Option Nat) {g : Nat} (hg : g ∈ enginesOf (wEmask q.word) q.shift) :
    ((s.mmulNoted c q cord).engX c g).lanes.get 32 (wBank q.word) = cord.getD 32 := by
  obtain ⟨k, hk, rfl⟩ := List.mem_iff_getElem.mp hg
  have hmem : ((enginesOf (wEmask q.word) q.shift)[k], k) ∈ (enginesOf (wEmask q.word) q.shift).zipIdx := by simp [List.mem_zipIdx_iff_getElem?, hk]
  refine forEach_at Prod.fst (g := fun t : State => (t.engX c (enginesOf (wEmask q.word) q.shift)[k]).lanes.get 32 (wBank q.word))
    (φ := fun _ => cord.getD 32) (by rw [List.zipIdx_map_fst]; exact nodup_enginesOf ..) hmem (fun v => ?_) (fun v b _ hb => ?_) s
  · rw [engX_noteMmul, if_pos rfl]
    exact Tbl.get_set_same ..
  · rw [engX_noteMmul, if_neg hb.symm]

/-! ### The word opened -/

/-- What an MMUL has read of its word and descriptors. -/
def mmulOp (s : State) (c : Nat) (q : QWord) (a b d : Desc) (v : Option Conv) : MmulOp :=
  { w := q.word, gang := enginesOf (wEmask q.word) q.shift, a := a, b := b, d := d, fa := (fmtOf a.fmt).getD .fp32, fb := (fmtOf b.fmt).getD .fp32
    fd := (fmtOf d.fmt).getD .fp32, conv := v, lanes := if b.type = 2 then s.cordLanes c b.cq else wN q.word }

/-- An MMUL reads its descriptors. -/
def mmulLook (c : Nat) (w : BitVec 128) : Acc (Desc × Desc × Desc × Option Conv) := do
  let a ← readDesc c (wbits w 26 18)
  let b ← readDesc c (wbits w 17 9)
  let d ← if w.getLsbD 61 then readDesc c (wbits w 8 0) else pure a
  let v ← convOf c a ((fmtOf a.fmt).getD .int4)
  return (a, b, d, v)

/-- A fit MMUL does its work and is noted (R113, R132, R134). The word is opened as a function, and the checks made variables before its cases
reduce: the kernel would decide them at the operands else. -/
theorem mmul_eq {a b d : Desc} {v : Option Conv} (hfields : engFields q.word = true)
    (hlook : runAcc (mmulLook c q.word) s = (.ok (a, b, d, v), s))
    (hconv : ∀ x, v = some x → x.own = true ∧ x.ok = true) (hfmts : mmulFmts q.word a b d = true) (hA : fitA c q.word a v (planesOf q.word) = true)
    (hB : fitB c q.word b (bDepth (s.mmulOp c q a b d v)) (planesOf q.word) = true) (hC : q.word.getLsbD 61 = true → fitsC c q.word d = true)
    (hrun : (mmulRun p c q (s.mmulOp c q a b d v)).run s = (.ok (), t)) (off : Nat) :
    s.mmul p c off q = t.mmulNoted c q (if b.type = 2 then some (s.mmulOp c q a b d v).lanes else none) := by
  unfold mmulOp at hrun hB ⊢
  unfold mmulLook at hlook
  obtain ⟨word, hword, hopen⟩ : ∃ word, word = mmul ∧ word = mmul := ⟨_, rfl, rfl⟩
  rw [← hword]
  delta mmul at hopen
  clear hword
  generalize @runAcc (Desc × Desc × Desc × Option Conv) = ra at hlook hopen
  generalize fitsC = fits at hC hopen
  generalize fitA = fa at hA hopen
  generalize fitB = fb at hB hopen
  generalize mmulFmts = fmts at hfmts hopen
  generalize engFields = fields at hfields hopen
  generalize @mmulRun = run at hrun hopen
  subst hopen
  have hC : (!q.word.getLsbD 61 || fits c q.word d) = true := by
    cases h : q.word.getLsbD 61
    · rfl
    · exact hC h
  unfold bDepth at hB
  cases v with
  | none =>
    dsimp only at hB
    simp only [hlook, hfields, hfmts, hA, hB, hC, hrun, Bool.not_true, Bool.or_false, Bool.and_true, Bool.false_eq_true, if_false, mmulNoted]
  | some x =>
    obtain ⟨hown, hok⟩ := hconv x rfl
    dsimp only at hB
    simp only [hlook, hfields, hfmts, hA, hB, hC, hrun, hown, hok, Bool.not_true, Bool.or_false, Bool.and_self, Bool.and_false,
      Bool.false_eq_true, if_false, if_true, mmulNoted]

/-! ### A fit word -/

/-- The word and its operands, but for the destination that a word without a drain does not name, give its work. -/
theorem mmulRun_congr {o : MmulOp} {d : Desc} {fd : Fmt} (h : o.w.getLsbD 61 = true → d = o.d ∧ fd = o.fd) :
    mmulRun p c q { o with d := d, fd := fd } = mmulRun p c q o := by
  have hwork : Machine.mmulWork c { o with d := d, fd := fd } = Machine.mmulWork c o := rfl
  rw [mmulRun_eq, mmulRun_eq, hwork]
  by_cases hd : o.w.getLsbD 61 = true
  · obtain ⟨rfl, rfl⟩ := h hd
    rfl
  · simp only [hd, if_neg Bool.false_ne_true]

/-- Memory and buffers give the sums. -/
theorem mmSums_congr (h : CoreSide s u) (o : MmulOp) (i j : Nat) : u.mmSums c o i j = s.mmSums c o i j := by
  rw [h]
  unfold mmSums mmTiles rowA rowB acbVal
  rfl

theorem cordLanes_congr (h : (u.cxOf c).cords = (s.cxOf c).cords) (cq : Nat) : u.cordLanes c cq = s.cordLanes c cq := by
  unfold cordLanes
  rw [h]

/-- A convolution descriptor in own memory that keeps R111 has blocks of 32 channels. -/
theorem parseConv_cin {f : Fmt} {n : Nat} (h : (parseConv f n).ok = true) : 0 < (parseConv f n).cin ∧ (parseConv f n).cin % 32 = 0 := by
  unfold parseConv at h ⊢
  simp only [Bool.and_eq_true, decide_eq_true_eq, beq_iff_eq] at h
  obtain ⟨⟨⟨⟨-, h32⟩, hpos⟩, -⟩, -⟩ := h
  exact ⟨hpos, h32⟩

theorem convOf_own {d : Desc} {f : Fmt} {v : Conv} (h : runAcc (convOf c d f) s = (.ok (some v), t)) (hown : v.own = true) : ∃ n, v = parseConv f n := by
  unfold convOf at h
  by_cases hty : d.type ≠ 1
  · rw [if_pos hty] at h
    cases h
  rw [if_neg hty] at h
  by_cases hpart : (ownPart c d.base (d.base + 64)).isNone = true
  · rw [if_pos hpart] at h
    obtain rfl := Option.some.inj (Except.ok.inj (Prod.mk.inj h).1)
    cases hown
  rw [if_neg hpart] at h
  match hread : runAcc (rd (.desc c) d.base 64) s with
  | (.ok b, u) =>
    rw [runAcc_bind_ok hread] at h
    exact ⟨leNat b, (Option.some.inj (Except.ok.inj (Prod.mk.inj h).1)).symm⟩
  | (.error x, u) =>
    rw [runAcc_bind_error hread] at h
    cases h

/-- A of a class's format is fit (R134). -/
theorem fitA_of_fitsA {w : BitVec 128} {d : Desc} {f : Fmt} {v : Option Conv} {planes : Nat} (hf : fmtOf d.fmt = some f) (hrsv : d.rsv = false)
    (hty : d.type = 0 ∨ d.type = 1) (hown : ∀ x, v = some x → x.own = true) (h : fitsA c w d f v planes = true) : fitA c w d v planes = true := by
  have hplain : (!d.rsv && (d.type == 0 || d.type == 1)) = true := by
    rcases hty with h | h <;> simp [hrsv, h]
  cases v with
  | none => simp only [fitA, hf, hplain, h, Bool.or_true, Bool.and_self]
  | some x => simp only [fitA, hf, hplain, hown x rfl, h, Bool.or_true, Bool.and_self]

theorem fitB_of_descFits {w : BitVec 128} {d : Desc} {f : Fmt} {k planes : Nat} (hf : fmtOf d.fmt = some f) (hrsv : d.rsv = false)
    (hty : d.type = 0 ∨ d.type = 2) (h : descFits c d f .col k (wN w) planes false = true) : fitB c w d k planes = true := by
  have hplain : (!d.rsv && (d.type == 0 || d.type == 2)) = true := by
    rcases hty with h | h <;> simp [hrsv, h]
  simp only [fitB, hf, hplain, h, Bool.or_true, Bool.and_self]

theorem mmulFmts_of {w : BitVec 128} {a b d : Desc} {fa fb : Fmt} (hfa : fmtOf a.fmt = some fa) (hfb : fmtOf b.fmt = some fb)
    (ha : classAccepts (wbits w 67 64) fa = true) (hb : classAccepts (wbits w 67 64) fb = true)
    (hd : w.getLsbD 61 = true → drainFmt w d = true) : mmulFmts w a b d = true := by
  unfold mmulFmts
  rw [hfa, hfb]
  cases h : w.getLsbD 61
  · simp [ha, hb]
  · simp [ha, hb, hd h]

/-- The operands of an MMUL as its word's descriptors give them (R94, R99, R131-R134), read by u. -/
structure MmulRead (c : Nat) (q : QWord) (u : State) (o : MmulOp) : Prop where
  w : o.w = q.word
  gang : o.gang = enginesOf (wEmask q.word) q.shift
  a : runAcc (readDesc c (wbits q.word 26 18)) u = (.ok o.a, u)
  b : runAcc (readDesc c (wbits q.word 17 9)) u = (.ok o.b, u)
  d : q.word.getLsbD 61 = true → runAcc (readDesc c (wbits q.word 8 0)) u = (.ok o.d, u)
  fa : fmtOf o.a.fmt = some o.fa
  fb : fmtOf o.b.fmt = some o.fb
  fd : q.word.getLsbD 61 = true → fmtOf o.d.fmt = some o.fd
  conv : runAcc (convOf c o.a o.fa) u = (.ok o.conv, u)
  own : ∀ v, o.conv = some v → v.own = true ∧ v.ok = true
  lanes : o.lanes = if o.b.type = 2 then u.cordLanes c o.b.cq else wN q.word
  accA : classAccepts (wbits q.word 67 64) o.fa = true
  accB : classAccepts (wbits q.word 67 64) o.fb = true
  drain : q.word.getLsbD 61 = true → drainFmt q.word o.d = true ∧ fitsC c q.word o.d = true
  rsvA : o.a.rsv = false
  rsvB : o.b.rsv = false
  typeA : o.a.type = 0 ∨ o.a.type = 1
  typeB : o.b.type = 0 ∨ o.b.type = 2
  fitA : fitsA c q.word o.a o.fa o.conv (planesOf q.word) = true
  fitB : descFits c o.b o.fb .col (bDepth o) (wN q.word) (planesOf q.word) false = true

namespace MmulRead

variable {o : MmulOp}

theorem fits (h : MmulRead c q u o) : MmulFits c o := by
  refine ⟨by rw [h.w]; exact h.fitA, by rw [h.w]; exact h.fitB, fun v hv => ?_⟩
  obtain ⟨hown, hok⟩ := h.own v hv
  obtain ⟨n, rfl⟩ := convOf_own (hv ▸ h.conv) hown
  exact parseConv_cin hok

/-- The descriptors read; a word without a drain takes A's for the destination's. -/
theorem look (h : MmulRead c q u o) :
    ∃ d, runAcc (mmulLook c q.word) u = (.ok (o.a, o.b, d, o.conv), u) ∧ (q.word.getLsbD 61 = true → d = o.d) := by
  have hconv : runAcc (convOf c o.a ((fmtOf o.a.fmt).getD .int4)) u = (.ok o.conv, u) := by
    rw [h.fa]
    exact h.conv
  unfold mmulLook
  rw [runAcc_bind_ok h.a, runAcc_bind_ok h.b]
  by_cases hbit : q.word.getLsbD 61 = true
  · refine ⟨o.d, ?_, fun _ => rfl⟩
    simp only [if_pos hbit]
    rw [runAcc_bind_ok (h.d hbit), runAcc_bind_ok hconv]
    rfl
  · refine ⟨o.a, ?_, fun k => absurd k hbit⟩
    simp only [if_neg hbit]
    rw [runAcc_bind_ok (show runAcc (pure o.a) u = (.ok o.a, u) from rfl), runAcc_bind_ok hconv]
    rfl

/-- A fit MMUL whose work succeeds is noted. -/
theorem mmul (h : MmulRead c q u o) (hfields : engFields q.word = true) (hrun : (mmulRun p c q o).run u = (.ok (), t)) (off : Nat) :
    u.mmul p c off q = t.mmulNoted c q (if o.b.type = 2 then some o.lanes else none) := by
  obtain ⟨d, hlook, hd⟩ := h.look
  have hop : u.mmulOp c q o.a o.b d o.conv = { o with d := d, fd := (fmtOf d.fmt).getD .fp32 } := by
    unfold mmulOp
    rw [h.fa, h.fb, ← h.lanes, ← h.gang, ← h.w]
    rfl
  have hsame : mmulRun p c q (u.mmulOp c q o.a o.b d o.conv) = mmulRun p c q o := by
    rw [hop]
    refine mmulRun_congr fun hbit => ?_
    rw [h.w] at hbit
    exact ⟨hd hbit, by rw [hd hbit, h.fd hbit]; rfl⟩
  have hdrain (k : q.word.getLsbD 61 = true) : drainFmt q.word d = true ∧ fitsC c q.word d = true := by
    rw [hd k]
    exact h.drain k
  have hB : State.fitB c q.word o.b (bDepth (u.mmulOp c q o.a o.b d o.conv)) (planesOf q.word) = true := by
    rw [hop]
    exact fitB_of_descFits h.fb h.rsvB h.typeB h.fitB
  rw [← hsame] at hrun
  rw [mmul_eq hfields hlook h.own (mmulFmts_of h.fa h.fb h.accA h.accB fun k => (hdrain k).1)
    (fitA_of_fitsA h.fa h.rsvA h.typeA (fun x hx => (h.own x hx).1) h.fitA) hB (fun k => (hdrain k).2) hrun off, hop]

end MmulRead

/-- A fit MMUL that its gang can issue. -/
theorem exec_mmul (hc : c < 512) {e : Eng} {o : MmulOp} (h : s.gangReady p c off e q 1) (hread : MmulRead c q (s.gangTaken c off q) o) :
    ∃ t, s.coreDone (s.engIssue c off e 1) = .next t ∧ s.engRan t c q ∧
      (∀ i j, i < wM q.word → j < wN q.word → ∀ g < o.gang.length,
        t.acbVal c (o.gang.getD g 0) (acbLoc (wBank q.word) i j) = s.mmOut c o g i j) ∧
      (∀ g ∈ o.gang, (t.engX c g).lanes.get 32 (wBank q.word) = if o.b.type = 2 then o.lanes else 32) ∧
      t.mem = if q.word.getLsbD 61 then s.drained p c q o.d o.fd o.lanes (s.mmOut c o 0) else s.mem := by
  have htook : GangTook c q s (s.gangTaken c off q) := gangTook_gangTaken
  have hslot := h.slot0_lt
  have hne := List.length_pos_iff.mpr h.gang_ne_nil
  have hissue := engIssue_eq h
  obtain ⟨htrip, -, -, -, -, -, -, ⟨hp, hup, hclean⟩, hacb, hfields⟩ := h
  rw [if_pos rfl] at hissue
  generalize s.gangTaken c off q = u at htook hissue hread
  have hw := hread.w
  have hgang := hread.gang
  rw [← hgang] at hslot hne
  obtain ⟨hleft, hvals⟩ := hacb _ hslot
  have huacb : u.acb = s.acb := by rw [htook.side]
  have humem : u.mem = s.mem := by rw [htook.side]
  have hwork := Works.mmulRun (s := u) (p := p) (q := q) hc ((htook.presented c).trans hp) ((htook.dieUp _).trans hup) hread.fits
    (hgang ▸ nodup_enginesOf ..) hne ((htook.left _).trans hleft) (fun loc => by rw [acbVal_eq, huacb]; exact hvals loc) hw
    fun k => ⟨hread.fd k, (hread.drain k).2⟩
  obtain ⟨t, hrun, hwt, hmem, hfilled⟩ := hwork u (.refl (htook.clean hclean)) rfl rfl
  have hout (g i j : Nat) : u.mmOut c o g i j = s.mmOut c o g i j := by rw [mmOut, mmSums_congr htook.side]; rfl
  have hran := (htook.engRan hwt).mmulNoted (if o.b.type = 2 then some o.lanes else none)
  rw [hread.mmul hfields hrun] at hissue
  have hside := mmulNoted_coreSide (s := t) (c := c) (q := q) (if o.b.type = 2 then some o.lanes else none)
  refine ⟨_, by rw [hissue, coreDone_of_engRan hran htrip], hran, fun i j hi hj g hg => ?_, fun g hg => ?_, ?_⟩
  · rw [← hw] at hi hj ⊢
    rw [acbVal_eq, hside]
    exact (hfilled.out hi hj hg).trans (hout g i j)
  · rw [lanes_mmulNoted _ (hgang ▸ hg)]
    split <;> rfl
  · have htm : (t.mmulNoted c q (if o.b.type = 2 then some o.lanes else none)).mem = t.mem := by rw [hside]
    rw [htm, hmem, htook.drained, humem]
    have : u.mmOut c o 0 = s.mmOut c o 0 := funext fun i => funext fun j => hout 0 i j
    rw [this]

end State

/-- Settles O26: the gang takes the word, its tiles are read as memory holds them, one output after another is filled, and a word that drains
writes the filled bank. -/
theorem mmulComputes : Obligations.MmulComputes := by
  intro s core e off p q o gang cls u hready hw hgang ha hb hd hfa hfb hfd hconv hown hlanes haccA haccB hdrain hrsvA hrsvB htypeA htypeB hfit
  obtain ⟨hfitA, hfitB⟩ := hfit
  have htook : State.GangTook core.val q s (s.gangTaken core.val off q) := State.gangTook_gangTaken
  have hread : State.MmulRead core.val q (s.gangTaken core.val off q) o :=
    { w := hw, gang := hgang, a := ha, b := hb, d := hd, fa := hfa, fb := hfb, fd := hfd, conv := hconv, own := hown
      lanes := by
        rw [State.cordLanes_congr htook.cords]
        exact hlanes
      accA := haccA, accB := haccB, drain := hdrain, rsvA := hrsvA, rsvB := hrsvB, typeA := htypeA, typeB := htypeB
      fitA := hfitA
      fitB := by
        unfold State.bDepth
        rw [hw]
        exact hfitB }
  have hne : 0 < gang.length := List.length_pos_iff.mpr hready.gang_ne_nil
  obtain ⟨t, hexec, hran, hout, hcord, hmem⟩ := State.exec_mmul core.isLt hready hread
  have hcombined (i j : Nat) : s.mmOut core.val o 0 i j = slotBits cls (combine cls (s.mmSums core.val o i j)).1 := by
    rw [State.mmOut, hw]
    rfl
  rw [hgang] at hout hcord
  refine ⟨t, hexec, hran, fun i j hi hj => ⟨?_, fun g hg hlt => ?_⟩, hcord, ?_⟩
  · exact (hout i j hi hj 0 hne).trans (hcombined i j)
  · exact (hout i j hi hj g hlt).trans (by rw [State.mmOut, hw, State.slotSum, if_neg (by omega)])
  · rw [hmem, show s.mmOut core.val o 0 = _ from funext fun i => funext (hcombined i)]

end Sys2Proof.Machine
end
